-- ==== Sys2Proof/Word.lean ====
section
/-! DEFINITION. Words: the bit-vector widths the manual names, and nothing else. -/

namespace Sys2Proof

/-- One byte (R409). -/
abbrev Byte := BitVec 8

/-- One DWORD, the width of most registers (R47). -/
abbrev Word := BitVec 32

/-- A 64-bit register or address (R37). -/
abbrev Word64 := BitVec 64

end Sys2Proof
end

