-- ==== Sys2Proof/Syntax.lean ====
section
/-! DEFINITION. The commands of the XV8 as syntax: the operand types and `Instr`, one constructor for each row of
spec/opcode_table.json. A command is an access by a host, an event on a pin or a link, a flash or memory event, or a
step of the XV8's own engines; what only the environment decides (a decode outcome, a link rate, a temperature) is an
operand (log 3, DESIGN CHOICE). -/

namespace Sys2Proof

/-- The two PCIe ports (R25). -/
inductive Port | a | b
  deriving DecidableEq, Repr

/-- The other port (R39). -/
def Port.other : Port → Port
  | .a => .b
  | .b => .a

/-- Port number: 0 = A, 1 = B (Table 3.3). -/
def Port.num : Port → Nat
  | .a => 0
  | .b => 1

/-- The four admission classes, DWORD 5 [1:0] (R81). -/
inductive Cls | rt | std | bulk | bg
  deriving DecidableEq, Repr

/-- Class number, 0 RT, 1 STD, 2 BULK, 3 BG (R137). -/
def Cls.num : Cls → Nat
  | .rt => 0
  | .std => 1
  | .bulk => 2
  | .bg => 3

/-- Class of a number modulo 4. -/
def clsOfNat (n : Nat) : Cls :=
  match n % 4 with
  | 0 => .rt
  | 1 => .std
  | 2 => .bulk
  | _ => .bg

/-- Which space an access addresses: the function's BAR0, its configuration space, or the port's memory space, where the address
itself selects the function (R35, R36). -/
inductive Space | bar | cfg | mem
  deriving DecidableEq, Repr

/-- An extent-list entry as fetched from host memory (Table 4.5). -/
structure Extent where
  addr : Nat
  len : Nat
  flags : Nat
  deriving DecidableEq, Repr

/-- How a DMA read of the XV8 fails on its way (R29): Unsupported Request, Completer Abort, or poisoned data. -/
inductive DmaErr | ur | ca | poisoned
  deriving DecidableEq, Repr

/-- What ends a port (Table 17.4, PORT_LOST cause 1 to 4). -/
inductive LossCause | dlDown | hotReset | perst | refDeselected
  deriving DecidableEq, Repr

/-- PORT_LOST cause code of Table 17.4. -/
def LossCause.code : LossCause → Nat
  | .dlDown => 1
  | .hotReset => 2
  | .perst => 3
  | .refDeselected => 4

/-- How much of a command's data had reached HBM when its transfer stopped: the listed logical blocks, counted from
the start of its range, are whole in HBM (R30). -/
structure Reached where
  tenant : Nat
  seq : Nat
  blocks : List Nat
  deriving DecidableEq, Repr

/-- What one sector of a flash read shows to the decoder (R180, R182): it decodes, with its metadata check passing or
failing, its poison mark and its corrected bits; or it does not decode. -/
inductive SectorRead
  | decoded (metaOk : Bool) (poison : Bool) (bits : Nat)
  | failed
  deriving DecidableEq, Repr

/-- Status that Read Status Enhanced shows for a LUN (R179). -/
inductive LunPoll | readyPass | readyFail | busy | suspended
  deriving DecidableEq, Repr

/-- The status of one LUN found after a sequencer restart. -/
structure LunStatus where
  lun : Nat
  st : LunPoll
  deriving DecidableEq, Repr

/-- What a protected read of memory finds (Table 10.6), with the memory, the line or word index and the position. -/
inductive MemFinding
  | clean
  | corrected (pos : Nat)
  | uncorrectable
  | addrFault
  | poisoned
  deriving DecidableEq, Repr

/-- How the source of a record fetch holds the record that the cursor names (R389): as it was written, as other bytes, or on a log page that
cannot be read. -/
inductive RecFound | intact | stored (bytes : List Byte) | pageLost
  deriving DecidableEq, Repr

/-- A mailbox: PF0 mailbox 0 to 7, or the tenant mailbox of VF `fn` on a port (R294). -/
inductive Box
  | pf0 (n : Nat)
  | vf (p : Port) (fn : Nat)
  deriving DecidableEq, Repr

/-- The data of a request, moved by DMA or carried in the MCTP message, or the failure of that DMA (R304). -/
inductive ReqData
  | ok (bytes : List Byte)
  | fault
  deriving DecidableEq, Repr

/-- The geometry that a parameter page reports (R160): page and OOB bytes, planes, LUNs, blocks of a LUN with its spares, and the nominal
capacity of a LUN in Tb (R11). -/
structure Geom where
  pageBytes : Nat
  oobBytes : Nat
  planes : Nat
  luns : Nat
  blocks : Nat
  tbit : Nat
  deriving DecidableEq, Repr

/-- What a parameter page says (R157, R158, R160): identity, geometry, and the rows of Table 7.1, counted from 0, that are marked "Required"
and that the package does not provide. -/
structure ParamPage where
  mfr : Nat
  dev : Nat
  lacks : List Nat
  geo : Geom
  deriving DecidableEq, Repr

/-- A volume as channel training finds it: the parameter page, none when no copy passes its CRC (R160); its temperature reading; and the rate
codes at which its training fails (R164). -/
structure VolFound where
  page : Option ParamPage
  temp : Option Int
  fails : List Nat
  deriving DecidableEq, Repr

/-- A channel as training finds it: the volumes that answer appointment on CE0_N and on CE1_N, in ENi/ENo chain order (R159), and whether
the channel completes by the bound of the phase (R162). -/
structure ChanFound where
  ch : Nat
  ce0 : List VolFound
  ce1 : List VolFound
  completed : Bool
  deriving DecidableEq, Repr

/-- What system-area discovery finds (R353). -/
inductive SysArea | found | blank | dataOnly
  deriving DecidableEq, Repr

/-- What the media shows to boot phase 8: the system area, factory bad blocks (as LUN × 16384 + block), zone records
that neither the zone table nor the journal gives (R118), versions whose sectors could not be recovered, half-erased
blocks (R207), how many of the versions that a flush without FLUSH_END was writing reached flash, in its order (R260), and the elapsed-time index whose offsets give the sample the fewest bit errors (R186). -/
structure MediaFinding where
  area : SysArea
  factoryBad : List Nat
  lostZones : List Nat
  lostVersions : List Nat
  halfErased : List Nat
  flushed : Nat
  sampleIdx : Nat
  keyStoreOk : Bool
  deriving DecidableEq, Repr

/-- How a boot phase ends: as it should; phase 1 with fuse fields that failed parity, key slots by a mask and the HUK (0x11); phase 3 with boot-flash devices taken as absent (R346); phase 5 with lanes of each quadrant's link that failed before and do not pass training (R8), with a finding of Table 15.3, or with what phases 7 and 8 find on the media. -/
inductive PhaseResult
  | done
  | fuses (badKeys : Nat) (hukOk : Bool)
  | flash (absent : List Nat)
  | links (bad : List Nat)
  | finding (code : Nat)
  | channels (cs : List ChanFound)
  | media (m : MediaFinding)
  deriving DecidableEq, Repr

/-- One look at the head of a lane (R143): whether it is the lane of writing commands, and whether the charge of a writer meets, in its HCORE
cycle, another request for the last of the shared pool (R221; log 107, DESIGN CHOICE). -/
structure LaneTurn where
  writing : Bool
  tie : Bool
  deriving DecidableEq, Repr

/-- A DMA read that fails (R29): how, and the blocks of its command that are whole in HBM (R30). -/
structure DmaFail where
  err : DmaErr
  reached : List Nat
  deriving DecidableEq, Repr

/-- What a read reads: its space, its offset or address, and its number of bytes (R36, R37). -/
structure ReadAt where
  space : Space
  off : Nat
  size : Nat
  deriving DecidableEq, Repr

/-- A LUN past a ceiling of Table 7.4, and whether that is the ceiling of LUN Get or Set Features. -/
structure HungLun where
  lun : Nat
  features : Bool
  deriving DecidableEq, Repr

/-- A retraining (R163, R164): how long the bus pauses in µs, and for each volume the rate codes at which its training fails. -/
structure Retraining where
  us : Nat
  fails : List (Nat × List Nat)
  deriving DecidableEq, Repr

/-- What a calibration read finds (R185, R191): the optimum of each read level and the highest tier that a sector needed. -/
structure Calibrated where
  measured : List Int
  tier : Nat
  deriving DecidableEq, Repr

/-- A charge retried after a back-off (Table 9.5): what it is for, and whether it meets another request in its HCORE cycle (R221; log 107,
DESIGN CHOICE). -/
structure Retry where
  id : Nat
  tie : Bool
  deriving DecidableEq, Repr

/-- The end of a quadrant reset: how long it took in µs, and how many lanes of the quadrant's link do not pass training (R8). -/
structure QuadDone where
  us : Nat
  badLanes : Nat
  deriving DecidableEq, Repr

/-- The end of a record fetch: the port whose cursor asked, and how the source holds the record. -/
structure RecFetch where
  port : Port
  found : RecFound
  deriving DecidableEq, Repr

/-- The commands of the block: one constructor for each row of spec/opcode_table.json. -/
inductive Instr
  /-- TRS_WRITE (R49). A memory write into a task register set that is not a commit stores its enabled bytes. -/
  | trsWrite (p : Port) (fn off : Nat) (bytes : List (Option Byte))
  /-- TRS_COMMIT (R51). A write that puts commit key 0xC3 in DWORD 15 of a TRS is checked against the expected set sequence and waits for its turn. -/
  | trsCommit (p : Port) (fn off : Nat) (bytes : List (Option Byte))
  /-- READ (R89). A captured READ packet is decoded, given a context or refused, and queued in its tenant-class. -/
  | read (t seq : Nat) (rival : Bool)
  /-- WRITE (R91). A captured WRITE packet is decoded, given a context or refused, and queued in the writing lane. -/
  | write (t seq : Nat) (rival : Bool)
  /-- APPEND (R91). A captured APPEND packet is decoded, given a context or refused, and queued in the writing lane. -/
  | append (t seq : Nat) (rival : Bool)
  /-- ZONE_OPEN (R98). A captured ZONE_OPEN packet is decoded and admitted, and later opens the zone and applies its hint or reservation. -/
  | zoneOpen (t seq : Nat) (rival : Bool)
  /-- ZONE_CLOSE (R98). A captured ZONE_CLOSE packet is decoded and admitted, and later closes the zone and stages its partial row. -/
  | zoneClose (t seq : Nat) (rival : Bool)
  /-- ZONE_FINISH (R98). A captured ZONE_FINISH packet is decoded and admitted, and later moves the zone to FULL. -/
  | zoneFinish (t seq : Nat) (rival : Bool)
  /-- ZONE_RESET (R99). A captured ZONE_RESET packet is decoded and admitted, and later advances the zone's generation. -/
  | zoneReset (t seq : Nat) (rival : Bool)
  /-- FLUSH (R97). A captured FLUSH packet is decoded and admitted, and waits until every covered block is programmed. -/
  | flush (t seq : Nat) (rival : Bool)
  /-- ABORT (R73). A captured ABORT takes no context, resolves against its target tag and completes after its target. -/
  | abort (t seq : Nat)
  /-- ZONE_REPORT (R101). A captured ZONE_REPORT packet is admitted and writes zone descriptors to host memory. -/
  | zoneReport (t seq : Nat) (rival : Bool)
  /-- COPY (R102). A captured COPY packet is admitted, reads its source range and writes it re-encrypted to the destination zone. -/
  | copy (t seq : Nat) (rival : Bool)
  /-- VERIFY (R103). A captured VERIFY packet reads, decodes and checks its range without writing host memory. -/
  | verify (t seq : Nat) (rival : Bool)
  /-- HINT (R104). A captured HINT packet is admitted and sets the zone's placement hint or reservation. -/
  | hint (t seq : Nat) (rival : Bool)
  /-- INVALID_OPCODE (R86). A captured packet with an opcode outside 0x01 to 0x0D fails at decode with INVALID_OPCODE. -/
  | invalidOpcode (t seq : Nat)
  /-- ADMISSION_RELEASE (R143). A lane head is released when its tokens, buffer quota and the dirty and undercoat gates allow it, and the zone-sequencer checks and commit point follow. -/
  | admissionRelease (t : Nat) (c : Cls) (turn : LaneTurn)
  /-- REFUSAL_AFTER_WAITING (R146). A granted command whose deadline, hold limit or gate bound passes is refused with a class 0x3 status. -/
  | refusalAfterWaiting (t seq : Nat)
  /-- EXTENT_LIST_FETCH (R83). The extent-list fetch completes and the list is checked before the commit point. -/
  | extentListFetch (t seq : Nat) (bytes : List Byte)
  /-- WRITE_ACKNOWLEDGEMENT (R95). Once every block of a write is in HBM as ciphertext, its completion is generated. -/
  | writeAcknowledgement (t seq : Nat)
  /-- READER_RESUME (R123). A reader held at the zone sequencer resumes when every earlier overlapping writer is resolved. -/
  | readerResume (t seq : Nat)
  /-- ZONE_RESET_APPLY (R100). A waiting ZONE_RESET applies once the zone's in-flight transfers have finished or failed. -/
  | zoneResetApply (t seq : Nat)
  /-- MIRROR_WRITE (R56). The CAS_TAKEN mirror is written at the eighth unmirrored capture or 1 µs after the earliest one. -/
  | mirrorWrite (p : Port) (fn : Nat)
  /-- COMPLETION_POST (R62). A generated completion is written to its ring when the ring has space and is enabled. -/
  | completionPost (p : Port) (fn ring : Nat)
  /-- RING_ENABLE (R61). Writing RNG_CTLn.EN from 0 to 1 enables the ring, or sets CFG_ERR when SIZE_LOG2 is out of range. -/
  | ringEnable (p : Port) (fn ring : Nat) (ctl : Word)
  /-- RING_DISABLE (R64). Writing EN from 1 to 0 stops posting, and the ring's completions are held. -/
  | ringDisable (p : Port) (fn ring : Nat) (ctl : Word)
  /-- RING_HEAD_WRITE (R63). A write of RNG_HEADn reports consumption and frees ring space. -/
  | ringHeadWrite (p : Port) (fn ring : Nat) (v : Word)
  /-- RING_IEN_CLEAR (R66). Clearing RNG_CTLn.IEN makes every unsignalled entry count as signalled. -/
  | ringIenClear (p : Port) (fn ring : Nat) (ctl : Word)
  /-- RING_INTERRUPT_TIMER (R66). ITIME expires after the earliest unsignalled entry and the ring's MSI-X message is sent. -/
  | ringInterruptTimer (p : Port) (fn ring : Nat)
  /-- MSIX_PENDING_SEND (R38). A pending PBA message is sent once its vector is unmasked, Function Mask is 0 and Bus Master Enable is 1. -/
  | msixPendingSend (p : Port) (fn vec : Nat)
  /-- PORT_LOST (R40). DL_Down, Hot Reset, PERST# or reference deselection loses a port: casements stop, DMA halts and contexts are redirected. -/
  | portLost (p : Port) (cause : LossCause) (reached : List Reached)
  /-- PORT_UP (R43). A port's link reaches DL_Active, and IDT_PORT_EVT sets its UP bit. -/
  | portUp (p : Port) (speed width : Nat) (flit : Bool)
  /-- DMA_READ_FAIL (R29). A DMA read completes with UR, CA or poisoned data, and its command ends with DMA_FAULT. -/
  | dmaReadFail (t seq : Nat) (fail : DmaFail)
  /-- COMPLETION_TIMEOUT (R29). A DMA read reaches the Completion Timeout Value and its command ends with DMA_FAULT. -/
  | completionTimeout (t seq : Nat) (reached : List Nat)
  /-- FLR (R45). FLR of a VF resets the function and resolves its contexts with FUNCTION_RESET. -/
  | flr (p : Port) (vf : Nat) (reached : List Reached)
  /-- PF0_FLR (R44). FLR of PF0 clears VF Enable and releases the locks that the port's agent holds. -/
  | pf0Flr (p : Port) (reached : List Reached)
  /-- VF_ENABLE_WRITE (R44). Setting or clearing the SR-IOV VF Enable adds or removes VFs, and removed VFs' contexts resolve with FUNCTION_RESET. -/
  | vfEnableWrite (p : Port) (on : Bool) (reached : List Reached)
  /-- NUMVFS_WRITE (R32). A write of NumVFs changes the VFs present, or is ignored when above TotalVFs. -/
  | numvfsWrite (p : Port) (v : Nat) (reached : List Reached)
  /-- BUS_MASTER_ENABLE_CLEAR (R44). Clearing Bus Master Enable pauses DMA and posting for the function. -/
  | busMasterEnableClear (p : Port) (fn : Nat)
  /-- PF0_D3HOT (R44). PF0 placed in D3hot pauses every function of the port. -/
  | pf0D3hot (p : Port)
  /-- PERST_DEASSERT (R46). PERST# deasserted with the reference stable starts the port logic answering configuration requests. -/
  | perstDeassert (p : Port)
  /-- UNSUPPORTED_REQUEST (R37). A memory request to a function with Memory Space Enable 0, or to a VF that does not exist, is answered with Unsupported Request. -/
  | unsupportedRequest (p : Port) (fn off : Nat) (isRead : Bool)
  /-- REGISTER_WRITE (R4). A write to a register field that has no row of its own stores the value, or is ignored or undefined under the access rules. -/
  | registerWrite (p : Port) (fn : Nat) (sp : Space) (off size : Nat) (v : Word64)
  /-- RC_REGISTER_READ (R34). A read of an RC register returns its value and clears it; a read of any other register, or of configuration space, returns its value (log 52, DESIGN CHOICE). -/
  | rcRegisterRead (p : Port) (fn : Nat) (r : ReadAt)
  /-- D2D_LANE_FAULT (R8). A die-to-die lane fault maps the lane to a spare or narrows the link, and flits are replayed. -/
  | d2dLaneFault (q lane : Nat)
  /-- CORE_HANG (R23). A processor core that misses its watchdog for 20 µs has its work handed to another core and is restarted. -/
  | coreHang (die core items : Nat)
  /-- ARRAY_OP_START (R170). A LUN starts its next array operation in precedence order once it holds any power tokens it needs. -/
  | arrayOpStart (lun : Nat)
  /-- FLASH_READ_DONE (R167). A LUN reports read data ready, the data is transferred and hard decoded, and the decode tiers are advanced. -/
  | flashReadDone (lun : Nat) (secs : List SectorRead) (authBad : List Nat)
  /-- SOFT_DECODE_DONE (R188). A quadrant processor's 3-bit soft decode of a sector finishes, with success or failure. -/
  | softDecodeDone (id : Nat) (ok : List Bool) (metaBad : List Bool) (authBad : List Nat)
  /-- PROGRAM_DONE (R168). A one-bit program or QLC pass completes, which may close a paired-page window. -/
  | programDone (lun : Nat) (pass : Bool)
  /-- ERASE_DONE (R169). An erase completes with pass or fail status. -/
  | eraseDone (lun : Nat) (pass : Bool)
  /-- PROGRAM_SUSPEND (R172). A tenant read issues a suspend of a program or erase, after its minimum run. -/
  | programSuspend (lun : Nat)
  /-- SUSPEND_READY (R172). The LUN reports ready after a suspend and serves the reads queued at that moment. -/
  | suspendReady (lun : Nat)
  /-- RESUME (R172). The sequencer resumes the suspended operation after serving the queued reads. -/
  | resume (lun : Nat)
  /-- SEQUENCER_HANG (R179). No heartbeat for 8 µs restarts the sequencer and resolves its operations of unknown state. -/
  | sequencerHang (ch : Nat) (status : List LunStatus)
  /-- LUN_HANG (R179). An operation past its ceiling redirects reads to rebuild and issues Reset LUN. -/
  | lunHang (hung : HungLun)
  /-- RESET_LUN_DONE (R179). Reset LUN completes or passes its ceiling, and the LUN is kept or retired. -/
  | resetLunDone (lun : Nat) (ok : Bool)
  /-- ZQ_CALIBRATION_SHORT (R165). ZQ calibration short is issued to each volume every 128 ms. -/
  | zqCalibrationShort (ch vol : Nat)
  /-- FLASH_TEMPERATURE_READ (R175). Each volume's die temperature is read every 10 ms. -/
  | flashTemperatureRead (ch vol : Nat) (temp : Option Int)
  /-- CHANNEL_RETRAIN (R163). A channel pauses its bus and is retrained for the new controller-die band, one group at a time. -/
  | channelRetrain (ch : Nat) (run : Retraining)
  /-- RETRAIN (R163). A write of FCH_CTL.RETRAIN requests retraining of one channel at its next idle moment. -/
  | retrain (p : Port) (ch : Nat)
  /-- CNT_CLR_FCH (R174). A write of FCH_CTL.CNT_CLR clears the channel's counters. -/
  | cntClrFch (p : Port) (ch : Nat)
  /-- FOLD_GROUP_START (R193). A fold group whose rows are all present starts folding into its topcoat wordline. -/
  | foldGroupStart (t zone wl : Nat)
  /-- WORDLINE_VERIFY_DONE (R194). A verify read of a closed wordline finishes, and the wordline becomes safe or fails. -/
  | wordlineVerifyDone (lun blk wl : Nat) (secs : List SectorRead)
  /-- RELOCATION_START (R197). Queued relocation work starts on a target block from the relocation reserve. -/
  | relocationStart (q : Nat)
  /-- PATROL_VISIT (R199). A patrol visit reads sample pages of a block during idle time. -/
  | patrolVisit (lun blk : Nat)
  /-- CALIBRATION_READ (R185). A calibration read refines the threshold table entry of the block it samples. -/
  | calibrationRead (lun blk page : Nat) (found : Calibrated)
  /-- HALF_ERASE_CHECK (R207). A block's first and last wordlines are checked for the erased state before use. -/
  | halfEraseCheck (lun blk : Nat) (zeros : List Nat)
  /-- READY_LIST_REFILL (R13). Firmware refills a ready-block list with erased, checked blocks. -/
  | readyListRefill (group : Nat)
  /-- HEALTH_SUMMARY (R208). Health summaries are computed and saved once per second. -/
  | healthSummary (powerMw : Nat)
  /-- THRESHOLD_TABLE_SAVE (R184). Threshold tables are saved to the system area once per hour. -/
  | thresholdTableSave
  /-- HLT_TSEL (R209). A write of HLT_TSEL snapshots a tenant-class's read counters, and clears them if CLR is set. -/
  | hltTsel (p : Port) (v : Word)
  /-- PARTIAL_ROW_STAGE (R116). A partial row of an OPEN zone idle for 50 ms is staged to the undercoat. -/
  | partialRowStage (t zone : Nat)
  /-- THERMAL_CONTROL_PERIOD (R370). Each 1 ms period reads sensors, judges breakage, and sets the flags, the shutter and the channel shutters. -/
  | thermalControlPeriod (conv : List (Option Int))
  /-- SENSOR_TIMEOUT (R365). A conversion not complete within 200 µs marks the sensor broken. -/
  | sensorTimeout (k : Nat)
  /-- FLAG_DWELL_EXPIRY (R369). A flag's 10 ms dwell ends and a pending change takes effect. -/
  | flagDwellExpiry (flag : Nat)
  /-- SHUTDOWN_DRAIN_END (R374). The 1 ms drain of a thermal shutdown ends and the flush with power present begins. -/
  | shutdownDrainEnd (reached : List Reached)
  /-- SENSOR_EXCLUDE (R367). A write of THM_SENS_EXCL excludes a broken sensor when another sensor of its die is still valid. -/
  | sensorExclude (p : Port) (v : Word)
  /-- CNT_CLR_THM (R372). A write of THM_CTL.CNT_CLR clears the thermal counters. -/
  | cntClrThm (p : Port)
  /-- ADM_TWIN_SEL (R149). A write of ADM_TWIN_SEL snapshots a tenant-class's admission registers, and clears HOLD_MAX_US if CLR_MAX is set. -/
  | admTwinSel (p : Port) (v : Word)
  /-- BPM_SPILL (R213). A head cache holding more than 6,144 entries spills lines to the HBM stack. -/
  | bpmSpill
  /-- BPM_REFILL (R213). A head cache holding fewer than 2,048 entries refills lines from the HBM stack. -/
  | bpmRefill
  /-- CIPHER_CHARGE_RETRY (R222). A refused cipher charge is presented again 1 µs later. -/
  | cipherChargeRetry (r : Retry)
  /-- BACK_OFF_RETRY (R222). A refused fold, relocation or recovery charge is presented again 10 µs later. -/
  | backOffRetry (cls q : Nat) (r : Retry)
  /-- BPM_TEST (R225). BPM_TEST_CTL.GO runs the push checks on a chosen pointer with no effect. -/
  | bpmTest (p : Port)
  /-- CNT_CLR_BPM (R222). A write of BPM_CTL.CNT_CLR clears BPM_MISSES and the requester counters. -/
  | cntClrBpm (p : Port)
  /-- BPM_TSEL (R222). A write of BPM_TSEL snapshots a tenant's BPM registers, and clears its hold counters if CLR is set. -/
  | bpmTsel (p : Port) (v : Word)
  /-- SKIM_READ (R238). A skim engine reads and decodes the next line or word of its lap. -/
  | skimRead (e : Nat) (finding : MemFinding)
  /-- CORRECTED_WRITE_BACK (R238). A corrected line or word is written back, unless a later write has replaced it. -/
  | correctedWriteBack (mem addr : Nat)
  /-- MERGE_ENTRY_TIMEOUT (R231). A merge-buffer entry idle for 1 µs is written out by read-modify-write. -/
  | mergeEntryTimeout (stack line : Nat) (readBad : Bool)
  /-- HBM_REFRESH (R237). Each stack is refreshed at the interval for its temperature. -/
  | hbmRefresh (stack : Nat)
  /-- SKIM_SLOW (R239). A lap passes its engine's limit, and SKIM_SLOW and an event record are set. -/
  | skimSlow (e : Nat)
  /-- CE_RATE (R240). At the end of an hour, corrections reaching the threshold set CE_RATE. -/
  | ceRate (m : Nat)
  /-- MEP_FLIP_ARM (R246). A write of MEP_FLIP_CTL.ARM arms an error injection into the next matching write. -/
  | mepFlipArm (p : Port) (v : Word)
  /-- MEP_TEST_WRITE (R247). MEP_TEST_CTL.OP = 1 writes the test data to the scratch line or test word. -/
  | mepTestWrite (p : Port) (v : Word)
  /-- MEP_TEST_READ (R247). MEP_TEST_CTL.OP = 2 reads the scratch line or test word back and reports the outcome. -/
  | mepTestRead (p : Port) (v : Word)
  /-- LOG_CLR (R245). A write of MEP_CTL.LOG_CLR empties the memory error log. -/
  | logClr (p : Port)
  /-- CNT_CLR_MEP (R245). A write of MEP_CTL.CNT_CLR clears the memory protection counters. -/
  | cntClrMep (p : Port)
  /-- MEP_LOG_SEL (R245). A write of MEP_LOG_SEL snapshots one log slot. -/
  | mepLogSel (p : Port) (v : Word)
  /-- PWRFAIL_ASSERT (R259). PWRFAIL_N asserted starts the emergency flush: admission and posting stop and flush mode is entered. -/
  | pwrfailAssert
  /-- FLUSH_DMA_CUTOFF (R259). 20 µs after detection, data of earlier DMA reads is no longer accepted. -/
  | flushDmaCutoff (reached : List Reached)
  /-- FLUSH_END (R259). After the last flush program, the FLUSH_END record is made durable, WP_N is driven low and the XV8 stops. -/
  | flushEnd
  /-- PWRFAIL_HIGH_TIMEOUT (R264). PWRFAIL_N high for 10 ms while stopped starts a device warm reset. -/
  | pwrfailHighTimeout
  /-- JOURNAL_PAGE_PROGRAM (R265). A journal page is programmed when 16 KiB of records are staged, or within 50 µs of a durable record. -/
  | journalPageProgram (pass : Bool)
  /-- CHECKPOINT (R267). A CHECKPOINT record is written at least once per second. -/
  | checkpoint
  /-- ZONE_TABLE_WRITEBACK (R267). Changed zone-table and map lines are written back to the system area. -/
  | zoneTableWriteback (lines : Nat)
  /-- INTERRUPTED_BLOCK_REPAIR (R269). After READY, an interrupted topcoat block is replaced, copied and refolded. -/
  | interruptedBlockRepair (lun blk : Nat)
  /-- KEY_LOAD (R277). KEY_LOAD checks, unwraps and writes a key slot, persisting it where required. -/
  | keyLoad (b : Box) (d : ReqData)
  /-- KEY_EVICT (R278). KEY_LOAD with EVICT empties the slot at its eviction point. -/
  | keyEvict (b : Box) (d : ReqData)
  /-- KEY_EVICT_REPLY (R278). The eviction reply is sent once the tenant's cipher work ends and its copy is invalidated. -/
  | keyEvictReply (b : Box)
  /-- PLAIN_KEK_CLOSE (R280). A write of CIP_CTL.PLAIN_KEK_CLOSE clears and persists PLAIN_KEK_ALLOW. -/
  | plainKekClose (p : Port)
  /-- CNT_CLR_CIP (R283). A write of CIP_CTL.CNT_CLR clears the cipher counters. -/
  | cntClrCip (p : Port)
  /-- CIP_TSEL (R279). A write of CIP_TSEL snapshots a tenant's cipher registers. -/
  | cipTsel (p : Port) (v : Word)
  /-- SANITIZE (R290). SANITIZE of kinds 1 to 4 takes effect at one cycle, emptying slots and resetting zones. -/
  | sanitize (b : Box)
  /-- SANITIZE_DONE (R290). The SANITIZE reply is sent once every listed effect, including erases, has taken place. -/
  | sanitizeDone (b : Box)
  /-- MBX_DOORBELL (R295). A write of MBX_DBn copies the request window to the request queue, or sets DROP when the queue is full. -/
  | mbxDoorbell (p : Port) (b : Box) (v : Word)
  /-- MBX_POP (R295). A write of MBX_POPn removes the head of the reply queue. -/
  | mbxPop (p : Port) (b : Box) (v : Word)
  /-- MBX_LOCK_READ (R298). A read of MBX_LOCKn takes a free lock, or returns the owner's number. -/
  | mbxLockRead (p : Port) (n : Nat)
  /-- MBX_LOCK_RELEASE (R298). The owner writes its own number to MBX_LOCKn and releases the lock. -/
  | mbxLockRelease (p : Port) (n : Nat) (v : Word)
  /-- MBX_BREAK (R300). A write of MBX_BREAK breaks a lock and discards the mailbox's queues and replies. -/
  | mbxBreak (p : Port) (v : Word)
  /-- MBX_TAKE_REQUEST (R296). Firmware moves a request frame into the backlog when the backlog has room, setting SPACE. -/
  | mbxTakeRequest (b : Box)
  /-- MBX_REPLY_POST (R296). A reply frame is posted to the reply queue when it has space, and RSP is set. -/
  | mbxReplyPost (b : Box)
  /-- MBX_INVALID_OPCODE (R305). A request with an opcode outside 0x80 to 0x8D is answered with INVALID_OPCODE. -/
  | mbxInvalidOpcode (b : Box)
  /-- IDENTIFY (R314). IDENTIFY returns the structure that its CNS selects. -/
  | identify (b : Box)
  /-- GET_LOG (R315). GET_LOG returns the selected log page. -/
  | getLog (b : Box)
  /-- SET_CONFIG (R319). SET_CONFIG parses, clamps, applies and commits a configuration image. -/
  | setConfig (b : Box) (d : ReqData)
  /-- GET_CONFIG (R310). GET_CONFIG returns an image of the applied fields of a scope. -/
  | getConfig (b : Box)
  /-- TENANT_CREATE (R312). TENANT_CREATE checks limits, applies the tenant fields and creates the tenant. -/
  | tenantCreate (b : Box) (d : ReqData)
  /-- TENANT_DELETE (R313). TENANT_DELETE fails if tags are outstanding, and otherwise removes the tenant and its resources. -/
  | tenantDelete (b : Box)
  /-- FW_STAGE (R358). FW_STAGE appends a chunk of a firmware image to the HBM staging. -/
  | fwStage (b : Box) (d : ReqData)
  /-- FW_STAGE_LAST (R359). FW_STAGE with LAST verifies the staged image and writes it and its trailer to the target slot. -/
  | fwStageLast (b : Box) (d : ReqData)
  /-- FW_ACTIVATE_LIVE (R362). FW_ACTIVATE mode 0 checks the image and starts a live activation. -/
  | fwActivateLive (b : Box)
  /-- FW_ACTIVATE_NEXT_RESET (R361). FW_ACTIVATE mode 1 sets BOOT_NEXT to the target slot. -/
  | fwActivateNextReset (b : Box)
  /-- FW_ACTIVATE_WARM_RESET (R361). FW_ACTIVATE mode 2 sets BOOT_NEXT and starts a device warm reset after the reply. -/
  | fwActivateWarmReset (b : Box)
  /-- HEALTH (R310). HEALTH returns the summary health registers. -/
  | health (b : Box)
  /-- THERMAL_SET (R368). THERMAL_SET clamps and applies the die thresholds if their order holds. -/
  | thermalSet (b : Box)
  /-- QUADRANT_RESET (R340). QUADRANT_RESET waits until D fits the reduced D_max before its reset begins. -/
  | quadrantReset (b : Box)
  /-- EVREC_PERSIST (R388). EVREC_PERSIST replies once every earlier event record is persisted. -/
  | evrecPersist (b : Box)
  /-- QUADRANT_RESET_BEGIN (R340). The quadrant reset begins: work is held, D_max is recomputed and the quadrant drains. -/
  | quadrantResetBegin (q : Nat)
  /-- QUADRANT_RESET_DONE (R340). The quadrant reset finishes step 6 and releases its held work. -/
  | quadrantResetDone (q : Nat) (took : QuadDone)
  /-- QUADRANT_RESET_FAIL (R342). A quadrant reset step that passes its bound fails the quadrant, and held commands complete with QUADRANT_UNAVAILABLE. -/
  | quadrantResetFail (q us : Nat)
  /-- LIVE_ACTIVATION_DONE (R343). Live activation reaches step 5, IDT_FW_VER changes and the reply is generated. -/
  | liveActivationDone (ms : Nat)
  /-- LIVE_ACTIVATION_REVERT (R345). A live activation not done in 200 ms reverts to the previous firmware. -/
  | liveActivationRevert (ms : Nat)
  /-- SET_ENDPOINT_ID (R307). The MCTP control message Set Endpoint ID assigns the endpoint's EID. -/
  | setEndpointId (op eid : Byte)
  /-- GET_ENDPOINT_ID (R307). The MCTP control message Get Endpoint ID returns the EID. -/
  | getEndpointId
  /-- GET_ENDPOINT_UUID (R307). The MCTP control message Get Endpoint UUID returns the UUID. -/
  | getEndpointUuid
  /-- GET_MCTP_VERSION_SUPPORT (R307). The MCTP control message returns the supported MCTP versions. -/
  | getMctpVersionSupport (mtype : Byte)
  /-- GET_MESSAGE_TYPE_SUPPORT (R307). The MCTP control message returns the supported message types. -/
  | getMessageTypeSupport
  /-- GET_VENDOR_DEFINED_MESSAGE_SUPPORT (R307). The MCTP control message returns the vendor-defined message support. -/
  | getVendorDefinedMessageSupport (sel : Byte)
  /-- MCTP_LOCK (R308). Vendor OP LOCK reads MBX_LOCKn for agent 3. -/
  | mctpLock (n : Nat)
  /-- MCTP_RELEASE (R308). Vendor OP RELEASE releases agent 3's lock. -/
  | mctpRelease (n : Nat)
  /-- MCTP_SEND (R308). Vendor OP SEND queues a frame and its data in the request queue. -/
  | mctpSend (n : Nat) (frame data : List Byte)
  /-- MCTP_FETCH (R308). Vendor OP FETCH returns and pops the head reply frame and its data. -/
  | mctpFetch (n : Nat)
  /-- MCTP_STATUS (R308). Vendor OP STATUS returns MBX_STATn. -/
  | mctpStatus (n : Nat)
  /-- MCTP_BREAK (R308). Vendor OP BREAK breaks a mailbox lock. -/
  | mctpBreak (n : Nat)
  /-- SMBUS_ALERT_RESPONSE (R309). A read of the SMBus Alert Response Address is answered with MCTP_ADDR. -/
  | smbusAlertResponse
  /-- REFCLK_MISSING (R325). A reference with no edge for 64 cycles of the other is missing and is deselected. -/
  | refclkMissing (r : Port)
  /-- REFCLK_COMPARISON (R326). A comparison window ends, and references are selected or deselected. -/
  | refclkComparison (countA countB : Nat) (pllLockA pllLockB : Bool)
  /-- SINGLE_REFERENCE_BOOT (R330). After 100 ms with one reference absent, the XV8 boots on the present reference. -/
  | singleReferenceBoot
  /-- PLL_FAULT (R329). A PLL that loses lock or fails comparison causes a port loss, a quadrant reset or a warm reset. -/
  | pllFault (pll : Nat) (reached : List Reached)
  /-- BOTH_REFERENCES_LOST (R331). Both references missing stops every clock. -/
  | bothReferencesLost
  /-- CLOCK_GATE_ON (R334). A CLKG_REQ with ON = 1 turns a node and its parents on. -/
  | clockGateOn (p : Port) (v : Word)
  /-- CLOCK_GATE_OFF (R334). A CLKG_REQ with ON = 0 gates a node off, or is refused. -/
  | clockGateOff (p : Port) (v : Word)
  /-- P1_ENTRY (R336). An idle quadrant's QCORE is gated after P1_US. -/
  | p1Entry (q : Nat)
  /-- P2_ENTRY (R336). After P2_MS of idle, the XV8 enters P2 with HBM in self-refresh. -/
  | p2Entry
  /-- P3_ENTRY (R337). After the P3 idle time, dirty data and records are persisted and the XV8 enters P3. -/
  | p3Entry
  /-- WAKE_COMPLETE (R337). The wake reaches P0 and held posted writes are applied in order. -/
  | wakeComplete (cause us : Nat)
  /-- MAX_STATE (R336). A write of PWR_CTL.MAX_STATE below the present state wakes the XV8. -/
  | maxState (p : Port) (v : Word)
  /-- WARM (R339). RST_CTL.WARM with key 0xA5 starts a device warm reset, unless a thermal latch denies it. -/
  | warm (p : Port) (v : Word)
  /-- QUIESCE_TIMEOUT (R339). Step 2 of a warm reset ends when RST_QUIESCE.MS passes. -/
  | quiesceTimeout (reached : List Reached)
  /-- POWER_ON (R352). Power-on reset ends and the boot phases begin. -/
  | powerOn
  /-- BOOT_PWRFAIL_RELEASE (R250). PWRFAIL_N going high lets boot pass phase 2. -/
  | bootPwrfailRelease
  /-- BOOT_CANDIDATE_FAIL (R351). A candidate that fails verification, a bound or its watchdog makes boot try the next slot. -/
  | bootCandidateFail (code : Nat)
  /-- BOOT_READY (R46). Boot phase 9 sets READY, releases the locks and processes held commits. -/
  | bootReady
  /-- FUSE_UPDATE (R356). After READY, the anti-rollback counter and key revocations are fused. -/
  | fuseUpdate
  /-- BOOT_FLASH_READ (R363). BOOT_RD_CTL.GO reads 64 B of a boot-flash device. -/
  | bootFlashRead (p : Port)
  /-- REPEAT (R386). At the end of a second, a REPEAT record counts the suppressed occurrences. -/
  | repeat
  /-- EVENT_PERSIST_WRITE (R388). Waiting event records are persisted to the log on a trigger; `fails` tells of the write's page
  programs in order, true where one fails, and those beyond the list pass. -/
  | eventPersistWrite
  /-- FREEZE (R392). EVR_CTL.FREEZE = 1 stops writing the live ring and sends new records to the holding queue. -/
  | freeze (p : Port) (v : Word)
  /-- UNFREEZE (R392). EVR_CTL.FREEZE = 0 moves held records into the ring. -/
  | unfreeze (p : Port) (v : Word)
  /-- CLR (R393). EVR_CTL.CLR while frozen starts clearing the selected ring or log, and otherwise sets CLR_DENIED. -/
  | clr (p : Port) (v : Word)
  /-- EVR_CLEAR_DONE (R393). The clear completes and a CLEARED record is written. -/
  | evrClearDone
  /-- EVR_CURSOR (R389). A write of EVR_CURSOR starts fetching one record from the ring or the log. -/
  | evrCursor (p : Port) (v : Word)
  /-- EVR_FETCH_DONE (R389). The record fetch ends and EVR_RSTAT.DONE is set. -/
  | evrFetchDone (f : RecFetch)
  /-- EVR_DATA7_READ (R389). With AUTOINC, a read of EVR_DATA7 advances the cursor and starts the next fetch. -/
  | evrData7Read (p : Port)
  /-- HLT_TEL_SNAP (R394). A write of HLT_TEL_SNAP snapshots the telemetry counters. -/
  | hltTelSnap (p : Port) (v : Word)
  /-- TAP_RESET (R400). TRST_N, or five TCK cycles with TMS high, resets the TAP and selects IDCODE. -/
  | tapReset
  /-- IDCODE (R400). The IDCODE instruction shifts out 0x1812_8A8F. -/
  | idcode
  /-- SAMPLE_PRELOAD (R400). The SAMPLE/PRELOAD instruction samples the boundary without disturbing pins. -/
  | samplePreload (cells : List Bool)
  /-- EXTEST (R400). EXTEST drives the boundary cells, only while TEST_EN is high. -/
  | extest
  /-- HIGHZ (R400). HIGHZ floats the boundary outputs, only while TEST_EN is high. -/
  | highz
  /-- CLAMP (R400). CLAMP holds the boundary outputs, only while TEST_EN is high. -/
  | clamp
  /-- BYPASS (R400). BYPASS, and every unlisted opcode, selects the one-bit bypass register. -/
  | bypass (opcode : Byte)
  /-- RAIL_UNDERVOLTAGE (R403). A rail below its minimum for 1 µs puts the XV8 into power-on reset. -/
  | railUndervoltage (rail : Nat)
  /-- TEST_EN_ASSERT (R398). TEST_EN high holds the XV8 in power-on reset. -/
  | testEnAssert
  /-- REFCLK_EDGES_RETURN (R326). A reference that was Absent shows edges again and returns to Judging; after both references were lost, their return restarts the clocks toward a warm reset. -/
  | refclkEdgesReturn (r : Port)
  /-- BUS_MASTER_ENABLE_SET (R44). Setting Bus Master Enable on a function resumes its paused DMA and completion posting. -/
  | busMasterEnableSet (p : Port) (fn : Nat)
  /-- PF0_D3HOT_EXIT (R44). PF0 returned from D3hot to D0 ends the pause of every function of its port. -/
  | pf0D3hotExit (p : Port)
  /-- ASPM_L1_ENTRY (R27). An idle port enters ASPM L1 under the PCIe timers, which adds the L1 exit latency to its next transfer and allows P3. -/
  | aspmL1Entry (p : Port)
  /-- BOOT_PHASE_DONE (R352). A boot phase ends, and the boot goes on to the next phase or stops on a training, self-test or system-area finding. -/
  | bootPhaseDone (us : Nat) (r : PhaseResult)
  /-- BOOT_FLASH_WRITE_DONE (R359). The erase, program, read-back and trailer write of an FW_STAGE with LAST end, the write-protect maps are set again, and the reply is generated. -/
  | bootFlashWriteDone (err : Bool)
  /-- FW_ACTIVATE_RESET_TIMEOUT (R361). 10 ms after the FW_ACTIVATE mode 2 reply is posted without being popped, the device warm reset starts. -/
  | fwActivateResetTimeout
  deriving DecidableEq, Repr

end Sys2Proof
end

