-- ==== Sys2Proof/WellFormed.lean ====
section
/-! DEFINITION. Which commands are well formed: every operand names something the XV8 has (R5, R10, R31, R33, R61, R294, R400).
What an operand out of range names does not exist, and nothing such a command could stand for reaches the block. -/

namespace Sys2Proof

/-- A function of a port: PF0 or one of 1,024 VFs (R31). -/
def wfFn (fn : Nat) : Bool := decide (fn ≤ 1024)
/-- A tenant ID (R33). -/
def wfTenant (t : Nat) : Bool := decide (t < 1024)
/-- A completion ring (R61). -/
def wfRing (n : Nat) : Bool := decide (n < 16)
/-- A device channel (R10). -/
def wfCh (c : Nat) : Bool := decide (c < 128)
/-- A device LUN: 32 on each channel (R10). -/
def wfLun (l : Nat) : Bool := decide (l < 4096)
/-- Block `b`, numbered device LUN × 16,384 + block, is a block of LUN `l` (R10, R11). -/
def wfBlk (l b : Nat) : Bool := decide (b / 16384 = l)
/-- A quadrant (R5). -/
def wfQuad (q : Nat) : Bool := decide (q < 4)
/-- A mailbox (R294). -/
def wfBox : Box → Bool
  | .pf0 n => decide (n < 8)
  | .vf _ fn => decide (1 ≤ fn) && decide (fn ≤ 1024)
/-- The bytes of one memory write into the TRS range: 1 to 1,024 of them, inside the range (R49). -/
def wfTrs (fn off : Nat) (l : List (Option Byte)) : Bool :=
  decide (1 ≤ fn) && wfFn fn && decide (1 ≤ l.length) && decide (off + l.length ≤ 1024)

/-- A command whose operands all lie in range. -/
def Instr.wf : Instr → Bool
  | .trsWrite _ fn off bytes => wfTrs fn off bytes
  | .trsCommit _ fn off bytes => wfTrs fn off bytes
  | .read t _ _ => wfTenant t
  | .write t _ _ => wfTenant t
  | .append t _ _ => wfTenant t
  | .zoneOpen t _ _ => wfTenant t
  | .zoneClose t _ _ => wfTenant t
  | .zoneFinish t _ _ => wfTenant t
  | .zoneReset t _ _ => wfTenant t
  | .flush t _ _ => wfTenant t
  | .abort t _ => wfTenant t
  | .zoneReport t _ _ => wfTenant t
  | .copy t _ _ => wfTenant t
  | .verify t _ _ => wfTenant t
  | .hint t _ _ => wfTenant t
  | .invalidOpcode t _ => wfTenant t
  | .admissionRelease t _ _ => wfTenant t
  | .refusalAfterWaiting t _ => wfTenant t
  | .extentListFetch t _ _ => wfTenant t
  | .writeAcknowledgement t _ => wfTenant t
  | .readerResume t _ => wfTenant t
  | .zoneResetApply t _ => wfTenant t
  | .mirrorWrite _ fn => wfFn fn && decide (1 ≤ fn)
  | .completionPost _ fn ring => wfFn fn && decide (1 ≤ fn) && wfRing ring
  | .ringEnable _ fn ring _ => wfFn fn && decide (1 ≤ fn) && wfRing ring
  | .ringDisable _ fn ring _ => wfFn fn && decide (1 ≤ fn) && wfRing ring
  | .ringHeadWrite _ fn ring _ => wfFn fn && decide (1 ≤ fn) && wfRing ring
  | .ringIenClear _ fn ring _ => wfFn fn && decide (1 ≤ fn) && wfRing ring
  | .ringInterruptTimer _ fn ring => wfFn fn && decide (1 ≤ fn) && wfRing ring
  | .msixPendingSend _ fn vec => wfFn fn && decide (vec ≤ 16)
  | .portLost _ _ _ => true
  | .portUp _ _ _ _ => true
  | .dmaReadFail t _ _ => wfTenant t
  | .completionTimeout t _ _ => wfTenant t
  | .flr _ vf _ => decide (1 ≤ vf) && wfFn vf
  | .pf0Flr _ _ => true
  | .vfEnableWrite _ _ _ => true
  | .numvfsWrite _ _ _ => true
  | .busMasterEnableClear _ fn => wfFn fn
  | .pf0D3hot _ => true
  | .perstDeassert _ => true
  | .unsupportedRequest _ fn _ _ => wfFn fn
  | .registerWrite _ fn _ _ size _ => wfFn fn && decide (1 ≤ size) && decide (size ≤ 8)
  | .rcRegisterRead _ fn r => wfFn fn && decide (1 ≤ r.size) && decide (r.size ≤ 8)
  | .d2dLaneFault q _ => wfQuad q
  | .coreHang die core _ => decide (die < 5) && decide (core < (if die = 0 then 16 else 8))
  | .arrayOpStart lun => wfLun lun
  | .flashReadDone lun _ _ => wfLun lun
  | .softDecodeDone _ _ _ _ => true
  | .programDone lun _ => wfLun lun
  | .eraseDone lun _ => wfLun lun
  | .programSuspend lun => wfLun lun
  | .suspendReady lun => wfLun lun
  | .resume lun => wfLun lun
  | .sequencerHang ch _ => wfCh ch
  | .lunHang h => wfLun h.lun
  | .resetLunDone lun _ => wfLun lun
  | .zqCalibrationShort ch vol => wfCh ch && decide (vol < 8)
  | .flashTemperatureRead ch vol _ => wfCh ch && decide (vol < 8)
  | .channelRetrain ch run => wfCh ch && decide (run.us ≤ 60)
  | .retrain _ ch => wfCh ch
  | .cntClrFch _ ch => wfCh ch
  | .foldGroupStart t _ _ => wfTenant t
  | .wordlineVerifyDone lun blk _ _ => wfLun lun && wfBlk lun blk
  | .relocationStart q => wfQuad q
  | .patrolVisit lun blk => wfLun lun && wfBlk lun blk
  | .calibrationRead lun blk _ _ => wfLun lun && wfBlk lun blk
  | .halfEraseCheck lun blk _ => wfLun lun && wfBlk lun blk
  | .readyListRefill group => decide (group < 16)
  | .healthSummary _ => true
  | .thresholdTableSave => true
  | .hltTsel _ _ => true
  | .partialRowStage t _ => wfTenant t
  | .thermalControlPeriod _ => true
  | .sensorTimeout k => decide (k < 22)
  | .flagDwellExpiry flag => decide (flag < 3)
  | .shutdownDrainEnd _ => true
  | .sensorExclude _ _ => true
  | .cntClrThm _ => true
  | .admTwinSel _ _ => true
  | .bpmSpill => true
  | .bpmRefill => true
  | .cipherChargeRetry _ => true
  | .backOffRetry cls q _ => decide (cls < 2) && wfQuad q
  | .bpmTest _ => true
  | .cntClrBpm _ => true
  | .bpmTsel _ _ => true
  | .skimRead e _ => decide (e < 7)
  | .correctedWriteBack mem _ => decide (mem < 16)
  | .mergeEntryTimeout stack _ _ => decide (stack < 2)
  | .hbmRefresh stack => decide (stack < 2)
  | .skimSlow e => decide (e < 7)
  | .ceRate m => decide (m < 16)
  | .mepFlipArm _ _ => true
  | .mepTestWrite _ _ => true
  | .mepTestRead _ _ => true
  | .logClr _ => true
  | .cntClrMep _ => true
  | .mepLogSel _ _ => true
  | .pwrfailAssert => true
  | .flushDmaCutoff _ => true
  | .flushEnd => true
  | .pwrfailHighTimeout => true
  | .journalPageProgram _ => true
  | .checkpoint => true
  | .zoneTableWriteback _ => true
  | .interruptedBlockRepair lun blk => wfLun lun && wfBlk lun blk
  | .keyLoad b _ => wfBox b
  | .keyEvict b _ => wfBox b
  | .keyEvictReply b => wfBox b
  | .plainKekClose _ => true
  | .cntClrCip _ => true
  | .cipTsel _ _ => true
  | .sanitize b => wfBox b
  | .sanitizeDone b => wfBox b
  | .mbxDoorbell _ b _ => wfBox b
  | .mbxPop _ b _ => wfBox b
  | .mbxLockRead _ n => decide (n < 8)
  | .mbxLockRelease _ n _ => decide (n < 8)
  | .mbxBreak _ _ => true
  | .mbxTakeRequest b => wfBox b
  | .mbxReplyPost b => wfBox b
  | .mbxInvalidOpcode b => wfBox b
  | .identify b => wfBox b
  | .getLog b => wfBox b
  | .setConfig b _ => wfBox b
  | .getConfig b => wfBox b
  | .tenantCreate b _ => wfBox b
  | .tenantDelete b => wfBox b
  | .fwStage b _ => wfBox b
  | .fwStageLast b _ => wfBox b
  | .fwActivateLive b => wfBox b
  | .fwActivateNextReset b => wfBox b
  | .fwActivateWarmReset b => wfBox b
  | .health b => wfBox b
  | .thermalSet b => wfBox b
  | .quadrantReset b => wfBox b
  | .evrecPersist b => wfBox b
  | .quadrantResetBegin q => wfQuad q
  | .quadrantResetDone q _ => wfQuad q
  | .quadrantResetFail q _ => wfQuad q
  | .liveActivationDone _ => true
  | .liveActivationRevert _ => true
  | .setEndpointId _ _ => true
  | .getEndpointId => true
  | .getEndpointUuid => true
  | .getMctpVersionSupport _ => true
  | .getMessageTypeSupport => true
  | .getVendorDefinedMessageSupport _ => true
  | .mctpLock n => decide (n < 256)
  | .mctpRelease n => decide (n < 256)
  | .mctpSend n _ _ => decide (n < 256)
  | .mctpFetch n => decide (n < 256)
  | .mctpStatus n => decide (n < 256)
  | .mctpBreak n => decide (n < 256)
  | .smbusAlertResponse => true
  | .refclkMissing _ => true
  | .refclkComparison _ _ _ _ => true
  | .singleReferenceBoot => true
  | .pllFault pll _ => decide (pll < 13)
  | .bothReferencesLost => true
  | .clockGateOn _ _ => true
  | .clockGateOff _ _ => true
  | .p1Entry q => wfQuad q
  | .p2Entry => true
  | .p3Entry => true
  | .wakeComplete _ _ => true
  | .maxState _ _ => true
  | .warm _ _ => true
  | .quiesceTimeout _ => true
  | .powerOn => true
  | .bootPwrfailRelease => true
  | .bootCandidateFail _ => true
  | .bootReady => true
  | .fuseUpdate => true
  | .bootFlashRead _ => true
  | .repeat => true
  | .eventPersistWrite => true
  | .freeze _ _ => true
  | .unfreeze _ _ => true
  | .clr _ _ => true
  | .evrClearDone => true
  | .evrCursor _ _ => true
  | .evrFetchDone f => match f.found with
    | .stored bytes => bytes.length == 32
    | _ => true
  | .evrData7Read _ => true
  | .hltTelSnap _ _ => true
  | .tapReset => true
  | .idcode => true
  | .samplePreload _ => true
  | .extest => true
  | .highz => true
  | .clamp => true
  | .bypass _ => true
  | .railUndervoltage rail => decide (rail < 12)
  | .testEnAssert => true
  | .refclkEdgesReturn _ => true
  | .busMasterEnableSet _ fn => wfFn fn
  | .pf0D3hotExit _ => true
  | .aspmL1Entry _ => true
  | .bootPhaseDone _ _ => true
  | .bootFlashWriteDone _ => true
  | .fwActivateResetTimeout => true

end Sys2Proof
end

