-- ==== Sys2Proof/Decode.lean ====
section
/-! DEFINITION. The commands that a word spells. No row of spec/opcode_table.json gives its command any bits: the XV8 takes accesses,
pin and link events and events of its own, not words (log 51, DEDUCED). -/

namespace Sys2Proof

/-- No row of the table gives bits, so no word spells a command. -/
def decodeTableWord (_nbits _w : Nat) : Option Instr := none

end Sys2Proof
end

