-- ==== Sys2Proof/Config.lean ====
section
/-! DEFINITION. What the manual leaves open: free values, which nothing in Lean can evaluate (log 4, DESIGN CHOICE), and the values of
the part modelled, RC-1 (R2). Each free value is applied to `State.freeCtr`, which its user advances. -/

namespace Sys2Proof.Config

/-- Which free buffer a pop hands out: the order is not specified (R213). -/
opaque freeBuf : Nat → Nat
/-- Which quadrant the next staging extent goes to when no hint fixes it (R131). -/
opaque stageQuad : Nat → Nat
/-- RESULT of an ABORT that fails at decode, and of an INVALID_OPCODE completion (Table 4.11 names no value). -/
opaque abortResult : Nat → BitVec 64
/-- The bus number that host software gave PF0 of a port (R32). -/
opaque pf0Bus : Nat → Nat
/-- Syndrome that a memory error leaves (Table 10.7). -/
opaque syndrome : Nat → BitVec 32
/-- What a line with four or more symbols in error, or a word with three or more bits, decodes to (R228, R230): its outcome,
the position it points to and the symbol found there, packed into one number. -/
opaque manyErrors : Nat → Nat
/-- The word of an on-die memory, or the line of a region, that holds something whose place the manual does not give. -/
opaque placeOf : Nat → Nat
/-- The entry of the conventional-zone map for a 4 KiB piece of a tenant's zone: tenant, zone, piece (R125). -/
opaque mapEntry : Nat → Nat → Nat → Nat
/-- The word index of the test word of an on-die memory (R247). -/
opaque testWord : Nat → Nat
/-- The UUID of the MCTP endpoint (R307). -/
opaque uuid : List (BitVec 8)
/-- Version entries that the endpoint answers for an MCTP message type (R307 names no version). -/
opaque mctpVersions : Nat → List (BitVec 8)
/-- Command-set word of the endpoint's vendor-defined messages (R307 states none). -/
opaque mctpCommandSet : List (BitVec 8)
/-- SHA-384 of a byte string (R350). -/
opaque sha384 : List (BitVec 8) → List (BitVec 8)
/-- SHA-384 hash that a fused key slot holds (R349). -/
opaque keyHash : Nat → List (BitVec 8)
/-- ECDSA P-384 verification of a signature over a hash under a public key (R350). -/
opaque ecdsaOk : List (BitVec 8) → List (BitVec 8) → List (BitVec 8) → Bool
/-- The qualification table of the running image (R158, R314): JEDEC manufacturer ID, device ID, RETIMING, rated QLC cycles and
rated one-bit cycles of each entry. -/
opaque qualTable : List (Nat × Nat × Bool × Nat × Nat)
/-- How many nominal blocks of a LUN the qualification entry keeps back as spares, where the LUN has no others (R201). -/
opaque qualSpares : Nat
/-- The offsets that ladder step k adds, by mode, step and read level: those of the qualification entry, which the manual does not give
(Table 8.4). -/
opaque qualStep : Bool → Nat → Nat → Int
/-- A reply field whose value the manual does not state. -/
opaque openField : Nat → Nat
/-- Event code of a record for which the manual gives none (R345). -/
opaque openCode : Nat → Nat
/-- The offset that a threshold-table entry holds before any calibration: the qualification entry's default, which the manual does not give
(R185). -/
opaque qualDefault : Nat → Int
/-- Which of the pages of a persist write fail to program, in their order: a fact of the flash that EVENT_PERSIST_WRITE has no operand for
(R388). -/
opaque logFails : Nat → List Bool
/-- How many further reads a calibration read takes, as a number of which the model uses the remainder by 5 (R185: up to four). -/
opaque estimate : Nat → Nat

end Sys2Proof.Config
end

