-- ==== Sys2Proof/Machine/Tab.lean ====
section
/-! DEFINITION. Sparse tables: the one form in which the state holds anything indexed by number (memory bytes, zones,
LUNs, rings). A table is a list of (key, value) pairs in canonical form: keys strictly rising, and no entry equal to the
value that an unlisted key reads as. -/

namespace Sys2Proof.Machine

/-- A sparse table of values by key. -/
abbrev Tab (α : Type) := List (Nat × α)

/-- The value at key `k`; an unlisted key reads as `d`. -/
def Tab.get {α : Type} (d : α) : Tab α → Nat → α
  | [], _ => d
  | (j, v) :: t, k => if j = k then v else Tab.get d t k

/-- The table with key `k` unlisted. -/
def Tab.del {α : Type} : Tab α → Nat → Tab α
  | [], _ => []
  | (j, v) :: t, k => if j = k then Tab.del t k else (j, v) :: Tab.del t k

/-- The table with `(k, v)` listed in key order; `k` is not listed before. -/
def Tab.ins {α : Type} : Tab α → Nat → α → Tab α
  | [], k, v => [(k, v)]
  | (j, w) :: t, k, v => if k < j then (k, v) :: (j, w) :: t else (j, w) :: Tab.ins t k v

/-- Writing `v` at key `k`: the value that an unlisted key reads as is held by leaving the key unlisted. -/
def Tab.set {α : Type} [DecidableEq α] (d : α) (t : Tab α) (k : Nat) (v : α) : Tab α :=
  if v = d then Tab.del t k else Tab.ins (Tab.del t k) k v

/-- Rewriting the value at key `k`. -/
def Tab.upd {α : Type} [DecidableEq α] (d : α) (t : Tab α) (k : Nat) (f : α → α) : Tab α :=
  Tab.set d t k (f (Tab.get d t k))

/-- Every listed value rewritten; one that becomes the value of an unlisted key is no longer listed. -/
def Tab.mapv {α : Type} [DecidableEq α] (d : α) (f : Nat → α → α) : Tab α → Tab α
  | [] => []
  | (k, v) :: t => if f k v = d then Tab.mapv d f t else (k, f k v) :: Tab.mapv d f t

/-- The keys listed. -/
def Tab.keys {α : Type} (t : Tab α) : List Nat := t.map Prod.fst

/-- Every key of `t` is above `k`. -/
def Tab.above {α : Type} (k : Nat) (t : Tab α) : Bool := t.all fun e => decide (k < e.1)

/-- The canonical form: keys strictly rising, no entry equal to the value of an unlisted key. -/
def Tab.wf {α : Type} [DecidableEq α] (d : α) : Tab α → Bool
  | [] => true
  | (k, v) :: t => decide (v ≠ d) && Tab.above k t && Tab.wf d t

end Sys2Proof.Machine
end

