-- ==== Sys2Proof/Machine/Bits.lean ====
section
/-! DEFINITION. Bit fields, byte order and saturation: the helpers every register and packet uses. -/

namespace Sys2Proof.Machine

/-- Bits [lo+w-1:lo] of a natural number. -/
def bits (x lo w : Nat) : Nat := x / 2 ^ lo % 2 ^ w

/-- Bit `i` of a natural number. -/
def bit (x i : Nat) : Bool := x / 2 ^ i % 2 == 1

/-- Bits [lo+w-1:lo] of a register value (Table 0.4). -/
def fld (v : Word) (lo w : Nat) : Nat := bits v.toNat lo w

/-- One bit of a register value. -/
def flag (v : Word) (i : Nat) : Bool := bit v.toNat i

/-- 1 for true and 0 for false. -/
def b2n (b : Bool) : Nat := if b then 1 else 0

/-- A register value from fields given as (lowest bit, width, value); each value is cut to its width. -/
def mk : List (Nat × Nat × Nat) → Nat
  | [] => 0
  | (lo, w, v) :: t => v % 2 ^ w * 2 ^ lo + mk t

/-- A saturating sum: never above `m` (counters that saturate). -/
def satAdd (m a b : Nat) : Nat := min m (a + b)

/-- 2 to the 32. -/
def p32 : Nat := 4294967296

/-- Ceiling division. -/
def cdiv (a b : Nat) : Nat := (a + b - 1) / b

/-- The `n` bytes of `x`, least significant first (R409). -/
def leBytes : Nat → Nat → List Byte
  | 0, _ => []
  | n + 1, x => BitVec.ofNat 8 x :: leBytes n (x / 256)

/-- The number that bytes spell, least significant first (R409). -/
def leNat : List Byte → Nat
  | [] => 0
  | b :: t => b.toNat + 256 * leNat t

/-- The `n` bytes of `x`, most significant first. -/
def beBytes (n x : Nat) : List Byte := (leBytes n x).reverse

/-- The number that bytes spell, most significant first. -/
def beNat (l : List Byte) : Nat := leNat l.reverse

/-- Bytes `o` to `o + n - 1` of a byte string, missing bytes read as 0. -/
def slice (l : List Byte) (o n : Nat) : List Byte :=
  let s := (l.drop o).take n
  s ++ List.replicate (n - s.length) 0

/-- The little-endian field of `n` bytes at byte `o` (R409). -/
def leAt (l : List Byte) (o n : Nat) : Nat := leNat (slice l o n)

/-- A byte string as DWORDs, least significant byte first. -/
def dwords (l : List Byte) : Nat → List Word
  | 0 => []
  | n + 1 => BitVec.ofNat 32 (leAt l 0 4) :: dwords (l.drop 4) n

/-- A byte string cut or padded with zeros to `n` bytes. -/
def padTo (n : Nat) (l : List Byte) : List Byte := slice l 0 n

/-- Bit `i` set in `x`. -/
def setBit (x i : Nat) : Nat := if bit x i then x else x + 2 ^ i

/-- Bit `i` cleared in `x`. -/
def clrBit (x i : Nat) : Nat := if bit x i then x - 2 ^ i else x

/-- `x` with every bit that is set in `m` cleared (write-1-to-clear). -/
def clrMask (x m : Nat) : Nat := x - (x &&& m)

/-- Two's complement of an integer in `w` bits. -/
def twos (w : Nat) (i : Int) : Nat := (i % (2 ^ w : Nat)).toNat

/-- The integer that `w` bits spell in two's complement. -/
def untwos (w x : Nat) : Int := if 2 * (x % 2 ^ w) ≥ 2 ^ w then ((x % 2 ^ w : Nat) : Int) - (2 ^ w : Nat) else (x % 2 ^ w : Nat)

/-- One round of the reflected CRC-32C over one bit. -/
def crcBit (c : Word) : Word := if c.getLsbD 0 then (c >>> 1) ^^^ 0x82F63B78#32 else c >>> 1

/-- CRC-32C over one byte. -/
def crcByte (c : Word) (b : Byte) : Word :=
  crcBit (crcBit (crcBit (crcBit (crcBit (crcBit (crcBit (crcBit (c ^^^ b.setWidth 32))))))))

/-- CRC-32C: polynomial 0x1EDC_6F41 reflected, initial value and final XOR 0xFFFF_FFFF (R380). -/
def crc32c (l : List Byte) : Word := (l.foldl crcByte 0xFFFFFFFF#32) ^^^ 0xFFFFFFFF#32

/-- The sum of a function over a list. -/
def sumBy {α : Type} (f : α → Nat) (l : List α) : Nat := l.foldl (fun a x => a + f x) 0

/-- Element `i` of a list, `d` beyond its end. -/
def nth {α : Type} (d : α) (l : List α) (i : Nat) : α := l.getD i d

/-- A list with its element `i` rewritten. -/
def modNth {α : Type} (l : List α) (i : Nat) (f : α → α) : List α := l.modify i f

/-- Adding to a numbered counter of a table of counters. -/
def bump (t : Tab Nat) (k n : Nat) : Tab Nat := Tab.upd 0 t k (· + n)

/-- Insertion into a list kept in order, after every element it does not precede. -/
def insBy {α : Type} (lt : α → α → Bool) (x : α) : List α → List α
  | [] => [x]
  | y :: t => if lt x y then x :: y :: t else y :: insBy lt x t

/-- A list put in order; equal elements keep their places. -/
def sortBy {α : Type} (lt : α → α → Bool) (l : List α) : List α := l.foldl (fun acc x => insBy lt x acc) []

end Sys2Proof.Machine
end

