-- ==== Sys2Proof/Machine/TypesHost.lean ====
section
/-! DEFINITION. The host side of the state: ports, functions, casements, completion rings, register windows, commands
in flight, block versions, tenants and zones. -/

namespace Sys2Proof.Machine

/-- A completion ring: RNG_BASELOn, RNG_BASEHIn, RNG_CTLn, RNG_HEADn, the posted count P (R62) and the interrupt
moderation state of R66. -/
structure Ring where
  baseLo : Nat := 0
  baseHi : Nat := 0
  en : Bool := false
  ien : Bool := false
  mirror : Bool := false
  cfgErr : Bool := false
  sizeLog2 : Nat := 0
  icnt : Nat := 0
  itime : Nat := 0
  head : Nat := 0
  posted : Nat := 0
  unsig : Nat := 0
  firstUnsigNs : Nat := 0
  deriving DecidableEq, Repr

/-- A casement (R48): the bytes of its sixteen task register sets, which bytes of each have been written since its last capture
(R54), which sets hold a valid commit not yet captured (R51), CAS_TAKEN, the error bits of CAS_STATUS, the
captures not yet mirrored (R56) and its sixteen rings. -/
structure Casement where
  trs : Tab Byte := []
  seen : Tab Bool := []
  valid : List Nat := []
  taken : Nat := 0
  seqErr : Bool := false
  seqErrTrs : Nat := 0
  orphan : Bool := false
  unmirrored : Nat := 0
  firstUnmirroredNs : Nat := 0
  mirrored : Nat := 0
  rings : Tab Ring := []
  deriving DecidableEq, Repr

/-- One MSI-X table entry and its PBA bit (R38). -/
structure Vec where
  addrLo : Nat := 0
  addrHi : Nat := 0
  data : Nat := 0
  masked : Bool := true
  pend : Bool := false
  deriving DecidableEq, Repr

/-- A PCIe function: the configuration-space bits the manual names, the errors that AER reports (R29), its MSI-X table and, for a VF, its casement. -/
structure Fn where
  mse : Bool := false
  bme : Bool := false
  relaxed : Bool := true
  mps : Nat := 0
  mrrs : Nat := 2
  cplTimeout : Nat := 0
  fnMask : Bool := false
  aer : Nat := 0
  bar : Word64 := 0
  vecs : Tab Vec := []
  cas : Casement := {}
  deriving DecidableEq, Repr

/-- What each port's PF0 has its own copy of: selectors, snapshots and the EVR cursor window. -/
structure Win where
  admSel : Nat := 0
  admSnap : List Nat := []
  hltSel : Nat := 0
  hltSnap : List Nat := []
  bpmSel : Nat := 0
  bpmSnap : List Nat := []
  cipSel : Nat := 0
  cipSnap : List Nat := []
  mepSel : Nat := 0
  mepSnap : List Nat := []
  telSnap : List Nat := []
  evrSrc : Bool := false
  evrAuto : Bool := false
  evrCursor : Nat := 0
  evrDone : Bool := false
  evrResult : Nat := 0
  evrData : List Byte := []
  evrBusy : Bool := false
  deriving DecidableEq, Repr

/-- A port: its link, its pins, its SR-IOV settings and its functions (R25, R32). -/
structure PortSt where
  linkUp : Bool := false
  speed : Nat := 0
  width : Nat := 0
  flit : Bool := false
  perst : Bool := false
  d3hot : Bool := false
  inL1 : Bool := false
  lossDue : Bool := false
  vfEn : Bool := false
  numVfs : Nat := 0
  vfBar : Word64 := 0
  pf0 : Fn := {}
  vfs : Tab Fn := []
  win : Win := {}
  dropped : Nat := 0
  deriving DecidableEq, Repr

/-- Where a command stands (Table 4.9). -/
inductive Ph
  | captured                -- captured, not yet decoded
  | queued                  -- holds a context, waits in its lane (R143)
  | listWait                -- released, its extent list is being fetched (R83)
  | heldReader              -- a reader held at the zone sequencer (R123)
  | heldReset               -- a reader held for a waiting ZONE_RESET (R100)
  | blockWait               -- a writer that waits for a ready block (R203)
  | fwWait                  -- a command that firmware carries, during a live activation (R344)
  | resetWait               -- a ZONE_RESET that waits for transfers (R100)
  | exec                    -- past its commit point, running
  | gen                     -- its completion is generated and waits to be posted
  deriving DecidableEq, Repr

/-- What held a queued command when it was last examined (R145). -/
inductive Gate | none | dirty | undercoat
  deriving DecidableEq, Repr

/-- A Katus command from capture to the posting of its completion. `skip` are the earlier-accepted APPENDs that had no LBA when a reader was
released (R123); `blockNs` says since when a writer waits for a block (R203). -/
structure Cmd where
  tenant : Nat
  seq : Nat
  port : Port
  fn : Nat
  pkt : List Word
  ph : Ph := .captured
  capNo : Nat := 0
  capNs : Nat := 0
  grantNs : Nat := 0
  relNs : Nat := 0
  granted : Bool := false
  released : Bool := false
  reserve : Bool := false
  committed : Bool := false
  status : Nat := 0
  result : Nat := 0
  genNo : Nat := 0
  outPort : Port := .a
  outFn : Nat := 0
  outRing : Nat := 0
  redirected : Bool := false
  queueUs : Nat := 0
  waitFor : Option Nat := none
  gate : Gate := .none
  gateNs : Nat := 0
  sawThrottle : Bool := false
  charge : Nat := 0
  lba0 : Nat := 0
  exts : List Extent := []
  vers : List Nat := []
  todo : List Nat := []
  bad : List Nat := []
  failLba : Option (Nat × Nat) := none
  ahead : Nat := 0
  suspended : Bool := false
  overflow : Bool := false
  ladder : Nat := 0
  tier : Nat := 0
  tierBlocks : List Nat := []
  flash : Bool := false
  cover : List Nat := []
  acked : Bool := false
  journal : Bool := false
  qheld : Bool := false
  skip : List Nat := []
  keyWait : List (Nat × Bool) := []
  credB : Nat := 0
  credO : Nat := 0
  blockNs : Option Nat := none
  deriving DecidableEq, Repr

/-- What a logical block's plaintext is: block `idx` of the data of one host write, or zeros. -/
inductive Content
  | host (tenant pcycle seq idx : Nat)
  | zeros
  deriving DecidableEq, Repr

/-- The current location of a version (R16): buffers, a staging extent, its zone's topcoat members, or sector `pos` on of a
conventional topcoat block. -/
inductive Loc
  | buf
  | uc (ext : Nat)
  | tc
  | cv (blk pos : Nat)
  deriving DecidableEq, Repr

/-- A version of a logical block: what one writer stored in it (R122), with its out-of-band fields (Table 8.2) and the tenant key that its data
key was derived from (R281). `sup` says that a later-accepted writer covered it before it was ever current (R126), `left` that its writer ended as
R30 sets out. -/
structure Ver where
  tenant : Nat := 0
  zone : Nat := 0
  lba : Nat := 0
  gen : Nat := 0
  seq : Nat := 0
  pcycle : Nat := 0
  content : Content := .zeros
  epoch : Nat := 0
  iv : Nat := 0
  cipherOff : Bool := false
  hint : Nat := 0
  piece : Nat := 0
  pieceEnd : Nat := 0
  hbm : Bool := false
  dead : Bool := false
  sup : Bool := false
  dirty : Bool := false
  poison : Bool := false
  unrec : List Nat := []
  fua : Bool := false
  left : Bool := false
  key : List Byte := []
  placed : Bool := false
  ucProg : Bool := false
  tcSafe : Bool := false
  acked : Bool := false
  emerg : Bool := false
  bufs : List Nat := []
  loc : Loc := .buf
  deriving DecidableEq, Repr

/-- The applied parameters of a tenant-class (Table 6.1), its buckets and credit (R144; bytes in units of 1/64,000
byte and operations in units of 1/64,000,000,000 operation, so that a 320 ns fill is exact), its counters of Table
6.10 and of Table 8.11. -/
structure TCls where
  ctxSill : Nat := 0
  ctxCap : Nat := 0
  sillMbps : Nat := 0
  sillOps : Nat := 0
  capMbps : Nat := 0
  capOps : Nat := 0
  weight : Nat := 0
  burstUs : Nat := 1000
  holdUs : Nat := 0
  bktB : Int := 0
  bktO : Int := 0
  cnts : Tab Nat := []
  rcnts : Tab Nat := []
  deriving DecidableEq, Repr

/-- A tenant (Table 5.1), its classes, buffer quota and counters (R215, R222). -/
structure Tenant where
  blk : Nat := 4096
  w : Nat := 16
  nz : Nat := 1
  nc : Nat := 0
  openMax : Nat := 1
  awu : Nat := 4096
  ucAllow : Nat := 0
  cipherOff : Bool := false
  nextAccept : Nat := 0
  rt : TCls := {}
  std : TCls := {}
  bulk : TCls := {}
  bg : TCls := {}
  qhold : Nat := 0
  dphold : Nat := 0

  deriving DecidableEq, Repr

/-- Zone states (Table 4.7). -/
inductive ZSt | empty | opened | closed | full | readOnly | offline
  deriving DecidableEq, Repr

/-- State code of Table 4.7. -/
def ZSt.code : ZSt → Nat
  | .empty => 0
  | .opened => 1
  | .closed => 2
  | .full => 3
  | .readOnly => 4
  | .offline => 5

/-- A member of a zone: its channel (fixed when the zone leaves EMPTY) and its block, once it has one (R111); a block
is numbered device LUN × 16,384 + block. -/
structure Member where
  ch : Nat
  blk : Option Nat
  deriving DecidableEq, Repr

/-- A zone (Table 4.8, R115), its GCM invocation count in the current epoch (R127) and the count taken since creation
(R120), and the next wordline to be written to its topcoat members. Of a zone that ZONE_FINISH made FULL: its write pointer before, and the journal
page that its record waits for (R117, R266). `tabLost`: no copy of its zone-table entry is readable (Table 10.6). -/
structure Zone where
  st : ZSt := .empty
  wp : Nat := 0
  capDrop : Option Nat := none
  gen : Nat := 0
  epoch : Nat := 0
  invoc : Nat := 0
  ivctr : Nat := 0
  hint : Nat := 0
  resv : Nat := 0
  roReason : Nat := 0
  finished : Bool := false
  finWp : Nat := 0
  finJno : Nat := 0
  tabLost : Bool := false
  members : List Member := []
  resetWait : Option Nat := none
  foldNext : Nat := 0
  lastWriteNs : Nat := 0
  deriving DecidableEq, Repr

end Sys2Proof.Machine
end

