-- ==== Sys2Proof/Machine/TypesMedia.lean ====
section
/-! DEFINITION. The media side of the state: channels, LUN queues and array operations, flash blocks, staging extents,
folds, relocations, and the buffer pool. A flash block is numbered device LUN × 16,384 + block (R10, R11). -/

namespace Sys2Proof.Machine

/-- A sector that a read is to return: its plane, its sector in the page, the version it belongs to and its part of the
logical block (Table 8.2, SUB). -/
structure SecReq where
  plane : Nat
  sector : Nat
  ver : Nat
  sub : Nat
  deriving DecidableEq, Repr

/-- Why a page is read: for a command, a fold, a relocation, patrol (R199), a rebuild (R189), calibration (R185), the verify of the wordline
that starts at the page (R194), or the check of an erased block (R207). -/
inductive Why
  | cmd (tenant seq : Nat)
  | fold (id : Nat)
  | reloc (id : Nat)
  | patrol
  | rebuild (id : Nat)
  | calib
  | verify
  | check
  deriving DecidableEq, Repr

/-- A queued page read (R151, R170): tier 0 is the first try, 1 to 8 the ladder steps, 9 and 10 the two soft sense reads
(Table 8.4); `ahead` reads start before it. From its start it holds the threshold-table entry it took and the offsets of its first try
(R184). -/
structure Rd where
  id : Nat
  why : Why
  cls : Nat
  order : Nat
  blk : Nat
  page : Nat
  qlc : Bool
  secs : List SecReq
  tier : Nat
  lr : Bool
  ahead : Nat
  ovf : Bool
  susp : Bool
  key : Option Nat := none
  offs : List Int := []
  deriving DecidableEq, Repr

/-- What a program writes; `pass` of a relocation is 0 for a one-bit page, 1 for a coarse and 2 for a fine pass. -/
inductive PgKind
  | uc (ext piece : Nat)
  | coarse (fold member : Nat)
  | fine (fold member : Nat)
  | reloc (id pass : Nat)
  deriving DecidableEq, Repr

/-- A queued program (R170). -/
structure Pg where
  id : Nat
  kind : PgKind
  blk : Nat
  page : Nat
  fua : Bool
  bg : Bool
  sinceNs : Nat
  deriving DecidableEq, Repr

/-- A queued erase (R170); it starts once the journal has passed `jno`, so that its intent record is durable (R265). -/
structure Er where
  blk : Nat
  sinceNs : Nat
  jno : Nat
  deriving DecidableEq, Repr

/-- What a LUN's array is doing. -/
inductive OpK
  | rd (r : Rd)
  | pg (p : Pg)
  | er (e : Er)
  | rst
  deriving DecidableEq, Repr

/-- Suspension of the operation under way (R172). -/
inductive Susp | none | asked | ready
  deriving DecidableEq, Repr

/-- An array operation under way: when it was last started or resumed, how long it ran before, its power tokens (R176), when its suspend was
issued and the reads that the suspension still has to serve. Of a read, `stream` says that it is part of a stream read (R173), `features` that
it began with LUN Set Features (R167). -/
structure Op where
  k : OpK
  runNs : Nat
  ran : Nat := 0
  tokens : Nat
  susp : Susp := .none
  askNs : Nat := 0
  serve : List Nat := []
  stream : Bool := false
  features : Bool := false
  deriving DecidableEq, Repr

/-- A LUN: the operation it holds (suspended or not), the read it runs during a suspension, its queues, and whether it
is retired or being reset after a hang (R179), since when a queue head waits for tokens, the last internal page read (R173), the offsets last
loaded (R167), and the internal reads that met an open wordline and retry after the next operation ends (R174). -/
structure Lun where
  retired : Bool := false
  hung : Bool := false
  op : Option Op := none
  sub : Option Op := none
  rq : List Rd := []
  ovf : List Rd := []
  pq : List Pg := []
  eq : List Er := []
  fgReads : Nat := 0
  tokNs : Option Nat := none
  last : Option (Nat × Nat) := none
  loaded : List Int := []
  parked : List Rd := []
  deriving DecidableEq, Repr

/-- A volume (FCH_VOLv). -/
structure Vol where
  present : Bool := false
  excluded : Bool := false
  retiming : Bool := false
  luns : Nat := 0
  temp : Int := 0
  tempValid : Bool := false
  tempFails : Nat := 0
  mfr : Nat := 0
  dev : Nat := 0
  lastZqNs : Nat := 0
  lastTempNs : Nat := 0
  deriving DecidableEq, Repr

/-- A channel and its sequencer (FCH registers). `timing` lists the bands that have a stored timing set, `setUsed` is the band whose set the channel
uses, and `pause` the end and the length of the bus pause of a retraining (R163). -/
structure Chan where
  restarts : Nat := 0
  band : Nat := 0
  rate : Nat := 0
  downgraded : Bool := false
  retraining : Bool := false
  recovering : Bool := false
  wp : Bool := true
  trained : Bool := false
  retrainReq : Bool := false
  evt : Nat := 0
  lastUs : Nat := 0
  trainCount : Nat := 0
  shut : Nat := 64
  tset : Int := -160
  timing : List Nat := []
  setUsed : Nat := 0
  pause : Option (Nat × Nat) := none
  bandNs : Nat := 0
  vols : Tab Vol := []
  cnts : Tab Nat := []
  deriving DecidableEq, Repr

/-- What a block is for (Table 8.8). -/
inductive Role | pool | undercoat | reserve | system | spare | emergency | retired
  deriving DecidableEq, Repr

/-- A flash block: its role (none: the role its number gives it, log 30, DESIGN CHOICE), erase count, how far it is programmed (one-bit pages, or QLC coarse and fine wordlines),
its safe wordlines (R194; of a one-bit block, its pages whose program passed), the operating hours and the temperature at the program of each
wordline or one-bit page (WHOURS and WTEMP, R181), and its condition. `checked` says that it was found erased since its last erase and since it
was handed out (R207). `retireWhy` is the row of
Table 8.9 for which it is to be retired once its data has moved. `allocNo` is the journal page count from which its ALLOC record is durable (R265). -/
structure FBlk where
  role : Option Role := none
  oneBit : Bool := false
  erases : Nat := 0
  erased : Bool := true
  eraseIntent : Bool := false
  pages : Nat := 0
  coarse : Nat := 0
  fine : Nat := 0
  safe : List Nat := []
  failed : Bool := false
  checked : Bool := false
  ready : Bool := false
  inUse : Bool := false
  interrupted : Bool := false
  stamps : Tab (Nat × Nat) := []
  retireWhy : Nat := 0
  patrolledNs : Nat := 0
  allocNo : Nat := 0
  deriving DecidableEq, Repr

/-- An undercoat block set: 17 one-bit blocks on distinct channels of one quadrant (R192), for one tenant and lifetime
group (R133); `pages` of its 128 extents are taken and `released` of them released. -/
structure UcSet where
  quad : Nat := 0
  tenant : Nat := 0
  grp : Nat := 8
  blks : List Nat := []
  pages : Nat := 0
  released : Nat := 0
  deriving DecidableEq, Repr

/-- A staging extent (R192): page `page` of set `set`; the version that each of its up to 256 sectors holds (in sector
order); the pieces programmed with pass status; its parity buffers. -/
structure Ext where
  set : Nat := 0
  page : Nat := 0
  tenant : Nat := 0
  zone : Option Nat := none
  gen : Nat := 0
  secs : List Nat := []
  pad : Nat := 0
  issued : Bool := false
  passed : List Nat := []
  parity : List Nat := []
  released : Bool := false
  stagedNs : Nat := 0
  resv : Bool := false
  deriving DecidableEq, Repr

/-- A wordline being written to the topcoat members of a zone: a fold of undercoat extents (R193) or a direct write
(R128). `vers` are the versions it places, `readsLeft` the source sectors still to be read, `todo` the members whose passes are
still to be queued; `waiting` says that its charge was refused (Table 9.5). -/
structure Fold where
  tenant : Nat := 0
  zone : Nat := 0
  gen : Nat := 0
  wl : Nat := 0
  direct : Bool := false
  pad : Bool := false
  exts : List Nat := []
  vers : List Nat := []
  bufs : List Nat := []
  todo : List Nat := []
  readsLeft : Nat := 0
  waiting : Bool := false
  deriving DecidableEq, Repr

/-- A topcoat block of a tenant's conventional space (R125, R133): its quadrant, lifetime group and wordlines taken. -/
structure Conv where
  tenant : Nat := 0
  grp : Nat := 8
  quad : Nat := 0
  used : Nat := 0
  deriving DecidableEq, Repr

/-- Why a block is relocated, in precedence order (Table 8.7); `replace` is the copy of R195 or R206. -/
inductive RelWhy | retention | wear | cleaning | replace
  deriving DecidableEq, Repr

/-- A relocation (R197): of block `src` wordline by wordline (or page by page), or, for conventional data (`logical`), of the
listed versions of a block or of staging extent `ext`. `count` wordlines are to be copied, `next` is the next one, and the target
takes them from wordline `base` on. `waiting` says that its charge was refused (Table 9.5); `freed` wordlines have given back their buffers, and
`kept` are those whose data a failed target left in buffers (R198). One that names no source block holds one past the last of the device. -/
structure Reloc where
  why : RelWhy := .retention
  src : Nat := 67108864
  tgt : Option Nat := none
  ext : Option Nat := none
  bufs : List Nat := []
  count : Nat := 0
  next : Nat := 0
  base : Nat := 0
  vers : List Nat := []
  logical : Bool := false
  readsLeft : Nat := 0
  waiting : Bool := false
  freed : Nat := 0
  kept : List Nat := []
  deriving DecidableEq, Repr

/-- Sectors of a read in soft decode, one sector in rebuild (tiers 2 and 3 of Table 8.4), or one that waits for its CIPHER charge
(Table 9.5); `left` counts the members still to be read, `bad` that one failed (or, waiting, that its tag will not match). -/
structure Deep where
  rd : Rd
  secs : List SecReq := []
  rebuild : Bool := false
  left : Nat := 0
  bad : Bool := false
  cipher : Bool := false
  deriving DecidableEq, Repr

/-- The buffer pool manager (R212 to R226): state bits (allocated buffers in use, listed), the free count of each
place, charges, quotas and its registers. A buffer index is free when it is not listed as allocated or withdrawn; the free stack holds one entry for
each free index, but for those of `spoilt`, whose entry holds another 32-bit word, and of `lost`, whose entry was discarded (R224).
`lastGrant` is what the latest grant took of the shared pool (R221). -/
structure Bpm where
  ready : Bool := false
  head : Nat := 0
  stack : Nat := 0
  alloc : Tab Nat := []
  withdrawn : Tab Nat := []
  spoilt : List (Nat × Nat) := []
  lost : List Nat := []
  floors : Tab Nat := [(2000, 524288), (2001, 131072), (2002, 32768)]
  caps : Tab Nat := [(2000, 1048576), (2001, 524288), (2002, 131072)]
  charges : Tab Nat := []
  rsvds : Tab Nat := []
  backoff : Tab Nat := []
  flushOpen : Bool := false
  evt : Nat := 0
  errReason : Nat := 0
  errReq : Nat := 0
  errIndex : Nat := 0
  errAddr : Word64 := 0
  misses : Nat := 0
  ptr : Nat := 0
  rej : Tab Nat := []
  empty : Tab Nat := []
  tie : Tab Nat := []
  lastGrant : Nat := 0
  testLo : Nat := 0
  testHi : Nat := 0
  testDone : Bool := false
  testResult : Nat := 0
  retries : List (Nat × Nat × Nat) := []
  deriving DecidableEq, Repr

/-- The media as a whole. `lunBlocks` counts a LUN's blocks with its spares; `eraseBase` is the erase that format gave every block (R201);
`deadLuns` are the LUNs retired for good (R206), and `waitRoles` the channels and roles that wait for a block (R202), each with the journal page
count from which the RETIRE record is durable (R265). -/
structure Media where
  lunTbit : Nat := 0
  lunBlocks : Nat := 0
  eraseBase : Nat := 0
  deadLuns : List Nat := []
  waitRoles : List (Nat × Role × Nat) := []
  lunPerVol : Nat := 0
  volPerCh : Nat := 0
  lunCount : Nat := 0
  busMts : Nat := 0
  chans : Tab Chan := []
  luns : Tab Lun := []
  blks : Tab FBlk := []
  sets : Tab UcSet := []
  exts : Tab Ext := []
  folds : Tab Fold := []
  relocs : Tab Reloc := []
  deeps : Tab Deep := []
  convs : Tab Conv := []
  tableMs : Nat := 0
  idCtr : Nat := 1
  ucTotal : Nat := 0
  rateCap : Nat := 5
  fpcMax : Nat := 6144
  fpcChMax : Nat := 96
  fpcNext : Nat := 6144
  fpcChNext : Nat := 96
  fpcPlpMax : Nat := 1024
  tables : Tab (List Int) := []
  links : Tab Nat := []
  spareRem : Tab Nat := []
  spareInit : Tab Nat := []
  deriving DecidableEq, Repr

end Sys2Proof.Machine
end

