-- ==== Sys2Proof/Machine/TypesSys.lean ====
section
/-! DEFINITION. The rest of the state: event recorder, memory protection, power loss, cipher and keys, mailboxes,
clocks, resets, power states, boot, thermal management, health, telemetry and test access. -/

namespace Sys2Proof.Machine

/-- An event record before it is laid out as bytes (Table 17.1). -/
structure EvRec where
  num : Nat
  time : Nat
  pcycle : Nat
  boot : Bool
  held : Bool
  cont : Bool
  sev : Nat
  source : Nat
  code : Nat
  payload : List Byte
  deriving DecidableEq, Repr

/-- The event recorder (R384 to R393). -/
structure Evr where
  ring : List EvRec := []
  first : Nat := 0
  next : Nat := 0
  evNext : Nat := 0
  waiting : List EvRec := []
  frozen : Bool := false
  hold : List EvRec := []
  holdDropped : Nat := 0
  holdFirstDrop : Nat := 0
  holdLost : Nat := 0
  unpersLost : Nat := 0
  repeatCnt : Nat := 0
  stErr : Bool := false
  stHold : Bool := false
  stUnpers : Bool := false
  stDenied : Bool := false
  log : List (Nat × EvRec) := []
  logFirst : Nat := 0
  logNext : Nat := 0
  logPage : Nat := 0
  logStarts : List Nat := []
  clearing : Option (Bool × Nat) := none
  logPages : List Nat := []
  badPages : List Nat := []
  sec : Nat := 0
  seen : Tab Nat := []
  excess : Tab Nat := []
  lastPersistMs : Nat := 0
  deriving DecidableEq, Repr

/-- An entry of the memory error log (Table 10.7). -/
structure MemErr where
  mem : Nat
  kind : Nat
  source : Nat
  addr : Nat
  pos : Nat
  syndrome : Nat
  timeMs : Nat
  deriving DecidableEq, Repr

/-- A merge-buffer entry of an HBM stack (R231): its line, which of its 68 bytes it holds, and when it was last written.
Entries are listed with the least recently written first. -/
structure Merge where
  stack : Nat
  line : Nat
  mask : Nat
  sinceNs : Nat
  deriving DecidableEq, Repr

/-- A line of an MEP test scratch or an SRAM test word (R247): what was written, and the XOR masks that an injection left in
its stored form (R246). -/
structure TestLine where
  data : Tab Nat := []
  comp : Nat := 0
  grp : Nat := 0
  dlo : Nat := 0
  dhi : Nat := 0
  chk : Nat := 0
  amask : Nat := 0
  deriving DecidableEq, Repr

/-- An armed injection, with the registers it took at that moment (R246). -/
structure Flip where
  mem : Nat
  grp : Nat
  amatch : Bool
  addr : Nat
  dlo : Nat
  dhi : Nat
  chk : Nat
  amask : Nat
  deriving DecidableEq, Repr

/-- A skim engine (R238). -/
structure Skim where
  pos : Nat := 0
  lap : Nat := 0
  laps : Nat := 0
  fixed : Nat := 0
  active : Bool := false
  startNs : Nat := 0
  asleepNs : Nat := 0
  slow : Bool := false
  deriving DecidableEq, Repr

/-- Memory protection (MEP registers). -/
structure Mep where
  skimEn : Nat := 0x7F
  logHold : Bool := false
  evt : Nat := 0
  limHbmS : Nat := 60
  limSramMs : Nat := 1000
  paceMbps : Nat := 4000
  temps : Tab Int := []
  bands : Tab Nat := []
  coolNs : Tab Nat := []
  skims : Tab Skim := []
  ce : Tab Nat := []
  ue : Tab Nat := []
  psn : Tab Nat := []
  hourCe : Tab Nat := []
  hourNo : Tab Nat := []
  lastHour : Tab Nat := []
  thresh : Tab Nat := []
  log : Tab (Option MemErr) := []
  logNext : Nat := 0
  logLost : Nat := 0
  flipFired : Bool := false
  flipArmed : Option Flip := none
  flipAddrMatch : Bool := false
  flipMem : Nat := 0
  flipGroup : Nat := 0
  flipAddr : Nat := 0
  flipAmask : Nat := 0
  flipDlo : Nat := 0
  flipDhi : Nat := 0
  flipChk : Nat := 0
  testDone : Bool := false
  testMem : Nat := 0
  testLine : Nat := 0
  testPos : Nat := 0
  testKind : Nat := 0
  testData : Tab Nat := []
  testComp : Nat := 0
  lines : Tab TestLine := []
  primed : Tab Bool := []
  merges : List Merge := []
  pendFix : List (Nat × Nat × Nat) := []
  ctxLost : Nat := 0
  refreshNs : Tab Nat := []
  deriving DecidableEq, Repr

/-- An emergency extent in the one emergency block that it fills (R258): its channel and LUN, the tenant and lifetime group whose data it holds,
its data bytes and the versions in it. -/
structure EmExt where
  ch : Nat
  lun : Nat
  tenant : Nat
  grp : Nat
  bytes : Nat
  vers : List Nat
  deriving DecidableEq, Repr

/-- Power loss, hold-up and recovery (PWR_PLP registers, R250 to R272). `flushList` is what a flush that power did not outlast was writing, in
its order. -/
structure Plp where
  holdupMs : Nat := 30
  last : Nat := 0
  pwrfail : Bool := false
  emergShort : Bool := false
  overD : Bool := false
  qrLimit : Bool := false
  phase : Nat := 0
  rateMbps : Nat := 0
  dmaxMib : Nat := 0
  emergReq : Nat := 0
  lastUs : Nat := 0
  lastMib : Nat := 0
  zonesRolled : Nat := 0
  recMs : Nat := 0
  failed : Nat := 0
  flushes : Nat := 0
  evt : Nat := 0
  why : Nat := 0
  startNs : Nat := 0
  dAtFlush : Nat := 0
  cut : Bool := false
  jRecs : Nat := 0
  jSeq : Nat := 0
  ckptSeq : Nat := 0
  lastCkptMs : Nat := 0
  emergAvail : Tab Nat := []
  emergExts : List EmExt := []
  flushList : List Nat := []
  deriving DecidableEq, Repr

/-- A key slot: state 0 empty, 1 loaded, 2 evicting and so on (R273); keys are byte strings. -/
structure KeySlot where
  state : Nat := 0
  persist : Bool := false
  plain : Bool := false
  key : List Byte := []
  keyId : Nat := 0
  kcv : Nat := 0
  loads : Nat := 0
  byPf0 : Bool := false
  deriving DecidableEq, Repr

/-- A SANITIZE under way (R290): its kind, the tenant it names, the mailbox that waits for its reply, the journal page that makes
its start durable, and the blocks to be erased. -/
structure San where
  kind : Nat
  tenant : Nat
  box : Option Box
  jno : Nat
  left : List Nat
  total : Nat
  deriving DecidableEq, Repr

/-- Cipher engines and key store (CIP registers). -/
structure Cip where
  ready : Bool := false
  hukOk : Bool := false
  plainAllow : Bool := true
  evt : Nat := 0
  dslots : Tab KeySlot := []
  tslots : Tab KeySlot := []
  insts : Tab Nat := []
  cache : List (Nat × Nat × Nat × Nat) := []
  sanKind : Nat := 0
  sanTenant : Nat := 0
  cnts : Tab Nat := []
  tcnts : Tab Nat := []
  san : Option San := none
  evicting : List (Nat × Nat × Box) := []
  deriving DecidableEq, Repr

/-- A frame of 64 bytes and what goes with it: request data carried by MCTP or reply data not yet written (R304, R308),
the agent that sent it (0 for a tenant mailbox), the order in which it left its request queue (R311), whether its reply is to be
discarded (R300), whether it left its queue while a SANITIZE was under way (R291), and whether a device warm reset follows its
reply (R361). -/
structure Frame where
  bytes : List Byte
  data : List Byte := []
  agent : Nat := 0
  no : Nat := 0
  mute : Bool := false
  raddr : Nat := 0
  duringSan : Bool := false
  resets : Bool := false
  after : Option Nat := none
  deriving DecidableEq, Repr

/-- A mailbox: its request window, its queues, the backlog (R296), the generated reply that waits for queue space, its
control and interrupt status registers, counters, lock owner, and whether its oldest request is being executed. -/
structure Mbx where
  req : List Byte := []
  reqQ : List Frame := []
  backlog : List Frame := []
  held : Option Frame := none
  rspQ : List Frame := []
  ctl : Nat := 0
  ist : Nat := 0
  notices : Nat := 0
  drops : Nat := 0
  owner : Nat := 4
  busy : Bool := false
  deriving DecidableEq, Repr

/-- A monitored reference: 0 Absent, 1 Judging, 2 Selected (R326), with its comparison counts. -/
structure RefSt where
  st : Nat := 0
  cmp : Nat := 0
  goodCmps : Nat := 0
  desel : Nat := 0
  sinceNs : Nat := 0
  deriving DecidableEq, Repr

/-- A PLL (CKM_PLLp). -/
structure Pll where
  on : Bool := false
  src : Bool := false
  lock : Bool := false
  stable : Bool := false
  fault : Bool := false
  relocks : Nat := 0
  deriving DecidableEq, Repr

/-- Clock manager and gate tree (CKM and CLKG registers). -/
structure Ckm where
  refA : RefSt := {}
  refB : RefSt := {}
  holdover : Bool := false
  coreSrc : Bool := false
  unmonitored : Bool := false
  tolPpm : Nat := 800
  evt : Nat := 0
  plls : Tab Pll := []
  aon : Nat := 0
  stopped : Bool := false
  gRefused : Bool := false
  gDone : Bool := true
  gReason : Nat := 0
  gLast : Nat := 0
  gEn : Nat := 0x3FFFFF
  gHostOff : Nat := 0
  deriving DecidableEq, Repr

/-- Resets, quadrant resets, live activation and power states (RST and PWR registers). -/
structure Rst where
  warmCount : Nat := 0
  cause : Nat := 0
  nextCause : Nat := 0
  quiesceMs : Nat := 100
  warmPhase : Nat := 0
  warmNs : Nat := 0
  qState : Tab Nat := []
  qPhase : Tab Nat := []
  qResets : Tab Nat := []
  qLastUs : Tab Nat := []
  qWait : List (Nat × Box × Nat) := []
  actState : Nat := 0
  actResult : Nat := 0
  actMs : Nat := 0
  actBox : Option (Box × Nat) := none
  pwr : Nat := 0
  waking : Bool := false
  lastWakeUs : Nat := 0
  wakeCause : Nat := 0
  qGated : Nat := 0
  maxState : Nat := 2
  p2Ms : Nat := 20
  p1Us : Nat := 50
  p3S : Nat := 600
  resNs : Tab Nat := []
  wakesP2 : Nat := 0
  wakesP3 : Nat := 0
  idleNs : Nat := 0
  qIdleNs : Tab Nat := []
  deriving DecidableEq, Repr

/-- One boot-flash device: its presence, its contents and its write-protect map (R346, R357). -/
structure Xspi where
  present : Bool := false
  octal : Bool := false
  busy : Bool := false
  jedec : Nat := 0
  mem : Tab Byte := []
  prot : Tab Nat := []
  deriving DecidableEq, Repr

/-- Boot-flash contents of slot A as delivered: a 16 KiB image header (FW_VER 1.0 build 0, SVN 0, KEY_INDEX 0) and its
trailer with STAGE_SEQ 1. DESIGN CHOICE: the manual gives the flash no contents (log 8, DESIGN CHOICE). An unlisted byte reads 0xFF. -/
def factorySlot : Tab Byte :=
  [(0, 0x57#8), (1, 0x46#8), (2, 0x56#8), (3, 0x58#8), (4, 1#8), (5, 0#8), (6, 0#8), (7, 0#8),
   (8, 0#8), (9, 0#8), (10, 0#8), (11, 1#8), (12, 0#8), (13, 0#8), (14, 0#8), (15, 0#8),
   (16, 0#8), (17, 0#8), (18, 0#8), (19, 0#8), (20, 0#8), (21, 0x40#8), (22, 0#8), (23, 0#8),
   (24, 5#8), (25, 0#8), (26, 0#8), (27, 0#8)] ++
  [0, 1, 2, 3, 4].flatMap (fun i =>
    (List.range 16).map fun j =>
      (256 + 64 * i + j, if j = 0 then BitVec.ofNat 8 (i + 1) else if j = 5 ∨ j = 9 then 0x10#8 else 0#8)) ++
  (List.zip [0x3FF0000, 0x3FF0001, 0x3FF0002, 0x3FF0003, 0x3FF0004, 0x3FF0005, 0x3FF0006, 0x3FF0007, 0x3FF0008,
      0x3FF0009, 0x3FF000A, 0x3FF000B]
    [0x52#8, 0x54#8, 0x56#8, 0x58#8, 1#8, 0#8, 0#8, 0#8, 0#8, 0x40#8, 0#8, 0#8]) ++
  (List.range 48).map (fun i => (0x3FF000C + i, 0#8)) ++
  List.zip [0x3FF003C, 0x3FF003D, 0x3FF003E, 0x3FF003F] [0xFA#8, 0x61#8, 0x50#8, 0xDE#8]

/-- What a slot shows at the last boot (BOOT_SLOTs registers). -/
structure SlotInfo where
  result : Nat := 0xFF
  key : Nat := 0
  svn : Nat := 0
  ver : Nat := 0
  seqNo : Nat := 0
  deriving DecidableEq, Repr

/-- The one-time programmable fuses (R31, R349, R356): the serial number, which key slots hold a hash, which are revoked, and the
SVN counter. -/
structure Fuse where
  serial : Word64 := 0
  keyPresent : Nat := 1
  keyRevoked : Nat := 0
  svn : Nat := 0
  deriving DecidableEq, Repr

/-- Boot, firmware images and boot flash (BOOT registers). -/
structure BootSt where
  phase : Nat := 1
  ready : Bool := false
  stopped : Bool := false
  fellBack : Bool := false
  slot : Nat := 3
  code : Nat := 0
  lastFail : Nat := 0
  slots : Tab SlotInfo := []
  tried : List Nat := []
  badKeys : Nat := 0
  times : Tab Nat := []
  revokePend : Nat := 0
  svnPend : Nat := 0
  next : Nat := 0
  fwVer : Nat := 0
  startNs : Nat := 0
  stState : Nat := 0
  stAgent : Nat := 0
  stTarget : Nat := 0
  stBytes : Nat := 0
  stData : List Byte := []
  stBox : Option (Box × Nat) := none
  evt : Nat := 0
  dev0 : Xspi := { mem := factorySlot }
  dev1 : Xspi := {}
  rdDev : Nat := 0
  rdAddr : Nat := 0
  rdDone : Bool := false
  rdErr : Nat := 0
  rdData : List Byte := []
  deriving DecidableEq, Repr

/-- A temperature sensor (THM_SENSk). -/
structure Sens where
  temp : Int := 0
  broken : Bool := false
  reason : Nat := 0
  excl : Bool := false
  exclOn : Bool := false
  hist : List Int := []
  deriving DecidableEq, Repr

/-- Thermal management (THM registers); `tNext` holds the thresholds in force from the next control period and `tConf` the
configured ones, T_WARN first (R368). -/
structure Thm where
  phase : Nat := 0
  shut : Bool := false
  full : Bool := false
  throttle : Bool := false
  warn : Bool := false
  shutter : Nat := 64
  tmax : Int := -32768
  tmaxSens : Nat := 0
  tctl : Int := 0
  tPub : Int := 0
  tctlSens : Nat := 0
  tctlDie : Nat := 0
  tShut : Nat := 118
  tFull : Nat := 110
  tOn : Nat := 100
  tWarn : Nat := 95
  tNext : List Nat := [95, 100, 110, 118]
  tConf : List Nat := [95, 100, 110, 118]
  evt : Nat := 0
  tSet : Int := -160
  rate : Nat := 64
  shutCnt : Nat := 0
  sens : Tab Sens := []
  tPubDie : Nat := 0
  tPubSens : Nat := 0
  fFull : Nat := 85
  fOn : Nat := 75
  cnts : Tab Nat := []
  warnNs : Nat := 0
  throttleNs : Nat := 0
  fullNs : Nat := 0
  latch : Bool := false
  startNs : Nat := 0
  shutTctl : Int := 0
  shutDie : Nat := 0
  shutSens : Nat := 0
  deriving DecidableEq, Repr

/-- Health and telemetry (HLT registers) beyond what the media and tenants hold. -/
structure Hlt where
  retiredLuns : Nat := 0
  unrec : Bool := false
  readOnly : Bool := false
  wearHigh : Bool := false
  evt : Nat := 0
  evtEn : Nat := 0x7F
  wearHighPct : Nat := 90
  spareLowPct : Nat := 10
  offHours : Nat := 0
  wearSpread : Nat := 8
  retain1 : Nat := 15
  retainQ : Nat := 13
  patrolMax : Nat := 160
  verifyMax : Nat := 96
  mcnts : Tab Nat := []
  thist : Tab Nat := []
  tmax : Tab Int := []
  tmaxAt : Tab Nat := []
  power : Nat := 0
  tel : Tab Nat := []
  telLife : Tab Nat := []
  opMsBase : Nat := 0
  pcycle : Nat := 0
  known : Bool := false
  credits : List (Nat × Nat) := []
  rebuilds : List (Nat × Nat) := []
  deriving DecidableEq, Repr

/-- The JTAG test access port (R400). -/
structure Tap where
  instr : Nat := 1
  shift : List Bool := []
  boundary : List Bool := []
  floating : Bool := false
  holding : Bool := false
  deriving DecidableEq, Repr

/-- Pins and package state (R395 to R403). -/
structure Pins where
  thermtripN : Bool := true
  testEn : Bool := false
  porHeld : Bool := true
  railBad : Nat := 0

  deriving DecidableEq, Repr

/-- The MCTP endpoint (R307). -/
structure Mctp where
  eid : Nat := 0
  addr : Nat := 0x1D
  deriving DecidableEq, Repr

/-- What the XV8 sends: the writes, messages and answers that leave the block (log 6, DESIGN CHOICE). A data write says whether it carries
Relaxed Ordering; no other message ever does (R28). -/
inductive Out
  | data (p : Port) (fn tenant seq idx : Nat) (segs : List (Nat × Nat)) (c : Content) (ro : Bool)
  | bytes (p : Port) (fn : Nat) (addr : Nat) (bs : List Byte) (ro : Bool)
  | entry (p : Port) (fn ring index : Nat) (addr : Nat) (dw : List Word)
  | mirror (p : Port) (fn : Nat) (addr taken status : Nat)
  | msix (p : Port) (fn vec : Nat)
  | value (p : Port) (v : Word)
  | unsupported (p : Port) (fn : Nat)
  | mctp (bs : List Byte)
  | smbus (b : Byte)
  | jtag (bs : List Bool)
  deriving DecidableEq, Repr

end Sys2Proof.Machine
end

