-- ==== Sys2Proof/Machine/State.lean ====
section
/-! DEFINITION. The state of the XV8 as plain data, the named reasons a step can stop, and the state after reset. -/

namespace Sys2Proof.Machine

/-- Why a step stops. Each constructor is a case that Table 0.7 leaves undefined within its scope (R6): the model stops
there by name, which is safe (log 5, DESIGN CHOICE). -/
inductive Fault
  /-- Raised by TRS_WRITE and TRS_COMMIT: a task register set that holds an uncaptured valid commit is rewritten (R54).
  Tenant scope; safe. -/
  | trsOverwrite (p : Port) (fn k : Nat)
  /-- Raised by TRS_WRITE and TRS_COMMIT: a commit lands before every byte of DWORDs 0 to 14 of its packet has been written (R54).
  Tenant scope; safe. -/
  | commitEarly (p : Port) (fn k : Nat)
  /-- Raised by a capture: the tag is still outstanding for the tenant (R60). Tenant scope; safe. -/
  | tagReuse (p : Port) (fn tag : Nat)
  /-- Raised by RING_HEAD_WRITE: the head passes the entries posted (R63). Tenant scope; safe. -/
  | headPastPosted (p : Port) (fn ring : Nat)
  /-- Raised by REGISTER_WRITE, RING_ENABLE and RING_IEN_CLEAR: a ring's base or size changes while it is enabled (R61).
  Tenant scope; safe. -/
  | ringChangedWhileEnabled (p : Port) (fn ring : Nat)
  /-- Raised by MBX_DOORBELL, MBX_POP and REGISTER_WRITE: a shared PF0 mailbox is written by a port that does not own
  its lock (R299). Port scope; safe. -/
  | mailboxWithoutLock (p : Port) (n : Nat)
  /-- Raised by REGISTER_WRITE and every register row: a nonzero value is written to a reserved field (R4). Port scope
  for VF BAR0, device scope for PF0 BAR0; safe. -/
  | reservedWrite (p : Port) (fn off : Nat)
  /-- Raised by REGISTER_WRITE: a write to an offset that no chapter maps (R4). Port scope for VF BAR0, device scope for
  PF0 BAR0; safe. -/
  | unmappedWrite (p : Port) (fn off : Nat)
  deriving DecidableEq, Repr

/-- How far the undefined outcome of a listed case can reach (R6). -/
inductive CaseScope
  /-- The commands, completions and stored data of one tenant on one port. -/
  | tenant (p : Port) (fn : Nat)
  /-- Every function of one port. -/
  | port (p : Port)
  /-- The whole XV8. -/
  | device
  deriving DecidableEq, Repr

/-- The scope of each case (Table 0.7). -/
def Fault.scope : Fault → CaseScope
  | .trsOverwrite p fn _ => .tenant p fn
  | .commitEarly p fn _ => .tenant p fn
  | .tagReuse p fn _ => .tenant p fn
  | .headPastPosted p fn _ => .tenant p fn
  | .ringChangedWhileEnabled p fn _ => .tenant p fn
  | .mailboxWithoutLock p _ => .port p
  | .reservedWrite p fn _ => if fn = 0 then .device else .port p
  | .unmappedWrite p fn _ => if fn = 0 then .device else .port p

/-- Why a command is refused by the model. -/
inductive Refusal
  /-- Raised by an arm of `exec` whose command has no meaning yet; safe. -/
  | notModelled (mnemonic : String)
  deriving DecidableEq, Repr

/-- Admission: capacities (Table 6.2), gates (R145), the direct-to-topcoat allowance (R140, in 1/64,000 byte; empty at power-on, log 136, DESIGN
CHOICE), the port and AON cycle of the latest grant that took the last context of S (none) or of a tenant-class's sill (R142), and the ADM
registers. -/
structure Adm where
  capMbps : Nat := 0
  peakMbps : Nat := 0
  capOps : Nat := 0
  peakOps : Nat := 0
  ucGateOn : Nat := 98
  ucGateOff : Nat := 95
  lunRqMax : Nat := 4
  ucHoldMaxMs : Nat := 50
  tieLossA : Nat := 0
  tieLossB : Nat := 0
  lastCtx : Option (Port × Nat × Option (Nat × Cls)) := none
  stop : Bool := false
  shutdown : Bool := false

  ucGate : Bool := false
  shutter : Nat := 64
  direct : Int := 0
  casStopped : Bool := false
  postStop : Bool := false
  deriving DecidableEq, Repr

/-- The configuration that a power loss brings back while an image's commit is not durable (R322): the device fields, the tenants' fields and the
instance numbers, and the journal page with which the commit is durable. -/
structure CfgSave where
  dev : List Nat
  tens : List (Nat × List Nat)
  insts : Tab Nat
  jno : Nat
  deriving DecidableEq, Repr

/-- The whole state. `freeCtr` is the model's own field: it numbers the free values drawn so far (log 4, DESIGN CHOICE); no statement
rests on it. `out` is what the XV8 has sent so far (log 6, DESIGN CHOICE). `heldCommits` are the commits made before READY, in order (R46), as
port, function and task register set; `heldOut` the data writes that wait while their function may not master the bus (R44). `formatted` says whether the media holds a system area. -/
structure State where
  pa : PortSt := {}
  pb : PortSt := {}
  cmds : List Cmd := []
  genCtr : Nat := 0
  tenants : Tab (Option Tenant) := []
  zones : Tab Zone := []
  zonesSaved : Tab Zone := []
  vers : Tab Ver := []
  verCtr : Nat := 1
  adm : Adm := {}
  portEvt : Nat := 0
  ssid : Nat := 0x8128
  svid : Nat := 0x1F4C
  fuse : Fuse := {}
  media : Media := {}
  bpm : Bpm := {}
  evr : Evr := {}
  mep : Mep := {}
  plp : Plp := {}
  cip : Cip := {}
  mbxs : Tab Mbx := []

  takeNo : Nat := 0
  mctp : Mctp := {}
  ckm : Ckm := {}
  rst : Rst := {}
  boot : BootSt := {}
  thm : Thm := {}
  hlt : Hlt := {}
  hltSaved : Hlt := {}
  savedMs : Nat := 0
  tablesSaved : Tab (List Int) := []
  heldCommits : List (Port × Nat × Nat) := []
  heldOut : List (Port × Nat × Out) := []
  tap : Tap := {}
  pins : Pins := {}
  formatted : Bool := false
  flushEnd : Bool := false
  postNs : Option Nat := none
  cfgReport : List Byte := []
  cfgOpen : Option CfgSave := none
  cfgSsid : Nat := 0x8128
  cfgSvid : Nat := 0x1F4C
  nowNs : Nat := 0
  freeCtr : Nat := 0
  pending : List Instr := []
  out : List Out := []
  deriving DecidableEq, Repr

/-- The state after reset: power-on reset has not ended yet, every register holds the value of its Reset column, the
media is that of a new device and the queue is empty (logs 8, 9 and 10, DESIGN CHOICE). -/
def State.reset : State := {}

end Sys2Proof.Machine
end

