-- ==== Sys2Proof/Machine/Events.lean ====
section
/-! DEFINITION. Access to the ports and functions, what the XV8 sends, MSI-X (R38), and the event recorder's record
creation (R380 to R386). -/

namespace Sys2Proof.Machine

/-- The state of a port. -/
def getPort (s : State) : Port → PortSt
  | .a => s.pa
  | .b => s.pb

/-- The state with a port rewritten. -/
def modPort (s : State) (p : Port) (f : PortSt → PortSt) : State :=
  match p with
  | .a => { s with pa := f s.pa }
  | .b => { s with pb := f s.pb }

/-- Function 0 is PF0; function n is VF n (R31). -/
def getFn (s : State) (p : Port) (fn : Nat) : Fn :=
  if fn = 0 then (getPort s p).pf0 else Tab.get {} (getPort s p).vfs fn

/-- The state with a function rewritten. -/
def modFn (s : State) (p : Port) (fn : Nat) (f : Fn → Fn) : State :=
  modPort s p fun q => if fn = 0 then { q with pf0 := f q.pf0 } else { q with vfs := Tab.upd {} q.vfs fn f }

/-- The casement of a VF. -/
def getCas (s : State) (p : Port) (fn : Nat) : Casement := (getFn s p fn).cas

/-- The state with a casement rewritten. -/
def modCas (s : State) (p : Port) (fn : Nat) (f : Casement → Casement) : State :=
  modFn s p fn fun q => { q with cas := f q.cas }

/-- Ring `n` of a VF. -/
def getRing (s : State) (p : Port) (fn n : Nat) : Ring := Tab.get {} (getCas s p fn).rings n

/-- The state with a ring rewritten. -/
def modRing (s : State) (p : Port) (fn n : Nat) (f : Ring → Ring) : State :=
  modCas s p fn fun c => { c with rings := Tab.upd {} c.rings n f }

/-- VF n exists on a port while VF Enable is 1 and NumVFs is at least n; PF0 always exists (R32). -/
def fnExists (s : State) (p : Port) (fn : Nat) : Bool :=
  fn == 0 || ((getPort s p).vfEn && decide (fn ≤ (getPort s p).numVfs))

/-- The XV8 sends something. -/
def emit (s : State) (o : Out) : State := { s with out := s.out ++ [o] }

/-- MSI-X vector `v` of a function falls due: sent, or held in its PBA bit while it is masked, Function Mask is set, Bus
Master Enable is 0 or the port is in D3hot (R38, R44). -/
def fireVec (s : State) (p : Port) (fn v : Nat) : State :=
  let f := getFn s p fn
  let e := Tab.get {} f.vecs v
  if e.masked || f.fnMask || !f.bme || (getPort s p).d3hot then
    modFn s p fn fun f => { f with vecs := Tab.upd {} f.vecs v fun e => { e with pend := true } }
  else emit s (.msix p fn v)

/-- PF0 vector `v` falls due on each port whose link is up (R38). -/
def firePf0 (s : State) (v : Nat) : State :=
  let s := if s.pa.linkUp then fireVec s .a 0 v else s
  if s.pb.linkUp then fireVec s .b 0 v else s

/-- Operating time in ms: what the system area held when this boot began, and the time since (R383). -/
def opMs (s : State) : Nat := s.hlt.opMsBase + (s.nowNs - s.boot.startNs) / 1000000

/-- Operating time in hours (HLT_OPHOURS). -/
def opHours (s : State) : Nat := opMs s / 3600000

/-- The record is written to the live ring, or to the holding queue while the ring is frozen (R384, R385, R392). -/
def storeRec (e : Evr) (r : EvRec) : Evr :=
  let e := { e with evNext := (e.evNext + 1) % p32 }
  if e.frozen then
    if e.hold.length ≥ 256 then
      { e with
        holdFirstDrop := if e.holdDropped = 0 then r.num else e.holdFirstDrop
        holdDropped := e.holdDropped + 1
        holdLost := satAdd 0xFFFFFFFF e.holdLost 1
        stHold := true }
    else
      let r := { r with held := true }
      { e with hold := e.hold ++ [r], waiting := e.waiting ++ [r] }
  else
    let stays := fun (w : EvRec) => decide ((r.num + p32 - w.num) % p32 < 8192)
    let lost := e.waiting.any fun w => !stays w
    { e with
      ring := e.ring.filter stays ++ [r]
      next := e.evNext
      first := if (e.evNext + p32 - e.first) % p32 > 8192 then (e.evNext + p32 - 8192) % p32 else e.first
      waiting := e.waiting.filter stays ++ [r]
      unpersLost := if lost then satAdd 0xFFFFFFFF e.unpersLost 1 else e.unpersLost
      stUnpers := e.stUnpers || lost }

/-- A record as it is created now: TIME and PCYCLE as R383 gives them, before and after the system area is known. -/
def newRec (s : State) (sev source code : Nat) (cont : Bool) (payload : List Byte) : EvRec :=
  { num := s.evr.evNext
    time := if s.hlt.known then opMs s else (s.nowNs - s.boot.startNs) / 1000000
    pcycle := if s.hlt.known then s.hlt.pcycle else 0xFFFFFF
    boot := !s.hlt.known
    held := false
    cont := cont
    sev := sev
    source := source
    code := code
    payload := padTo 12 payload }

/-- One record, and its continuation when the payload needs more than 12 bytes (R382), with no limit on its rate. -/
def rawEv (s : State) (sev source code : Nat) (payload : List Byte) : State :=
  let s := { s with evr := storeRec s.evr (newRec s sev source code false payload) }
  let s := if payload.length > 12 then
      { s with evr := storeRec s.evr (newRec s sev source code true (payload.drop 12)) }
    else s
  if sev ≥ 3 then firePf0 { s with evr := { s.evr with stErr := true } } 8 else s

/-- A second of operating time ends (R386): one REPEAT record for each pair of SOURCE and CODE whose occurrences were suppressed. -/
def endSecond (s : State) : State :=
  if s.evr.sec = opMs s / 1000 then s
  else
    s.evr.excess.foldl (fun s x =>
      rawEv { s with evr := { s.evr with repeatCnt := satAdd 0xFFFFFFFF s.evr.repeatCnt x.2 } } 1 0 0x0003
        (leBytes 2 x.1 ++ leBytes 2 (x.1 / 65536) ++ leBytes 4 x.2))
      { s with evr := { s.evr with excess := [], seen := [], sec := opMs s / 1000 } }

/-- An event is recorded, unless its SOURCE and CODE have already had `most` records in this second of operating time; further
occurrences are counted for the REPEAT record (R386). -/
def logUpTo (most : Nat) (s : State) (sev source code : Nat) (payload : List Byte) : State :=
  let s := endSecond s
  let k := source * 65536 + code
  if most ≤ Tab.get 0 s.evr.seen k then { s with evr := { s.evr with excess := bump s.evr.excess k 1 } }
  else rawEv { s with evr := { s.evr with seen := bump s.evr.seen k 1 } } sev source code payload

/-- An event is recorded under the limit of R386, 64 records of its SOURCE and CODE in a second. -/
def logEv (s : State) (sev source code : Nat) (payload : List Byte) : State := logUpTo 64 s sev source code payload

/-- SOURCE of a class and instance (Table 17.1). -/
def src (cls inst : Nat) : Nat := cls * 4096 + inst

/-- The generic record of a bit `b` of an EVT register at PF0 offset `off` that now holds `v` (R381). -/
def genericEv (s : State) (sev cls inst b off v : Nat) : State :=
  logEv s sev (src cls inst) (cls * 4096 + 0x800 + b) (leBytes 4 off ++ leBytes 4 v)

/-- A bit of an EVT register is set by `put`; its generic record is written when it becomes 1 (R381). -/
def raiseEvt (s : State) (old b : Nat) (put : State → Nat → State) (sev cls inst off : Nat) : State :=
  if bit old b then s else genericEv (put s (setBit old b)) sev cls inst b off (setBit old b)

/-- tenant ‖ zone, as event payloads hold it (Table 17.4). -/
def tz (tenant zone : Nat) : Nat := tenant * 4194304 + zone

/-- An IDT_PORT_EVT bit becomes 1: PF0 vector 10 falls due (R40, R43). The record of a LOST bit is its caller's; no chapter
requires one of an UP bit (R381; log 68, DEDUCED). -/
def setPortEvt (s : State) (b : Nat) : State := firePf0 { s with portEvt := setBit s.portEvt b } 10

end Sys2Proof.Machine
end

