-- ==== Sys2Proof/Machine/Flags.lean ====
section
/-! DEFINITION. Status values (Table 4.10, Table 13.5) and event flags. -/

namespace Sys2Proof.Machine

/-- SUCCESS. -/
def stSuccess : Nat := 0x0000
/-- INVALID_OPCODE (R86). -/
def stInvalidOpcode : Nat := 0x1001
/-- INVALID_FIELD. -/
def stInvalidField : Nat := 0x1002
/-- LENGTH_NOT_BLOCK_MULTIPLE (R85). -/
def stLenBlock : Nat := 0x1003
/-- BEYOND_ZONE (R88). -/
def stBeyondZone : Nat := 0x1004
/-- DMA_FAULT (R29). -/
def stDmaFault : Nat := 0x1005
/-- TRANSFER_TOO_LARGE (R85). -/
def stTooLarge : Nat := 0x1006
/-- NOT_AT_WRITE_POINTER (R91). -/
def stNotAtWp : Nat := 0x2001
/-- ZONE_FULL (R92). -/
def stZoneFull : Nat := 0x2002
/-- ZONE_READ_ONLY. -/
def stZoneRo : Nat := 0x2003
/-- ZONE_OFFLINE (R118). -/
def stZoneOffline : Nat := 0x2004
/-- OPEN_LIMIT (R115). -/
def stOpenLimit : Nat := 0x2005
/-- SPARE_EXHAUSTED (R94). -/
def stSpareExh : Nat := 0x2006
/-- UNRECOVERED_READ (R90). -/
def stUnrecRead : Nat := 0x2007
/-- ZONE_RESET_PENDING (R100). -/
def stResetPend : Nat := 0x2008
/-- REFUSED_OVER_SHARE (R141). -/
def stOverShare : Nat := 0x3001
/-- REFUSED_SATURATED (R141). -/
def stSaturated : Nat := 0x3002
/-- REFUSED_THERMAL (R146). -/
def stThermal : Nat := 0x3003
/-- REFUSED_UNDERCOAT_FULL (R146). -/
def stUcFull : Nat := 0x3004
/-- REFUSED_DEADLINE (R146). -/
def stDeadline : Nat := 0x3005
/-- ABORTED (R73). -/
def stAborted : Nat := 0x4001
/-- ABORT_CAUGHT (R73). -/
def stCaught : Nat := 0x4002
/-- ABORT_TOO_LATE (R73). -/
def stTooLate : Nat := 0x4003
/-- ABORT_NO_TARGET (R73). -/
def stNoTarget : Nat := 0x4004
/-- PATH_LOST (R40). -/
def stPathLost : Nat := 0x5001
/-- FUNCTION_RESET (R45). -/
def stFnReset : Nat := 0x5002
/-- QUADRANT_UNAVAILABLE (R106). -/
def stQuadUnavail : Nat := 0x5003
/-- AUTH_FAIL (R90). -/
def stAuthFail : Nat := 0x6001
/-- KEY_NOT_LOADED (R105). -/
def stNoKey : Nat := 0x6002
/-- KEY_EPOCH_EXHAUSTED (R93). -/
def stEpochExh : Nat := 0x6003
/-- DEVICE_READ_ONLY (R205). -/
def stDevRo : Nat := 0x7001
/-- SHUTDOWN_PENDING (R147). -/
def stShutdown : Nat := 0x7002

/-- 0xFFFF_FFFF_FFFF_FFFF, the RESULT of a writer without effect (Table 4.11). -/
def allOnes64 : Nat := 18446744073709551615

/-- RESULT of a command without effect (Table 4.11). -/
def noEffectResult (op : Nat) : Nat := if op == 2 || op == 3 || op == 0x0B then allOnes64 else 0

end Sys2Proof.Machine
end

