-- ==== Sys2Proof/Machine/Operands.lean ====
section
/-! DEFINITION. The fields of a command packet (Table 4.1, Table 4.2, Table 4.3) and of the commit word (Table 3.2). -/

namespace Sys2Proof.Machine

/-- DWORD `d` of a packet. -/
def pktD (p : List Word) (d : Nat) : Nat := (nth 0#32 p d).toNat

/-- A 64-bit field whose DWORD `d` holds bits [31:0] (Table 4.1). -/
def pktQ (p : List Word) (d : Nat) : Nat := pktD p d + p32 * pktD p (d + 1)

/-- TAG, DWORD 0 [31:16]. -/
def pTag (p : List Word) : Nat := bits (pktD p 0) 16 16
/-- FLAGS, DWORD 0 [15:8]. -/
def pFlags (p : List Word) : Nat := bits (pktD p 0) 8 8
/-- OPCODE, DWORD 0 [7:0]. -/
def pOp (p : List Word) : Nat := bits (pktD p 0) 0 8
/-- ZONE, DWORD 1. -/
def pZone (p : List Word) : Nat := pktD p 1
/-- LBA, DWORDs 2 and 3. -/
def pLba (p : List Word) : Nat := pktQ p 2
/-- COUNT, DWORD 4. -/
def pCount (p : List Word) : Nat := pktD p 4
/-- DEADLINE, DWORD 5 [31:16]. -/
def pDeadline (p : List Word) : Nat := bits (pktD p 5) 16 16
/-- HINT, DWORD 5 [7:4]. -/
def pHint (p : List Word) : Nat := bits (pktD p 5) 4 4
/-- CLASS, DWORD 5 [1:0]. -/
def pCls (p : List Word) : Cls := clsOfNat (bits (pktD p 5) 0 2)
/-- ADDR, DWORDs 6 and 7. -/
def pAddr (p : List Word) : Nat := pktQ p 6
/-- LENGTH, DWORD 8. -/
def pLen (p : List Word) : Nat := pktD p 8
/-- FAILOVER, DWORD 9 [7:4]. -/
def pFail (p : List Word) : Nat := bits (pktD p 9) 4 4
/-- RING, DWORD 9 [3:0]. -/
def pRing (p : List Word) : Nat := bits (pktD p 9) 0 4
/-- DWORD 10. -/
def pD10 (p : List Word) : Nat := pktD p 10
/-- Destination LBA of COPY, DWORDs 11 and 12. -/
def pDLba (p : List Word) : Nat := pktQ p 11
/-- DAPPEND of COPY, DWORD 13 [0]. -/
def pDApp (p : List Word) : Bool := bit (pktD p 13) 0
/-- XCOUNT, DWORD 14 [12:0]. -/
def pXcount (p : List Word) : Nat := bits (pktD p 14) 0 13
/-- COMMIT, DWORD 15. -/
def pCommit (p : List Word) : Nat := pktD p 15
/-- FLAGS.XL (Table 4.2). -/
def pXL (p : List Word) : Bool := bit (pktD p 0) 8
/-- FLAGS.FUA (Table 4.2). -/
def pFUA (p : List Word) : Bool := bit (pktD p 0) 9
/-- FLAGS.LR (Table 4.2). -/
def pLR (p : List Word) : Bool := bit (pktD p 0) 10

/-- READ (Table 4.4). -/
def opRead : Nat := 0x01
/-- WRITE. -/
def opWrite : Nat := 0x02
/-- APPEND. -/
def opAppend : Nat := 0x03
/-- ZONE_OPEN. -/
def opOpen : Nat := 0x04
/-- ZONE_CLOSE. -/
def opClose : Nat := 0x05
/-- ZONE_FINISH. -/
def opFinish : Nat := 0x06
/-- ZONE_RESET. -/
def opReset : Nat := 0x07
/-- FLUSH. -/
def opFlush : Nat := 0x08
/-- ABORT. -/
def opAbort : Nat := 0x09
/-- ZONE_REPORT. -/
def opReport : Nat := 0x0A
/-- COPY. -/
def opCopy : Nat := 0x0B
/-- VERIFY. -/
def opVerify : Nat := 0x0C
/-- HINT. -/
def opHint : Nat := 0x0D

/-- WRITE, APPEND and COPY: the opcodes of the writing lane (R143). -/
def isWriter (op : Nat) : Bool := op == opWrite || op == opAppend || op == opCopy

/-- READ, VERIFY and COPY: the opcodes that return blocks of their named zone. -/
def isReader (op : Nat) : Bool := op == opRead || op == opVerify || op == opCopy

/-- The zone a writer writes: the destination zone for COPY, otherwise the zone of DWORD 1 (Table 4.3). -/
def wZone (p : List Word) : Nat := if pOp p == opCopy then pD10 p else pZone p

/-- The LBA a writer names: the destination LBA for COPY, otherwise DWORDs 2 and 3. -/
def wLba (p : List Word) : Nat := if pOp p == opCopy then pDLba p else pLba p

/-- A writer that takes the write pointer: APPEND, and COPY with DAPPEND = 1 (R91, R102). -/
def wAppends (p : List Word) : Bool := pOp p == opAppend || (pOp p == opCopy && pDApp p)

end Sys2Proof.Machine
end

