-- ==== Sys2Proof/Machine/Ops.lean ====
section
/-! DEFINITION. Named operations over tenants, zones, commands, block versions and the buffer pool. -/

namespace Sys2Proof.Machine

/-! ### Tenants and classes -/

/-- A tenant, or none when it does not exist (R33). -/
def getTen (s : State) (t : Nat) : Option Tenant := Tab.get none s.tenants t

/-- The parameters of a tenant that exists, and defaults for one that does not. -/
def tenD (s : State) (t : Nat) : Tenant := (getTen s t).getD {}

/-- The state with a tenant rewritten, if it exists. -/
def modTen (s : State) (t : Nat) (f : Tenant → Tenant) : State :=
  { s with tenants := Tab.upd none s.tenants t fun o => o.map f }

/-- A tenant's class. -/
def tcls (t : Tenant) : Cls → TCls
  | .rt => t.rt
  | .std => t.std
  | .bulk => t.bulk
  | .bg => t.bg

/-- A tenant with a class rewritten. -/
def modCls (t : Tenant) (c : Cls) (f : TCls → TCls) : Tenant :=
  match c with
  | .rt => { t with rt := f t.rt }
  | .std => { t with std := f t.std }
  | .bulk => { t with bulk := f t.bulk }
  | .bg => { t with bg := f t.bg }

/-- The four classes in order (R139). -/
def allCls : List Cls := [.rt, .std, .bulk, .bg]

/-- The tenants that exist, with their IDs. -/
def tenants (s : State) : List (Nat × Tenant) := s.tenants.filterMap fun e => e.2.map fun t => (e.1, t)

/-- A tenant-class of the state. -/
def getCls (s : State) (t : Nat) (c : Cls) : TCls := tcls (tenD s t) c

/-- The state with a tenant-class rewritten. -/
def modTCls (s : State) (t : Nat) (c : Cls) (f : TCls → TCls) : State := modTen s t fun x => modCls x c f

/-- Counter `k` of Table 6.10 rises by `n`. -/
def admCnt (s : State) (t : Nat) (c : Cls) (k n : Nat) : State :=
  modTCls s t c fun x => { x with cnts := bump x.cnts k n }

/-! ### Zones -/

/-- Key of a zone in the zone table: tenant ‖ zone. -/
def zkey (t z : Nat) : Nat := t * 4194304 + z

/-- A zone record. -/
def getZone (s : State) (t z : Nat) : Zone := Tab.get {} s.zones (zkey t z)

/-- The state with a zone record rewritten. -/
def modZone (s : State) (t z : Nat) (f : Zone → Zone) : State :=
  { s with zones := Tab.upd {} s.zones (zkey t z) f }

/-- Z, the zone size in logical blocks: W × 32 MiB / B (Table 5.1). -/
def zoneSize (t : Tenant) : Nat := t.w * 33554432 / t.blk

/-- P, the number of parity members: ⌈W / 16⌉ (R110). -/
def parityN (t : Tenant) : Nat := cdiv t.w 16

/-- Conventional zones are 0 to NC − 1 (R77). -/
def isConv (t : Tenant) (z : Nat) : Bool := decide (z < t.nc)

/-- Capacity of a zone (R113). -/
def zoneCap (t : Tenant) (z : Nat) (r : Zone) : Nat :=
  if r.st = .offline then 0 else if isConv t z then zoneSize t else r.capDrop.getD (zoneSize t)

/-- OPEN zones of a tenant (R115). -/
def openCount (s : State) (t : Nat) : Nat :=
  (s.zones.filter fun e => e.1 / 4194304 == t && decide (e.2.st = .opened)).length

/-- OPEN zones of the device (R115). -/
def openAll (s : State) : Nat := (s.zones.filter fun e => decide (e.2.st = .opened)).length

/-! ### Commands -/

/-- The command of a tenant with an acceptance sequence number. -/
def getCmd (s : State) (t seq : Nat) : Option Cmd := s.cmds.find? fun c => c.tenant == t && c.seq == seq

/-- The state with one command rewritten. -/
def modCmd (s : State) (t seq : Nat) (f : Cmd → Cmd) : State :=
  { s with cmds := s.cmds.map fun c => if c.tenant == t && c.seq == seq then f c else c }

/-- The state without a command; an ABORT that waited for it is generated now (R74), unless it was redirected: then its place in the
order of R40 stands. -/
def dropCmd (s : State) (t seq : Nat) : State :=
  let s := { s with cmds := s.cmds.filter fun c => !(c.tenant == t && c.seq == seq) }
  { s with
    cmds := s.cmds.map fun c =>
      if c.tenant == t && c.waitFor == some seq then { c with waitFor := none, genNo := if c.redirected then c.genNo else s.genCtr } else c
    genCtr := s.genCtr + 1 }

/-- Class of a command's packet. -/
def cCls (c : Cmd) : Cls := pCls c.pkt

/-- Opcode of a command's packet. -/
def cOp (c : Cmd) : Nat := pOp c.pkt

/-- A journal record is staged; what waits for it waits for the page that will hold it (R265). -/
def stageRec (s : State) : State := { s with plp := { s.plp with jRecs := s.plp.jRecs + 1 } }

/-- A live activation pauses the processors (R343, R344). -/
def paused (s : State) : Bool := s.rst.actState != 0

/-! ### Block versions -/

/-- A version by its number. -/
def getVer (s : State) (v : Nat) : Ver := Tab.get {} s.vers v

/-- The state with a version rewritten. -/
def modVer (s : State) (v : Nat) (f : Ver → Ver) : State := { s with vers := Tab.upd {} s.vers v f }

/-- A version with effect in its zone's current generation. -/
def live (s : State) (v : Ver) : Bool := !v.dead && v.gen == (getZone s v.tenant v.zone).gen

/-- `v` was written before the writer or reader with power cycle `pc` and acceptance sequence `seq` (Table 8.2). -/
def before (v : Ver) (pc seq : Nat) : Bool := decide (v.pcycle < pc) || (v.pcycle == pc && decide (v.seq < seq))

/-- The later of two versions in acceptance order. -/
def later (a b : Nat × Ver) : Nat × Ver := if before a.2 b.2.pcycle b.2.seq then b else a

/-- The latest of a list of versions. -/
def latest : List (Nat × Ver) → Option (Nat × Ver)
  | [] => none
  | x :: t => some (t.foldl later x)

/-- The version of a logical block that a reader accepted at `seq` returns, or none for zeros (R122); the writers `skip` are those that it
does not return (R123). -/
def visibleTo (s : State) (t z lba seq : Nat) (skip : List Nat) : Option (Nat × Ver) :=
  latest (s.vers.filter fun e =>
    e.2.tenant == t && e.2.zone == z && e.2.lba == lba && live s e.2 && before e.2 s.hlt.pcycle seq &&
      !(e.2.pcycle == s.hlt.pcycle && skip.contains e.2.seq))

/-- The version of a logical block that a reader accepted at `seq` returns where R123 leaves out no APPEND. -/
def visible (s : State) (t z lba seq : Nat) : Option (Nat × Ver) := visibleTo s t z lba seq []

/-- The current version of a logical block, whoever wrote it. -/
def current (s : State) (t z lba : Nat) : Option (Nat × Ver) :=
  latest (s.vers.filter fun e => e.2.tenant == t && e.2.zone == z && e.2.lba == lba && live s e.2)

/-- Two versions are of the same logical block. -/
def sameBlock (x y : Ver) : Bool := x.tenant == y.tenant && x.zone == y.zone && x.lba == y.lba

/-- A version is programmed in the sense of R96. -/
def programmed (x : Ver) : Bool := x.ucProg || x.tcSafe

/-- Versions of the same atomic piece (R135): one writer's blocks in one piece. -/
def samePiece (x y : Ver) : Bool :=
  x.tenant == y.tenant && x.zone == y.zone && x.gen == y.gen && x.pcycle == y.pcycle && x.seq == y.seq && x.piece == y.piece

/-- Every block of a version's piece that has effect passes `ok`. -/
def pieceAll (s : State) (x : Ver) (ok : Ver → Bool) : Bool := s.vers.all fun e => !samePiece e.2 x || e.2.dead || ok e.2

/-- A version's piece has every block in HBM or in flash (R260). -/
def pieceWhole (s : State) (x : Ver) : Bool := pieceAll s x fun y => y.hbm || programmed y

/-- The versions of the same block that later-accepted writers have made. -/
def laterVers (s : State) (x : Ver) : Tab Ver :=
  s.vers.filter fun e => sameBlock e.2 x && live s e.2 && before x e.2.pcycle e.2.seq

/-- Every piece of every later-accepted writer of the same block is whole, and there is one: the version can never become current again
(R124, R126, R261). -/
def superseded (s : State) (x : Ver) : Bool := !(laterVers s x).isEmpty && (laterVers s x).all fun e => pieceWhole s e.2

/-- An outstanding reader still has to return a version (R16, R124): it has begun to read it, or is to begin. -/
def needs (s : State) (v : Nat) (x : Ver) (c : Cmd) : Bool :=
  c.todo.any (fun y => y / 4 == v) || c.keyWait.any (fun y => y.1 == v) ||
    (isReader (cOp c) && c.tenant == x.tenant && pZone c.pkt == x.zone && decide (pLba c.pkt ≤ x.lba) &&
      decide (x.lba < pLba c.pkt + pCount c.pkt) && c.ph != .exec && c.ph != .gen &&
      (visibleTo s x.tenant x.zone x.lba c.seq c.skip).map Prod.fst == some v)

/-- A version is still to be returned by an outstanding reader (R16, R124). -/
def pinned (s : State) (v : Nat) : Bool := s.cmds.any (needs s v (getVer s v))

/-- A version that its zone still has to keep: the current one of its block, or one that a reader needs (R124). -/
def wanted (s : State) (v : Nat) : Bool :=
  let x := getVer s v
  live s x && ((current s x.tenant x.zone x.lba).map Prod.fst == some v || pinned s v)

/-! ### Buffer pool -/

/-- Class key of FOLD; tenant t has key t (R215). -/
def kFold : Nat := 2000
/-- Class key of RELOC. -/
def kReloc : Nat := 2001
/-- Class key of CIPHER. -/
def kCipher : Nat := 2002
/-- Class key of FLUSH. -/
def kFlush : Nat := 2003

/-- All the buffers of the pool (R211). -/
def poolSize : Nat := 16777216

/-- Sum of every applied floor (BPM_FLOOR_SUM). -/
def floorSum (b : Bpm) : Nat := sumBy Prod.snd b.floors

/-- BPM_WITHDRAWN (R212, R225): the buffers withdrawn, but for those still allocated, which are withdrawn at their push. -/
def withdrawnN (b : Bpm) : Nat := (b.withdrawn.filter fun e => Tab.get 0 b.alloc e.1 == 0).length

/-- BPM_FREE (R212): the buffers neither allocated nor withdrawn. -/
def freeN (b : Bpm) : Nat := poolSize - b.alloc.length - withdrawnN b

/-- Shared pool: the pool less every applied floor and less the withdrawn buffers (R216). -/
def sharedPool (b : Bpm) : Nat := poolSize - floorSum b - withdrawnN b

/-- Buffers of the shared pool that are charged: the part of each charge above its floor. -/
def sharedUsed (b : Bpm) : Nat := sumBy (fun e => e.2 - Tab.get 0 b.floors e.1) b.charges

/-- Shared buffers not charged (BPM_SHARED_FREE). -/
def sharedFree (b : Bpm) : Nat := sharedPool b - sharedUsed b

/-- The part above its floor of a request for `n` buffers by class `k` (R216). -/
def overFloor (b : Bpm) (k n : Nat) : Nat :=
  (Tab.get 0 b.charges k + n - Tab.get 0 b.floors k) - (Tab.get 0 b.charges k - Tab.get 0 b.floors k)

/-- Whether a charge of `n` buffers would be granted to class `k` with `free` shared buffers uncharged (R216). -/
def grants (b : Bpm) (k n free : Nat) : Bool :=
  let c := Tab.get 0 b.charges k
  let cap := Tab.get 0 b.caps k
  decide (c + n ≤ Tab.get 0 b.floors k) || ((decide (cap = 0) || decide (c + n ≤ cap)) && decide (overFloor b k n ≤ free))

/-- Whether a charge of `n` buffers is granted to class `k` (R216). -/
def chargeOk (b : Bpm) (k n : Nat) : Bool := grants b k n (sharedFree b)

/-- A request of requester `r` that another one, granted before it in the same cycle as `tie` says, leaves too little for (R221): a tie
loss where it would have been granted first. -/
def tieCount (s : State) (r k n : Nat) (tie : Bool) : State :=
  if tie && !chargeOk s.bpm k n && grants s.bpm k n (sharedFree s.bpm + s.bpm.lastGrant) then
    { s with bpm := { s.bpm with tie := bump s.bpm.tie r 1 } }
  else s

/-- A refused charge moves the priority pointer on by one port (R221). -/
def chargeRefused (b : Bpm) : Bpm := { b with ptr := (b.ptr + 1) % 5 }

/-- A granted charge: promised, not yet popped (R215). -/
def charge (b : Bpm) (k n : Nat) : Bpm :=
  { b with charges := bump b.charges k n, rsvds := bump b.rsvds k n, lastGrant := overFloor b k n }

/-- The return of a charge for buffers not popped (R218). -/
def uncharge (b : Bpm) (k n : Nat) : Bpm :=
  { b with charges := Tab.upd 0 b.charges k (· - n), rsvds := Tab.upd 0 b.rsvds k (· - n) }

/-- A buffer that the free stack has an entry of: free, and its entry neither spoilt nor discarded. -/
def stacked (b : Bpm) (i : Nat) : Bool :=
  !(b.alloc.any (fun e => e.1 == i) || b.withdrawn.any (fun e => e.1 == i) || b.spoilt.any (fun e => e.1 == i) || b.lost.contains i)

/-- The first buffer with an entry in the free stack at or after `i`, in index order and cyclically. -/
def findFree (b : Bpm) : Nat → Nat → Nat
  | 0, i => i
  | fuel + 1, i => if stacked b i then i else findFree b fuel ((i + 1) % poolSize)

/-- Steps after which `findFree` has met a buffer of the free stack, where there is one. -/
def freeFuel (b : Bpm) : Nat := b.alloc.length + b.withdrawn.length + b.spoilt.length + b.lost.length + 1

/-- A BPM_EVT bit is set, with its generic record (Table 17.8). -/
def setBpmEvt (s : State) (bitNo inst sev : Nat) : State :=
  raiseEvt s s.bpm.evt bitNo (fun s v => { s with bpm := { s.bpm with evt := v } }) sev 6 inst 0x60024

/-- A BPM_EVT bit is set, its record being another's concern. -/
def setBpmBit (s : State) (b : Nat) : State := { s with bpm := { s.bpm with evt := setBit s.bpm.evt b } }

/-- The latest rejection or discard, in BPM_LASTERR and BPM_LASTADDR (R223, R224). -/
def bpmLast (s : State) (reason r index ptr : Nat) : State :=
  { s with bpm := { s.bpm with errReason := reason, errReq := r, errIndex := index, errAddr := BitVec.ofNat 64 ptr } }

/-- A stack entry `w` that fails its check is discarded (R224): reason 5 where its bits [31:24] are not 0, else 4. -/
def discardEntry (s : State) (w : Nat) : State :=
  let reason := if w < poolSize then 4 else 5
  logEv (bpmLast (setBpmBit s (reason - 1)) reason 0xF (if w < poolSize then w else 0) w) 3 (src 6 0xF) 0x6002
    (leBytes 4 reason ++ leBytes 4 w)

/-- A pop by requester `r` for class `k` that meets an empty head cache over a stack that is not empty (R222): a refill miss, recorded
at most once a second, after which the cache is refilled. -/
def refillMiss (s : State) (r k : Nat) : State :=
  if s.bpm.head == 0 && decide (0 < s.bpm.stack) then
    let s := { s with bpm := { s.bpm with
      misses := s.bpm.misses + 1
      empty := bump s.bpm.empty r 1
      head := min 4096 s.bpm.stack
      stack := s.bpm.stack - min 4096 s.bpm.stack } }
    let s := setBpmBit (if r < 2 then modTen s k fun t => { t with dphold := t.dphold + 1 } else s) 6
    let had := decide (s.evr.sec = opMs s / 1000) && s.evr.seen.any fun x => x.1 % 65536 == 0x6806
    logUpTo (if had then 0 else 1) s 1 (src 6 r) 0x6806 (leBytes 4 0x60024 ++ leBytes 4 s.bpm.evt)
  else s

/-- The next entries are taken from the head cache until one passes the checks of R224, and its index is handed out. Which entry comes
next is a free value (R213, log 20, DESIGN CHOICE). A spoilt entry whose word is the index of a free buffer passes them; any
other is discarded. -/
def takeEntry (r k : Nat) : Nat → State → State × Nat
  | 0, s =>
    let s := refillMiss s r k
    let i := findFree s.bpm (freeFuel s.bpm) (Config.freeBuf s.freeCtr % poolSize)
    ({ s with freeCtr := s.freeCtr + 1, bpm := { s.bpm with head := s.bpm.head - 1 } }, i)
  | n + 1, s =>
    match s.bpm.spoilt[Config.freeBuf s.freeCtr]? with
    | none => takeEntry r k 0 s
    | some (i, w) =>
      let s := refillMiss s r k
      let s := { s with freeCtr := s.freeCtr + 1, bpm := { s.bpm with head := s.bpm.head - 1 } }
      if w < poolSize ∧ Tab.get 0 s.bpm.alloc w = 0 ∧ (s.bpm.withdrawn.any fun e => e.1 == w) = false then (s, w)
      else
        takeEntry r k n (discardEntry { s with bpm := { s.bpm with spoilt := s.bpm.spoilt.erase (i, w), lost := i :: s.bpm.lost } } w)

/-- A pop by requester `r` for class `k` (R215, R224). The buffer's unit of HBM counts as written from here on: it is primed, and a
corrected line that waited to be written back is replaced (R234, R238). -/
def popBuf (s : State) (r k : Nat) : State × Nat :=
  let (s, i) := takeEntry r k s.bpm.spoilt.length s
  ({ s with
      bpm := { s.bpm with
        alloc := Tab.set 0 s.bpm.alloc i (k + 1)
        rsvds := Tab.upd 0 s.bpm.rsvds k (· - 1) }
      mep := { s.mep with
        primed := Tab.set false s.mep.primed i true
        pendFix := s.mep.pendFix.filter fun e => !(decide (e.1 < 2) && e.2.1 / 64 == i) } }, i)

/-- Several pops. -/
def popBufs (s : State) (r k : Nat) : Nat → State × List Nat
  | 0 => (s, [])
  | n + 1 =>
    let (s, i) := popBuf s r k
    let (s, l) := popBufs s r k n
    (s, i :: l)

/-- Spill (R213): lines of 16 indices move to the HBM stack until the head cache is down to 4,096 entries (log 108, DEDUCED). -/
def spillHead (b : Bpm) : Bpm :=
  let n := cdiv (b.head - 4096) 16 * 16
  { b with head := b.head - n, stack := b.stack + n }

/-- Refill (R213): lines move back until the head cache is up to 4,096 entries or the stack is empty (log 108, DEDUCED). -/
def refillHead (b : Bpm) : Bpm :=
  let n := min (cdiv (4096 - b.head) 16 * 16) b.stack
  { b with head := b.head + n, stack := b.stack - n }

/-- The floor and cap of a deleted tenant return to the room when its charge reaches 0 (R217). -/
def freeFloor (s : State) (k : Nat) : State :=
  if k < 1024 ∧ (getTen s k).isNone ∧ Tab.get 0 s.bpm.charges k = 0 then
    { s with bpm := { s.bpm with floors := Tab.del s.bpm.floors k, caps := Tab.del s.bpm.caps k } }
  else s

/-- What a push of a pointer meets: 1 accepted, 2 range, 3 alignment, 4 unallocated, 5 withdrawn and accepted once
(R223, R225). -/
def pushCheck (b : Bpm) (ptr : Nat) : Nat :=
  if ptr / 2 ^ 36 ≠ 0 then 2
  else if ptr % 4096 ≠ 0 then 3
  else
    let i := ptr / 4096
    if Tab.get 0 b.alloc i = 0 then 4
    else if b.withdrawn.any fun e => e.1 == i then 5
    else 1

/-- A push by requester `r` is rejected at check 1 range, 2 alignment or 3 unallocated (R223): no state, stack or charge changes. -/
def rejectPush (s : State) (r check ptr : Nat) : State :=
  let s := bpmLast (setBpmBit s (check - 1)) check r (if check = 3 then ptr / 4096 else 0) ptr
  logEv { s with bpm := { s.bpm with rej := bump s.bpm.rej r 1 } } 3 (src 6 r) 0x6001 (leBytes 4 check ++ leBytes 8 ptr)

/-- An accepted push: the buffer's state bit is cleared, its index goes to the head cache, and the charge of the class that took it
falls by 1 (R223). A withdrawn buffer is taken back once and is withdrawn instead of freed (R225). -/
def acceptPush (s : State) (i : Nat) : State :=
  match Tab.get 0 s.bpm.alloc i with
  | 0 => s
  | k1 + 1 =>
    let wd := s.bpm.withdrawn.any fun e => e.1 == i
    let b := if 8192 ≤ s.bpm.head then spillHead s.bpm else s.bpm
    freeFloor { s with bpm := { b with
        alloc := Tab.set 0 b.alloc i 0
        lost := b.lost.erase i
        head := if wd then b.head else b.head + 1
        charges := Tab.upd 0 b.charges k1 (· - 1) } } k1

/-- A push of a pointer by requester `r` (R223). -/
def pushPtr (s : State) (r ptr : Nat) : State :=
  match pushCheck s.bpm ptr with
  | 2 => rejectPush s r 1 ptr
  | 3 => rejectPush s r 2 ptr
  | 4 => rejectPush s r 3 ptr
  | _ => acceptPush s (ptr / 4096)

/-- The push of buffer `i` by requester `r` (Table 9.1). -/
def pushBuf (r : Nat) (s : State) (i : Nat) : State := pushPtr s r (i * 4096)

/-- Several pushes by requester `r`. -/
def pushBufs (s : State) (r : Nat) (l : List Nat) : State := l.foldl (pushBuf r) s

/-- A version's data need not be programmed any more: it no longer counts as dirty, and its buffers are pushed unless a reader still needs
them (R18, R124, R218). -/
def freeVer (s : State) (v : Nat) : State :=
  let s := modVer s v fun x => { x with dirty := false }
  if pinned s v then s
  else
    let x := getVer s v
    let s := pushBufs s (if x.sup || x.dead then 9 else 2) x.bufs
    modVer s v fun x => { x with bufs := [] }

/-- Versions in buffers that nobody needs any more: safe in flash or without effect, or superseded for good before they were ever current. These
are never programmed, and count as dirty until then (R124). -/
def sweepVers (s : State) : State :=
  (s.vers.filter fun e => !e.2.bufs.isEmpty && !pinned s e.1 && (!e.2.dirty || (e.2.sup && superseded s e.2))).foldl
    (fun s e => freeVer s e.1) s

/-! ### Dirty data -/

/-- Bytes of a writer that its admission release added to D (R252). -/
def writerBytes (s : State) (c : Cmd) : Nat :=
  if cOp c == opCopy then pCount c.pkt * (tenD s c.tenant).blk else pLen c.pkt

/-- Dirty data in bytes (R252): blocks that are not yet safe in flash, and writers released that have not made their
blocks yet. -/
def dirtyBytes (s : State) : Nat :=
  sumBy (fun e => if e.2.dirty then (tenD s e.2.tenant).blk else 0) s.vers +
    sumBy (fun c => if c.released && !c.committed && isWriter (cOp c) && c.ph != .gen then writerBytes s c else 0) s.cmds

/-- ADM_DIRTY in MiB, rounded up. -/
def dirtyMib (s : State) : Nat := cdiv (dirtyBytes s) 1048576

end Sys2Proof.Machine
end

