-- ==== Sys2Proof/Machine/Completion.lean ====
section
/-! DEFINITION. Completions (R60 to R69): how one is generated, posted and signalled, and the CAS_TAKEN mirror. -/

namespace Sys2Proof.Machine

/-- A step of the model that goes on. -/
abbrev Res := Host.Outcome State Fault Refusal

/-- Two effects in turn: the second acts on what the first leaves. -/
def bindRes (r : Res) (k : State → Res) : Res :=
  match r with
  | .next s => k s
  | .fault f => .fault f
  | .refused f => .refused f

/-- A wake source: it ends P1 at once and marks the wake from P2 or P3 as under way (R336, R337). The 8 µs of a wake from P1
show in no register. -/
def wake (s : State) (cause : Nat) : State :=
  let s := { s with rst := { s.rst with idleNs := s.nowNs } }
  if s.rst.pwr = 1 then { s with rst := { s.rst with pwr := 0, qGated := 0 } }
  else if s.rst.pwr ≥ 2 && !s.rst.waking then { s with rst := { s.rst with waking := true, wakeCause := cause } }
  else s

/-- A memory request of a host: nothing arrives while the link is down; PF0 in D3hot, Memory Space Enable 0 and a VF
that does not exist answer Unsupported Request (R37, R44); otherwise it wakes the XV8 (R337) and is applied. -/
def hostAccess (p : Port) (fn cause : Nat) (s : State) (k : State → Res) : Res :=
  if !(getPort s p).linkUp || s.ckm.stopped then .next s
  else if (getPort s p).d3hot || !fnExists s p fn || !(getFn s p fn).mse then .next (emit s (.unsupported p fn))
  else k (wake (modPort s p fun q => { q with inL1 := false }) cause)

/-- A flush is under way or over: registers answer reads and take no writes (R262). -/
def flushing (s : State) : Bool := s.plp.phase == 1 || s.plp.phase == 2

/-- A register write of a host, a wake source by its code: it is applied, unless a flush is under way (R262). -/
def regWriteBy (cause : Nat) (p : Port) (fn : Nat) (s : State) (k : State → Res) : Res :=
  hostAccess p fn cause s fun s => if flushing s then .next s else k s

/-- A register write that is no wake source of its own (Table 14.7, code 3). -/
def regWrite (p : Port) (fn : Nat) (s : State) (k : State → Res) : Res := regWriteBy 3 p fn s k

/-- The tenant of VF `fn` exists (R32, R33); PF0 has none. -/
def hasTenant (s : State) (fn : Nat) : Bool := fn != 0 && (getTen s (fn - 1)).isSome

/-- CAS_STATUS.OPEN: the tenant exists, READY is 1 and casements capture (R55). -/
def casOpen (s : State) (fn : Nat) : Bool :=
  s.boot.ready && !s.adm.casStopped && hasTenant s fn

/-- The value of CAS_STATUS (register table of CAS_STATUS). -/
def casStatus (s : State) (p : Port) (fn : Nat) : Nat :=
  let c := getCas s p fn
  let tenant := hasTenant s fn
  mk [(16, 10, fn - 1), (12, 4, c.taken % 16), (8, 4, c.seqErrTrs), (7, 1, b2n c.seqErr),
    (4, 1, b2n (!c.valid.isEmpty && (!s.boot.ready || s.adm.casStopped))),
    (2, 1, b2n (s.boot.ready && !tenant)), (1, 1, b2n c.orphan), (0, 1, b2n (casOpen s fn))]

/-- Base address of a ring (R61). -/
def ringBase (r : Ring) : Nat := r.baseLo + p32 * r.baseHi

/-- Free space of a ring: 2^SIZE_LOG2 − ((P − RNG_HEADn) mod 2^32) (R62). -/
def ringFree (r : Ring) : Nat := 2 ^ r.sizeLog2 - (r.posted + p32 - r.head % p32) % p32

/-- The lowest-numbered ring with EN = 1 and MIRROR = 1, which places the mirror (R56). -/
def mirrorRing (c : Casement) : Option Ring := (c.rings.find? fun e => e.2.en && e.2.mirror).map Prod.snd

/-- A mirror write: 8 bytes after the ring, CAS_TAKEN and CAS_STATUS (R56). -/
def writeMirror (s : State) (p : Port) (fn : Nat) : State :=
  let c := getCas s p fn
  match mirrorRing c with
  | none => s
  | some r =>
    let s := emit s (.mirror p fn (ringBase r + 2 ^ r.sizeLog2 * 32) (c.taken % p32) (casStatus s p fn))
    modCas s p fn fun c => { c with unmirrored := 0, mirrored := c.taken }

/-- Whether a port can carry posted writes of a function: link up, Bus Master Enable 1, not in D3hot (R44). -/
def canWrite (s : State) (p : Port) (fn : Nat) : Bool :=
  (getPort s p).linkUp && (getFn s p fn).bme && !(getPort s p).d3hot && !s.ckm.stopped

/-- The entry of a command whose completion is generated: it takes its place in the order of completions (R62, R67), and a writer that has not
passed its commit point returns its whole charge (R218). -/
def endEntry (s : State) (t seq status result : Nat) (c : Cmd) : State :=
  let s := if c.committed then s else { s with bpm := uncharge s.bpm t c.charge }
  let s := modCmd s t seq fun c => { c with
    ph := .gen, status := status, result := result, genNo := s.genCtr, gate := .none
    charge := if c.committed then c.charge else 0 }
  { s with genCtr := s.genCtr + 1 }

/-- A command's completion is generated (R62, R67): it ends, and keeps its context and tag until it is posted. What only a reader still needed is
released with it (R124). -/
def genCompl (s : State) (t seq status result : Nat) : State :=
  match getCmd s t seq with
  | none => s
  | some c =>
    if c.ph = .gen then s
    else
      let s := endEntry s t seq status result c
      if isReader (cOp c) then sweepVers s else s

/-- The eight DWORDs of a completion entry (Table 3.3). -/
def entryWords (s : State) (c : Cmd) (ring phase : Nat) : List Word :=
  let svc := if c.released then min 0xFFFF ((s.nowNs - c.relNs) / 1000) else 0
  [ BitVec.ofNat 32 (mk [(16, 16, c.status), (0, 16, pTag c.pkt)]),
    BitVec.ofNat 32 c.result,
    BitVec.ofNat 32 (c.result / p32),
    BitVec.ofNat 32 (mk [(16, 16, svc), (0, 16, min 0xFFFF c.queueUs)]),
    BitVec.ofNat 32 c.seq,
    BitVec.ofNat 32 (mk [(17, 1, b2n c.redirected), (16, 1, c.port.num), (0, 10, c.tenant)]),
    0#32,
    BitVec.ofNat 32 (mk [(1, 4, ring), (0, 1, phase)]) ]

/-- The oldest of a list of completions in order of generation. -/
def oldestGen (l : List Cmd) : Option Cmd :=
  l.foldl (fun acc c => match acc with
    | none => some c
    | some a => if c.genNo < a.genNo then some c else some a) none

/-- The oldest generated completion bound to a ring that no ABORT rule holds (R69, R74). An ABORT that was redirected keeps its
place among the redirected completions, so those behind it on its ring wait with it (R40, R69; log 66, DEDUCED). -/
def nextFor (s : State) (p : Port) (fn ring : Nat) : Option Cmd :=
  (oldestGen (s.cmds.filter fun c =>
      c.ph == .gen && c.outPort == p && c.outFn == fn && c.outRing == ring && (c.waitFor.isNone || c.redirected))).filter
    fun c => c.waitFor.isNone

/-- The ring's message: sent or held in the PBA, with every entry counted as signalled (R66). -/
def signalRing (s : State) (p : Port) (fn ring : Nat) : State :=
  modRing (fireVec s p fn ring) p fn ring fun r => { r with unsig := 0 }

/-- An entry was posted: with IEN = 1 it is one more unsignalled entry, and ICNT + 1 of them send the message (R66). -/
def countEntry (s : State) (p : Port) (fn ring : Nat) : State :=
  let r := getRing s p fn ring
  if !r.ien then s
  else
    let s := modRing s p fn ring fun r => { r with
      firstUnsigNs := if r.unsig = 0 then s.nowNs else r.firstUnsigNs
      unsig := r.unsig + 1 }
    if r.unsig + 1 ≥ r.icnt + 1 then signalRing s p fn ring else s

/-- The release of the path and tag of a completed command; buffers still charged to its data stay charged. -/
def retire (s : State) (t seq : Nat) : State := dropCmd s t seq

/-- An entry is written to its ring (R62), with the mirror before it (R57) and its interrupt after it (R28, R66). -/
def postEntry (s : State) (c : Cmd) : State :=
  let p := c.outPort
  let fn := c.outFn
  let n := c.outRing
  let cas := getCas s p fn
  let s := if !c.redirected && decide (cas.mirrored < c.capNo) then writeMirror s p fn else s
  let r := getRing s p fn n
  let size := 2 ^ r.sizeLog2
  let idx := r.posted % size
  let phase := if r.posted / size % 2 = 0 then 1 else 0
  let s := emit s (.entry p fn n idx (ringBase r + idx * 32) (entryWords s c n phase))
  let s := modRing s p fn n fun r => { r with posted := r.posted + 1 }
  let s := countEntry s p fn n
  let s := { s with hlt := { s.hlt with tel := bump s.hlt.tel (if p = .a then 4 else 5) 1 }, postNs := some s.nowNs }
  retire s c.tenant c.seq

/-- COMPLETION_POST (R62): the ring is enabled and has space, and its function can write. -/
def execCompletionPost (p : Port) (fn ring : Nat) (s : State) : Res :=
  let r := getRing s p fn ring
  if r.en && decide (0 < ringFree r) && canWrite s p fn && !s.adm.postStop then
    match nextFor s p fn ring with
    | none => .next s
    | some c => .next (postEntry s c)
  else .next s

/-- MIRROR_WRITE (R56): due at the eighth unmirrored capture, or 1 µs after the earliest. -/
def execMirrorWrite (p : Port) (fn : Nat) (s : State) : Res :=
  let c := getCas s p fn
  if canWrite s p fn && decide (0 < c.unmirrored) &&
      (decide (8 ≤ c.unmirrored) || decide (c.firstUnmirroredNs + 1000 ≤ s.nowNs)) then
    .next (writeMirror s p fn)
  else .next s

/-- RING_INTERRUPT_TIMER (R66): ITIME µs have passed since the earliest unsignalled entry. -/
def execRingInterruptTimer (p : Port) (fn ring : Nat) (s : State) : Res :=
  let r := getRing s p fn ring
  if r.ien && decide (0 < r.itime) && decide (0 < r.unsig) && decide (r.firstUnsigNs + r.itime * 1000 ≤ s.nowNs) then
    .next (signalRing s p fn ring)
  else .next s

/-- MSIX_PENDING_SEND (R38): a pending message is sent once nothing holds it. -/
def execMsixPendingSend (p : Port) (fn vec : Nat) (s : State) : Res :=
  let f := getFn s p fn
  let e := Tab.get {} f.vecs vec
  if e.pend && !e.masked && !f.fnMask && canWrite s p fn then
    .next (emit (modFn s p fn fun f => { f with vecs := Tab.upd {} f.vecs vec fun e => { e with pend := false } })
      (.msix p fn vec))
  else .next s

/-- A write of RNG_HEADn (R63): ignored while EN is 0; a value past the entries posted is undefined. -/
def execRingHeadWrite (p : Port) (fn ring : Nat) (v : Word) (s : State) : Res :=
  regWrite p fn s fun s =>
    let r := getRing s p fn ring
    if !r.en then .next s
    else if (r.posted + p32 - v.toNat) % p32 > 2 ^ r.sizeLog2 then .fault (.headPastPosted p fn ring)
    else .next (modRing s p fn ring fun r => { r with head := v.toNat })

/-- Reserved bits of RNG_CTLn: [15:13], [7:5] and [1]. -/
def rngCtlRsv : Nat := 0xE0E2

/-- A ring is enabled (R61): P, RNG_HEADn and the phase start afresh, or CFG_ERR is set when SIZE_LOG2 is out of range. -/
def enableRing (s : State) (p : Port) (fn ring : Nat) (v : Word) : State :=
  let size := fld v 8 5
  let ok := decide (6 ≤ size) && decide (size ≤ 16)
  modRing s p fn ring fun r => { r with
    en := ok, cfgErr := !ok, sizeLog2 := size, ien := flag v 2, mirror := flag v 3
    icnt := fld v 16 8, itime := fld v 24 8
    posted := if ok then 0 else r.posted, head := if ok then 0 else r.head
    unsig := if flag v 2 then r.unsig else 0 }

/-- Where the CAS_TAKEN mirror lies, if it is enabled (R56). -/
def mirrorAt (c : Casement) : Option Nat := (mirrorRing c).map fun r => ringBase r + 2 ^ r.sizeLog2 * 32

/-- A write of RNG_CTLn has changed a ring: a mirror that thereby appears or moves has covered no capture yet (R57; log 126, DEDUCED),
and a message is owed at once when ICNT + 1 is no more than the entries that are unsignalled (R66). -/
def settleRing (s : State) (p : Port) (fn ring : Nat) (was : Option Nat) : State :=
  let s := if mirrorAt (getCas s p fn) = was then s else modCas s p fn fun c => { c with mirrored := 0 }
  let r := getRing s p fn ring
  if r.ien && decide (r.icnt + 1 ≤ r.unsig) then signalRing s p fn ring else s

/-- A write of RNG_CTLn (R61, R64, R66), in whichever of its cases it falls. -/
def writeRngCtl (p : Port) (fn ring : Nat) (v : Word) (s : State) : Res :=
  regWrite p fn s fun s =>
  let r := getRing s p fn ring
  let was := mirrorAt (getCas s p fn)
  if v.toNat &&& rngCtlRsv ≠ 0 then .fault (.reservedWrite p fn (0x808 + ring * 16))
  else if !r.en && flag v 0 then .next (settleRing (enableRing s p fn ring v) p fn ring was)
  else if r.en && flag v 0 && fld v 8 5 ≠ r.sizeLog2 then .fault (.ringChangedWhileEnabled p fn ring)
  else .next (settleRing (modRing s p fn ring fun r => { r with
    en := flag v 0, sizeLog2 := fld v 8 5, ien := flag v 2, mirror := flag v 3
    icnt := fld v 16 8, itime := fld v 24 8
    unsig := if flag v 2 then r.unsig else 0 }) p fn ring was)

/-- RING_ENABLE (R61). -/
def execRingEnable (p : Port) (fn ring : Nat) (ctl : Word) (s : State) : Res := writeRngCtl p fn ring ctl s

/-- RING_DISABLE (R64): posting stops and the ring's completions are held. -/
def execRingDisable (p : Port) (fn ring : Nat) (ctl : Word) (s : State) : Res := writeRngCtl p fn ring ctl s

/-- RING_IEN_CLEAR (R66): every unsignalled entry counts as signalled. -/
def execRingIenClear (p : Port) (fn ring : Nat) (ctl : Word) (s : State) : Res := writeRngCtl p fn ring ctl s

end Sys2Proof.Machine
end

