-- ==== Sys2Proof/Machine/Mailbox.lean ====
section
/-! DEFINITION. Mailboxes (R294 to R309): queues, doorbells, pops, locks, notices, and how frames travel. -/

namespace Sys2Proof.Machine

/-- Key of a mailbox in the mailbox table. -/
def boxKey : Box → Nat
  | .pf0 n => n
  | .vf p fn => 16 + 2 * fn + p.num

/-- A mailbox. -/
def getMbx (s : State) (b : Box) : Mbx := Tab.get {} s.mbxs (boxKey b)

/-- The state with a mailbox rewritten. -/
def modMbx (s : State) (b : Box) (f : Mbx → Mbx) : State := { s with mbxs := Tab.upd {} s.mbxs (boxKey b) f }

/-- Agent number of PF0 on a port (Table 13.1). -/
def agentOf : Port → Nat
  | .a => 1
  | .b => 2

/-- The port of an agent's accesses. -/
def agentPort (a : Nat) : Port := if a = 2 then .b else .a

/-- The vector of a mailbox falls due (R297). -/
def fireBox (s : State) : Box → State
  | .pf0 n => firePf0 s n
  | .vf p fn => fireVec s p fn 16

/-- A bit of MBX_ISTAT is set; it fires its vector when it becomes 1 while its enable is 1 (R297). -/
def setIst (s : State) (b : Box) (i : Nat) : State :=
  let m := getMbx s b
  let s := modMbx s b fun m => { m with ist := setBit m.ist i }
  if bit m.ist i then s
  else if bit m.ctl (if i = 1 then 1 else 0) then fireBox s b
  else s

/-- BACKLOG: requests taken and not yet replied to (R296). -/
def backlogCount (m : Mbx) : Nat := m.backlog.length + (if m.held.isSome then 1 else 0)

/-- A mailbox of PF0. -/
def isPf0Box : Box → Bool
  | .pf0 _ => true
  | .vf _ _ => false

/-- Firmware serves a mailbox: READY, or in the stopped state of a boot a PF0 mailbox, no live activation under way, not flushing or
stopped (R296, R301, R354). -/
def serving (s : State) (b : Box) : Bool :=
  (s.boot.ready || (s.boot.stopped && isPf0Box b)) && s.rst.actState == 0 && !flushing s && !s.ckm.stopped

/-! ### Host writes -/

/-- The host's access to a mailbox: through PF0 of the writing port, or through its VF. -/
def boxPath (p : Port) : Box → Port × Nat
  | .pf0 _ => (p, 0)
  | .vf q fn => (q, fn)

/-- A host write to a mailbox: a PF0 mailbox needs its lock (R299), and reserved bits stay 0 (R4). -/
def boxWrite (cause : Nat) (p : Port) (b : Box) (off rsv : Nat) (v : Word) (s : State) (k : State → Nat → Res) : Res :=
  let q := boxPath p b
  regWriteBy cause q.1 q.2 s fun s =>
    if v.toNat &&& rsv ≠ 0 then .fault (.reservedWrite q.1 q.2 off)
    else match b with
      | .pf0 n => if (getMbx s b).owner ≠ agentOf p then .fault (.mailboxWithoutLock p n) else k s (agentOf p)
      | .vf _ _ => k s 0

/-- A frame goes to the tail of a request queue, or is dropped (R295). -/
def pushRequest (s : State) (b : Box) (f : Frame) : State :=
  if (getMbx s b).reqQ.length ≥ 16 then
    setIst (modMbx s b fun m => { m with drops := satAdd 0xFFFF m.drops 1 }) b 2
  else modMbx s b fun m => { m with reqQ := m.reqQ ++ [f] }

/-- MBX_DOORBELL (R295): the window is copied to the tail of the request queue. -/
def execMbxDoorbell (p : Port) (b : Box) (v : Word) (s : State) : Res :=
  boxWrite 2 p b 0x40 0xFFFFFFFE v s fun s agent =>
    if flag v 0 then .next (pushRequest s b { bytes := padTo 64 (getMbx s b).req, agent := agent }) else .next s



/-! ### Locks -/

/-- A read of MBX_LOCKn by an agent (R298): the answer, and the winner becomes the owner. -/
def readLock (s : State) (n agent : Nat) : State × Nat :=
  let o := (getMbx s (.pf0 n)).owner
  (if o = 0 then modMbx s (.pf0 n) fun m => { m with owner := agent } else s, o)

/-- MBX_LOCK_READ (R298). -/
def execMbxLockRead (p : Port) (n : Nat) (s : State) : Res :=
  hostAccess p 0 3 s fun s =>
    let r := readLock s n (agentOf p)
    .next (emit r.1 (.value p (BitVec.ofNat 32 r.2)))

/-- A release of a lock by an agent: only the owner's own number releases (R298). -/
def releaseLock (s : State) (n agent v : Nat) : State :=
  if (getMbx s (.pf0 n)).owner = agent ∧ v = agent then modMbx s (.pf0 n) fun m => { m with owner := 0 } else s

/-- MBX_LOCK_RELEASE (R298). -/
def execMbxLockRelease (p : Port) (n : Nat) (v : Word) (s : State) : Res :=
  regWrite p 0 s fun s =>
    if v.toNat &&& 0xFFFFFFF8 ≠ 0 then .fault (.reservedWrite p 0 (0x30054 + n * 0x100))
    else .next (releaseLock s n (agentOf p) (fld v 0 3))

/-- The 10 ms of R361 begin: the device warm reset of FW_ACTIVATE mode 2 follows. -/
def startReplyTimer (s : State) : State := { s with rst := { s.rst with warmPhase := 1, nextCause := 3, warmNs := s.nowNs } }

/-- What a mailbox loses with its owner or its VF (R300): its queues are emptied, and the replies of requests in its
backlog or executing, and of one held, are discarded. -/
def discardBox (s : State) (b : Box) : State :=
  let s := match (getMbx s b).held with
    | some f => if f.resets then startReplyTimer s else s
    | none => s
  modMbx s b fun m => { m with
    reqQ := [], rspQ := [], held := none, backlog := m.backlog.map fun f => { f with mute := true } }

/-- A PF0 mailbox's lock leaves its owner without a release write (R300): free, discarded, and recorded. -/
def breakLock (s : State) (n cause breaker : Nat) : State :=
  let m := getMbx s (.pf0 n)
  let s := modMbx (discardBox s (.pf0 n)) (.pf0 n) fun m => { m with owner := 0 }
  logEv s 2 (src 4 n) 0x4001 (leBytes 1 m.owner ++ leBytes 1 cause ++ leBytes 1 breaker ++ leBytes 1 0 ++
    leBytes 1 m.reqQ.length ++ leBytes 1 m.rspQ.length)

/-- MBX_BREAK (R300): with its key, by any agent, the lock of an owned mailbox is released. -/
def execMbxBreak (p : Port) (v : Word) (s : State) : Res :=
  regWrite p 0 s fun s =>
    if v.toNat &&& 0x00FFFFF8 ≠ 0 then .fault (.reservedWrite p 0 0x30800)
    else
      let n := fld v 0 3
      let o := (getMbx s (.pf0 n)).owner
      if fld v 24 8 = 0x5A ∧ 1 ≤ o ∧ o ≤ 3 then .next (breakLock s n 3 (agentOf p)) else .next s

/-- Every PF0 mailbox that a port's agent owns loses its lock (R300). -/
def breakPort (s : State) (p : Port) (cause : Nat) : State :=
  (List.range 8).foldl (fun s n => if (getMbx s (.pf0 n)).owner = agentOf p then breakLock s n cause 0 else s) s

/-- A tenant mailbox is discarded and that is recorded (R300). -/
def discardVfBox (s : State) (p : Port) (fn cause : Nat) : State :=
  let b := Box.vf p fn
  let m := getMbx s b
  let s := discardBox s b
  logEv s 2 (src 4 (0x400 + (fn - 1))) 0x4001 (leBytes 1 0 ++ leBytes 1 cause ++ leBytes 1 0 ++ leBytes 1 p.num ++
    leBytes 1 m.reqQ.length ++ leBytes 1 m.rspQ.length)

/-- A tenant mailbox is discarded, and its registers return to reset (R45, R300). -/
def dropVfBox (s : State) (p : Port) (fn cause : Nat) : State :=
  modMbx (discardVfBox s p fn cause) (.vf p fn) fun m => { backlog := m.backlog, busy := m.busy }

/-! ### Frames -/

/-- A reply frame (Table 13.4): the request's TAG, OPCODE, TARGET and SEQ, the result, VAL0 to VAL7, the reply data's
lengths and the agent. -/
def replyBytes (req : List Byte) (result : Nat) (vals : List Nat) (written needed agent : Nat) : List Byte :=
  slice req 0 1 ++ leBytes 1 result ++ slice req 2 2 ++ slice req 4 4 ++
    (List.range 4).flatMap (fun i => leBytes 4 (nth 0 vals i)) ++ leBytes 4 written ++ leBytes 4 needed ++ leBytes 4 agent ++
    (List.range 4).flatMap (fun i => leBytes 4 (nth 0 vals (i + 4))) ++ leBytes 8 0 ++
    leBytes 1 0xC3 ++ slice req 61 1 ++ leBytes 2 0

/-- OPCODE of a request frame (Table 13.3). -/
def fOp (b : List Byte) : Nat := leAt b 0 1
/-- FLAGS of a request frame. -/
def fFlags (b : List Byte) : Nat := leAt b 1 1
/-- TARGET of a request frame. -/
def fTarget (b : List Byte) : Nat := leAt b 4 4
/-- ARG0 to ARG3 of a request frame. -/
def fArg (b : List Byte) (i : Nat) : Nat := leAt b (8 + 4 * i) 4
/-- DADDR of a request frame. -/
def fDaddr (b : List Byte) : Nat := leAt b 24 8
/-- DLEN of a request frame. -/
def fDlen (b : List Byte) : Nat := leAt b 32 4
/-- ARG4 of a request frame. -/
def fArg4 (b : List Byte) : Nat := leAt b 36 4
/-- RADDR of a request frame. -/
def fRaddr (b : List Byte) : Nat := leAt b 40 8
/-- RLEN of a request frame. -/
def fRlen (b : List Byte) : Nat := leAt b 48 4
/-- KEY of a request frame. -/
def fKey (b : List Byte) : Nat := leAt b 60 1
/-- DWORDs 13 and 14 and DWORD 15 [31:16], which are 0. -/
def fZero (b : List Byte) : Nat := leAt b 52 8 + leAt b 62 2

/-- The configuring operations of R311. -/
def configuring (op : Nat) : Bool :=
  op == 0x82 || op == 0x84 || op == 0x85 || op == 0x86 || op == 0x87 || op == 0x88 || op == 0x8A || op == 0x8B || op == 0x8C

/-- MBX_TAKE_REQUEST (R296): the head of a request queue moves into the backlog while that has room; SPACE is set.
Frames stay queued during a device warm reset (Table 14.9). -/
def execMbxTakeRequest (b : Box) (s : State) : Res :=
  let m := getMbx s b
  match m.reqQ with
  | [] => .next s
  | f :: t =>
    if serving s b && !s.adm.shutdown && decide (backlogCount m < 16) then
      let g := { f with no := s.takeNo, duringSan := s.cip.san.isSome }
      let s := modMbx s b fun m => { m with reqQ := t, backlog := m.backlog ++ [g] }
      .next (setIst { s with takeNo := s.takeNo + 1 } b 1)
    else .next s

/-- A generated reply still waits for what it reports to be durable. -/
def notDurable (s : State) (f : Frame) : Bool := f.after.any fun j => decide (s.plp.jSeq ≤ j)

/-- A configuring operation taken before order `no` has not ended (R311). -/
def cfgEarlier (s : State) (no : Nat) : Bool :=
  s.mbxs.any fun e => e.2.backlog.any (fun f => configuring (fOp f.bytes) && decide (f.no < no)) || e.2.held.any (notDurable s)

/-- The request that a mailbox can start now: its oldest, with no reply of the mailbox held, none executing, and no
earlier configuring operation under way (R296, R311). -/
def nextReq (s : State) (b : Box) : Option Frame :=
  let m := getMbx s b
  match m.backlog with
  | [] => none
  | f :: _ => if serving s b && m.held.isNone && !m.busy && !cfgEarlier s f.no then some f else none

/-- Most reply data that a request can take (R304). -/
def room (f : Frame) : Nat := min (fRlen f.bytes) (if f.agent = 3 then 4096 else 1048576)

/-- The oldest request of a mailbox ends: its reply is generated, its data cut to the room (R304); a muted request has
no reply (R300). -/
def finishReq (s : State) (b : Box) (result : Nat) (vals : List Nat) (data : List Byte) : State :=
  let m := getMbx s b
  match m.backlog with
  | [] => s
  | f :: t =>
    let cut := data.take (room f)
    let r : Frame := { bytes := replyBytes f.bytes result vals cut.length data.length f.agent, data := cut
                       agent := f.agent, raddr := fRaddr f.bytes }
    modMbx s b fun m => { m with backlog := t, busy := false, held := if f.mute then none else some r }

/-- The oldest request of a mailbox ends with a reply that follows the journal page of its record (R277, R313, R322; log 139). -/
def finishDurable (s : State) (b : Box) (result : Nat) (vals : List Nat) (data : List Byte) : State :=
  modMbx (finishReq (stageRec s) b result vals data) b fun m => { m with held := m.held.map fun f => { f with after := some s.plp.jSeq } }

/-- MBX_REPLY_POST (R296): the generated reply goes to the reply queue when that has space, its data written to host
memory first, its interrupt last. It waits for what it reports to be durable, and its data while its function cannot write (R301). The reply of FW_ACTIVATE mode 2 starts the
10 ms of R361. -/
def execMbxReplyPost (b : Box) (s : State) : Res :=
  let m := getMbx s b
  match m.held with
  | none => .next s
  | some f =>
    let path := boxPath (agentPort f.agent) b
    let dma := f.agent != 3 && !f.data.isEmpty
    if m.rspQ.length ≥ 16 || notDurable s f || !s.boot.ready && !s.boot.stopped then .next s
    else if dma && !canWrite s path.1 path.2 then .next s
    else
      let s := if dma then emit s (.bytes path.1 path.2 f.raddr f.data (getFn s path.1 path.2).relaxed) else s
      let s := if f.resets then startReplyTimer s else s
      .next (setIst (modMbx s b fun m => { m with held := none, rspQ := m.rspQ ++ [f] }) b 0)

/-! ### Notices -/

/-- A notice to a mailbox (R306): posted when its NOTICE_EN is 1 and at least 4 entries are free, else counted. -/
def noticeTo (s : State) (code v1 v2 v3 : Nat) (b : Box) : State :=
  let m := getMbx s b
  if !bit m.ctl 2 then s
  else if m.rspQ.length > 12 then
    setIst (modMbx s b fun m => { m with notices := satAdd 0xFFFF m.notices 1 }) b 3
  else
    let req := leBytes 4 0xFFFF00C0 ++ List.replicate 60 0
    setIst (modMbx s b fun m => { m with rspQ := m.rspQ ++ [{ bytes := replyBytes req 0 [code, v1, v2, v3] 0 0 0 }] }) b 0

/-- A notice to every PF0 mailbox. -/
def noticePf0 (s : State) (code v1 v2 v3 : Nat) : State :=
  (List.range 8).foldl (fun s n => noticeTo s code v1 v2 v3 (.pf0 n)) s

/-- A notice to a tenant's own mailboxes. -/
def noticeTenant (s : State) (t code v1 v2 v3 : Nat) : State :=
  [Port.a, Port.b].foldl (fun s p => if fnExists s p (t + 1) then noticeTo s code v1 v2 v3 (.vf p (t + 1)) else s) s

/-- An emptied key slot: what is saved of it stays (R274). -/
def emptySlot (k : KeySlot) : KeySlot := { kcv := k.kcv, loads := k.loads, plain := k.plain }

/-- Notice 3 (Table 13.6a): a key slot was emptied. -/
def keyNotice (s : State) (t cause : Nat) : State := noticeTenant (noticePf0 s 3 t cause 0) t 3 t cause 0

/-- ALERT_N is asserted (R309): agent 3 owns a mailbox with ALERT_EN 1 and a reply waiting. -/
def alertOn (s : State) : Bool :=
  (List.range 8).any fun n =>
    let m := getMbx s (.pf0 n)
    m.owner == 3 && bit m.ctl 3 && !m.rspQ.isEmpty

end Sys2Proof.Machine
end

