-- ==== Sys2Proof/Machine/MergeBuf.lean ====
section
/-! DEFINITION. The merge buffers of the two HBM controllers (R231), primer bits (R234), and the narrow writes of the
conventional-zone map. HBM addresses: line index A[36:6], unit A[36:12], stack A[12]. -/

namespace Sys2Proof.Machine

/-- The stack of a line. -/
def lineStack (line : Nat) : Nat := line / 64 % 2

/-- A 68-bit mask of every byte of a line. -/
def fullMask : Nat := 2 ^ 68 - 1

/-- A unit's primer bit is set (R234). -/
def prime (m : Mep) (unit : Nat) : Mep := { m with primed := Tab.set false m.primed unit true }

/-- A line's corrected write-back is dropped: a later write replaces it (R238). -/
def dropFix (m : Mep) (mem addr : Nat) : Mep :=
  { m with pendFix := m.pendFix.filter fun e => !(e.1 == mem && e.2.1 == addr) }

/-- Entries of a stack. -/
def mergesOf (m : Mep) (stack : Nat) : List Merge := m.merges.filter fun e => e.stack == stack

/-- A new entry, or the one the line has with its bytes added, becomes the most recently written; the least recently written
of 32 makes room; an entry whose mask becomes full is written out (R231). -/
def putMerge (m : Mep) (now line mask : Nat) : Mep :=
  let st := lineStack line
  let old := ((m.merges.find? fun e => e.line == line).map Merge.mask).getD 0
  let rest := m.merges.filter fun e => e.line != line
  let full := decide (32 ≤ (rest.filter fun e => e.stack == st).length)
  let rest := if full then rest.eraseP fun e => e.stack == st else rest
  let mask := old ||| mask
  { m with merges := if mask = fullMask then rest else rest ++ [{ stack := st, line := line, mask := mask, sinceNs := now }] }

/-- A narrow write of HBM (R231, R234): the first write of an unprimed unit is written over zeros at once. -/
def narrowWrite (s : State) (line mask : Nat) : State :=
  let m := dropFix s.mep (lineStack line) line
  if Tab.get false m.primed (line / 64) then { s with mep := putMerge m s.nowNs line mask }
  else { s with mep := prime m (line / 64) }

/-- First address of the conventional-zone map, as a line index: the region after the buffer pool (Table 1.4). -/
def mapLine0 : Nat := 0x40000000

/-- The map entries of `n` 4 KiB pieces from `i` on are written (R125, R126), 8 bytes each. -/
def mapWrite (s : State) (t z i n : Nat) : State :=
  (List.range n).foldl (fun s j =>
    let e := Config.mapEntry t z (i + j) % 2 ^ 28
    narrowWrite s (mapLine0 + e / 8) (255 * 2 ^ (8 * (e % 8)))) s

end Sys2Proof.Machine
end

