-- ==== Sys2Proof/Machine/Geometry.lean ====
section
/-! DEFINITION. Where things are: LUN, channel and block numbers (R10), block roles (Table 8.8), a zone's layout (R112),
the choice of members (R111) and of free blocks. -/

namespace Sys2Proof.Machine

/-- Device LUN of a block number. -/
def blkLun (b : Nat) : Nat := b / 16384
/-- Device channel of a LUN: bits [41:35] of the media address (R10). -/
def lunCh (l : Nat) : Nat := l / 32
/-- Device channel of a block number. -/
def blkCh (b : Nat) : Nat := lunCh (blkLun b)
/-- Quadrant of a channel. -/
def chQuad (c : Nat) : Nat := c / 32
/-- Channel group Q‖G of a channel. -/
def chGrp (c : Nat) : Nat := c / 8
/-- Volume of a LUN on its channel. -/
def lunVol (l : Nat) : Nat := l / 4 % 8

/-- A media address (Table 1.3). -/
def mediaAddr (blk plane page sector : Nat) : Nat :=
  blkLun blk * 2 ^ 30 + plane * 2 ^ 28 + blk % 16384 * 2 ^ 14 + page * 4 + sector

/-- A channel. -/
def getChan (s : State) (c : Nat) : Chan := Tab.get {} s.media.chans c
/-- The state with a channel rewritten. -/
def modChan (s : State) (c : Nat) (f : Chan → Chan) : State :=
  { s with media := { s.media with chans := Tab.upd {} s.media.chans c f } }
/-- A LUN. -/
def getLun (s : State) (l : Nat) : Lun := Tab.get {} s.media.luns l
/-- The state with a LUN rewritten. -/
def modLun (s : State) (l : Nat) (f : Lun → Lun) : State :=
  { s with media := { s.media with luns := Tab.upd {} s.media.luns l f } }
/-- A flash block. -/
def getBlk (s : State) (b : Nat) : FBlk := Tab.get {} s.media.blks b
/-- The state with a flash block rewritten. -/
def modBlk (s : State) (b : Nat) (f : FBlk → FBlk) : State :=
  { s with media := { s.media with blks := Tab.upd {} s.media.blks b f } }
/-- A staging extent. -/
def getExt (s : State) (e : Nat) : Ext := Tab.get {} s.media.exts e
/-- The state with a staging extent rewritten. -/
def modExt (s : State) (e : Nat) (f : Ext → Ext) : State :=
  { s with media := { s.media with exts := Tab.upd {} s.media.exts e f } }
/-- An undercoat block set. -/
def getSet (s : State) (i : Nat) : UcSet := Tab.get {} s.media.sets i
/-- The state with an undercoat block set rewritten. -/
def modSet (s : State) (i : Nat) (f : UcSet → UcSet) : State :=
  { s with media := { s.media with sets := Tab.upd {} s.media.sets i f } }
/-- A fold group. -/
def getFold (s : State) (i : Nat) : Fold := Tab.get {} s.media.folds i
/-- The state with a fold group rewritten. -/
def modFold (s : State) (i : Nat) (f : Fold → Fold) : State :=
  { s with media := { s.media with folds := Tab.upd {} s.media.folds i f } }
/-- A relocation. -/
def getReloc (s : State) (i : Nat) : Reloc := Tab.get {} s.media.relocs i
/-- The state with a relocation rewritten. -/
def modReloc (s : State) (i : Nat) (f : Reloc → Reloc) : State :=
  { s with media := { s.media with relocs := Tab.upd {} s.media.relocs i f } }

/-- The next number for a queued operation, extent, fold or relocation. -/
def newId (s : State) : State × Nat :=
  ({ s with media := { s.media with idCtr := s.media.idCtr + 1 } }, s.media.idCtr)

/-- Lifetime counter `k` of Table 8.10 rises by `n`. -/
def mcnt (s : State) (k n : Nat) : State := { s with hlt := { s.hlt with mcnts := bump s.hlt.mcnts k n } }

/-- Channel counter `k` of Table 7.9 rises by `n`. -/
def chCnt (s : State) (c k n : Nat) : State := modChan s c fun x => { x with cnts := bump x.cnts k n }

/-- A FCH_EVT bit is set, with its generic record (Table 17.8). -/
def setFchEvt (s : State) (c b sev : Nat) : State :=
  raiseEvt s (getChan s c).evt b (fun s v => modChan s c fun x => { x with evt := v }) sev 9 c
    (0x100008 + c / 32 * 0x10000 + c % 32 * 0x800)

/-- An HLT_EVT bit is set as its condition first arises; with its HLT_EVT_EN bit at 1 it fires PF0 vector 11 and writes
a record (R210). -/
def setHltEvt (s : State) (b inst sev : Nat) : State :=
  if bit s.hlt.evt b then s
  else
    let s := { s with hlt := { s.hlt with evt := setBit s.hlt.evt b } }
    if bit s.hlt.evtEn b then firePf0 (genericEv s sev 0xE inst b 0x300004 s.hlt.evt) 11 else s

/-- A LUN in service: trained channel, volume present and not excluded, LUN present and not retired, now or at an earlier boot (R206). -/
def lunOk (s : State) (l : Nat) : Bool :=
  let c := getChan s (lunCh l)
  let v := Tab.get {} c.vols (lunVol l)
  c.trained && v.present && !v.excluded && decide (l % 4 < v.luns) && !(getLun s l).retired && !s.media.deadLuns.contains l

/-- Nominal blocks of a LUN that are kept back as its spares, where it has none beyond them (R11, R201). -/
def keptBack (s : State) : Nat := if 4096 * s.media.lunTbit < s.media.lunBlocks then 0 else min Config.qualSpares (4096 * s.media.lunTbit)

/-- Nominal blocks of a LUN, 4,096 for each Tb (R11), less those kept back as spares. -/
def nominal (s : State) : Nat := 4096 * s.media.lunTbit - keptBack s

/-- Blocks of a LUN with its spares: at most 16,384 (R11). -/
def lunTotal (s : State) : Nat := max (4096 * s.media.lunTbit) (min 16384 s.media.lunBlocks)

/-- The `n` nominal blocks of a group, numbered across its LUNs, that the roles of Table 8.8 take: start and end. The undercoat takes 8 % of
them. -/
def roleSpan (n : Nat) : Role → Nat × Nat
  | .system => (0, 1400)
  | .reserve => (1400, 13688)
  | .undercoat => (13688, 13688 + n * 8 / 100)
  | .pool => (13688 + n * 8 / 100, n)
  | _ => (0, 0)

/-- The blocks of a LUN that have a role by their number: first and one past the last (log 30, DESIGN CHOICE). -/
def lunSpan (s : State) (l : Nat) (r : Role) : Nat × Nat :=
  if r = .spare then (nominal s, lunTotal s)
  else
    let i := l % 256
    let sp := roleSpan (256 * nominal s) r
    (min (nominal s) (cdiv (sp.1 - i) 256), min (nominal s) (cdiv (sp.2 - i) 256))

/-- The role that a block's number gives it. -/
def natRole (s : State) (b : Nat) : Role :=
  let i := b % 16384
  let l := blkLun b
  match [Role.pool, .undercoat, .reserve, .system, .spare].find? fun r =>
      decide ((lunSpan s l r).1 ≤ i) && decide (i < (lunSpan s l r).2) with
  | some r => r
  | none => .retired

/-- The role of a block: retired with its LUN (R206), or the one it was given, or the one its number gives it. -/
def roleOf (s : State) (b : Nat) : Role :=
  if s.media.deadLuns.contains (blkLun b) then .retired
  else (getBlk s b).role.getD (natRole s b)

/-- Blocks of a role in service on the channels that `f` picks out. -/
def roleCount (s : State) (r : Role) (f : Nat → Bool) : Nat :=
  let listed := s.media.blks.filter fun e => f (blkCh e.1) && lunOk s (blkLun e.1)
  let whole := sumBy (fun c => if f c then sumBy (fun i =>
    if lunOk s (c * 32 + i) then (lunSpan s (c * 32 + i) r).2 - (lunSpan s (c * 32 + i) r).1 else 0) (List.range 32) else 0) (List.range 128)
  whole + (listed.filter fun e => natRole s e.1 != r && roleOf s e.1 == r).length -
    (listed.filter fun e => natRole s e.1 == r && roleOf s e.1 != r).length

/-- Erase count of a block: format erased every block once (R201). -/
def eraseCount (s : State) (b : Nat) : Nat := (getBlk s b).erases + s.media.eraseBase

/-- A block that can be handed out: erased, checked since (R207), on its ready list for the zone block pool (R13), not in
use, and of the wanted role. -/
def freeAs (s : State) (r : Role) (b : Nat) : Bool :=
  let f := getBlk s b
  roleOf s b = r && f.erased && !f.inUse && !f.failed && !f.eraseIntent &&
    (f.erases == 0 || (f.checked && (f.ready || r != .pool)))

/-- The first block number of a LUN from `i` up, below `hi`, that is not listed in the block table. -/
def firstUnlisted (s : State) (l : Nat) : Nat → Nat → Nat → Option Nat
  | 0, _, _ => none
  | fuel + 1, i, hi =>
    if hi ≤ i then none
    else if s.media.blks.any fun e => e.1 == l * 16384 + i then firstUnlisted s l fuel (i + 1) hi
    else some (l * 16384 + i)

/-- The block of a role that a LUN hands out: lowest erase count first (R196), then lowest number (log 31, DESIGN CHOICE). -/
def availBlk (s : State) (l : Nat) (r : Role) : Option Nat :=
  let mine := s.media.blks.filter fun e => blkLun e.1 == l
  let sp := lunSpan s l r
  let fresh := (firstUnlisted s l (mine.length + 1) sp.1 sp.2).toList
  let used := (mine.filter fun e => freeAs s r e.1).map Prod.fst
  if !lunOk s l then none
  else (fresh ++ used).foldl (fun acc b => match acc with
    | none => some b
    | some a => if eraseCount s b < eraseCount s a then some b else acc) none

/-- The LUNs of a channel. -/
def chLuns (c : Nat) : List Nat := (List.range 32).map fun i => c * 32 + i

/-- Ready blocks of a role on a LUN. -/
def readyLun (s : State) (l : Nat) (r : Role) : Nat :=
  let sp := lunSpan s l r
  let mine := s.media.blks.filter fun e => blkLun e.1 == l
  let nom := (mine.filter fun e => decide (sp.1 ≤ e.1 % 16384) && decide (e.1 % 16384 < sp.2)).length
  if lunOk s l then sp.2 - sp.1 - nom + (mine.filter fun e => freeAs s r e.1).length else 0

/-- Ready blocks of the zone block pool on a channel. -/
def readyCh (s : State) (c : Nat) : Nat := sumBy (fun l => readyLun s l .pool) (chLuns c)

/-- Members of OPEN zones on the channels and blocks that `f` picks out. -/
def openMembers (s : State) (f : Member → Bool) : Nat :=
  sumBy (fun e => if e.2.st = .opened then (e.2.members.filter f).length else 0) s.zones

/-- The better of two channels for a member (R111): fewest members of OPEN zones, then most ready blocks, then the
lowest number. -/
def betterCh (s : State) (a b : Nat) : Bool :=
  let oa := openMembers s fun m => m.ch == a
  let ob := openMembers s fun m => m.ch == b
  if oa ≠ ob then decide (oa < ob)
  else if readyCh s a ≠ readyCh s b then decide (readyCh s b < readyCh s a)
  else decide (a < b)

/-- The best of a list of channels. -/
def bestCh (s : State) (l : List Nat) : Option Nat :=
  l.foldl (fun acc c => match acc with
    | none => some c
    | some a => if betterCh s c a then some c else acc) none

/-- A channel that can take a zone member: trained, with some volume in service (R160). -/
def chUsable (s : State) (c : Nat) : Bool := (chLuns c).any (lunOk s)

/-- The channels of a quadrant. -/
def quadChs (q : Nat) : List Nat := (List.range 32).map fun i => q * 32 + i

/-- A channel for a member where none meets R111, since too few are usable (R160): the best usable one of the quadrant that no other member of
the list holds, or else of the device, or else the lowest of the quadrant that is not held, usable or not (log 130, DESIGN CHOICE). -/
def spareCh (s : State) (q : Nat) (held : List Nat) : Nat :=
  let free := fun c => !held.contains c
  match bestCh s ((quadChs q).filter fun c => chUsable s c && free c) with
  | some c => c
  | none => match bestCh s ((List.range 128).filter fun c => chUsable s c && free c) with
    | some c => c
    | none => ((quadChs q ++ List.range 128).find? free).getD 0

/-- The data members' channels, chosen in order of member number (R111, R132). -/
def dataChs (s : State) (w : Nat) (aff : Option Nat) : Nat → List Nat → List Nat
  | 0, acc => acc
  | n + 1, acc =>
    let m := acc.length
    let q := aff.getD (m % 4)
    let perGrp := max 1 (w / 16)
    let cands := (quadChs q).filter fun c =>
      chUsable s c && !acc.contains c &&
        (match aff with
          | some _ => decide (chGrp c % 4 = m % 4)
          | none => decide ((acc.filter fun d => chGrp d == chGrp c).length < perGrp))
    dataChs s w aff n (acc ++ [(bestCh s cands).getD (spareCh s q acc)])

/-- The channel of parity member `k`: quadrant (zone + k) mod 4, distinct from the data members of its group (R110,
R111). -/
def parityCh (s : State) (z k : Nat) (aff : Option Nat) (data : List Nat) : Nat :=
  let q := aff.getD ((z + k) % 4)
  let mine := (data.drop (16 * k)).take 16
  (bestCh s ((quadChs q).filter fun c => chUsable s c && !mine.contains c)).getD (spareCh s q mine)

/-- Quadrant affinity of a hint at a width: hints 4 to 7 with W ≤ 32 (R132). -/
def affinity (w hint : Nat) : Option Nat := if 4 ≤ hint ∧ hint ≤ 7 ∧ w ≤ 32 then some (hint - 4) else none

/-- A zone's member map as it is fixed when the zone leaves EMPTY: data members, then parity members (R111). -/
def newMembers (s : State) (t : Tenant) (z hint : Nat) : List Member :=
  let aff := affinity t.w hint
  let d := dataChs s t.w aff t.w []
  let p := (List.range (parityN t)).map fun k => parityCh s z k aff d
  (d ++ p).map fun c => { ch := c, blk := none }

/-- Stripe row of a zone LBA (R112). -/
def rowOf (t : Tenant) (lba : Nat) : Nat := lba * t.blk / (t.w * 65536)

/-- Data member of a zone LBA (R112). -/
def memberOf (t : Tenant) (lba : Nat) : Nat := lba * t.blk % (t.w * 65536) / 65536

/-- Plane and sector of part `sub` of a zone LBA in its member's page (R112). -/
def planeSector (t : Tenant) (lba sub : Nat) : Nat × Nat :=
  let o := lba * t.blk + sub * 4096
  (o % 65536 / 16384, o % 16384 / 4096)

/-- Parts of 4 KiB in a logical block. -/
def subs (t : Tenant) : Nat := t.blk / 4096

/-- The data members that a range of a zone reaches. -/
def reached (t : Tenant) (lba count : Nat) : List Nat :=
  (List.range t.w).filter fun m => (List.range count).any fun i => memberOf t (lba + i) == m

/-- The members, data and parity, that a write to a range reaches (R111). -/
def reachedAll (t : Tenant) (lba count : Nat) : List Nat :=
  let d := reached t lba count
  d ++ ((List.range (parityN t)).filter fun k => d.any fun m => m / 16 == k).map (· + t.w)

/-- The LUN of a channel that gives a member its block: fewest members of OPEN zones, most ready blocks, lowest number
(R111). -/
def pickLun (s : State) (c : Nat) : Option Nat :=
  ((chLuns c).filter fun l => (availBlk s l .pool).isSome).foldl (fun acc l => match acc with
    | none => some l
    | some a =>
      let f := fun x => openMembers s fun m => match m.blk with
        | some b => blkLun b == x
        | none => false
      if f l < f a ∨ (f l = f a ∧ readyLun s a .pool < readyLun s l .pool) then some l else acc) none

/-- A block for a member on a channel, from the ready-block lists (R203). -/
def takeBlock (s : State) (c : Nat) : Option Nat := (pickLun s c).bind fun l => availBlk s l .pool

/-- A channel group has no spare left (R94, R203). -/
def noSpare (s : State) (c : Nat) : Bool := Tab.get 0 s.media.spareRem (chGrp c) == 0

/-- A free block of a role on a channel. -/
def chBlk (s : State) (c : Nat) (r : Role) : Option Nat := (chLuns c).findSome? fun l => availBlk s l r

/-! ### Undercoat occupancy -/

/-- Staged extents: in the undercoat or taken for it, and not released. -/
def staged (s : State) : Nat := (s.media.exts.filter fun e => !e.2.released && !(getSet s e.2.set).blks.isEmpty).length

/-- Extents reserved under hint 3 (R130). -/
def reserved (s : State) : Nat := sumBy (fun e => e.2.resv) s.zones

/-- Undercoat occupancy, ‰, staged and reserved extents together (ADM_UC_OCC). -/
def ucOcc (s : State) : Nat := if s.media.ucTotal = 0 then 0 else (staged s + reserved s) * 1000 / s.media.ucTotal

/-- The undercoat gate as it stands: closed at UC_GATE_ON, opened below UC_GATE_OFF (R145). -/
def gateNow (s : State) : Bool :=
  if s.adm.ucGateOn * 10 ≤ ucOcc s then true else if ucOcc s < s.adm.ucGateOff * 10 then false else s.adm.ucGate

/-- The gate follows the occupancy at each moment that changes it (R145). -/
def watchGate (s : State) : State := { s with adm := { s.adm with ucGate := gateNow s } }

end Sys2Proof.Machine
end

