-- ==== Sys2Proof/Machine/Budget.lean ====
section
/-! DEFINITION. The dirty budget (R252 to R258): R_flush, D_max, t_flush, the FLUSH reserve and the emergency blocks. -/

namespace Sys2Proof.Machine

/-- A PWR_PLP_EVT bit is set, with its generic record. -/
def setPlpEvt (s : State) (b sev : Nat) : State :=
  raiseEvt s s.plp.evt b (fun s v => { s with plp := { s.plp with evt := v } }) sev 0xD 0 0x1C028

/-- MT/s of a rate code (FCH_CH_STAT.RATE). -/
def codeMts : Nat → Nat
  | 1 => 800
  | 2 => 1600
  | 3 => 2400
  | 4 => 3200
  | 5 => 3600
  | _ => 0

/-- Quadrant q takes no part: its reset has begun, or it failed (R256, R342). -/
def quadOut (s : State) (q : Nat) : Bool :=
  Tab.get 0 s.rst.qState q == 2 || (Tab.get 0 s.rst.qState q == 1 && Tab.get 0 s.rst.qPhase q != 7)

/-- A channel in service for R253: trained, not in a quadrant under reset, with its emergency blocks. -/
def chInService (s : State) (c : Nat) : Bool :=
  (getChan s c).trained && !quadOut s (chQuad c) && decide (s.plp.emergReq ≤ Tab.get 0 s.plp.emergAvail c)

/-- All 128 device channels. -/
def allChs : List Nat := List.range 128

/-- A sum of fractions. -/
def addFrac (x y : Nat × Nat) : Nat × Nat := if x.2 = y.2 then (x.1 + y.1, x.2) else (x.1 * y.2 + y.1 * x.2, x.2 * y.2)

/-- The sum over channels of r_ch in bytes per µs, as a fraction (R253): by rate code, so that its terms stay few. -/
def channelTerm (s : State) : Nat × Nat :=
  (List.range 6).foldl (fun acc code =>
    let n := (allChs.filter fun c => chInService s c && (getChan s c).rate == code).length
    let r := codeMts code
    if n = 0 ∨ r = 0 then acc else addFrac acc (n * 16384 * r * 100, 1843200 + 23 * r)) (0, 1)

/-- R_flush in bytes per µs, as a fraction (R253). -/
def rflush (s : State) : Nat × Nat :=
  let c := channelTerm s
  let t := s.media.fpcPlpMax / 2 * 65536
  if c.1 * 80 ≤ t * c.2 then c else (t, 80)

/-- 500 MiB. -/
def dStep : Nat := 524288000

/-- D_max in MiB before the limit of the reserve (R254). -/
def dmaxRaw (holdMs : Nat) (r : Nat × Nat) : Nat :=
  let k1 := (holdMs - 5) * 1000 * r.1 / (r.2 * dStep)
  let fix := 9216 * 131072 + 67108864
  let k2 := ((holdMs * 1000 - 800) * r.1 - fix * r.2) / (dStep / 16 * 17 * r.2)
  min k1 k2 * 500

/-- The FLUSH reserve for a D_max in MiB (R220). -/
def reserveFor (dmax : Nat) : Nat := dmax * 16 + 8192

/-- Buffers left for the FLUSH reserve beside the other floors and the withdrawn buffers (R217, R251). -/
def reserveRoom (s : State) : Nat :=
  poolSize - (floorSum s.bpm - Tab.get 0 s.bpm.floors kFlush) - withdrawnN s.bpm

/-- t_flush(D, N) in µs, rounded up (R254); 0 when nothing can be programmed. -/
def tflush (s : State) (d n : Nat) : Nat :=
  let r := rflush s
  if r.1 = 0 then 0 else cdiv (800 * 16 * r.1 + (d * 17 + n * 131072 * 16 + 67108864 * 16) * r.2) (16 * r.1)

/-- Tenant and lifetime-group pairs that hold dirty data (PWR_PLP_PAIRS). -/
def dirtyPairs (s : State) : Nat :=
  ((s.vers.filter fun e => e.2.dirty).map fun e =>
    e.2.tenant * 16 + (if 8 ≤ e.2.hint then e.2.hint - 8 else 8)).eraseDups.length

/-- E_ch for a D_max in MiB (R257). -/
def echFor (dmax : Nat) : Nat := cdiv (9216 + dmax) 128 + 8

/-- Undercoat blocks of a channel in service by their number, less those in use as block sets, failed or retired. -/
def ucBlocks (s : State) (c : Nat) : Nat :=
  sumBy (fun l => readyLun s l .undercoat) (chLuns c)

/-- Every trained channel restores its emergency blocks from its undercoat (R257); a channel that cannot is short. -/
def refillEmerg (s : State) : State :=
  let e := allChs.foldl (fun t c =>
    if !(getChan s c).trained then Tab.set 0 t c 0
    else
      let have' := Tab.get 0 t c
      if s.plp.emergReq ≤ have' then t else Tab.set 0 t c (min s.plp.emergReq (max have' (ucBlocks s c)))) s.plp.emergAvail
  let short := allChs.any fun c => (getChan s c).trained && decide (Tab.get 0 e c < s.plp.emergReq)
  let s := { s with plp := { s.plp with emergAvail := e } }
  let s := if short && !s.plp.emergShort then setPlpEvt s 2 1 else s
  { s with plp := { s.plp with emergShort := short } }

/-- OVER follows D and D_max; its rise is recorded (R255). -/
def checkOver (s : State) : State :=
  let o := decide (s.plp.dmaxMib * 1048576 < dirtyBytes s)
  let s := if o && !s.plp.overD then setPlpEvt s 0 1 else s
  { s with plp := { s.plp with overD := o } }

/-- D_max, the FLUSH reserve and E_ch are computed afresh (R253, R254, R220, R257), D_max limited to what the reserve
leaves room for (R251); a new value is recorded when `note` says so. -/
def recompute (s : State) (note : Bool) : State :=
  let r := rflush s
  let fit := (reserveRoom s - 8192) / 8000 * 500
  let d := min (dmaxRaw s.plp.holdupMs r) fit
  let res := reserveFor d
  let changed := s.plp.dmaxMib != d
  let s := { s with
    plp := { s.plp with rateMbps := r.1 / r.2, dmaxMib := d, emergReq := echFor d }
    bpm := { s.bpm with floors := Tab.set 0 s.bpm.floors kFlush res, caps := Tab.set 0 s.bpm.caps kFlush res } }
  let s := refillEmerg s
  checkOver (if changed && note then setPlpEvt s 3 1 else s)

/-- The largest value up to `v` and from `lo` up whose reserve fits, for a field that `put` applies (R251). -/
def fitValue (s : State) (put : State → Nat → State) (lo : Nat) : Nat → Nat
  | 0 => 0
  | v + 1 =>
    let t := put s (v + 1)
    if v + 1 ≤ lo ∨ reserveFor (dmaxRaw t.plp.holdupMs (rflush t)) ≤ reserveRoom t then v + 1 else fitValue s put lo v

end Sys2Proof.Machine
end

