-- ==== Sys2Proof/Machine/Queues.lean ====
section
/-! DEFINITION. LUN queues (R151, R170): how reads, programs and erases enter them; undercoat sets and staging extents
(R192); how data is placed and its programs issued (R116, R128, R131). -/

namespace Sys2Proof.Machine

/-! ### Reads -/

/-- N_q by class (Table 6.7). -/
def nq (s : State) (cls : Nat) : Nat := s.adm.lunRqMax * 2 ^ cls

/-- Whether a read in progress counts among those ahead of a new one (R151). -/
def inProgress (l : Lun) : Nat :=
  match l.sub, l.op with
  | some _, _ => 1
  | none, some { k := .rd _, .. } => 1
  | _, _ => 0

/-- The reads that a suspension of the LUN still has to serve (R172). -/
def owedReads (u : Lun) : List Nat := match u.op with
  | some o => if o.susp = .ready then o.serve else []
  | none => []

/-- Splits the queue where a read of class `c` enters: behind every read of its class or higher, ahead of the lower-class
reads at the end that can still be passed (R151). None passes the reads that a suspension still has to serve (R172). -/
def passable (s : State) (c : Nat) (u : Lun) : List Rd × List Rd :=
  let tail := (u.rq.reverse.takeWhile fun r =>
    decide (c < r.cls) && decide (r.ahead < nq s r.cls) && !(owedReads u).contains r.id).reverse
  (u.rq.take (u.rq.length - tail.length), tail)

/-- A read enters its LUN's read queue, or the overflow list when the bound on reads ahead would be broken (R151). -/
def enterRd (s : State) (l : Nat) (r : Rd) : State :=
  let u := getLun s l
  let (front, back) := passable s r.cls u
  let ahead := front.length + inProgress u
  if ahead ≤ nq s r.cls then
    modLun s l fun u => { u with
      rq := front ++ [{ r with ahead := ahead }] ++ back.map fun b => { b with ahead := b.ahead + 1 } }
  else
    let lt := fun (a b : Rd) => decide (a.cls < b.cls) || (a.cls == b.cls && decide (a.order < b.order))
    modLun s l fun u => { u with ovf := insBy lt { r with ovf := true } u.ovf }

/-- The overflow list's head enters the read queue as soon as it can (R151). -/
def drainOvf (s : State) (l : Nat) : State :=
  let u := getLun s l
  match u.ovf with
  | [] => s
  | r :: t =>
    let (front, _) := passable s r.cls u
    if front.length + inProgress u ≤ nq s r.cls then enterRd (modLun s l fun u => { u with ovf := t }) l r else s

/-- A new page read is queued on its LUN; its number is answered. -/
def queueRd (s : State) (why : Why) (cls order blk page : Nat) (qlc : Bool) (secs : List SecReq) (lr : Bool) :
    State × Nat :=
  let (s, id) := newId s
  (enterRd s (blkLun blk)
    { id := id, why := why, cls := cls, order := order, blk := blk, page := page, qlc := qlc, secs := secs, tier := 0
      lr := lr, ahead := 0, ovf := false, susp := false }, id)

/-! ### Programs and erases -/

/-- What waited for tokens at the head of a queue waits no more (Table 7.9, FPC_WAIT_US). -/
def endTokWait (s : State) (l : Nat) : State :=
  match (getLun s l).tokNs with
  | none => s
  | some t => chCnt (modLun s l fun u => { u with tokNs := none }) (lunCh l) 13 ((s.nowNs - t) / 1000)

/-- Queued programs of blocks, and of extents that never began, are dropped; a head that waited for tokens and goes waits no more. -/
def dropPrograms (s : State) (blks exts : List Nat) : State :=
  let gone := fun (p : Pg) => blks.contains p.blk || match p.kind with
    | .uc e _ => exts.contains e
    | _ => false
  let heads := (s.media.luns.filter fun e => e.2.pq.head?.any gone).map Prod.fst
  let s := heads.foldl endTokWait s
  { s with media := { s.media with luns := Tab.mapv {} (fun _ u => { u with pq := u.pq.filter fun p => !gone p }) s.media.luns } }

/-- A block is handed out (R196, R203): it is checked for the erased state before it is used (R207), by a class BG read of its first and its last
wordline, and its ALLOC record is staged (R265). -/
def allocBlk (s : State) (b : Nat) (f : FBlk → FBlk) : State :=
  (queueRd (modBlk (stageRec s) b fun x => { f x with inUse := true, checked := false, ready := false, allocNo := s.plp.jSeq + 1 })
    .check 3 0 b 0 false [] false).1

/-- A program is queued on its LUN: FUA programs first in arrival order, then the others in arrival order (R170). -/
def queuePg (s : State) (k : PgKind) (blk page : Nat) (fua bg : Bool) : State :=
  let (s, id) := newId s
  let p : Pg := { id := id, kind := k, blk := blk, page := page, fua := fua, bg := bg, sinceNs := s.nowNs }
  modLun s (blkLun blk) fun u => { u with
    pq := if fua then (u.pq.filter Pg.fua) ++ [p] ++ u.pq.filter (fun x => !x.fua) else u.pq ++ [p] }

/-- An erase is queued on its LUN under its erase-intent record (R207, R265). -/
def eraseBlkQ (s : State) (blk : Nat) : State :=
  let s := modBlk s blk fun f => { f with eraseIntent := true, erased := false }
  let s := modLun s (blkLun blk) fun u => { u with
    eq := u.eq ++ [{ blk := blk, sinceNs := s.nowNs, jno := s.plp.jSeq }] }
  { s with plp := { s.plp with jRecs := s.plp.jRecs + 1 } }

/-- A block that is given up is queued for erase. -/
def queueEr (s : State) (blk : Nat) : State := eraseBlkQ (modBlk s blk fun f => { f with inUse := false }) blk

/-! ### Undercoat sets and extents -/

/-- The block a channel gives an undercoat set: a free undercoat block of any of its LUNs. While the group has spares, 64 free ones are kept
on each channel for exchanges (R202). -/
def ucBlock (s : State) (c : Nat) : Option Nat :=
  if !noSpare s c && decide (sumBy (fun l => readyLun s l .undercoat) (chLuns c) ≤ 64) then none
  else (chLuns c).findSome? fun l => availBlk s l .undercoat

/-- A new undercoat set: 17 blocks on 17 distinct channels of one quadrant (R192), taken in descending channel shutter
(R377), for one tenant and lifetime group. -/
def newSet (s : State) (q tenant grp : Nat) : Option (State × Nat) :=
  let chs := sortBy (fun a b => decide ((getChan s b).shut < (getChan s a).shut)) (quadChs q)
  let blks := (chs.filterMap (ucBlock s)).take 17
  if blks.length < 17 then none
  else
    let (s, id) := newId s
    let s := blks.foldl (fun s b => allocBlk s b fun f => { f with oneBit := true, role := some .undercoat }) s
    some (modSet s id fun _ => { quad := q, tenant := tenant, grp := grp, blks := blks }, id)

/-- The lifetime group of a hint: hints 8 to 15 name groups 0 to 7, the others one further group (R133). -/
def lifeGrp (hint : Nat) : Nat := if 8 ≤ hint then hint - 8 else 8

/-- The quadrant that a hint names, if it is a quadrant affinity (R132). -/
def hintQuad (hint : Nat) : Option Nat := if 4 ≤ hint ∧ hint ≤ 7 then some (hint - 4) else none

/-- The quadrants that staged data may go to, the first choice first: that of a quadrant-affinity hint alone (R132); without one, and for a
READ_ONLY zone, any (R204), in an open order (log 20, DESIGN CHOICE). -/
def stageQuads (s : State) (hint : Nat) (any : Bool) : List Nat :=
  match if any then none else hintQuad hint with
  | some q => [q]
  | none => (List.range 4).map fun i => (Config.stageQuad s.freeCtr + i) % 4

/-- A set with an extent left, or a new one, in a quadrant, for a tenant and lifetime group. -/
def setIn (s : State) (t grp q : Nat) : Option (State × Nat) :=
  match s.media.sets.find? fun e =>
      e.2.quad == q && e.2.tenant == t && e.2.grp == grp && decide (e.2.pages < 128) && !e.2.blks.isEmpty with
  | some e => some (s, e.1)
  | none => newSet s q t grp

/-- The staging key of a version: the zone whose extents it goes to and its generation, or none for its tenant's conventional stream (R125,
R131). -/
def stream (s : State) (x : Ver) : Option Nat × Nat := if isConv (tenD s x.tenant) x.zone then (none, 0) else (some x.zone, x.gen)

/-- A staging extent for a zone, or for the tenant's conventional stream (zone none), in a set of its tenant, lifetime
group and quadrant; none when no undercoat block is free. -/
def newExt (s : State) (t : Nat) (zone : Option Nat) (gen hint : Nat) : Option (State × Nat) :=
  let frozen := match zone with
    | some z => (getZone s t z).st == .readOnly
    | none => false
  let qs := stageQuads s hint frozen
  let s := { s with freeCtr := s.freeCtr + 1 }
  match qs.findSome? (setIn s t (lifeGrp hint)) with
  | none => none
  | some (s, i) =>
    let (s, id) := newId s
    let page := (getSet s i).pages
    let s := modSet s i fun x => { x with pages := x.pages + 1 }
    let fromResv := match zone with
      | some z => decide (0 < (getZone s t z).resv)
      | none => false
    let s := match zone with
      | some z => if fromResv then modZone s t z fun r => { r with resv := r.resv - 1 } else s
      | none => s
    let s := modExt s id fun _ => { set := i, page := page, tenant := t, zone := zone, gen := gen, stagedNs := s.nowNs, resv := fromResv }
    some (watchGate s, id)

/-- The extent that a zone or conventional stream is filling for a hint: not yet issued, with sectors free, in a set of the hint's lifetime
group (R133) and of the quadrant it names (R132). -/
def openExt (s : State) (t : Nat) (zone : Option Nat) (gen hint : Nat) : Option Nat :=
  (s.media.exts.find? fun e =>
    let y := getSet s e.2.set
    e.2.tenant == t && e.2.zone == zone && e.2.gen == gen && !e.2.issued && !e.2.released &&
      decide (e.2.secs.length + e.2.pad < 256) && !y.blks.isEmpty && y.grp == lifeGrp hint && (hintQuad hint).all (· == y.quad)).map Prod.fst

/-- The programs of an extent: pieces 0 to 15 and the parity piece on the 17 blocks of its set (R192). -/
def issueExt (s : State) (e : Nat) (fua : Bool) : State :=
  let x := getExt s e
  if x.issued then s
  else
    let s := modExt s e fun x => { x with issued := true, pad := 256 - x.secs.length }
    let blks := (getSet s x.set).blks
    (List.range 17).foldl (fun s i => queuePg s (.uc e i) (nth 0 blks i) x.page fua false) s

/-- An extent whose sectors are all taken and in HBM, or ended without data, is issued (R131). -/
def issueIfFull (s : State) (e : Nat) : State :=
  let x := getExt s e
  if decide (x.secs.length = 256) && x.secs.all (fun v => v == 0 || (getVer s v).hbm || (getVer s v).dead) then issueExt s e false
  else s

/-- A version's sectors take their places in a staging extent, which takes its 16 parity buffers from the tenant's
charge when it begins (R218). Where no extent can be had the version stays in its buffers. -/
def placeUc (s : State) (v : Nat) : State :=
  let x := getVer s v
  let t := tenD s x.tenant
  let (zone, gen) := stream s x
  let got := match openExt s x.tenant zone gen x.hint with
    | some e => if (getExt s e).secs.length + subs t ≤ 256 then some (s, e) else none
    | none => none
  let got := match got with
    | some r => some r
    | none => match newExt s x.tenant zone gen x.hint with
      | none => none
      | some (s, e) =>
        let n := min 16 (Tab.get 0 s.bpm.rsvds x.tenant)
        let (s, l) := popBufs s 2 x.tenant n
        some (modExt s e fun y => { y with parity := l }, e)
  match got with
  | none => s
  | some (s, e) =>
    modVer (modExt s e fun y => { y with secs := y.secs ++ List.replicate (subs t) v }) v fun y => { y with
      placed := true, loc := .buf }

/-- The extent that holds a version's sectors and the place of its first sector in it. -/
def extOf (s : State) (v : Nat) : Option (Nat × Nat) :=
  (s.media.exts.find? fun e => !e.2.released && e.2.secs.contains v).map fun e => (e.1, e.2.secs.idxOf v)

/-- Staging extents of a zone. -/
def zoneExts (s : State) (t z : Nat) : List Nat :=
  (s.media.exts.filter fun e =>
    e.2.tenant == t && e.2.zone == some z && !e.2.released && e.2.gen == (getZone s t z).gen && !e.2.secs.isEmpty).map
    Prod.fst

/-- A partly filled extent is programmed at once, padded (R96, R116). Versions in it that are not in HBM yet leave it and take places in
another extent: what is programmed is only data that has arrived. -/
def closeExt (s : State) (e : Nat) (fua : Bool) : State :=
  let out := (getExt s e).secs.eraseDups.filter fun v => v != 0 && !(getVer s v).hbm && !(getVer s v).dead
  let s := modExt s e fun x => { x with secs := x.secs.map fun v => if out.contains v then 0 else v }
  let s := out.foldl (fun s v => modVer s v fun x => { x with placed := false }) (issueExt s e fua)
  out.foldl placeUc s

/-- The partly filled extents of a zone are programmed at once, padded (R96, R116). -/
def stageZone (s : State) (t : Nat) (z : Nat) (fua : Bool) : State :=
  let zone := if isConv (tenD s t) z then none else some z
  let open' := (s.media.exts.filter fun e =>
    e.2.tenant == t && e.2.zone == zone && !e.2.issued && !e.2.released && e.2.secs.any fun v => v != 0 && (getVer s v).hbm).map Prod.fst
  open'.foldl (fun s e => closeExt s e fua) s

/-- Programs of a version's extent already queued go ahead of non-FUA programs (R96). -/
def promote (s : State) (e : Nat) : State :=
  let blks := (getSet s (getExt s e).set).blks
  blks.foldl (fun s b => modLun s (blkLun b) fun u =>
    let up := u.pq.map fun p => match p.kind with
      | .uc e' _ => if e' = e then { p with fua := true } else p
      | _ => p
    { u with pq := up.filter Pg.fua ++ up.filter fun p => !p.fua }) s

/-! ### Direct-to-topcoat wordlines -/

/-- Versions of a zone's wordline `wl` in the zone's current generation. -/
def wlVers (s : State) (t z wl : Nat) : List Nat :=
  let ten := tenD s t
  (s.vers.filter fun e =>
    e.2.tenant == t && e.2.zone == z && live s e.2 && decide (rowOf ten e.2.lba / 4 = wl)).map Prod.fst

/-- Every block of a zone's wordline `wl` is present, in buffers or in flash (R128, R193): all its rows lie below the write
pointer, and no transfer into them is under way. -/
def wlFull (s : State) (t z wl : Nat) : Bool :=
  let ten := tenD s t
  decide ((wl + 1) * (4 * ten.w * 65536 / ten.blk) ≤ (getZone s t z).wp) &&
    (wlVers s t z wl).all fun v => (getVer s v).hbm || programmed (getVer s v)

/-- A version belongs to a complete wordline of a direct-to-topcoat zone: it goes to the topcoat, and never to the undercoat (R128). -/
def goesDirect (s : State) (x : Ver) : Bool :=
  !isConv (tenD s x.tenant) x.zone && (getZone s x.tenant x.zone).hint == 1 && wlFull s x.tenant x.zone (rowOf (tenD s x.tenant) x.lba / 4)

/-- A version in HBM is made to reach flash at once (R96): its extent is issued with padding, or promoted. -/
def forceVer (s : State) (v : Nat) : State :=
  let x := getVer s v
  if !x.hbm || x.sup || x.dead || programmed x || (!x.placed && goesDirect s x) then s
  else
    let s := if x.placed then s else placeUc s v
    match extOf s v with
    | none => s
    | some (e, _) => if (getExt s e).issued then promote s e else closeExt s e true

/-- A released FLUSH waits for a version's block (R97). -/
def flushWants (s : State) (x : Ver) : Bool :=
  s.cmds.any fun c => c.ph == .exec && cOp c == opFlush && c.cover.any fun v => sameBlock (getVer s v) x

/-- A version that a FUA write or a FLUSH waits for is made to reach flash at once (R96, R97). -/
def forceWanted (s : State) (v : Nat) : State :=
  if (getVer s v).fua || flushWants s (getVer s v) then forceVer s v else s

/-- The block of member `m` of a zone, if it has one. -/
def memberBlk (s : State) (t z m : Nat) : Option Nat :=
  ((getZone s t z).members[m]?).bind Member.blk

/-- Members of a zone that hold a block. -/
def heldMembers (s : State) (t z : Nat) : List Nat :=
  (List.range (getZone s t z).members.length).filter fun m => (memberBlk s t z m).isSome

/-- The QLC passes that wordline `wl` of a block calls for, in the order of R168: coarse wl, then fine wl − 1 unless the
block has had it, and for the last wordline also its own fine pass. -/
def queueQlc (s : State) (coarse fine : PgKind) (b wl : Nat) (last bg : Bool) : State :=
  let s := queuePg s coarse b wl false bg
  let s := if (getBlk s b).fine < wl then queuePg s fine b (wl - 1) false bg else s
  if last then queuePg s fine b wl false bg else s

/-- A block has a relocation under way, as source or as target (R193). -/
def relocating (s : State) (b : Nat) : Bool :=
  s.media.relocs.any fun e => e.2.tgt == some b || (e.2.src == b && e.2.tgt.isSome)

/-- A QLC wordline's paired-page window has closed (R168). -/
def qlcClosed (f : FBlk) (wl : Nat) : Bool := decide (wl + 1 < f.fine) || (wl == 127 && f.fine == 128)

/-- The verify read of a wordline, or of a one-bit page of a relocation target, is queued (R194, R197): one class BG read, unless it is queued
already. -/
def queueVerify (s : State) (b wl : Nat) : State :=
  let q := !(getBlk s b).oneBit
  let page := if q then 4 * wl else wl
  let u := getLun s (blkLun b)
  let same := fun (r : Rd) => r.why == .verify && r.blk == b && r.page == page
  let on := fun (o : Option Op) => match o with
    | some { k := .rd r, .. } => same r
    | _ => false
  if (getBlk s b).safe.contains wl || u.rq.any same || u.ovf.any same || u.parked.any same || on u.op || on u.sub then s
  else (queueRd s .verify 3 0 b page q [] false).1

/-- The block that takes a zone member's passes of a fold group: its block; or, once a relocation has issued its copies, its target, where it
replaces the block (R195) or must take again what the block had begun (R168, R197). None while the member is under relocation (R193), has failed
(R195) or is interrupted (R269). -/
def destOf (s : State) (t z m wl : Nat) : Option Nat :=
  (memberBlk s t z m).bind fun b =>
    match s.media.relocs.find? fun e => e.2.src == b && e.2.ext.isNone && !e.2.logical && e.2.tgt.isSome with
    | some e =>
      if e.2.next = e.2.count ∧ (e.2.why = .replace ∨ wl < (getBlk s b).coarse) then e.2.tgt else none
    | none => if (getBlk s b).interrupted ∨ (getBlk s b).failed then none else some b

/-- The passes of a wordline are queued on the block of one of its members, unless it holds them already: then only their verify may be due. A
pass of the next wordline closes the window of the one before (R168). -/
def queuePasses (s : State) (fid : Nat) (f : Fold) (m b : Nat) : State :=
  if f.wl < (getBlk s b).coarse then (if qlcClosed (getBlk s b) f.wl then queueVerify s b f.wl else s)
  else queueQlc s (.coarse fid m) (.fine fid m) b f.wl (f.wl == 127) (!f.direct)

/-- The fold groups of a zone in wordline order whose sources have been read are given their passes: each member takes
them in wordline order, on the block that is to take them (R168, R193, R195). -/
def pumpFolds (s : State) (t z : Nat) : State :=
  let mine := sortBy (fun a b => decide (a.2.wl < b.2.wl)) (s.media.folds.filter fun e => e.2.tenant == t && e.2.zone == z)
  mine.foldl (fun s e =>
    let f := getFold s e.1
    if f.readsLeft ≠ 0 then s
    else f.todo.foldl (fun s m =>
      let earlier := s.media.folds.any fun g =>
        g.2.tenant == t && g.2.zone == z && decide (g.2.wl < f.wl) && g.2.todo.contains m
      let done := fun (s : State) => modFold s e.1 fun g => { g with todo := g.todo.filter (· != m) }
      match memberBlk s t z m, destOf s t z m f.wl with
      | none, _ => done s
      | some _, none => s
      | some _, some b => if earlier then s else done (queuePasses s e.1 f m b)) s) s

/-- Rows of a wordline that hold data: their parity was charged with the writes that began them (R218). -/
def rowsBegun (s : State) (t : Nat) (vs : List Nat) : Nat :=
  ((vs.map fun v => rowOf (tenD s t) (getVer s v).lba).eraseDups).length

/-- A wordline of a zone begins its way to the topcoat: its record, numbered, with the members to be programmed. -/
def newFold (s : State) (t z wl : Nat) (direct pad : Bool) (vs : List Nat) : State × Nat :=
  let (s, id) := newId s
  let s := modFold s id fun _ => { tenant := t, zone := z, gen := (getZone s t z).gen, wl := wl, direct := direct, pad := pad
                                   vers := vs, todo := heldMembers s t z }
  (modZone s t z fun r => { r with foldNext := wl + 1 }, id)

/-- Full wordlines of a direct-to-topcoat zone begin their coarse passes, in wordline order (R128); their parity buffers
are popped from the writes' charge. -/
def startDirect (s : State) (t z : Nat) : Nat → State
  | 0 => s
  | n + 1 =>
    let wl := (getZone s t z).foldNext
    if wl < 128 ∧ wlFull s t z wl ∧ (wlVers s t z wl).all (fun v => !(getVer s v).placed) then
      let vs := wlVers s t z wl
      let (s, id) := newFold s t z wl true false vs
      let (s, l) := popBufs s 2 t (min (rowsBegun s t vs * 16 * parityN (tenD s t)) (Tab.get 0 s.bpm.rsvds t))
      startDirect (pumpFolds (modFold s id fun f => { f with bufs := l }) t z) t z n
    else s

end Sys2Proof.Machine
end

