-- ==== Sys2Proof/Machine/Admission.lean ====
section
/-! DEFINITION. Decode checks (R105), the context step (R141), tokens, gates and refusal after waiting (R143 to R147). -/

namespace Sys2Proof.Machine

/-! ### Decode -/

/-- Fields that every opcode keeps 0: DWORD 5 [15:8] and [3:2], DWORD 9 [31:8], DWORD 14 [31:13] (Table 4.1). -/
def rsvOk (p : List Word) : Bool :=
  bits (pktD p 5) 8 8 == 0 && bits (pktD p 5) 2 2 == 0 && bits (pktD p 9) 8 24 == 0 && bits (pktD p 14) 13 19 == 0

/-- Flags an opcode may carry (Table 4.2). -/
def flagsOk (p : List Word) : Bool :=
  let op := pOp p
  bits (pFlags p) 3 5 == 0 &&
    (!pXL p || op == opRead || op == opWrite || op == opAppend || op == opReport) &&
    (!pFUA p || op == opWrite || op == opAppend || op == opCopy) &&
    (!pLR p || op == opRead || op == opVerify || op == opCopy)

/-- Which of the fields "LBA, COUNT, DWORDs 6 to 8 and XCOUNT, DWORD 10, DWORDs 11 to 13" an opcode uses (Table 4.3). -/
def usesLba (op : Nat) : Bool := op == opRead || op == opWrite || op == opCopy || op == opVerify
/-- Opcodes with a COUNT (Table 4.3). -/
def usesCount (op : Nat) : Bool := usesLba op || op == opAppend
/-- Opcodes with host data (Table 4.3). -/
def usesData (op : Nat) : Bool := op == opRead || op == opWrite || op == opAppend || op == opReport

/-- The "0" fields of Table 4.3 hold 0 (R81). -/
def zerosOk (p : List Word) : Bool :=
  let op := pOp p
  let hint3 := (op == opOpen || op == opHint) && pHint p == 3
  (op != opAbort || pZone p == 0) && (usesLba op || pLba p == 0) && (usesCount op || pCount p == 0) &&
    (usesData op || (pAddr p == 0 && pLen p == 0 && pXcount p == 0)) &&
    (hint3 || op == opCopy ||
      (if op == opAbort then pD10 p / 65536 == 0 else if op == opReport then pD10 p / 64 == 0 else pD10 p == 0)) &&
    (op == opCopy || (pktD p 11 == 0 && pktD p 12 == 0 && pktD p 13 == 0)) &&
    (op != opCopy || (pktD p 13 / 2 == 0 && (!pDApp p || pDLba p == 0)))

/-- HINT 3 is refused on WRITE, APPEND and COPY (R81). -/
def hintOk (p : List Word) : Bool := !(isWriter (pOp p) && pHint p == 3)

/-- The zone ID is of the right kind and in range (R87). -/
def zoneOk (t : Tenant) (p : List Word) : Bool :=
  let op := pOp p
  let z := pZone p
  if op == opAbort then true
  else if op == opFlush then z == 0xFFFFFFFF || decide (z < t.nz)
  else if op == opAppend || op == opOpen || op == opClose || op == opFinish then decide (t.nc ≤ z) && decide (z < t.nz)
  else if op == opCopy then
    decide (z < t.nz) && decide (pD10 p < t.nz) && z != pD10 p && (!pDApp p || decide (t.nc ≤ pD10 p))
  else decide (z < t.nz)

/-- ADDR alignment and XCOUNT (R82). -/
def dataOk (p : List Word) : Bool :=
  if !usesData (pOp p) then true
  else if pXL p then pAddr p % 16 == 0 && decide (1 ≤ pXcount p) && decide (pXcount p ≤ 4096)
  else pAddr p % 4 == 0 && pXcount p == 0

/-- RESERVE_MIB lies between 1 and the zone's size in MiB (R88). -/
def reserveOk (t : Tenant) (p : List Word) : Bool :=
  if (pOp p == opOpen || pOp p == opHint) && pHint p == 3 then
    decide (1 ≤ pD10 p) && decide (pD10 p ≤ zoneSize t * t.blk / 1048576)
  else true

/-- Bytes that a command moves: LENGTH, or COUNT × B for COPY and VERIFY (R85). -/
def moveBytes (t : Tenant) (p : List Word) : Nat :=
  if pOp p == opCopy || pOp p == opVerify then pCount p * t.blk else pLen p

/-- The size and range checks of stage 1, in order (R85, R88). -/
def sizeCheck (t : Tenant) (p : List Word) : Option Nat :=
  let op := pOp p
  let rwa := op == opRead || op == opWrite || op == opAppend
  if moveBytes t p > 16777216 then some stTooLarge
  else if rwa && pLen p % t.blk != 0 then some stLenBlock
  else if rwa && pLen p != pCount p * t.blk then some stInvalidField
  else if usesCount op && pCount p == 0 then some stInvalidField
  else if op == opReport && (pLen p == 0 || pLen p % 64 != 0) then some stInvalidField
  else if usesLba op && decide (zoneSize t < pLba p + pCount p) then some stBeyondZone
  else if op == opCopy && !pDApp p && decide (zoneSize t < pDLba p + pCount p) then some stBeyondZone
  else none

/-- Stage 1 of Table 4.9 after the ring check: the status of the first check that fails. -/
def decodeCheck (t : Tenant) (p : List Word) : Option Nat :=
  let op := pOp p
  if op == 0 || decide (0x0D < op) then some stInvalidOpcode
  else if pCommit p / 65536 != 0 then some stInvalidField
  else if !(flagsOk p && rsvOk p && zerosOk p && hintOk p && zoneOk t p && dataOk p && reserveOk t p) then
    some stInvalidField
  else sizeCheck t p

/-- Stage 2 of Table 4.9. -/
def stateCheck (s : State) (op : Nat) : Option Nat :=
  if s.adm.shutdown then some stShutdown
  else if s.hlt.readOnly && (isWriter op || op == opOpen) then some stDevRo
  else none

/-! ### Contexts -/

/-- Tenant context pool (Table 6.2). -/
def ctxPool : Nat := 1015808

/-- in_use(X) (R141): the contexts that commands of a tenant-class hold. -/
def inUse (s : State) (t : Nat) (c : Cls) : Nat :=
  (s.cmds.filter fun x => x.tenant == t && x.granted && cCls x == c).length

/-- shared_held(X) (R141). -/
def sharedHeld (s : State) (t : Nat) (c : Cls) : Nat := inUse s t c - (getCls s t c).ctxSill

/-- S, the shared context pool (R141). -/
def ctxShared (s : State) : Nat :=
  ctxPool - sumBy (fun e => sumBy (fun c => (tcls e.2 c).ctxSill) allCls) (tenants s)

/-- Contexts of S not held (ADM_SHARED_FREE). -/
def ctxFree (s : State) : Nat :=
  ctxShared s - sumBy (fun e => sumBy (fun c => sharedHeld s e.1 c) allCls) (tenants s)

/-- ΣWEIGHT over every tenant-class that holds a shared context, X included (R141). -/
def weightSum (s : State) (t : Nat) (c : Cls) : Nat :=
  sumBy (fun e => sumBy (fun d =>
    if 0 < sharedHeld s e.1 d ∨ (e.1 = t ∧ d = c) then (tcls e.2 d).weight else 0) allCls) (tenants s)

/-- Whether the other port wins the last context in this cycle: it needs one of the same kind, and the parity of the
AON-counted cycle is its own (R142). -/
def tieLost (s : State) (p : Port) (rival : Bool) : Bool :=
  rival && (match p with
    | .a => s.ckm.aon % 2 == 1
    | .b => s.ckm.aon % 2 == 0)

/-- The other port took the last context of a kind in this AON cycle: the last of a tenant-class's sill, or of S (none). -/
def rivalTook (s : State) (p : Port) (k : Option (Nat × Cls)) : Bool := s.adm.lastCtx == some (p.other, s.ckm.aon, k)

/-- The context step (R141, R142): none for a grant, or the refusal, with whether a lost tie caused it. A tie is about one kind of context, and is
lost whether the winner's command is decided before or after. -/
def contextStep (s : State) (t : Nat) (c : Cls) (p : Port) (rival : Bool) : Option (Nat × Bool) :=
  let x := getCls s t c
  let used := inUse s t c
  let free := ctxFree s
  let lost := tieLost s p rival
  let tookSill := rivalTook s p (some (t, c)) && used == x.ctxSill
  let lostSill := lost && used + 1 == x.ctxSill
  let lostShared := lost && decide (x.ctxSill ≤ used) && !tookSill && free == 1
  let below := decide (x.ctxCap = 0 ∨ used < x.ctxCap)
  if decide (used < x.ctxSill) && !lostSill then none
  else if below && decide (0 < free) && !lostShared then none
  else
    let tie := lost && (lostSill || tookSill || below && (lostShared || (rivalTook s p none && free == 0)))
    if x.ctxCap ≠ 0 ∧ x.ctxCap ≤ used then some (stOverShare, tie)
    else if x.weight = 0 ∨ ctxShared s * x.weight ≤ sharedHeld s t c * weightSum s t c then some (stOverShare, tie)
    else some (stSaturated, tie)

/-- A grant that takes the last context of its kind is noted (R142). -/
def noteGrant (s : State) (t : Nat) (c : Cls) (p : Port) : State :=
  let used := inUse s t c
  let sill := (getCls s t c).ctxSill
  let k := if used + 1 = sill then some (some (t, c)) else if sill ≤ used ∧ ctxFree s = 1 then some none else none
  match k with
  | some k => { s with adm := { s.adm with lastCtx := some (p, s.ckm.aon, k) } }
  | none => s

/-! ### Tokens -/

/-- One byte of token in the unit of the byte buckets. -/
def byteUnit : Nat := 64000
/-- One operation of token in the unit of the operation buckets. -/
def opUnit : Nat := 64000000000

/-- A zone writes direct to the topcoat: sequential with hint 1; an EMPTY zone takes the command's own hint (R128,
R140). -/
def isDirect (s : State) (c : Cmd) : Bool :=
  let ten := tenD s c.tenant
  let z := getZone s c.tenant (wZone c.pkt)
  !isConv ten (wZone c.pkt) && (if z.st = .empty then pHint c.pkt else z.hint) == 1

/-- Byte cost of a command (Table 6.3). -/
def costBytes (s : State) (c : Cmd) : Nat :=
  let op := cOp c
  let ten := tenD s c.tenant
  let n := pCount c.pkt * ten.blk
  if op == opRead || op == opReport then pLen c.pkt
  else if op == opWrite || op == opAppend then if isDirect s c then 2 * pLen c.pkt else pLen c.pkt
  else if op == opVerify then n
  else if op == opCopy then if isDirect s c then 3 * n else 2 * n
  else 0

/-- Byte cost in bucket units. -/
def costB (s : State) (c : Cmd) : Nat := costBytes s c * byteUnit

/-- Depth of a byte bucket: BURST_US × SILL_MBPS bytes (R144). -/
def depthB (x : TCls) : Nat := x.burstUs * x.sillMbps * byteUnit
/-- Depth of an operation bucket: BURST_US × SILL_OPS operations (R144). -/
def depthO (x : TCls) : Nat := x.burstUs * x.sillOps * (opUnit / 1000000)

/-- A head is covered in a unit (R144). -/
def covered (bkt : Int) (cred sill depth cost : Nat) : Bool :=
  decide ((cost : Int) ≤ bkt + cred) || (decide (sill ≠ 0) && decide (depth < cost) && decide ((depth : Int) ≤ bkt))

/-- The bucket after a release (R144): it pays first, then the credit. Where the bucket is in debt and the credit covers debt and cost together, the
credit pays both, and the bucket is left at 0 (log 134, DESIGN CHOICE). -/
def takeTok (bkt : Int) (cred cost : Nat) : Int :=
  if (cost : Int) ≤ bkt + cred then (if (cost : Int) ≤ bkt then bkt - cost else 0) else bkt - ((cost : Int) - cred)

/-- Depth of the direct-to-topcoat allowance: one 1 ms control period's fill, 120,000 MB/s × s (R140). -/
def directDepth (s : State) : Nat := 120000 * 1000 * 1000 * s.adm.shutter

/-- Bytes that a writer counts against the direct-to-topcoat allowance. -/
def directBytes (s : State) (c : Cmd) : Nat :=
  if isWriter (cOp c) && isDirect s c then moveBytes (tenD s c.tenant) c.pkt * byteUnit else 0

/-- The direct-to-topcoat allowance covers a head (R140). -/
def directOk (s : State) (c : Cmd) : Bool :=
  let b := directBytes s c
  b == 0 || decide ((b : Int) ≤ s.adm.direct) || (decide (directDepth s < b) && decide ((directDepth s : Int) ≤ s.adm.direct))

/-- Tokens cover a head in both units, and the direct-to-topcoat allowance covers it (R143, R144). -/
def tokensOk (s : State) (c : Cmd) : Bool :=
  let x := getCls s c.tenant (cCls c)
  covered x.bktB c.credB x.sillMbps (depthB x) (costB s c) &&
    covered x.bktO c.credO x.sillOps (depthO x) opUnit && directOk s c

/-! ### Gates and quota -/

/-- D_max in bytes. -/
def dmaxBytes (s : State) : Nat := s.plp.dmaxMib * 1048576

/-- The dirty gate holds a writing head (R145). -/
def dirtyHolds (s : State) (c : Cmd) : Bool :=
  let b := moveBytes (tenD s c.tenant) c.pkt
  if dmaxBytes s < b then decide (dirtyBytes s ≠ 0) else decide (dmaxBytes s < dirtyBytes s + b)

/-- The undercoat gate holds a writing head (R145). -/
def ucHolds (s : State) (c : Cmd) : Bool :=
  let ten := tenD s c.tenant
  let z := getZone s c.tenant (wZone c.pkt)
  gateNow s && !isDirect s c &&
    !(!isConv ten (wZone c.pkt) && decide (0 < z.resv) && decide (moveBytes ten c.pkt ≤ z.resv * 1048576))

/-- Which gate holds a writing head. -/
def gateOf (s : State) (c : Cmd) : Gate :=
  if !isWriter (cOp c) then .none else if dirtyHolds s c then .dirty else if ucHolds s c then .undercoat else .none

/-- Data and parity buffers that a writer is charged (R218). -/
def writerCharge (s : State) (c : Cmd) : Nat :=
  let ten := tenD s c.tenant
  let n := moveBytes ten c.pkt / 4096
  n + (if isDirect s c then cdiv (n * parityN ten) ten.w + 32 * parityN ten else cdiv n 16 + 32)

/-- The buffer quota admits a writing head (R143, R216). -/
def quotaOk (s : State) (c : Cmd) : Bool := !isWriter (cOp c) || chargeOk s.bpm c.tenant (writerCharge s c)

/-- The head of a lane: the oldest queued command of a tenant-class and lane (R143). -/
def laneHead (s : State) (t : Nat) (c : Cls) (writing : Bool) : Option Cmd :=
  s.cmds.find? fun x => x.tenant == t && x.ph == .queued && cCls x == c && isWriter (cOp x) == writing

/-- A head could be released now (R143). -/
def canRelease (s : State) (c : Cmd) : Bool := tokensOk s c && quotaOk s c && gateOf s c == .none

/-! ### Refusal after waiting -/

/-- The cost of the lane ahead of a command plus its own, in bytes and operations (R146). -/
def laneCost (s : State) (c : Cmd) : Nat × Nat :=
  let l := s.cmds.filter fun x => x.tenant == c.tenant && x.ph == .queued && cCls x == cCls c &&
    isWriter (cOp x) == isWriter (cOp c) && decide (x.seq ≤ c.seq)
  (sumBy (costB s) l, l.length * opUnit)

/-- The gate that holds a command: only the head of a lane is held by one (R143, R145). -/
def heldBy (s : State) (c : Cmd) : Gate :=
  if (laneHead s c.tenant (cCls c) (isWriter (cOp c))).map Cmd.seq = some c.seq then gateOf s c else .none

/-- The projected time to release in ns from sill supply alone, or none for infinity (R146). -/
def projected (s : State) (c : Cmd) (shutter : Nat) : Option Nat :=
  let x := getCls s c.tenant (cCls c)
  let (b, o) := laneCost s c
  let sb := ((b : Int) - x.bktB).toNat
  let so := ((o : Int) - x.bktO).toNat
  if heldBy s c ≠ .none then none
  else if (sb ≠ 0 ∧ x.sillMbps * shutter = 0) ∨ (so ≠ 0 ∧ x.sillOps * shutter = 0) then none
  else some (max (sb / (x.sillMbps * shutter)) (so / (x.sillOps * shutter)))

/-- A projection at shutter rate `sh` misses the command's deadline. -/
def missesDeadline (s : State) (c : Cmd) (sh : Nat) : Bool :=
  match projected s c sh with
  | none => true
  | some d => decide (c.capNs + pDeadline c.pkt * 1000 < s.nowNs + d)

/-- How long a command has been held in ns: in its queue, and, once released, waiting for a ready block, which counts as admission hold (R203). -/
def heldNs (s : State) (c : Cmd) : Nat := match c.blockNs with
  | some n => c.queueUs * 1000 + (s.nowNs - n)
  | none => s.nowNs - c.grantNs

/-- The same in µs. -/
def waitUs (s : State) (c : Cmd) : Nat := heldNs s c / 1000

/-- Which bound of R146 a queued command has passed. -/
inductive Bound | none | deadline | hold | gate
  deriving DecidableEq, Repr

/-- The bound that refuses a queued command now (R146). -/
def boundOf (s : State) (c : Cmd) : Bound :=
  let cls := cCls c
  let x := getCls s c.tenant cls
  let dl := pDeadline c.pkt
  if c.gate ≠ .none ∧ gateOf s c ≠ .none ∧ isWriter (cOp c) ∧ c.gateNs + s.adm.ucHoldMaxMs * 1000000 ≤ s.nowNs then .gate
  else if cls ≠ .bg ∧ !(cls = .rt ∧ dl ≠ 0) ∧ x.holdUs ≠ 0 ∧ x.holdUs * 1000 ≤ heldNs s c then .hold
  else if cls = .rt ∧ dl ≠ 0 ∧ (c.ph = .queued ∧ missesDeadline s c s.adm.shutter ∨ c.capNs + dl * 1000 ≤ s.nowNs) then .deadline
  else .none

/-- The status of a refusal after waiting (R146). -/
def refuseStatus (s : State) (c : Cmd) (b : Bound) : Nat :=
  if heldBy s c ≠ .none then stUcFull
  else if b = .deadline then
    (if s.adm.shutter < 64 ∧ missesDeadline s c 64 = false then stThermal else stDeadline)
  else if c.sawThrottle ∨ s.adm.shutter < 64 then stThermal
  else stDeadline


/-- A wait ends: HOLD_SUM_US and HOLD_MAX_US (Table 6.10). -/
def countWait (s : State) (t : Nat) (c : Cls) (us : Nat) : State :=
  let s := admCnt s t c 11 us
  modTCls s t c fun x => { x with cnts := Tab.upd 0 x.cnts 12 (max us) }

/-- A writer's wait for a ready block ends (R203): it counts as admission hold. -/
def endBlockWait (s : State) (c : Cmd) : State :=
  match c.blockNs with
  | none => s
  | some n =>
    let us := (s.nowNs - n) / 1000
    let s := modTCls (admCnt s c.tenant (cCls c) 11 us) c.tenant (cCls c) fun x => { x with cnts := Tab.upd 0 x.cnts 12 (max (c.queueUs + us)) }
    modCmd s c.tenant c.seq fun x => { x with ph := .exec, blockNs := none, queueUs := x.queueUs + us, relNs := x.relNs + (s.nowNs - n) }

/-- A queued command is refused (R146): no effect, its wait in QUEUE_US; it keeps its context until its completion is posted (R62, R141). -/
def refuseQueued (s : State) (c : Cmd) (status : Nat) : State :=
  let cls := cCls c
  let us := waitUs s c
  let k := if status = stThermal then 6 else if status = stUcFull then 7 else 9
  let s := admCnt s c.tenant cls k 1
  let s := if status = stUcFull ∧ heldBy s c = .dirty then admCnt s c.tenant cls 8 1 else s
  let s := if c.blockNs.isSome then endBlockWait s c else countWait s c.tenant cls us
  let s := modCmd s c.tenant c.seq fun x => { x with queueUs := us }
  genCompl s c.tenant c.seq status (noEffectResult (cOp c))

/-- A queued command leaves its queue through ABORT, port loss or function reset (ENDED_Q, Table 6.10). -/
def endQueued (s : State) (c : Cmd) : State :=
  if c.ph = .queued then
    modCmd (admCnt s c.tenant (cCls c) 10 1) c.tenant c.seq fun x => { x with queueUs := waitUs s c }
  else s

end Sys2Proof.Machine
end

