-- ==== Sys2Proof/Machine/Crypto.lean ====
section
/-! DEFINITION. The cipher algorithms of chapter 12 that the model computes: AES-256 (FIPS 197), AES-CMAC (SP 800-38B),
AES key wrap (SP 800-38F) and the KDF of R281. Blocks and keys are byte strings in the order the standards give. -/

namespace Sys2Proof.Machine

/-- Multiplication by x in GF(2^8). -/
def gfX (a : Nat) : Nat := if a ≥ 128 then Nat.xor (2 * a - 256) 0x1B else 2 * a

/-- Multiplication in GF(2^8), `n` bits of `b` from the top. -/
def gfMulN (a b : Nat) : Nat → Nat
  | 0 => 0
  | n + 1 =>
    let r := gfX (gfMulN a (b / 2) n)
    if b % 2 = 1 then Nat.xor r a else r

/-- Multiplication in GF(2^8). -/
def gfMul (a b : Nat) : Nat := gfMulN a b 8

/-- The inverse in GF(2^8), 0 for 0: the 254th power. -/
def gfInv (a : Nat) : Nat :=
  let a2 := gfMul a a
  let a4 := gfMul a2 a2
  let a8 := gfMul a4 a4
  let a16 := gfMul a8 a8
  let a32 := gfMul a16 a16
  let a64 := gfMul a32 a32
  let a128 := gfMul a64 a64
  gfMul (gfMul (gfMul a2 a4) (gfMul a8 a16)) (gfMul (gfMul a32 a64) a128)

/-- A byte rotated left by `n`. -/
def rotB (a n : Nat) : Nat := a * 2 ^ n % 256 + a / 2 ^ (8 - n)

/-- The S-box. -/
def sBox (a : Nat) : Nat :=
  let b := gfInv a
  Nat.xor (Nat.xor (Nat.xor b (rotB b 1)) (Nat.xor (rotB b 2) (rotB b 3))) (Nat.xor (rotB b 4) 0x63)

/-- The inverse S-box. -/
def sBoxInv (a : Nat) : Nat := gfInv (Nat.xor (Nat.xor (rotB a 1) (rotB a 3)) (Nat.xor (rotB a 6) 0x05))

/-- Exclusive or of byte strings. -/
def xorL (a b : List Nat) : List Nat := List.zipWith Nat.xor a b

/-- A word of four bytes rotated by one byte. -/
def rotW (w : List Nat) : List Nat := w.drop 1 ++ w.take 1

/-- The key schedule: words already made, newest first; `n` more to make, word `i` next, with the round constant. -/
def expand : Nat → Nat → Nat → List (List Nat) → List (List Nat)
  | 0, _, _, ws => ws
  | n + 1, i, rc, ws =>
    let prev := nth [] ws 0
    let old := nth [] ws 7
    let t := if i % 8 = 0 then xorL ((rotW prev).map sBox) [rc, 0, 0, 0]
      else if i % 8 = 4 then prev.map sBox else prev
    expand n (i + 1) (if i % 8 = 0 then gfX rc else rc) (xorL old t :: ws)

/-- The words of a byte string. -/
def chunks (k : Nat) : Nat → List Nat → List (List Nat)
  | 0, _ => []
  | n + 1, l => l.take k :: chunks k n (l.drop k)

/-- The fifteen round keys of a 32-byte key. -/
def roundKeys (key : List Nat) : List (List Nat) :=
  let ws := (expand 52 8 1 (chunks 4 8 key).reverse).reverse
  (chunks 16 15 ws.flatten)

/-- ShiftRows on a block in column order. -/
def shiftRows (b : List Nat) : List Nat := (List.range 16).map fun i => nth 0 b ((i + 4 * (i % 4)) % 16)
/-- The inverse of ShiftRows. -/
def shiftRowsInv (b : List Nat) : List Nat := (List.range 16).map fun i => nth 0 b ((i + 16 - 4 * (i % 4)) % 16)

/-- MixColumns with the coefficients of its first row. -/
def mixWith (c0 c1 c2 c3 : Nat) (b : List Nat) : List Nat :=
  (List.range 16).map fun i =>
    let at' := fun k => nth 0 b (i / 4 * 4 + (i + k) % 4)
    Nat.xor (Nat.xor (gfMul (at' 0) c0) (gfMul (at' 1) c1)) (Nat.xor (gfMul (at' 2) c2) (gfMul (at' 3) c3))

/-- The rounds of encryption after the first round key. -/
def encRounds : List (List Nat) → List Nat → List Nat
  | [], b => b
  | [k], b => xorL (shiftRows (b.map sBox)) k
  | k :: ks, b => encRounds ks (xorL (mixWith 2 3 1 1 (shiftRows (b.map sBox))) k)

/-- The rounds of decryption after the last round key. -/
def decRounds : List (List Nat) → List Nat → List Nat
  | [], b => b
  | [k], b => xorL ((shiftRowsInv b).map sBoxInv) k
  | k :: ks, b => decRounds ks (mixWith 14 11 13 9 (xorL ((shiftRowsInv b).map sBoxInv) k))

/-- AES-256 encryption of a block under round keys. -/
def aesEnc (ks : List (List Nat)) (b : List Nat) : List Nat := encRounds (ks.drop 1) (xorL b (nth [] ks 0))

/-- AES-256 decryption of a block under round keys. -/
def aesDec (ks : List (List Nat)) (b : List Nat) : List Nat :=
  let r := ks.reverse
  decRounds (r.drop 1) (xorL b (nth [] r 0))

/-- Byte strings as numbers. -/
def toNats (l : List Byte) : List Nat := l.map BitVec.toNat
/-- Numbers as byte strings. -/
def toBytes (l : List Nat) : List Byte := l.map (BitVec.ofNat 8)

/-- Doubling in GF(2^128), for the CMAC subkeys. -/
def dbl (b : List Nat) : List Nat :=
  let v := beNat (toBytes b)
  let d := 2 * v % 2 ^ 128
  toNats (beBytes 16 (if v ≥ 2 ^ 127 then Nat.xor d 0x87 else d))

/-- The chain of CMAC over whole blocks. -/
def cmacChain (ks : List (List Nat)) : List (List Nat) → List Nat → List Nat
  | [], x => x
  | b :: t, x => cmacChain ks t (aesEnc ks (xorL x b))

/-- AES-CMAC of a byte string under a 256-bit key. -/
def cmac (key msg : List Byte) : List Byte :=
  let ks := roundKeys (toNats key)
  let zero := List.replicate 16 0
  let k1 := dbl (aesEnc ks zero)
  let m := toNats msg
  let n := max 1 (cdiv m.length 16)
  let bs := chunks 16 n m
  let last := nth [] bs (n - 1)
  let fin := if last.length = 16 then xorL last k1
    else xorL (last ++ [0x80] ++ List.replicate (15 - last.length) 0) (dbl k1)
  toBytes (aesEnc ks (xorL (cmacChain ks (bs.take (n - 1)) zero) fin))

/-- KCV: the first 8 bytes of AES-CMAC over 16 zero bytes (R274). -/
def kcvOf (key : List Byte) : List Byte := (cmac key (List.replicate 16 0#8)).take 8

/-- The steps of AES key unwrap, from step `t` down to 1, on A and the four semiblocks. -/
def unwrapSteps (ks : List (List Nat)) : Nat → List Nat → List (List Nat) → List Nat × List (List Nat)
  | 0, a, r => (a, r)
  | t + 1, a, r =>
    let i := t % 4
    let x := xorL a (toNats (beBytes 8 (t + 1)))
    let b := aesDec ks (x ++ nth [] r i)
    unwrapSteps ks t (b.take 8) (r.set i (b.drop 8))

/-- AES key unwrap of a 40-byte string: the key, if the integrity check passes (R277). -/
def kwUnwrap (kek blob : List Byte) : Option (List Byte) :=
  let ks := roundKeys (toNats kek)
  let c := chunks 8 5 (toNats blob)
  let (a, r) := unwrapSteps ks 24 (nth [] c 0) (c.drop 1)
  if a = List.replicate 8 0xA6 then some (toBytes r.flatten) else none

/-- Tenant field of key derivation and the AAD (R275): instance number [31:10], tenant ID [9:0]. -/
def tenantField (inst t : Nat) : Nat := inst * 1024 + t

/-- The KDF input of Table 12.4. -/
def kdfInput (i tf zone gen epoch : Nat) : List Byte :=
  beBytes 4 i ++ [0x58#8, 0x56#8, 0x44#8, 0x41#8, 0x54#8, 0x41#8, 0#8] ++ beBytes 4 tf ++ beBytes 4 zone ++
    beBytes 4 gen ++ beBytes 2 epoch ++ beBytes 4 0x100

/-- The data key of a block (R281). -/
def dataKey (root : List Byte) (tf zone gen epoch : Nat) : List Byte :=
  cmac root (kdfInput 1 tf zone gen epoch) ++ cmac root (kdfInput 2 tf zone gen epoch)

/-- The IV of an invocation (R284). -/
def ivOf (ctr : Nat) : List Byte := beBytes 8 ctr ++ [0x58#8, 0x56#8, 0x00#8, 0x01#8]

/-- The AAD of a block (R285). -/
def aadOf (lba tf gen : Nat) : List Byte := beBytes 8 lba ++ beBytes 4 tf ++ beBytes 4 gen

end Sys2Proof.Machine
end

