-- ==== Sys2Proof/Machine/Cipher.lean ====
section
/-! DEFINITION. The cipher path (R281 to R288): the derived-key cache, block encryption and decryption, their counters
and CIP_EVT. Every block asks for its data key, so a run of blocks under one key is one derivation and hits (log 40, DESIGN CHOICE). -/

namespace Sys2Proof.Machine

/-- A CIP_EVT bit is set, with its generic record (Table 17.8). -/
def setCipEvt (s : State) (b inst sev : Nat) : State :=
  raiseEvt s s.cip.evt b (fun s v => { s with cip := { s.cip with evt := v } }) sev 7 inst 0x70008

/-- CIP_CNTk rises (Table 12.9). -/
def cipCnt (s : State) (k n : Nat) : State := { s with cip := { s.cip with cnts := bump s.cip.cnts k n } }

/-- A tenant's CIP_T_CNTk rises. -/
def cipT (s : State) (t k n : Nat) : State := { s with cip := { s.cip with tcnts := bump s.cip.tcnts (t * 8 + k) n } }

/-- Instance number of a tenant ID (R275). -/
def instOf (s : State) (t : Nat) : Nat := Tab.get 0 s.cip.insts t

/-- Tag of a derived key: tenant field, zone, generation, epoch (R282). -/
def keyTag (s : State) (v : Ver) : Nat × Nat × Nat × Nat := (tenantField (instOf s v.tenant) v.tenant, v.zone, v.gen, v.epoch)

/-- A data key is asked for: a hit, or a derivation that takes the least recently used place (R282). -/
def derive (s : State) (v : Ver) : State :=
  let tag := keyTag s v
  let rest := s.cip.cache.filter (· != tag)
  let hit := s.cip.cache.contains tag
  let kept := if hit ∨ rest.length < 4096 then rest else rest.drop 1
  cipCnt { s with cip := { s.cip with cache := kept ++ [tag] } } (if hit then 4 else 3) 1

/-- A block is encrypted on its way to HBM (R286); a cipher-off tenant's block passes untouched (R292). -/
def encryptBlock (s : State) (v : Nat) : State :=
  let x := getVer s v
  if x.cipherOff then s
  else cipT (cipCnt (derive (modVer s v fun x => { x with key := (Tab.get {} s.cip.tslots x.tenant).key }) x) 0 1) x.tenant 0 1

/-- A block's tag matches under the data key that its tenant's slot now gives (R14, R286): the block was encrypted under the tenant key that the
slot holds, or its tenant's cipher was off. With the slot lost (Table 10.6) only derived keys that are still cached decrypt. -/
def tagOk (s : State) (v : Nat) : Bool :=
  let x := getVer s v
  let k := Tab.get {} s.cip.tslots x.tenant
  x.cipherOff || k.state == 2 || x.key == k.key

/-- A block needs a data key that cannot be derived, since its tenant's slot is lost and the cache does not hold it: it waits for a KEY_LOAD of
the slot (Table 10.6). -/
def keyGone (s : State) (v : Nat) : Bool :=
  let x := getVer s v
  !x.cipherOff && (Tab.get {} s.cip.tslots x.tenant).state == 2 && !s.cip.cache.contains (keyTag s x)

/-- A block is decrypted and its tag matches (R286). -/
def decryptBlock (s : State) (v : Nat) : State :=
  let x := getVer s v
  if x.cipherOff then s else cipT (cipCnt (derive s x) 1 1) x.tenant 1 1

/-- A block fails its tag (R286): counted, and recorded at most once per tenant and second. -/
def authFail (s : State) (v : Nat) : State :=
  let x := getVer s v
  let s := cipT (cipCnt (derive s x) 2 1) x.tenant 2 1
  let s := { s with cip := { s.cip with evt := setBit s.cip.evt 0 } }
  logUpTo 1 s 2 (src 7 x.tenant) 0x7001 (leBytes 4 (tz x.tenant x.zone) ++ leBytes 8 x.lba)

/-- Derived keys of a zone's former generations are purged once no read needs them (R282). -/
def purgeOld (s : State) (t z : Nat) : State :=
  let tf := tenantField (instOf s t) t
  let needed := fun g => s.cmds.any fun c => (c.todo.map (· / 4) ++ c.keyWait.map Prod.fst).any fun x =>
    let v := getVer s x
    v.tenant == t && v.zone == z && v.gen == g
  { s with cip := { s.cip with cache := s.cip.cache.filter fun k =>
    !(k.1 == tf && k.2.1 == z && k.2.2.1 != (getZone s t z).gen && !needed k.2.2.1) } }

/-- Every derived key of a tenant is purged (R282). -/
def purgeTenant (s : State) (t : Nat) : State :=
  { s with cip := { s.cip with cache := s.cip.cache.filter fun k => k.1 % 1024 != t } }

/-- A SANITIZE ends (R290): CIP_EVT.SAN_DONE. -/
def endSan (s : State) : State :=
  match s.cip.san with
  | none => s
  | some x => setCipEvt { s with cip := { s.cip with san := none } } 7 (if x.kind ≤ 2 then x.tenant else 0xFFF) 1

end Sys2Proof.Machine
end

