-- ==== Sys2Proof/Machine/Reads.lean ====
section
/-! DEFINITION. The data path of readers (R89, R90, R102, R103, R122, R123): which version each block returns, where it
is read from, and how a reader ends. -/

namespace Sys2Proof.Machine

/-- The ranges of two commands on one zone overlap. -/
def overlap (a n b m : Nat) : Bool := decide (a < b + m) && decide (b < a + n)

/-- A writer still unresolved for some block of a range (R123): not ended, and some of its blocks there not in HBM. -/
def unresolvedOn (s : State) (w : Cmd) (z lba n : Nat) : Bool :=
  w.ph != .gen && isWriter (cOp w) && wZone w.pkt == z &&
    (if w.committed then
      w.vers.any fun v =>
        let x := getVer s v
        decide (lba ≤ x.lba) && decide (x.lba < lba + n) && !x.hbm && !x.dead
     else !wAppends w.pkt && overlap (wLba w.pkt) (pCount w.pkt) lba n)

/-- The earlier-accepted APPENDs, and COPYs with DAPPEND, to a reader's zone that have no LBA yet: released now, it neither waits for them nor
returns their data (R123). -/
def unplaced (s : State) (c : Cmd) : List Nat :=
  (s.cmds.filter fun w => w.tenant == c.tenant && decide (w.seq < c.seq) && wAppends w.pkt && wZone w.pkt == pZone c.pkt && !w.committed).map
    Cmd.seq

/-- A reader is held while an earlier-accepted writer it might have to return is unresolved (R123). -/
def readerHeld (s : State) (c : Cmd) : Bool :=
  s.cmds.any fun w => w.tenant == c.tenant && decide (w.seq < c.seq) && !c.skip.contains w.seq &&
    unresolvedOn s w (pZone c.pkt) (pLba c.pkt) (pCount c.pkt)

/-- How a logical block is read now (R89): zeros, from buffers, or from flash as page reads. -/
inductive Src
  | zeros
  | buffers (v : Nat)
  | flash (v : Nat)
  deriving DecidableEq, Repr

/-- Where a reader takes a block from (R122, R16). -/
def blockSrc (s : State) (t z lba seq : Nat) (skip : List Nat) : Src :=
  match visibleTo s t z lba seq skip with
  | none => .zeros
  | some (v, x) => if x.loc = .buf then .buffers v else .flash v

/-- The block, page and sectors of a version in flash: its extent's pieces, or its topcoat member (R112, R192). -/
def flashPlace (s : State) (v : Nat) : List (Nat × Nat × Bool × SecReq) :=
  let x := getVer s v
  let t := tenD s x.tenant
  (List.range (subs t)).filterMap fun i =>
    match x.loc with
    | .uc e =>
      let y := getExt s e
      let pos := y.secs.idxOf v + i
      some (nth 0 (getSet s y.set).blks (pos / 16), y.page, false, { plane := pos % 16 / 4, sector := pos % 4, ver := v, sub := i })
    | .tc =>
      let (pl, se) := planeSector t x.lba i
      (memberBlk s x.tenant x.zone (memberOf t x.lba)).map fun b =>
        (b, rowOf t x.lba, true, { plane := pl, sector := se, ver := v, sub := i })
    | .cv b pos =>
      let q := pos + i
      some (b, q / 16, true, { plane := q % 16 / 4, sector := q % 4, ver := v, sub := i })
    | .buf => none

/-- Sector requests gathered into one read for each page. -/
def groupPages (l : List (Nat × Nat × Bool × SecReq)) : List (Nat × Nat × Bool × List SecReq) :=
  l.foldl (fun acc e =>
    if acc.any fun g => g.1 == e.1 && g.2.1 == e.2.1 then
      acc.map fun g => if g.1 == e.1 && g.2.1 == e.2.1 then (g.1, g.2.1, g.2.2.1, g.2.2.2 ++ [e.2.2.2]) else g
    else acc ++ [(e.1, e.2.1, e.2.2.1, [e.2.2.2])]) []

/-- Counter `k` of Table 8.11 rises by 1. -/
def readCnt (s : State) (c : Cmd) (k : Nat) : State :=
  modTCls s c.tenant (cCls c) fun x => { x with rcnts := bump x.rcnts k 1 }

/-- A completed READ is counted by its worst page (R209). -/
def countRead (s : State) (c : Cmd) (status : Nat) : State :=
  if cOp c ≠ opRead ∨ !(status = stSuccess ∨ status = stUnrecRead ∨ status = stAuthFail) then s
  else
    let s := readCnt s c 0
    let s := readCnt s c (1 + min 4 c.ahead)
    let s := if c.suspended then readCnt s c 6 else s
    let s := if c.overflow then readCnt s c 7 else s
    let s := if c.tier = 1 then readCnt s c (7 + min 8 (max 1 c.ladder)) else s
    let s := if c.tier = 2 then readCnt s c 16 else s
    let s := if c.tier = 3 then readCnt s c 17 else s
    let s := if status = stUnrecRead ∧ !pLR c.pkt then readCnt s c 18 else s
    if c.queueUs ≥ 1 then readCnt s c 19 else s

/-- The host segments of bytes `o` to `o + n − 1` of a transfer over extents, DISCARD extents left out (Table 4.5). -/
def segments : List Extent → Nat → Nat → List (Nat × Nat)
  | [], _, _ => []
  | e :: t, o, n =>
    if n = 0 then []
    else if e.len ≤ o then segments t (o - e.len) n
    else
      let k := min n (e.len - o)
      (if e.flags % 2 = 1 then [] else [(e.addr + o, k)]) ++ segments t 0 (n - k)

/-- Host segments of block `i` of a command's data (R82). -/
def hostSegs (s : State) (c : Cmd) (i : Nat) : List (Nat × Nat) :=
  let b := (tenD s c.tenant).blk
  if pXL c.pkt then segments c.exts (i * b) b else [(pAddr c.pkt + i * b, b)]

/-- Telemetry counter `k` rises by `n` (Table 17.7). -/
def tel (s : State) (k n : Nat) : State := { s with hlt := { s.hlt with tel := bump s.hlt.tel k n } }

/-- Enable Relaxed Ordering of a function: its data writes carry the attribute (R28). -/
def relaxedFn (s : State) (p : Port) (fn : Nat) : Bool := (getFn s p fn).relaxed

/-- Bytes that a data write carries. -/
def outBytes : Out → Nat
  | .data _ _ _ _ _ segs _ _ => sumBy Prod.snd segs
  | .bytes _ _ _ bs _ => bs.length
  | _ => 0

/-- A data write of a function leaves, and is counted for its port (Table 17.7). -/
def sendNow (s : State) (p : Port) (o : Out) : State := tel (emit s o) (if p = .a then 0 else 2) (outBytes o)

/-- A data write of a function leaves, or waits while the function may not master the bus (R44). -/
def sendData (s : State) (p : Port) (fn : Nat) (o : Out) : State :=
  if canWrite s p fn then sendNow s p o else { s with heldOut := s.heldOut ++ [(p, fn, o)] }

/-- Data writes that waited leave, in their order, as soon as their functions master the bus again (R44). -/
def settleOut (s : State) : State :=
  let go := fun (h : Port × Nat × Out) => canWrite s h.1 h.2.1
  (s.heldOut.filter go).foldl (fun s h => sendNow s h.1 h.2.2) { s with heldOut := s.heldOut.filter fun h => !go h }

/-- A READ's verified block is written to host memory (R84); one that was redirected, or has ended, sends no more (R29, R40). -/
def sendBlock (s : State) (c : Cmd) (i : Nat) (x : Content) : State :=
  if cOp c ≠ opRead ∨ c.redirected ∨ c.ph = .gen then s
  else sendData s c.port c.fn (.data c.port c.fn c.tenant c.seq i (hostSegs s c i) x (relaxedFn s c.port c.fn))

/-- A block of a reader failed: the lowest failing LBA decides the status (R90, R102). -/
def failBlock (s : State) (t seq lba status : Nat) : State :=
  modCmd s t seq fun c => { c with failLba := match c.failLba with
    | some (l, st) => if lba < l then some (lba, status) else some (l, st)
    | none => some (lba, status) }

/-- A COPY's source block has been read and re-encrypted: its destination block is in HBM in full (R30, R102). -/
def copyBlock (s : State) (c : Cmd) (i : Nat) (x : Content) : State :=
  match c.vers[i]? with
  | none => s
  | some v => encryptBlock (modVer s v fun y => { y with content := x, hbm := true }) v

/-- Block `i` of a reader is done with its plaintext. -/
def gotBlock (s : State) (c : Cmd) (i : Nat) (x : Content) : State :=
  if cOp c = opCopy then copyBlock s c i x else sendBlock s c i x

/-! ### What a writer's data becomes -/

/-- A version that is current again, since the writer that superseded it ended without effect on its block (R97, R126): the map takes it, and
it goes to flash after all. -/
def revive (s : State) (x : Ver) : State :=
  match current s x.tenant x.zone x.lba with
  | none => s
  | some (v, y) =>
    if !y.sup then s
    else
      let t := tenD s x.tenant
      let s := modVer s v fun y => { y with sup := false }
      let s := mapWrite s x.tenant x.zone (x.lba * subs t) (subs t)
      forceWanted (placeUc s v) v

/-- A version ends without effect (R30). -/
def endVer (s : State) (v : Nat) : State :=
  revive (freeVer (modVer s v fun x => { x with dead := true }) v) (getVer s v)

/-- Blocks of a zone still in buffers, and on no way to the topcoat, take places in staging extents, and the partly filled extents are
programmed (R116, R204). The rows of a complete wordline of a direct-to-topcoat zone are not among them (R128). -/
def stagePartial (s : State) (t z : Nat) : State :=
  let s := (s.vers.filter fun e => e.2.tenant == t && e.2.zone == z).foldl (fun s e =>
    let x := getVer s e.1
    if live s x && !x.placed && x.hbm && x.loc == .buf && !x.tcSafe && !goesDirect s x &&
        !(s.media.folds.any fun f => f.2.vers.contains e.1) then placeUc s e.1 else s) s
  stageZone s t z false

/-- A sequential zone that is not OPEN holds no stripe buffers (Table 5.3): what reached HBM goes to flash at once, padded (R116, R204). -/
def stageClosed (s : State) (t z : Nat) : State :=
  let r := getZone s t z
  if isConv (tenD s t) z ∧ r.st ≠ .readOnly ∨ r.st = .opened ∨ r.st = .empty ∨ r.st = .offline then s else stagePartial s t z

/-- The data of a resolved writer goes on to flash: full extents are issued, full wordlines of a direct zone begin, what a FUA write or a FLUSH
waits for is forced, and versions superseded for good are released (R96, R97, R116, R124, R128). -/
def onward (s : State) (c : Cmd) : State :=
  let z := wZone c.pkt
  let direct := !isConv (tenD s c.tenant) z && (getZone s c.tenant z).hint == 1
  let s := c.vers.foldl (fun s v => match extOf s v with
    | some (e, _) => issueIfFull s e
    | none => s) s
  let s := if direct then startDirect s c.tenant z 128 else s
  let s := c.vers.foldl forceWanted s
  sweepVers (stageClosed s c.tenant z)

/-- What a writer leaves when it ends after its commit point (R30): the blocks listed are whole in HBM and persist; the
others end without effect, and their buffers are pushed. -/
def leaveWriter (s : State) (c : Cmd) (blocks : List Nat) : State :=
  let s := (List.range c.vers.length).foldl (fun s i =>
    let v := nth 0 c.vers i
    let x := getVer s v
    if x.hbm ∨ blocks.contains i then
      modVer (if x.hbm then s else encryptBlock s v) v fun x => { x with hbm := true, left := true }
    else endVer s v) s
  onward s c

/-- A reader ends; derived keys that only it needed are purged (R282). -/
def endReader (s : State) (c : Cmd) (status result : Nat) : State :=
  purgeOld (genCompl s c.tenant c.seq status result) c.tenant (pZone c.pkt)

/-- A reader whose blocks are all done ends: SUCCESS, or the status of its lowest failing block (R90, R103, R107). A COPY
that failed ends with its destination blocks as R30 leaves them, and its source LBA is recorded (R102); a COPY that did
not is completed by its acknowledgement (R95). -/
def finishReader (s : State) (t seq : Nat) : State :=
  match getCmd s t seq with
  | none => s
  | some c =>
    if c.ph ≠ .exec ∨ !c.todo.isEmpty ∨ !c.keyWait.isEmpty ∨ !isReader (cOp c) then s
    else match c.failLba with
      | some (lba, st) =>
        if cOp c = opCopy then
          let s := logEv s 2 (src 8 t) 0x8003 (leBytes 4 (pZone c.pkt) ++ leBytes 8 lba)
          endReader (leaveWriter s c []) c st c.lba0
        else endReader (countRead s c st) c st lba
      | none =>
        if cOp c = opCopy then s
        else if cOp c = opVerify then endReader s c stSuccess (c.tier + p32 * c.tierBlocks.eraseDups.length)
        else endReader (countRead s c stSuccess) c stSuccess 0

/-- The blocks that a reader takes from memory are done at once; a poisoned buffer fails its block (R242), and so does a tag that does not match
(R14, R90). -/
def readNow (s : State) (t seq z lba i : Nat) : State :=
  match getCmd s t seq with
  | none => s
  | some c =>
    match blockSrc s t z (lba + i) seq c.skip with
    | .zeros => gotBlock s c i .zeros
    | .buffers v =>
      let x := getVer s v
      if x.poison then failBlock s t seq (lba + i) stUnrecRead
      else if keyGone s v then modCmd s t seq fun c => { c with keyWait := c.keyWait ++ [(v, false)] }
      else if !tagOk s v then failBlock (authFail s v) t seq (lba + i) stAuthFail
      else gotBlock (decryptBlock s v) c i x.content
    | .flash v =>
      modCmd s t seq fun c => { c with
        todo := c.todo ++ (List.range (subs (tenD s t))).map (v * 4 + ·), flash := true }

/-- A reader that needs a failed quadrant ends at the lowest block not returned (R106, R342). -/
def loseReader (s : State) (t seq : Nat) : State :=
  match getCmd s t seq with
  | none => s
  | some c =>
    match ((c.todo.map (· / 4) ++ c.keyWait.map Prod.fst).map fun v => (getVer s v).lba).min? with
    | none => s
    | some lba =>
      finishReader (failBlock (modCmd s t seq fun c => { c with todo := [], keyWait := [] }) t seq lba stQuadUnavail) t seq

/-- The flash reads of a reader: one for each page it needs (R150). -/
def issueReads (s : State) (c : Cmd) : State :=
  let pages := groupPages (((c.todo.map (· / 4)).eraseDups.map (flashPlace s)).foldl (· ++ ·) [])
  if pages.any fun g => Tab.get 0 s.rst.qState (chQuad (blkCh g.1)) == 2 then loseReader s c.tenant c.seq
  else pages.foldl (fun s g =>
    (queueRd s (.cmd c.tenant c.seq) (cCls c).num c.seq g.1 g.2.1 g.2.2.1 g.2.2.2 (pLR c.pkt)).1) s

/-- A reader runs: each block of its range from its version's current location (R122). -/
def startReader (s : State) (t seq : Nat) : State :=
  match getCmd s t seq with
  | none => s
  | some c =>
    let s := (List.range (pCount c.pkt)).foldl (fun s i => readNow s t seq (pZone c.pkt) (pLba c.pkt) i) s
    match getCmd s t seq with
    | none => s
    | some c => finishReader (issueReads s c) t seq

/-- A reader at the zone sequencer: held for earlier writers (R123), or it runs. -/
def readerStage (s : State) (t seq : Nat) : State :=
  match getCmd s t seq with
  | none => s
  | some c =>
    if readerHeld s c then modCmd s t seq fun c => { c with ph := .heldReader }
    else startReader (modCmd s t seq fun c => { c with ph := .exec }) t seq

end Sys2Proof.Machine
end

