-- ==== Sys2Proof/Machine/Writes.lean ====
section
/-! DEFINITION. The zone sequencer (stage 5 of Table 4.9): its checks, the commit point of writers, the zone commands,
HINT, ZONE_RESET, FLUSH and ZONE_REPORT. -/

namespace Sys2Proof.Machine

/-! ### Zone state changes -/

/-- The rest of a zone's undercoat reservation is released (R130). -/
def dropResv (s : State) (t z : Nat) : State := watchGate (modZone s t z fun r => { r with resv := 0 })

/-- A zone becomes READ_ONLY (R93, R94, R115): reason 1 freezes the write pointer as its capacity; its reservation ends,
the change is recorded, and its data that is only in buffers goes to the undercoat (R204). An EMPTY zone goes to READ_ONLY with no member map and its
hint as it was: Table 5.4 has no row for it (log 131, DESIGN CHOICE). -/
def goReadOnly (s : State) (t z reason : Nat) : State :=
  let conv := isConv (tenD s t) z
  let s := modZone (stageRec s) t z fun r => { r with
    st := .readOnly, roReason := reason, resv := 0
    capDrop := if reason = 1 ∧ !conv then some r.wp else r.capDrop }
  let s := logEv (watchGate s) 2 (src 8 t) 0x8002 (leBytes 4 z ++ leBytes 4 reason ++ leBytes 4 (getZone s t z).wp)
  let s := stageClosed (noticeTenant s t 4 z ZSt.readOnly.code reason) t z
  if reason = 1 then setHltEvt s 6 0xFFF 1 else s

/-- A sequential zone leaves EMPTY (R111, R115): OPEN, its member map fixed, the hint its opener gives. -/
def openEmpty (s : State) (t z hint : Nat) : State :=
  let ms := newMembers s (tenD s t) z hint
  modZone (stageRec s) t z fun r => { r with st := .opened, hint := hint, members := ms, lastWriteNs := s.nowNs }

/-- Both open limits would hold with one more OPEN zone (R115). -/
def openRoom (s : State) (t : Nat) : Bool :=
  decide (openCount s t < (tenD s t).openMax) && decide (openAll s < 65536)

/-- The grant for a hint 3 request (R130): the least of the request, the tenant's allowance less what its other zones
hold, and the undercoat not reserved or staged. -/
def grantMib (s : State) (t z want : Nat) : Nat :=
  let others := sumBy (fun e => if e.1 / 4194304 = t ∧ e.1 ≠ zkey t z then e.2.resv else 0) s.zones
  let own := (getZone s t z).resv
  min want (min ((tenD s t).ucAllow - others) (s.media.ucTotal - (staged s + reserved s - own)))

/-- A hint is applied to a zone (R98, R104, R130): hint 3 replaces its reservation by what is granted, any other hint
releases it; the MiB granted is answered. Hints 1 and 3 of a FULL or READ_ONLY zone are recorded only, and a
conventional zone's grant is 0 (Table 5.6). -/
def applyHint (s : State) (t z hint want : Nat) : State × Nat :=
  let r := getZone s t z
  let s := stageRec s
  if hint = 3 then
    let g := if isConv (tenD s t) z ∨ r.st = .full ∨ r.st = .readOnly then 0 else grantMib s t z want
    (watchGate (modZone s t z fun r => { r with hint := hint, resv := g }), g)
  else (watchGate (modZone s t z fun r => { r with hint := hint, resv := 0 }), 0)

/-! ### Key epochs and pieces -/

/-- Invocations of one key: 2^32 (R127). -/
def invocMax : Nat := 4294967296

/-- The final epoch cannot cover `n` blocks more (R93, R127). -/
def epochShort (r : Zone) (n : Nat) : Bool := r.epoch == 0xFFFF && decide (invocMax < r.invoc + n)

/-- The zone counter cannot cover `n` blocks more (R284). -/
def ctrShort (r : Zone) (n : Nat) : Bool := decide (2 ^ 64 ≤ r.ivctr + n)

/-- One GCM invocation is taken: the epoch advances by 1 when its invocations have run out (R127). -/
def takeInvoc (r : Zone) : Zone :=
  if r.invoc < invocMax then { r with invoc := r.invoc + 1, ivctr := r.ivctr + 1 }
  else { r with epoch := r.epoch + 1, invoc := 1, ivctr := r.ivctr + 1 }

/-- A block takes its invocation in its zone (R127, R284). An advance of the zone's epoch sets CIP_EVT.EPOCH_ADV, raises the counters and writes a
record, each time (R288). -/
def takeFor (s : State) (t z : Nat) : State :=
  let was := (getZone s t z).epoch
  let s := modZone s t z takeInvoc
  if (getZone s t z).epoch = was then s
  else
    let old := s.cip.evt
    let s := genericEv { s with cip := { s.cip with evt := setBit old 2 } } 1 7 t 2 0x70008 (setBit old 2)
    cipT (cipCnt s 5 1) t 4 1

/-- The atomic piece that holds block `lba` of a range (R135): first LBA and one past the last. -/
def pieceOf (t : Tenant) (lba0 count lba : Nat) : Nat × Nat :=
  if count * t.blk ≤ t.awu then (lba0, lba0 + count)
  else
    let n := t.awu / t.blk
    (max lba0 (lba / n * n), min (lba0 + count) ((lba / n + 1) * n))

/-! ### Stage 5 checks -/

/-- The named zones of a command that stage 5 checks: the zone of DWORD 1, and the destination of COPY. -/
def namedZones (p : List Word) : List Nat :=
  let op := pOp p
  if op == opReport || op == opAbort || (op == opFlush && pZone p == 0xFFFFFFFF) then []
  else if op == opCopy then [pZone p, pD10 p] else [pZone p]

/-- Opcodes that a waiting ZONE_RESET refuses on the zone they write (R100). -/
def resetRefuses (op : Nat) : Bool :=
  isWriter op || op == opOpen || op == opClose || op == opFinish || op == opReset || op == opHint

/-- The status that stage 5 ends a writer with, if it fails there (Table 4.6, Table 4.9), before block supply. -/
def writerCheck (s : State) (c : Cmd) : Option Nat :=
  let t := tenD s c.tenant
  let z := wZone c.pkt
  let r := getZone s c.tenant z
  let n := pCount c.pkt
  let conv := isConv t z
  if r.st = .readOnly then some (if r.roReason = 2 then stEpochExh else stZoneRo)
  else if r.st = .full then some stZoneFull
  else if !conv && !wAppends c.pkt && wLba c.pkt != r.wp then some stNotAtWp
  else if !conv && decide (zoneCap t z r < r.wp + n) then some stZoneFull
  else if !conv && (r.st == .empty || r.st == .closed) && !openRoom s c.tenant then some stOpenLimit
  else if !t.cipherOff && ((conv && epochShort r n) || ctrShort r n) then some stEpochExh
  else none

/-- The status that stage 5 ends a zone command with, if it fails there (Table 4.6). -/
def zoneCmdCheck (s : State) (c : Cmd) : Option Nat :=
  let op := cOp c
  let r := getZone s c.tenant (pZone c.pkt)
  if (op == opOpen || op == opClose || op == opFinish) && r.st == .readOnly then some stZoneRo
  else if op == opOpen && r.st == .full then some stZoneFull
  else if op == opOpen && (r.st == .empty || r.st == .closed) && !openRoom s c.tenant then some stOpenLimit
  else none

/-! ### Commit point of writers -/

/-- A write to a conventional zone needs blocks for its tenant's stream: it does not fit in the open extent, no undercoat set can be had, and the
groups that could give one have no spare left (R94, R115; log 132, DEDUCED). -/
def convOut (s : State) (c : Cmd) : Bool :=
  let hint := (getZone s c.tenant (wZone c.pkt)).hint
  let room := match openExt s c.tenant none 0 hint with
    | some e => 256 - (getExt s e).secs.length
    | none => 0
  decide (room < pCount c.pkt * subs (tenD s c.tenant)) && (newExt s c.tenant none 0 hint).isNone &&
    (stageQuads s hint false).all fun q => (List.range 4).all fun g => Tab.get 0 s.media.spareRem (q * 4 + g) == 0

/-- A member that a writer reaches needs a block from a channel group that has no spare left (R94). -/
def spareOut (s : State) (t z : Nat) (l : List Nat) : Bool :=
  l.any fun m => match (getZone s t z).members[m]? with
    | some { ch := c, blk := none } => noSpare s c
    | _ => false

/-- The members that a writer reaches take their blocks (R111); none when a ready list is empty (R203). -/
def supply (s : State) (t z : Nat) : List Nat → Option State
  | [] => some s
  | m :: rest =>
    match (getZone s t z).members[m]? with
    | none => supply s t z rest
    | some x =>
      match x.blk with
      | some _ => supply s t z rest
      | none =>
        match takeBlock s x.ch with
        | none => none
        | some b =>
          let s := allocBlk s b fun f => { f with role := some .pool }
          supply (modZone s t z fun r => { r with members := modNth r.members m fun y => { y with blk := some b } }) t z rest

/-- A logical block written by a committed writer: its version, dirty and not yet in HBM, with its buffers (R91, R127,
R135). A version superseded before it ever becomes current is never programmed (R124, R126). -/
def makeVer (s : State) (c : Cmd) (lba0 i : Nat) : State :=
  let t := tenD s c.tenant
  let z := wZone c.pkt
  let lba := lba0 + i
  let s := if t.cipherOff then s else takeFor s c.tenant z
  let r := getZone s c.tenant z
  let (bl, bh) := pieceOf t lba0 (pCount c.pkt) lba
  let req := if cOp c = opCopy then 3 else c.port.num
  let (s, bufs) := popBufs s req c.tenant (min (subs t) (Tab.get 0 s.bpm.rsvds c.tenant))
  let newer := s.vers.any fun e => e.2.tenant == c.tenant && e.2.zone == z && e.2.lba == lba && live s e.2 &&
    e.2.pcycle == s.hlt.pcycle && decide (c.seq < e.2.seq)
  let v := s.verCtr
  let s := { s with verCtr := v + 1 }
  let s := modVer s v fun _ => {
    tenant := c.tenant, zone := z, lba := lba, gen := r.gen, seq := c.seq, pcycle := s.hlt.pcycle
    content := .host c.tenant s.hlt.pcycle c.seq i
    epoch := r.epoch, iv := if t.cipherOff then 0 else r.ivctr, cipherOff := t.cipherOff, hint := r.hint
    piece := bl, pieceEnd := bh, dirty := true, sup := newer, fua := pFUA c.pkt, bufs := bufs, loc := .buf }
  let s := if isConv t z && !newer then mapWrite s c.tenant z (lba * subs t) (subs t) else s
  modCmd s c.tenant c.seq fun c => { c with vers := c.vers ++ [v] }

/-- Parity buffers not needed by the rows and extents that a writer begins are returned to its tenant (R218): after the
data is placed, what is left of the command's promise. -/
def returnParity (s : State) (c : Cmd) (left : Nat) : State :=
  { s with bpm := uncharge s.bpm c.tenant (min left (Tab.get 0 s.bpm.rsvds c.tenant)) }

/-- The writer passes its commit point (R70): the zone opens if it must, the write pointer advances over the range, the
zone becomes FULL at capacity, the blocks' versions are made and given their places, and the charge not needed is
returned. -/
def commitWriter (s : State) (c : Cmd) : State :=
  let t := tenD s c.tenant
  let z := wZone c.pkt
  let conv := isConv t z
  let n := pCount c.pkt
  let lba0 := if wAppends c.pkt then (getZone s c.tenant z).wp else wLba c.pkt
  let s := modCmd s c.tenant c.seq fun c => { c with committed := true, ph := .exec, lba0 := lba0 }
  let s := if conv then modZone s c.tenant z fun r => { r with st := .closed, lastWriteNs := s.nowNs }
    else modZone s c.tenant z fun r => { r with wp := r.wp + n, lastWriteNs := s.nowNs }
  let s := (List.range n).foldl (fun s i => makeVer s c lba0 i) s
  let r := getZone s c.tenant z
  let s := if !conv && r.wp == zoneCap t z r then
      watchGate (modZone s c.tenant z fun r => { r with st := .full, resv := 0 }) else s
  let made := ((getCmd s c.tenant c.seq).map Cmd.vers).getD []
  let before := Tab.get 0 s.bpm.rsvds c.tenant
  let direct := !conv && r.hint == 1
  let s := if direct then s
    else made.foldl (fun s v => if (getVer s v).sup then s else placeUc s v) s
  let used := before - Tab.get 0 s.bpm.rsvds c.tenant
  let extra := c.charge - n * subs t - used
  let rows := ((List.range n).map fun i => lba0 + i).filter fun l => l == 0 || rowOf t l != rowOf t (l - 1)
  let s := returnParity s c (if direct then c.charge - n * subs t - 16 * parityN t * rows.length else extra)
  { s with hlt := { s.hlt with telLife := bump s.hlt.telLife 10 (n * t.blk) } }

/-- A writer at the zone sequencer after its zone checks: it opens the zone, takes blocks for the members it reaches, or
fails for want of one and leaves the zone READ_ONLY (R94); then it commits. -/
def writerStage (s : State) (c : Cmd) : State :=
  let t := tenD s c.tenant
  let z := wZone c.pkt
  match writerCheck s c with
  | some st =>
    let s := if st = stEpochExh ∧ (getZone s c.tenant z).st ≠ .readOnly ∧ !ctrShort (getZone s c.tenant z) (pCount c.pkt) then
        setCipEvt (goReadOnly s c.tenant z 2) 3 c.tenant 1
      else s
    let s := if st = stEpochExh then cipCnt s 6 1 else s
    genCompl s c.tenant c.seq st (if st = stNotAtWp then (getZone s c.tenant z).wp else allOnes64)
  | none =>
    if isConv t z then
      if convOut s c then genCompl (goReadOnly s c.tenant z 1) c.tenant c.seq stSpareExh allOnes64 else commitWriter s c
    else
      let r := getZone s c.tenant z
      let opened := if r.st = .empty then openEmpty s c.tenant z (pHint c.pkt)
        else modZone s c.tenant z fun r => { r with st := .opened }
      let lba0 := if wAppends c.pkt then r.wp else wLba c.pkt
      let ms := reachedAll t lba0 (pCount c.pkt)
      if spareOut opened c.tenant z ms then
        genCompl (goReadOnly s c.tenant z 1) c.tenant c.seq stSpareExh allOnes64
      else match supply opened c.tenant z ms with
        | some s => commitWriter s c
        | none => modCmd s c.tenant c.seq fun c => { c with ph := .blockWait, blockNs := some s.nowNs }

/-! ### Zone commands -/

/-- Versions of a zone. -/
def zoneVers (s : State) (t z : Nat) : List Nat :=
  (s.vers.filter fun e => e.2.tenant == t && e.2.zone == z).map Prod.fst

/-- An undercoat extent is released; its parity buffers are pushed, and a set whose 128 extents are all released is
queued for erase (R192). -/
def releaseExt (s : State) (e : Nat) : State :=
  let x := getExt s e
  if x.released then s
  else
    let s := pushBufs s 2 x.parity
    let s := modExt s e fun y => { y with released := true, parity := [] }
    let s := watchGate (modSet s x.set fun y => { y with released := y.released + 1 })
    if (getSet s x.set).released = 128 then
      let blks := (getSet s x.set).blks
      let s := modSet s x.set fun y => { y with blks := [] }
      blks.foldl queueEr s
    else s

/-- FUA writers of a zone whose data a reset drops complete with SUCCESS (R100). -/
def endFua (s : State) (t z : Nat) : State :=
  s.cmds.foldl (fun s c =>
    if c.tenant = t ∧ c.ph = .exec ∧ c.acked ∧ isWriter (cOp c) ∧ wZone c.pkt = z then genCompl s t c.seq stSuccess c.lba0
    else s) s

/-- Parity charged for rows of a direct-to-topcoat zone that never began their wordline is returned (R18, R218). -/
def dropParity (s : State) (t z : Nat) : State :=
  let r := getZone s t z
  if r.hint ≠ 1 then s
  else
    let vs := (s.vers.filter fun e => e.2.tenant == t && e.2.zone == z && live s e.2 && e.2.dirty && !e.2.placed &&
      decide (r.foldNext ≤ rowOf (tenD s t) e.2.lba / 4)).map Prod.fst
    { s with bpm := uncharge s.bpm t (min (rowsBegun s t vs * 16 * parityN (tenD s t)) (Tab.get 0 s.bpm.rsvds t)) }

/-- Folds of a zone and relocations of its blocks end: their buffers are pushed, the targets are erased (R18). -/
def dropMoves (s : State) (t z : Nat) (blks : List Nat) : State :=
  let fs := s.media.folds.filter fun e => e.2.tenant == t && e.2.zone == z
  let rs := s.media.relocs.filter fun e => blks.contains e.2.src && !e.2.logical
  let tgts := rs.filterMap fun e => e.2.tgt
  let s := pushBufs s 9 (fs.flatMap (fun e => e.2.bufs) ++ rs.flatMap fun e => e.2.bufs)
  let s := { s with media := { s.media with
    folds := s.media.folds.filter fun e => !(e.2.tenant == t && e.2.zone == z)
    relocs := s.media.relocs.filter fun e => !(blks.contains e.2.src && !e.2.logical) } }
  tgts.foldl queueEr (dropPrograms s tgts [])

/-- A ZONE_RESET applies (R99, R100, R120, R121): the next generation, epoch 0, EMPTY, reservation and open count given
back; the old generation's buffers dropped, its folds and relocations ended, its extents released and its members'
blocks queued for erase (R18). -/
def applyReset (s : State) (t z : Nat) : State :=
  let r := getZone s t z
  let old := zoneVers s t z
  let exts := zoneExts s t z
  let s := endFua s t z
  let blks := r.members.filterMap Member.blk
  let s := dropMoves (dropPrograms (dropParity s t z) blks exts) t z blks
  let s := modZone s t z fun r => { r with
    foldNext := 0, st := .empty, wp := 0, gen := (r.gen + 1) % p32, epoch := 0, invoc := 0, resv := 0, roReason := 0
    capDrop := none, finished := false, finWp := 0, members := [], resetWait := none }
  let s := old.foldl freeVer s
  let s := exts.foldl releaseExt (watchGate s)
  let s := blks.foldl queueEr s
  let s := purgeOld s t z
  if (r.gen + 1) % p32 = 0 then setCipEvt s 4 t 1 else s

/-- Transfers into a zone that a released ZONE_RESET has to wait for (R100). -/
def transfersInto (s : State) (t z : Nat) : Bool :=
  s.cmds.any fun c => c.tenant == t && c.ph == .exec && c.committed && isWriter (cOp c) && wZone c.pkt == z &&
    c.vers.any fun v => !(getVer s v).hbm && !(getVer s v).dead

/-- A ZONE_RESET or ZONE_FINISH that applied completes once its ZONE_STATE record is durable (R266). -/
def awaitJournal (s : State) (t seq result : Nat) : State :=
  let s := modCmd s t seq fun c => { c with ph := .exec, journal := true, result := result }
  stageRec s

/-- A ZONE_RESET at the zone sequencer: it applies, or waits for transfers (R100). -/
def resetStage (s : State) (c : Cmd) : State :=
  let t := c.tenant
  let z := pZone c.pkt
  if transfersInto s t z then
    modCmd (modZone s t z fun r => { r with resetWait := some c.seq }) t c.seq fun c => { c with ph := .resetWait }
  else
    awaitJournal (applyReset (modCmd s t c.seq fun c => { c with committed := true }) t z) t c.seq
      (((getZone s t z).gen + 1) % p32)

/-- ZONE_OPEN (R98, Table 4.6). -/
def openStage (s : State) (c : Cmd) : State :=
  let t := c.tenant
  let z := pZone c.pkt
  let r := getZone s t z
  let s := if r.st = .empty then openEmpty s t z (pHint c.pkt) else modZone (stageRec s) t z fun r => { r with st := .opened }
  let (s, g) := applyHint s t z (pHint c.pkt) (pD10 c.pkt)
  genCompl s t c.seq stSuccess g

/-- ZONE_CLOSE (R98, R116): to CLOSED with the partial row programmed to the undercoat, or to EMPTY at write pointer 0. -/
def closeStage (s : State) (c : Cmd) : State :=
  let t := c.tenant
  let z := pZone c.pkt
  let r := getZone s t z
  let s := if r.st ≠ .opened then s
    else if r.wp = 0 then watchGate (modZone (stageRec s) t z fun r => { r with st := .empty, members := [], resv := 0 })
    else
      stageClosed (modZone (stageRec s) t z fun r => { r with st := .closed }) t z
  genCompl s t c.seq stSuccess (getZone s t z).wp

/-- ZONE_FINISH (R98): FULL, the write pointer at capacity; an EMPTY zone's member map is fixed (R111), and what is in stripe buffers goes to
flash (Table 5.3). Its record is durable once the journal has passed `finJno` (R117, R266). -/
def finishStage (s : State) (c : Cmd) : State :=
  let t := c.tenant
  let z := pZone c.pkt
  let r := getZone s t z
  let ten := tenD s t
  if r.st = .full then genCompl s t c.seq stSuccess r.wp
  else
    let ms := if r.st = .empty then newMembers s ten z r.hint else r.members
    let s := watchGate (modZone s t z fun r => { r with
      st := .full, wp := zoneCap ten z r, finished := true, finWp := r.wp, finJno := s.plp.jSeq, members := ms, resv := 0 })
    awaitJournal (stageClosed s t z) t c.seq (getZone s t z).wp

/-- HINT (R104). -/
def hintStage (s : State) (c : Cmd) : State :=
  let (s, g) := applyHint s c.tenant (pZone c.pkt) (pHint c.pkt) (pD10 c.pkt)
  genCompl s c.tenant c.seq stSuccess g

/-! ### FLUSH and ZONE_REPORT -/



/-- A block whose current version is still to be programmed (R97); one whose writer is not resolved counts among them. -/
def unprogrammed (s : State) (x : Ver) : Bool :=
  match current s x.tenant x.zone x.lba with
  | none => false
  | some (_, y) => !programmed y && !y.poison

/-- What a FLUSH waits for still (R97): the current version of each covered block, but for writes that failed. -/
def flushWaits (s : State) (c : Cmd) : Bool :=
  c.cover.any fun v =>
    let x := getVer s v
    live s x && !x.left && unprogrammed s x

/-- The completion of a version's writer has been generated with SUCCESS (R97). -/
def completed (s : State) (x : Ver) : Bool :=
  x.acked && !(s.cmds.any fun w => w.tenant == x.tenant && w.seq == x.seq && x.pcycle == s.hlt.pcycle && w.ph == .exec)

/-- A version waits for programs on a failed quadrant (R342). -/
def onFailed (s : State) (v : Nat) : Bool :=
  let x := getVer s v
  let blks := match extOf s v with
    | some (e, _) => (getSet s (getExt s e).set).blks
    | none => (getZone s x.tenant x.zone).members.filterMap Member.blk
  !programmed x && !x.sup && !x.dead && blks.any fun b => Tab.get 0 s.rst.qState (chQuad (blkCh b)) == 2

/-- FLUSH at its release (R97): it covers the blocks of its zones that completed writes, and earlier-accepted ones past their commit point, have
written, as far as they are not programmed, and has them programmed. -/
def flushStage (s : State) (c : Cmd) : State :=
  let z := pZone c.pkt
  let cov := (s.vers.filter fun e => e.2.tenant == c.tenant && (z == 0xFFFFFFFF || e.2.zone == z) && live s e.2 && !e.2.left &&
    (completed s e.2 || before e.2 s.hlt.pcycle c.seq) && unprogrammed s e.2).map Prod.fst
  let s := modCmd s c.tenant c.seq fun c => { c with ph := .exec, committed := true, cover := cov }
  let s := cov.foldl (fun s v =>
    let x := getVer s v
    match current s x.tenant x.zone x.lba with
    | none => s
    | some (w, _) => forceVer s w) s
  match getCmd s c.tenant c.seq with
  | none => s
  | some c =>
    if !flushWaits s c then genCompl s c.tenant c.seq stSuccess 0
    else if c.cover.any (onFailed s) then genCompl s c.tenant c.seq stQuadUnavail 0
    else s

/-- A zone descriptor (Table 4.8). -/
def zoneDesc (s : State) (t z : Nat) : List Byte :=
  let ten := tenD s t
  let r := getZone s t z
  let conv := isConv ten z
  let wp := if conv ∨ r.st = .offline then allOnes64 else r.wp
  leBytes 4 z ++ leBytes 1 r.st.code ++ leBytes 1 (b2n conv + 2 * (if r.st = .readOnly then r.roReason else 0)) ++ leBytes 1 r.hint ++
    leBytes 1 (Nat.log2 ten.w) ++ leBytes 8 wp ++ leBytes 8 (zoneCap ten z r) ++ leBytes 8 (zoneSize ten) ++
    leBytes 4 r.gen ++ leBytes 2 r.epoch ++ leBytes 2 0 ++ leBytes 4 r.resv ++
    leBytes 4 ((zoneExts s t z).filter fun e => !(getExt s e).passed.isEmpty).length ++ leBytes 16 0

/-- The zones a report lists: from `z` on, those whose state is in the mask, at most `n`; and the next zone to examine
(R101). -/
def reportZones (s : State) (t mask : Nat) : Nat → Nat → Nat → List Nat × Nat
  | 0, z, _ => ([], z)
  | fuel + 1, z, n =>
    if (tenD s t).nz ≤ z then ([], 0xFFFFFFFF)
    else if n = 0 then ([], z)
    else
      let hit := mask == 0 || bit mask (getZone s t z).st.code
      let (l, e) := reportZones s t mask fuel (z + 1) (if hit then n - 1 else n)
      (if hit then z :: l else l, e)

/-- ZONE_REPORT at its release (R101). -/
def reportStage (s : State) (c : Cmd) : State :=
  let p := c.pkt
  let nz := (tenD s c.tenant).nz
  let (l, e) := reportZones s c.tenant (bits (pD10 p) 0 6) (nz + 1 - pZone p) (pZone p) (pLen p / 64)
  let e := if nz ≤ e then 0xFFFFFFFF else e
  let bs := (l.map (zoneDesc s c.tenant)).foldl (· ++ ·) []
  let exts := if pXL p then c.exts else [{ addr := pAddr p, len := pLen p, flags := 0 }]
  let segs := segments exts 0 bs.length
  let s := (segs.foldl (fun (acc : State × List Byte) g =>
    (sendData acc.1 c.port c.fn (.bytes c.port c.fn g.1 (acc.2.take g.2) (relaxedFn s c.port c.fn)), acc.2.drop g.2)) (s, bs)).1
  let s := modCmd s c.tenant c.seq fun c => { c with committed := true }
  genCompl s c.tenant c.seq stSuccess (l.length + p32 * e)

/-! ### Stage 5 -/

/-- COPY at the zone sequencer: held for earlier writers of its source (R123) before its commit point (log 21, DEDUCED);
otherwise its destination commits, then its source is read (R102). -/
def copyStage (s : State) (c : Cmd) : State :=
  if readerHeld s c then modCmd s c.tenant c.seq fun c => { c with ph := .heldReader }
  else
    let s := writerStage s c
    match getCmd s c.tenant c.seq with
    | none => s
    | some d => if d.ph ≠ .exec then s else startReader s c.tenant c.seq

/-- The commands that firmware carries (Table 1.5), HINT among them as no hot-path command (R13; log 141, DEDUCED). -/
def fwCarried (op : Nat) : Bool :=
  op == opOpen || op == opClose || op == opFinish || op == opReset || op == opCopy || op == opVerify || op == opReport || op == opHint

/-- Stage 5 of Table 4.9 for a command whose stage 4 has passed. One that names a zone whose table entry is lost stays held (Table 10.6); one
that firmware carries waits until a live activation's pause ends (R344). -/
def zoneStage (s : State) (t seq : Nat) : State :=
  match getCmd s t seq with
  | none => s
  | some c =>
    let op := cOp c
    let zs := namedZones c.pkt
    let fail := fun st => genCompl s t seq st (noEffectResult op)
    if zs.any fun z => (getZone s t z).tabLost then s
    else if paused s && fwCarried op then modCmd s t seq fun c => { c with ph := .fwWait }
    else if zs.any fun z => (getZone s t z).st == .offline then fail stZoneOffline
    else if resetRefuses op && (getZone s t (wZone c.pkt)).resetWait.isSome then fail stResetPend
    else if isReader op && (getZone s t (pZone c.pkt)).resetWait.isSome then
      modCmd s t seq fun c => { c with ph := .heldReset }
    else if op = opRead ∨ op = opVerify then
      readerStage (modCmd s t seq fun c => { c with committed := true }) t seq
    else if op = opCopy then copyStage s c
    else if isWriter op then writerStage s c
    else if op = opFlush then flushStage s c
    else if op = opReport then reportStage s c
    else match zoneCmdCheck s c with
      | some st => fail st
      | none =>
        if op = opReset then resetStage s c
        else
          let s := modCmd s t seq fun c => { c with committed := true }
          if op = opOpen then openStage s c
          else if op = opClose then closeStage s c
          else if op = opFinish then finishStage s c
          else hintStage s c

/-- Readers held for a zone's reset go on (R100). -/
def wakeHeld (s : State) (t z : Nat) : State :=
  s.cmds.foldl (fun s c =>
    if c.tenant = t ∧ c.ph = .heldReset ∧ pZone c.pkt = z then zoneStage s t c.seq else s) s

/-- The commands that waited for the end of a live activation go on, in acceptance order (R344). -/
def endActivation (s : State) : State := s.cmds.foldl (fun s c => if c.ph = .fwWait then zoneStage s c.tenant c.seq else s) s

end Sys2Proof.Machine
end

