-- ==== Sys2Proof/Machine/Katus.lean ====
section
/-! DEFINITION. The Katus commands: decode and the context step for each opcode, release, refusal after waiting, the
extent-list fetch, acknowledgement, held readers, resets that wait, and ABORT. -/

namespace Sys2Proof.Machine

/-- The lowest-numbered enabled ring of a function (R65). -/
def lowestRing (c : Casement) : Option Nat := (c.rings.find? fun e => e.2.en).map Prod.fst

/-- The oldest command of a port that is captured and not yet decided (R142). -/
def nextCaptured (s : State) (p : Port) : Option Cmd := s.cmds.find? fun c => c.port == p && c.ph == .captured

/-- A command fails before admission with `st`. The RESULT of an ABORT that fails so is open, since Table 4.11 refers to Table 3.6, which gives
none, and so is that of an opcode outside 0x01 to 0x0D, for which Table 4.11 has no row (log 4, DESIGN CHOICE). -/
def failEarly (s : State) (c : Cmd) (st : Nat) : State :=
  if cOp c = opAbort ∨ cOp c = 0 ∨ 0x0D < cOp c then genCompl { s with freeCtr := s.freeCtr + 1 } c.tenant c.seq st (Config.abortResult s.freeCtr).toNat
  else genCompl s c.tenant c.seq st (noEffectResult (cOp c))

/-- The ring check of stage 1 (R65): the command goes on, completes with INVALID_FIELD on the lowest-numbered enabled
ring, or is discarded with ORPHAN set. -/
def ringStage (s : State) (c : Cmd) : Option State :=
  let cas := getCas s c.port c.fn
  if (getRing s c.port c.fn (pRing c.pkt)).en then none
  else match lowestRing cas with
    | some n =>
      let s := modCmd s c.tenant c.seq fun x => { x with outRing := n }
      some (failEarly s c stInvalidField)
    | none => some (sweepVers (retire (modCas s c.port c.fn fun x => { x with orphan := true }) c.tenant c.seq))

/-- Stages 1 to 3 of Table 4.9 for a captured command other than ABORT: it fails, is refused, or is granted a context
and queued (R141). -/
def decideCmd (s : State) (c : Cmd) (rival : Bool) : State :=
  let fail := fun s st => genCompl s c.tenant c.seq st (noEffectResult (cOp c))
  match ringStage s c with
  | some s => s
  | none =>
    match decodeCheck (tenD s c.tenant) c.pkt with
    | some st => failEarly s c st
    | none =>
      match stateCheck s (cOp c) with
      | some st => fail s st
      | none =>
        let cls := cCls c
        let s := admCnt s c.tenant cls 0 1
        match contextStep s c.tenant cls c.port rival with
        | some (st, tie) =>
          let s := admCnt s c.tenant cls (if st = stOverShare then 4 else 5) 1
          let s := if !tie then s else match c.port with
            | .a => { s with adm := { s.adm with tieLossA := satAdd 0xFFFF s.adm.tieLossA 1 } }
            | .b => { s with adm := { s.adm with tieLossB := satAdd 0xFFFF s.adm.tieLossB 1 } }
          fail s st
        | none =>
          let s := noteGrant (admCnt s c.tenant cls 1 1) c.tenant cls c.port
          modCmd s c.tenant c.seq fun x => { x with
            granted := true, grantNs := s.nowNs, ph := .queued, sawThrottle := decide (s.adm.shutter < 64) }

/-- A captured command with the opcode of its row is decided, when it is its port's turn (R142); otherwise nothing
happens (log 2, DESIGN CHOICE). -/
def decideOp (op t seq : Nat) (rival : Bool) (s : State) : Res :=
  match getCmd s t seq with
  | none => .next s
  | some c =>
    if c.ph = .captured ∧ cOp c = op ∧ (nextCaptured s c.port).any (fun x => x.tenant == t && x.seq == seq) ∧ !flushing s then
      .next (decideCmd s c rival)
    else .next s

/-- READ (R89). -/
def execRead (t seq : Nat) (rival : Bool) (s : State) : Res := decideOp opRead t seq rival s
/-- WRITE (R91). -/
def execWrite (t seq : Nat) (rival : Bool) (s : State) : Res := decideOp opWrite t seq rival s
/-- APPEND (R91). -/
def execAppend (t seq : Nat) (rival : Bool) (s : State) : Res := decideOp opAppend t seq rival s
/-- ZONE_OPEN (R98). -/
def execZoneOpen (t seq : Nat) (rival : Bool) (s : State) : Res := decideOp opOpen t seq rival s
/-- ZONE_CLOSE (R98). -/
def execZoneClose (t seq : Nat) (rival : Bool) (s : State) : Res := decideOp opClose t seq rival s
/-- ZONE_FINISH (R98). -/
def execZoneFinish (t seq : Nat) (rival : Bool) (s : State) : Res := decideOp opFinish t seq rival s
/-- ZONE_RESET (R99). -/
def execZoneReset (t seq : Nat) (rival : Bool) (s : State) : Res := decideOp opReset t seq rival s
/-- FLUSH (R97). -/
def execFlush (t seq : Nat) (rival : Bool) (s : State) : Res := decideOp opFlush t seq rival s
/-- ZONE_REPORT (R101). -/
def execZoneReport (t seq : Nat) (rival : Bool) (s : State) : Res := decideOp opReport t seq rival s
/-- COPY (R102). -/
def execCopy (t seq : Nat) (rival : Bool) (s : State) : Res := decideOp opCopy t seq rival s
/-- VERIFY (R103). -/
def execVerify (t seq : Nat) (rival : Bool) (s : State) : Res := decideOp opVerify t seq rival s
/-- HINT (R104). -/
def execHint (t seq : Nat) (rival : Bool) (s : State) : Res := decideOp opHint t seq rival s

/-- INVALID_OPCODE (R86): a captured packet whose opcode is outside 0x01 to 0x0D. -/
def execInvalidOpcode (t seq : Nat) (s : State) : Res :=
  match getCmd s t seq with
  | none => .next s
  | some c =>
    if c.ph = .captured ∧ (cOp c = 0 ∨ 0x0D < cOp c) ∧
        (nextCaptured s c.port).any (fun x => x.tenant == t && x.seq == seq) ∧ !flushing s then
      .next (decideCmd s c false)
    else .next s

/-! ### ABORT -/

/-- A caught command ends with ABORTED and no effect (R73). -/
def catchCmd (s : State) (x : Cmd) : State :=
  let s := endQueued s x
  let s := if x.ph = .resetWait then modZone s x.tenant (pZone x.pkt) fun r => { r with resetWait := none } else s
  let s := genCompl s x.tenant x.seq stAborted (noEffectResult (cOp x))
  if x.ph = .resetWait then wakeHeld s x.tenant (pZone x.pkt) else s

/-- Resolution of an ABORT (R72, R73, Table 3.6): a command accepted after it is no target of it. -/
def resolveAbort (s : State) (c : Cmd) : State :=
  let tag := bits (pD10 c.pkt) 0 16
  match s.cmds.find? fun x => x.tenant == c.tenant && pTag x.pkt == tag && decide (x.seq < c.seq) with
  | none => genCompl (modCmd s c.tenant c.seq fun x => { x with committed := true }) c.tenant c.seq stNoTarget allOnes64
  | some x =>
    let caught := !x.committed && x.ph != .gen
    let s := if caught then catchCmd s x else s
    let s := modCmd s c.tenant c.seq fun y => { y with waitFor := some x.seq, reserve := true, committed := true }
    genCompl s c.tenant c.seq (if caught then stCaught else stTooLate) (x.seq % p32)

/-- ABORT (R72): decoded, never refused by admission, and resolved. The RESULT of an ABORT that fails at decode is open
(Table 4.11 gives none; log 4, DESIGN CHOICE). -/
def execAbort (t seq : Nat) (s : State) : Res :=
  match getCmd s t seq with
  | none => .next s
  | some c =>
    if c.ph = .captured ∧ cOp c = opAbort ∧ !flushing s then
      match ringStage s c with
      | some s => .next s
      | none =>
        match decodeCheck (tenD s t) c.pkt with
        | some st => .next (failEarly s c st)
        | none => .next (resolveAbort s c)
    else .next s

/-! ### Release -/

/-- Opcodes that need the tenant's key at stage 4 (Table 4.10). -/
def needsKey (op : Nat) : Bool := op == opRead || op == opVerify || isWriter op

/-- The tenant's key is loaded, or its cipher is off (R105). -/
def keyReady (s : State) (t : Nat) : Bool := (tenD s t).cipherOff || (Tab.get {} s.cip.tslots t).state == 1

/-- Stage 4 of Table 4.9, and stage 5 for a command without an extent list. -/
def stage4 (s : State) (c : Cmd) : State :=
  if needsKey (cOp c) && !keyReady s c.tenant then
    genCompl (cipT (cipCnt s 8 1) c.tenant 3 1) c.tenant c.seq stNoKey (noEffectResult (cOp c))
  else if pXL c.pkt then
    let early := cOp c == opRead || cOp c == opReport
    modCmd s c.tenant c.seq fun x => { x with ph := .listWait, committed := x.committed || early }
  else zoneStage s c.tenant c.seq

/-- A head takes its tokens and, for a writer, its charge, and is released (R143, R144, R218). READ, VERIFY, ZONE_REPORT
and FLUSH pass their commit point here (R70). -/
def releaseCmd (s : State) (c : Cmd) : State :=
  let cls := cCls c
  let us := waitUs s c
  let b := costB s c
  let s := modTCls s c.tenant cls fun x => { x with
    bktB := takeTok x.bktB c.credB b, bktO := takeTok x.bktO c.credO opUnit }
  let s := admCnt s c.tenant cls (if s.nowNs - c.grantNs < 1000 then 2 else 3) 1
  let s := admCnt (admCnt s c.tenant cls 13 (b / byteUnit)) c.tenant cls 14 1
  let s := countWait s c.tenant cls us
  let s := { s with adm := { s.adm with direct := s.adm.direct - directBytes s c } }
  let n := if isWriter (cOp c) then writerCharge s c else 0
  let s := { s with bpm := charge s.bpm c.tenant n }
  let op := cOp c
  let commits := op == opRead || op == opVerify || op == opReport || op == opFlush
  let s := modCmd s c.tenant c.seq fun x => { x with
    released := true, relNs := s.nowNs, queueUs := us, gate := .none, charge := n, ph := .exec, committed := commits
    skip := if isReader op then unplaced s c else [] }
  match getCmd s c.tenant c.seq with
  | none => s
  | some c => checkOver (stage4 s c)

/-- What holds a head that cannot be released is noted: a gate and since when, and a refused charge (BPM_T_QHOLD; R145, R146, R222). -/
def noteHold (s : State) (c : Cmd) : State :=
  let g := gateOf s c
  let refused := tokensOk s c && g == .none && !quotaOk s c
  let s := if refused then { s with bpm := chargeRefused s.bpm } else s
  let s := if refused && !c.qheld then modTen s c.tenant fun t => { t with qhold := t.qhold + 1 } else s
  let s := watchGate s
  modCmd s c.tenant c.seq fun x => { x with
    gate := g, gateNs := if x.gate = .none then s.nowNs else x.gateNs, qheld := x.qheld || refused }

/-- ADMISSION_RELEASE (R143): the head of a lane is released if everything it needs is there and no head of the
tenant-class with a lower acceptance sequence could go first. `tie` says that another request for buffers was granted just before it in
the same cycle (R221). -/
def execAdmissionRelease (t : Nat) (c : Cls) (turn : LaneTurn) (s : State) : Res :=
  match laneHead s t c turn.writing with
  | none => .next s
  | some h =>
    let first := match laneHead s t c (!turn.writing) with
      | none => false
      | some o => decide (o.seq < h.seq) && canRelease s o
    if s.adm.stop || first then .next s
    else if canRelease s h then .next (releaseCmd s h)
    else .next (noteHold (tieCount s (match h.port with | .a => 0 | .b => 1) t (writerCharge s h) (turn.tie && tokensOk s h && gateOf s h == .none)) h)

/-- REFUSAL_AFTER_WAITING (R146). The bounds hold for a writer's wait for a ready block too, which counts as admission hold (R13; log 144,
DEDUCED). -/
def execRefusalAfterWaiting (t seq : Nat) (s : State) : Res :=
  match getCmd s t seq with
  | none => .next s
  | some c =>
    if (c.ph = .queued ∨ c.ph = .blockWait) ∧ !s.adm.stop ∧ boundOf s c ≠ .none then .next (refuseQueued s c (refuseStatus s c (boundOf s c)))
    else .next s

/-! ### Extent lists, acknowledgement, held commands -/

/-- The entries of a fetched extent list (Table 4.5, R409): 16 bytes each, EXT_ADDR, EXT_LEN and EXT_FLAGS little-endian. -/
def parseExtents (l : List Byte) : Nat → List Extent
  | 0 => []
  | n + 1 => { addr := leAt l 0 8, len := leAt l 8 4, flags := leAt l 12 4 } :: parseExtents (l.drop 16) n

/-- The checks of a fetched extent list (R83). -/
def listOk (p : List Word) (l : List Extent) : Bool :=
  l.length == pXcount p &&
    (l.all fun e => e.addr % 4 == 0 && e.len != 0 && e.len % 4 == 0 && decide (e.flags < 2) &&
      (e.flags == 0 || pOp p == opRead)) &&
    sumBy Extent.len l == pLen p

/-- The host functions of a command can move its data: link up, Bus Master Enable 1, not in D3hot (R44). -/
def dmaRuns (s : State) (c : Cmd) : Bool := canWrite s c.port c.fn

/-- EXTENT_LIST_FETCH (R83): the bytes of the XCOUNT entries at ADDR have been read. -/
def execExtentListFetch (t seq : Nat) (bytes : List Byte) (s : State) : Res :=
  match getCmd s t seq with
  | none => .next s
  | some c =>
    let list := parseExtents bytes (pXcount c.pkt)
    if c.ph = .listWait ∧ dmaRuns s c then
      if listOk c.pkt list then .next (zoneStage (modCmd s t seq fun x => { x with exts := list, ph := .exec }) t seq)
      else .next (genCompl s t seq stInvalidField (noEffectResult (cOp c)))
    else .next s

/-- All the blocks of a FUA writer are programmed in the sense of R96. A block that is never programmed, since a later-accepted write superseded it
before it was current (R124), counts as done once that write's data is in HBM (log 129, DESIGN CHOICE). -/
def fuaDone (s : State) (c : Cmd) : Bool := c.vers.all fun v =>
  let x := getVer s v
  programmed x || x.dead || (x.sup && superseded s x)

/-- FUA writers and FLUSHes whose data is now programmed complete (R96, R97). -/
def completeFua (s : State) : State :=
  s.cmds.foldl (fun s c =>
    if c.ph = .exec ∧ isWriter (cOp c) ∧ c.acked ∧ fuaDone s c then genCompl s c.tenant c.seq stSuccess c.lba0
    else if c.ph = .exec ∧ isWriter (cOp c) ∧ c.acked ∧ c.vers.any (onFailed s) then
      genCompl s c.tenant c.seq stQuadUnavail c.lba0
    else if c.ph = .exec ∧ cOp c = opFlush ∧ !flushWaits s c then genCompl s c.tenant c.seq stSuccess 0
    else if c.ph = .exec ∧ cOp c = opFlush ∧ c.cover.any (onFailed s) then genCompl s c.tenant c.seq stQuadUnavail 0
    else s) s

/-- WRITE_ACKNOWLEDGEMENT (R95, R96): every block of a writer is in HBM; a FUA writer goes on to be programmed. A block that is still to be
encrypted waits for a lost key (Table 10.6). -/
def execWriteAcknowledgement (t seq : Nat) (s : State) : Res :=
  match getCmd s t seq with
  | none => .next s
  | some c =>
    let copyDone := c.todo.isEmpty && c.failLba.isNone
    if c.ph = .exec ∧ c.committed ∧ isWriter (cOp c) ∧ !c.acked ∧
        (if cOp c = opCopy then copyDone else dmaRuns s c) ∧ !(c.vers.any fun v => !(getVer s v).hbm && keyGone s v) then
      let s := c.vers.foldl (fun s v =>
        modVer (if (getVer s v).hbm then s else encryptBlock s v) v fun x => { x with hbm := true, acked := true }) s
      let s := if cOp c = opCopy then s else tel s (if c.port = .a then 1 else 3) (pLen c.pkt)
      let s := modCmd s t seq fun x => { x with acked := true }
      let s := onward s c
      .next (completeFua (if pFUA c.pkt then s else genCompl s t seq stSuccess c.lba0))
    else .next s

/-- READER_RESUME (R123): a held reader goes on once no earlier writer holds it. -/
def execReaderResume (t seq : Nat) (s : State) : Res :=
  match getCmd s t seq with
  | none => .next s
  | some c =>
    if c.ph = .heldReader ∧ !readerHeld s c ∧ !(paused s && fwCarried (cOp c)) then .next (zoneStage s t seq) else .next s

/-- ZONE_RESET_APPLY (R100): the transfers a reset waits for have finished or failed; it applies, and the readers it held
go on. -/
def execZoneResetApply (t seq : Nat) (s : State) : Res :=
  match getCmd s t seq with
  | none => .next s
  | some c =>
    let z := pZone c.pkt
    if c.ph = .resetWait ∧ !transfersInto s t z ∧ !paused s then
      let s := modCmd s t seq fun x => { x with committed := true }
      let s := applyReset s t z
      .next (wakeHeld (awaitJournal s t seq (getZone s t z).gen) t z)
    else .next s

/-! ### Transfers that fail -/

/-- A command ends by a fault of its transfer or its path with `status` (R30, R107): a writer past its commit point
leaves the blocks that reached HBM and reports its first LBA; before it, there is no effect. -/
def endPath (s : State) (c : Cmd) (status : Nat) (blocks : List Nat) : State :=
  let op := cOp c
  if isWriter op then
    if c.committed then
      let s := if c.acked then c.vers.foldl (fun s v => modVer s v fun x => { x with left := true }) s else leaveWriter s c blocks
      genCompl s c.tenant c.seq status c.lba0
    else genCompl s c.tenant c.seq status allOnes64
  else genCompl s c.tenant c.seq status 0

/-- A DMA read of a command fails (R29): its list is being fetched, or its host data is being read. AER of its function reports the error
in bit `b`. -/
def dmaFail (t seq b : Nat) (reached : List Nat) (s : State) : Res :=
  match getCmd s t seq with
  | none => .next s
  | some c =>
    let op := cOp c
    let r := modFn s c.port c.fn fun f => { f with aer := setBit f.aer b }
    let listing := c.ph = .listWait
    let moving := c.ph = .exec ∧ c.committed ∧ !c.acked ∧ (op = opWrite ∨ op = opAppend)
    if listing then .next (genCompl r t seq stDmaFault (noEffectResult op))
    else if moving then .next (endPath r c stDmaFault reached)
    else .next s

/-- The bit of AER's Uncorrectable Error Status that a failed DMA read sets (log 50, PRESUMED). -/
def aerBit : DmaErr → Nat
  | .ur => 20
  | .ca => 15
  | .poisoned => 12

/-- DMA_READ_FAIL (R29): Unsupported Request, Completer Abort or poisoned data. -/
def execDmaReadFail (t seq : Nat) (fail : DmaFail) (s : State) : Res := dmaFail t seq (aerBit fail.err) fail.reached s

/-- Shortest time in ns that a Completion Timeout Value stands for: 10 ms where the field holds its default (R29), otherwise the lower end of
the range that the code names (log 50, PRESUMED). -/
def cplTimeoutNs : Nat → Nat
  | 1 => 50000
  | 2 => 1000000
  | 5 => 16000000
  | 6 => 65000000
  | 9 => 260000000
  | 10 => 1000000000
  | 13 => 4000000000
  | 14 => 17000000000
  | _ => 10000000

/-- COMPLETION_TIMEOUT (R29): a read reached the Completion Timeout Value of its function, so its command was released that long ago. -/
def execCompletionTimeout (t seq : Nat) (reached : List Nat) (s : State) : Res :=
  match getCmd s t seq with
  | none => .next s
  | some c =>
    if c.relNs + cplTimeoutNs (getFn s c.port c.fn).cplTimeout ≤ s.nowNs then dmaFail t seq 14 reached s else .next s

end Sys2Proof.Machine
end

