-- ==== Sys2Proof/Machine/Paths.lean ====
section
/-! DEFINITION. Port loss and function reset: redirection of completions (R40 to R42, R45) and the reset of functions
(R43, R76). -/

namespace Sys2Proof.Machine

/-- RESULT of a command that ends with PATH_LOST or FUNCTION_RESET (R30). -/
def pathResult (c : Cmd) : Nat :=
  if isWriter (cOp c) then if c.committed then c.lba0 else allOnes64 else 0

/-- A completion that cannot be posted is dropped and counted for the port that accepted the command (R41). -/
def dropCompl (s : State) (c : Cmd) : State :=
  dropCmd (modPort s c.port fun q => { q with dropped := satAdd 0xFFFFFFFF q.dropped 1 }) c.tenant c.seq

/-- The failover ring of a command is enabled and the other port's link is up (R41). -/
def failoverOk (s : State) (c : Cmd) : Bool :=
  (getPort s c.port.other).linkUp && fnExists s c.port.other c.fn && (getRing s c.port.other c.fn (pFail c.pkt)).en

/-- A command captured on a lost port, or through a reset function, is redirected (R40 step 3, R45): its write effects are
fixed, its status becomes `status`, and its completion is bound to its failover ring on the other port, or dropped. -/
def redirect (s : State) (reached : List Reached) (status : Nat) (c : Cmd) : State :=
  let blocks := ((reached.find? fun r => r.tenant == c.tenant && r.seq == c.seq).map Reached.blocks).getD []
  let s := endQueued s c
  let s := if c.ph = .resetWait then modZone s c.tenant (pZone c.pkt) fun r => { r with resetWait := none } else s
  let s := if c.ph = .gen then s else endPath s c status blocks
  let s := modCmd s c.tenant c.seq fun x => { x with
    status := status, result := pathResult c, redirected := true, outPort := c.port.other, outFn := c.fn
    outRing := pFail c.pkt, reserve := x.reserve || !c.granted, ph := .gen, todo := [], keyWait := [], genNo := s.genCtr }
  let s := { s with genCtr := s.genCtr + 1 }
  let s := sweepVers (if failoverOk s c then s else dropCompl s c)
  if c.ph = .resetWait then wakeHeld s c.tenant (pZone c.pkt) else s

/-- Redirection of every command of a port that `f` picks out, in acceptance order; completions already redirected onto
it are dropped (R41, R42). -/
def redirectAll (s : State) (p : Port) (f : Nat → Bool) (reached : List Reached) (status : Nat) : State :=
  let held := s.cmds.filter fun c => c.redirected && c.outPort == p && f c.outFn
  let s := held.foldl dropCompl s
  let mine := s.cmds.filter fun c => c.port == p && f c.fn && !c.redirected
  mine.foldl (fun s c => redirect s reached status c) s

/-- Commands of a port that a port loss would redirect. -/
def acceptedOn (s : State) (p : Port) : Nat := (s.cmds.filter fun c => c.port == p && !c.redirected).length

/-- Commits held before READY and data writes held back for the functions of a port that `f` picks out are discarded (R40, R76). -/
def dropWaiting (s : State) (p : Port) (f : Nat → Bool) : State :=
  { s with
    heldCommits := s.heldCommits.filter fun h => !(h.1 == p && f h.2.1)
    heldOut := s.heldOut.filter fun h => !(h.1 == p && f h.2.1) }

/-- A VF returns to its reset state: casement, rings, MSI-X table and configuration bits (R45, R76). -/
def resetVf (s : State) (p : Port) (fn : Nat) : State :=
  modPort (dropWaiting s p (· == fn)) p fun q => { q with vfs := Tab.set {} q.vfs fn {} }

/-- Every function of a port returns to its reset state (R43, R44). -/
def resetFns (s : State) (p : Port) : State :=
  modPort (dropWaiting s p fun _ => true) p fun q => { q with
    pf0 := {}, vfs := [], vfEn := false, numVfs := 0, d3hot := false, vfBar := 0, win := {}, inL1 := false }

end Sys2Proof.Machine
end

