-- ==== Sys2Proof/Machine/Ports.lean ====
section
/-! DEFINITION. Host ports and functions (R25 to R46): port loss and return, resets of functions, configuration-space
writes, Unsupported Requests, die-to-die lanes (R8) and processor hangs (Table 1.10). -/

namespace Sys2Proof.Machine

/-- A configuration request of a host (R44): accepted in D3hot too; nothing arrives while the link is down. -/
def cfgAccess (p : Port) (fn : Nat) (s : State) (k : State → Res) : Res :=
  if !(getPort s p).linkUp || s.ckm.stopped then .next s
  else if !fnExists s p fn then .next (emit s (.unsupported p fn))
  else k (wake (modPort s p fun q => { q with inL1 := false }) 3)

/-- The VFs that exist on a port. -/
def vfList (s : State) (p : Port) : List Nat :=
  if (getPort s p).vfEn then (List.range (getPort s p).numVfs).map (· + 1) else []

/-- VFs are removed (Table 2.8, R45): their contexts resolved with FUNCTION_RESET, their mailboxes discarded, their
functions reset. -/
def removeVfs (s : State) (p : Port) (l : List Nat) (reached : List Reached) (cause : Nat) : State :=
  let s := redirectAll s p (fun f => l.contains f) reached stFnReset
  l.foldl (fun s f => resetVf (dropVfBox s p f cause) p f) s

/-! ### Port loss and return -/

/-- What a port loss does (Table 2.6, Table 2.8): casements stop, every command captured on the port is redirected, the
port's functions and mailboxes are reset, LOST is set and the loss recorded. -/
def losePort (s : State) (p : Port) (cause : LossCause) (reached : List Reached) : State :=
  let n := acceptedOn s p
  let s := modPort s p fun q => { q with linkUp := false, lossDue := false, speed := 0, width := 0, flit := false }
  let s := redirectAll s p (fun _ => true) reached stPathLost
  let s := (vfList s p).foldl (fun s f => dropVfBox s p f 2) s
  let s := resetFns (breakPort s p 2) p
  let s := logEv s 3 (src 1 p.num) 0x1001 (leBytes 4 cause.code ++ leBytes 4 n)
  setPortEvt s p.num

/-- The reference of a port. -/
def refOf (s : State) : Port → RefSt
  | .a => s.ckm.refA
  | .b => s.ckm.refB

/-- The state with a reference's monitor rewritten. -/
def modRef (s : State) (r : Port) (f : RefSt → RefSt) : State :=
  match r with
  | .a => { s with ckm := { s.ckm with refA := f s.ckm.refA } }
  | .b => { s with ckm := { s.ckm with refB := f s.ckm.refB } }

/-- The state with a PLL rewritten. -/
def modPll (s : State) (p : Nat) (f : Pll → Pll) : State :=
  { s with ckm := { s.ckm with plls := Tab.upd {} s.ckm.plls p f } }

/-- A PLL starts on a reference and acquires lock. -/
def startPll (s : State) (p : Nat) (r : Port) : State :=
  modPll s p fun x => { x with on := true, src := r == .b, lock := true, stable := false, fault := false
                               relocks := satAdd 255 x.relocks 1 }

/-- PERST# resets the port's PHY (Table 2.8), whose PLL is then off (log 128, DEDUCED). -/
def resetPhy (s : State) (p : Port) : State :=
  modPll s (11 + p.num) fun x => { x with on := false, lock := false, stable := false }

/-- A PHY that comes out of PERST# starts its PLL again if its reference is Selected; the PLL is stable after four comparisons in window
(R329), or at once on a reference that is not monitored (R330). -/
def startPhy (s : State) (p : Port) : State :=
  let alone := s.ckm.unmonitored && (s.ckm.coreSrc == (p == .b))
  if (Tab.get {} s.ckm.plls (11 + p.num)).on ∨ !((refOf s p).st == 2 || alone) then s
  else if alone then modPll (startPll s (11 + p.num) p) (11 + p.num) fun x => { x with stable := true }
  else modRef (startPll s (11 + p.num) p) p fun x => { x with goodCmps := 4 }

/-- PORT_LOST (R40): DL_Down, Hot Reset, PERST# or the deselection of the port's reference. -/
def execPortLost (p : Port) (cause : LossCause) (reached : List Reached) (s : State) : Res :=
  let s := if cause = .perst then resetPhy (modPort s p fun q => { q with perst := true }) p else s
  if (getPort s p).linkUp ∨ (getPort s p).lossDue then .next (wake (losePort s p cause reached) 4)
  else if cause = .perst then .next (wake (resetFns s p) 4)
  else .next s


/-- A port's logic runs: PERST# deasserted, its reference Selected (or the one the XV8 booted on alone), its PHY PLL
stable (R43, R46, R330). -/
def portLogic (s : State) (p : Port) : Bool :=
  let pll := Tab.get {} s.ckm.plls (11 + p.num)
  !(getPort s p).perst && !s.pins.porHeld && !s.ckm.stopped &&
    ((refOf s p).st == 2 || (s.ckm.unmonitored && (s.ckm.coreSrc == (p == .b)))) && pll.stable

/-- What a link can train to (Table 2.1): a speed code, a width, and Flit mode, which 64 GT/s always has. -/
def linkModeOk (speed width : Nat) (flit : Bool) : Bool :=
  decide (1 ≤ speed) && decide (speed ≤ 6) && [1, 2, 4, 8, 16].contains width && (flit || speed != 6)

/-- PORT_UP (R43): the link reaches DL_Active at a speed, width and mode of Table 2.1; UP is set and vector 10 fires. -/
def execPortUp (p : Port) (speed width : Nat) (flit : Bool) (s : State) : Res :=
  if portLogic s p && !(getPort s p).linkUp && !(getPort s p).lossDue && linkModeOk speed width flit then
    let s := modPort s p fun q => { q with linkUp := true, speed := speed, width := width, flit := flit }
    .next (wake (setPortEvt s (2 + p.num)) 4)
  else .next s

/-- PERST_DEASSERT (R46, R335): the port's PHY and logic can start; its clock node is turned on. -/
def execPerstDeassert (p : Port) (s : State) : Res :=
  let n := 5 + p.num
  let s := startPhy (modPort s p fun q => { q with perst := false }) p
  .next (wake { s with ckm := { s.ckm with gEn := setBit s.ckm.gEn n, gHostOff := clrBit s.ckm.gHostOff n } } 4)

/-! ### Function resets and configuration writes -/

/-- FLR of a VF (R45). -/
def execFlr (p : Port) (vf : Nat) (reached : List Reached) (s : State) : Res :=
  cfgAccess p vf s fun s => if vf = 0 then .next s else .next (removeVfs s p [vf] reached 1)

/-- FLR of PF0 (Table 2.8): every VF is removed, the port's agent loses its locks, PF0 is reset. -/
def execPf0Flr (p : Port) (reached : List Reached) (s : State) : Res :=
  cfgAccess p 0 s fun s => .next (resetFns (breakPort (removeVfs s p (vfList s p) reached 4) p 1) p)

/-- VF Enable is written (R32, Table 2.8). -/
def execVfEnableWrite (p : Port) (on : Bool) (reached : List Reached) (s : State) : Res :=
  cfgAccess p 0 s fun s =>
    if on then .next (modPort s p fun q => { q with vfEn := true })
    else .next (modPort (removeVfs s p (vfList s p) reached 4) p fun q => { q with vfEn := false })

/-- NumVFs is written (R32): above 1,024 it is ignored; lowered, the VFs above it are removed. -/
def execNumvfsWrite (p : Port) (v : Nat) (reached : List Reached) (s : State) : Res :=
  cfgAccess p 0 s fun s =>
    if v > 1024 then .next s
    else .next (modPort (removeVfs s p ((vfList s p).filter (v < ·)) reached 4) p fun q => { q with numVfs := v })

/-- BUS_MASTER_ENABLE_CLEAR (Table 2.8): DMA and posting of the function pause. -/
def execBusMasterEnableClear (p : Port) (fn : Nat) (s : State) : Res :=
  cfgAccess p fn s fun s => .next (modFn s p fn fun f => { f with bme := false })

/-- BUS_MASTER_ENABLE_SET (Table 2.8): they go on. -/
def execBusMasterEnableSet (p : Port) (fn : Nat) (s : State) : Res :=
  cfgAccess p fn s fun s => .next (settleOut (modFn s p fn fun f => { f with bme := true }))

/-- PF0_D3HOT (Table 2.8): DMA and posting of every function pause, and only configuration requests are accepted. -/
def execPf0D3hot (p : Port) (s : State) : Res :=
  cfgAccess p 0 s fun s => .next (modPort s p fun q => { q with d3hot := true })

/-- PF0_D3HOT_EXIT (Table 2.8): back in D0, nothing having been reset. -/
def execPf0D3hotExit (p : Port) (s : State) : Res :=
  cfgAccess p 0 s fun s => .next (settleOut (modPort s p fun q => { q with d3hot := false }))

/-- ASPM_L1_ENTRY: the link enters L1, which entry to P3 needs (Table 14.6). -/
def execAspmL1Entry (p : Port) (s : State) : Res :=
  if (getPort s p).linkUp then .next (modPort s p fun q => { q with inL1 := true }) else .next s

/-- A memory request that its function does not answer: Memory Space Enable 0, a VF that does not exist, D3hot, or an
offset beyond the BAR (R37, R44). -/
def unsupported (s : State) (p : Port) (fn off : Nat) : Bool :=
  (getPort s p).d3hot || !fnExists s p fn || !(getFn s p fn).mse || decide ((if fn = 0 then 16777216 else 65536) ≤ off)

/-- UNSUPPORTED_REQUEST (R37): the request is answered with Unsupported Request; nothing else
changes. -/
def execUnsupportedRequest (p : Port) (fn off : Nat) (_isRead : Bool) (s : State) : Res :=
  if (getPort s p).linkUp && !s.ckm.stopped && unsupported s p fn off then .next (emit s (.unsupported p fn))
  else .next s

/-! ### Internal faults of Table 1.10 -/

/-- D2D_LANE_FAULT (R8): a spare lane is taken, or the link narrows to 32 lanes once both spares are in use. What a further fault
does to a narrowed link the manual does not say: nothing changes (log 127, DESIGN CHOICE). -/
def execD2dLaneFault (q lane : Nat) (s : State) : Res :=
  let used := Tab.get 0 s.media.links q
  if q ≥ 4 ∨ used ≥ 3 then .next s
  else
    let s := { s with media := { s.media with links := Tab.set 0 s.media.links q (used + 1) } }
    if used < 2 then .next (logEv s 2 (src 0xA q) 0xA001 (leBytes 1 lane ++ leBytes 1 (1 - used)))
    else .next (logEv s 3 (src 0xA q) 0xA002 (leBytes 1 lane))

/-- The processors of a die (Table 1.1): 16 on the hub (die 0), 8 on each quadrant (die 1 + q). -/
def coresOf (die : Nat) : Nat := if die = 0 then 16 else if die < 5 then 8 else 0

/-- The link of a quadrant is trained at 64 data lanes (R8): it gets its spares back, but for as many as are needed by failed lanes that do
not pass training. -/
def trainLink (s : State) (q bad : Nat) : State :=
  { s with media := { s.media with links := Tab.upd 0 s.media.links q (min bad) } }

/-- CORE_HANG (Table 1.10): the core's work goes to another core of its die (0 the hub, 1 + q a quadrant), and the hang
is recorded. -/
def execCoreHang (die core items : Nat) (s : State) : Res :=
  if coresOf die ≤ core then .next s
  else .next (logEv s 2 (src 0xF (die * 0x100 + core)) 0xF001 (leBytes 4 items))

end Sys2Proof.Machine
end

