-- ==== Sys2Proof/Machine/Casement.lean ====
section
/-! DEFINITION. Casements (R48 to R60): stores into the task register sets, the commit check and capture. -/

namespace Sys2Proof.Machine

/-- e(k): the set sequence that TRS k expects at its next turn (R51). -/
def expectSeq (taken k : Nat) : Nat := (taken + (k + 16 - taken % 16) % 16) % 256

/-- The enabled bytes of a write at offset `off`, as (offset, byte). -/
def enabled : Nat → List (Option Byte) → List (Nat × Byte)
  | _, [] => []
  | o, none :: t => enabled (o + 1) t
  | o, some b :: t => (o, b) :: enabled (o + 1) t

/-- The bytes of a TRS range write that fall in TRS `k` (R49). -/
def inTrs (k : Nat) (l : List (Nat × Byte)) : List (Nat × Byte) := l.filter fun e => e.1 / 64 == k

/-- Bytes stored in the TRS range. -/
def storeTrs (t : Tab Byte) (l : List (Nat × Byte)) : Tab Byte := l.foldl (fun t e => Tab.set 0#8 t e.1 e.2) t

/-- DWORD `d` of TRS `k`. -/
def trsWord (t : Tab Byte) (k d : Nat) : Word :=
  BitVec.ofNat 32 (leNat ((List.range 4).map fun i => Tab.get 0#8 t (k * 64 + d * 4 + i)))

/-- The packet that TRS `k` holds. -/
def trsPacket (t : Tab Byte) (k : Nat) : List Word := (List.range 16).map (trsWord t k)

/-- DWORD 15 of TRS `k` cleared (R52, R53). -/
def clearCommit (t : Tab Byte) (k : Nat) : Tab Byte :=
  storeTrs t ((List.range 4).map fun i => (k * 64 + 60 + i, 0#8))

/-- Every byte of DWORDs 0 to 14 of TRS `k` has been written since its last capture, as R54 demands of a commit. -/
def packetWhole (c : Casement) (k : Nat) : Bool := (List.range 60).all fun i => Tab.get false c.seen (k * 64 + i)

/-- The bytes of TRS `k` count as unwritten again: its packet has been captured. -/
def unsee (t : Tab Bool) (k : Nat) : Tab Bool := t.filter fun e => e.1 / 64 != k

/-- Bytes of the TRS range are stored, and count as written. -/
def storeSets (c : Casement) (l : List (Nat × Byte)) : Casement :=
  { c with trs := storeTrs c.trs l, seen := l.foldl (fun t e => Tab.set false t e.1 true) c.seen }

/-- A write to TRS `k` is a commit (R50): its enables include bytes 0 and 1 of DWORD 15, and DWORD 15 [7:0] then holds
0xC3. -/
def isCommit (l : List (Nat × Byte)) (t : Tab Byte) (k : Nat) : Bool :=
  l.any (fun e => e.1 == k * 64 + 60) && l.any (fun e => e.1 == k * 64 + 61) && Tab.get 0#8 t (k * 64 + 60) == 0xC3#8

/-- The write's effect on TRS `k` of a casement whose bytes are stored: a commit is valid, rejected (R52), or discarded
for want of a tenant (R55). -/
def commitTrs (s : State) (p : Port) (fn k : Nat) (l : List (Nat × Byte)) : State :=
  let c := getCas s p fn
  if !isCommit l c.trs k then s
  else if s.boot.ready && !hasTenant s fn then
    modCas s p fn fun c => { c with trs := clearCommit c.trs k }
  else if (Tab.get 0#8 c.trs (k * 64 + 61)).toNat ≠ expectSeq c.taken k then
    modCas s p fn fun c => { c with trs := clearCommit c.trs k, seqErr := true, seqErrTrs := k }
  else
    let s := modCas s p fn fun c => { c with valid := c.valid ++ [k] }
    if s.boot.ready then s else { s with heldCommits := s.heldCommits ++ [(p, fn, k)] }

/-- A tag is outstanding for a tenant (R60). -/
def tagBusy (s : State) (t tag : Nat) : Bool := s.cmds.any fun c => c.tenant == t && pTag c.pkt == tag

/-- Capture of the TRS whose turn it is (R53); an ABORT passes its commit point here (R70). -/
def captureOne (s : State) (p : Port) (fn : Nat) : State :=
  let c := getCas s p fn
  let k := c.taken % 16
  let t := fn - 1
  let pkt := trsPacket c.trs k
  let seq := (tenD s t).nextAccept
  let s := modCas s p fn fun c => { c with
    trs := clearCommit c.trs k, seen := unsee c.seen k, valid := c.valid.filter (· != k), taken := c.taken + 1
    firstUnmirroredNs := if c.unmirrored = 0 then s.nowNs else c.firstUnmirroredNs
    unmirrored := c.unmirrored + 1 }
  let s := modTen s t fun x => { x with nextAccept := x.nextAccept + 1 }
  { s with cmds := s.cmds ++ [{
      tenant := t, seq := seq, port := p, fn := fn, pkt := pkt, committed := pOp pkt == opAbort, capNs := s.nowNs, capNo := c.taken + 1
      outPort := p, outFn := fn, outRing := pRing pkt }] }

/-- Every TRS whose turn has come is captured, in order (R51). A capture whose tag is outstanding is undefined (R60). -/
def captureAll (p : Port) (fn : Nat) : Nat → State → Res
  | 0, s => .next s
  | n + 1, s =>
    let c := getCas s p fn
    if casOpen s fn && c.valid.contains (c.taken % 16) then
      let tag := pTag (trsPacket c.trs (c.taken % 16))
      if tagBusy s (fn - 1) tag then .fault (.tagReuse p fn tag)
      else captureAll p fn n (captureOne s p fn)
    else .next s

/-- The first task register set that a write commits before its packet is whole (R54). -/
def earlyCommit (s : State) (p : Port) (fn : Nat) (l : List (Nat × Byte)) (ks : List Nat) : Option Nat :=
  let c := storeSets (getCas s p fn) l
  ks.find? fun k => isCommit (inTrs k l) c.trs k && !packetWhole c k

/-- A memory write into the TRS range (R49 to R53): it acts on each TRS separately; rewriting a TRS that holds an
uncaptured valid commit, or committing one before its other DWORDs have arrived, is undefined (R54). -/
def writeTrs (p : Port) (fn off : Nat) (bytes : List (Option Byte)) (s : State) : Res :=
  hostAccess p fn 1 s fun s =>
    let l := enabled off bytes
    let ks := (List.range 16).filter fun k => !(inTrs k l).isEmpty
    match ks.find? fun k => (getCas s p fn).valid.contains k with
    | some k => .fault (.trsOverwrite p fn k)
    | none =>
      let l' := l.filter fun e => decide (e.1 < 1024)
      match earlyCommit s p fn l' ks with
      | some k => .fault (.commitEarly p fn k)
      | none =>
      let s := modCas s p fn fun c => storeSets c l'
      captureAll p fn 16 (ks.foldl (fun s k => commitTrs s p fn k (inTrs k l)) s)

/-- TRS_WRITE (R49). -/
def execTrsWrite (p : Port) (fn off : Nat) (bytes : List (Option Byte)) (s : State) : Res := writeTrs p fn off bytes s

/-- TRS_COMMIT (R50, R51). -/
def execTrsCommit (p : Port) (fn off : Nat) (bytes : List (Option Byte)) (s : State) : Res := writeTrs p fn off bytes s

/-- The reset state of a casement (R76). -/
def resetCas (s : State) (p : Port) (fn : Nat) : State := modCas s p fn fun _ => {}

end Sys2Proof.Machine
end

