-- ==== Sys2Proof/Machine/Evr.lean ====
section
/-! DEFINITION. The event recorder beyond record creation: the persisted log (R387, R388), fetches (R389), freezing and
clearing (R392, R393), and the REPEAT records of R386. -/

namespace Sys2Proof.Machine

/-- The 32 bytes of a record (Table 17.1). -/
def recBytes (r : EvRec) : List Byte :=
  let b := leBytes 6 r.time ++ leBytes 3 r.pcycle ++
    leBytes 1 (r.sev + 16 * b2n r.boot + 32 * b2n r.held + 64 * b2n r.cont) ++ leBytes 2 r.source ++ leBytes 2 r.code ++
    leBytes 2 r.num ++ padTo 12 r.payload
  b ++ leBytes 4 (crc32c b).toNat

/-- Lowest event number not yet persisted (EVR_PERSISTED). -/
def persistedNum (e : Evr) : Nat := match e.waiting with
  | [] => e.evNext
  | r :: _ => r.num

/-- Position `a` is older than `b`, both modulo 2^32. -/
def olderPos (a b : Nat) : Bool := a != b && decide ((b + p32 - a % p32) % p32 < p32 / 2)

/-- One page of the log is programmed with up to 512 records, or with none where the program fails; a log that is full loses its oldest
block first (R387). -/
def writePage (e : Evr) (l : List EvRec) : Evr :=
  let starts := if e.logPage % 512 = 0 then e.logStarts ++ [e.logNext] else e.logStarts
  let starts' := if starts.length > 8 then starts.drop 1 else starts
  let first := if starts.length > 8 then nth e.logFirst starts' 0 else e.logFirst
  let add := ((List.range l.length).map fun i => (e.logNext + i) % p32).zip l
  { e with
    logStarts := starts', logFirst := first, logPage := e.logPage + 1
    logPages := (e.logPages.filter fun a => !olderPos a first) ++ (if l.isEmpty then [] else [e.logNext])
    logNext := (e.logNext + l.length) % p32
    log := (e.log.filter fun x => decide ((e.logNext + p32 - x.1) % p32 ≤ (e.logNext + p32 - first) % p32)) ++ add }

/-- Pages of a persist write that all pass. -/
def writePages : Nat → Evr → List EvRec → Evr
  | 0, e, _ => e
  | n + 1, e, l => if l.isEmpty then e else writePages n (writePage e (l.take 512)) (l.drop 512)

/-- Pages of a persist write, of which those marked true fail: what they held is tried again on the next page (R388). -/
def tryPages : List Bool → Evr → List EvRec → Evr
  | [], e, l => writePages 16 e l
  | fail :: fs, e, l =>
    if l.isEmpty then e
    else if fail then tryPages fs (writePage e []) l
    else tryPages fs (writePage e (l.take 512)) (l.drop 512)

/-- A persist write (R388): every record waiting, in event-number order, up to 8,192. -/
def persistOnce (fails : List Bool) (s : State) : State :=
  let l := s.evr.waiting.take 8192
  let e := tryPages fails s.evr l
  { s with evr := { e with waiting := s.evr.waiting.drop 8192, lastPersistMs := opMs s } }

/-- Every record waiting is persisted, once the system area is known: at most the ring and the holding queue, so two writes. -/
def persistAll (s : State) : State :=
  if s.evr.waiting.isEmpty || !s.hlt.known then s else persistOnce [] (persistOnce [] s)

/-- A clear of the log is under way. -/
def logClearing (e : Evr) : Bool := match e.clearing with
  | some (true, _) => true
  | _ => false

/-- EVENT_PERSIST_WRITE (R388): a trigger of Table 17.5 is there, the system area is known, and no clear of the log runs. Which of its pages
fail to program is a free value (log 4, DESIGN CHOICE). -/
def execEventPersistWrite (s : State) : Res :=
  let e := s.evr
  let due := decide (e.lastPersistMs + 1000 ≤ opMs s) || e.waiting.any (fun r => decide (3 ≤ r.sev)) ||
    decide (4096 ≤ e.waiting.length)
  if s.hlt.known && !e.waiting.isEmpty && due && !logClearing e && !s.ckm.stopped && !paused s then .next (persistOnce (Config.logFails s.freeCtr) { s with freeCtr := s.freeCtr + 1 })
  else .next s

/-- REPEAT (R386): the end of a second of operating time. -/
def execRepeat (s : State) : Res := .next (endSecond s)

/-! ### Freeze and clear -/

/-- FREEZE becomes 0 (R392): held records go to the ring, each at its own number; dropped ones are reported. -/
def unfreeze (s : State) : State :=
  if !s.evr.frozen then s
  else
    let e := s.evr
    let stays := fun (w : EvRec) => decide (w.num = e.evNext ∨ (e.evNext + p32 - w.num) % p32 ≤ 8192)
    let lost := (e.waiting.filter fun w => !stays w).length
    let dropped := e.holdDropped
    let firstDrop := e.holdFirstDrop
    let s := { s with evr := { e with
      frozen := false, hold := [], holdDropped := 0, holdFirstDrop := 0
      ring := e.ring.filter stays ++ e.hold
      next := e.evNext
      first := if (e.evNext + p32 - e.first) % p32 > 8192 then (e.evNext + p32 - 8192) % p32 else e.first
      waiting := e.waiting.filter stays
      unpersLost := satAdd 0xFFFFFFFF e.unpersLost lost
      stUnpers := e.stUnpers || decide (0 < lost) } }
    if dropped = 0 then s else logEv s 2 0 0x0002 (leBytes 4 dropped ++ leBytes 4 firstDrop)

/-- A write of EVR_CTL (R389, R392, R393): the port's SRC and AUTOINC, FREEZE, and CLR, which acts only while FREEZE was
already 1. -/
def writeEvrCtl (p : Port) (v : Word) (s : State) : Res :=
  regWrite p 0 s fun s =>
    if v.toNat &&& 0xFFFFFEF8 ≠ 0 then .fault (.reservedWrite p 0 0x40000)
    else
      let was := s.evr.frozen
      let s := modPort s p fun q => { q with win := { q.win with evrSrc := flag v 8, evrAuto := flag v 1 } }
      let s := if flag v 0 then { s with evr := { s.evr with frozen := true } } else unfreeze s
      if !flag v 2 then .next s
      else if !was then .next { s with evr := { s.evr with stDenied := true } }
      else if s.evr.clearing.isSome then .next s
      else .next { s with evr := { s.evr with clearing := some (flag v 8, p.num + 1) } }

/-- FREEZE (R392). -/
def execFreeze (p : Port) (v : Word) (s : State) : Res := writeEvrCtl p v s
/-- UNFREEZE (R392). -/
def execUnfreeze (p : Port) (v : Word) (s : State) : Res := writeEvrCtl p v s
/-- CLR (R393). -/
def execClr (p : Port) (v : Word) (s : State) : Res := writeEvrCtl p v s

/-- EVR_CLEAR_DONE (R393): the clear under way completes, the ring's waiting records persisted first, and is recorded. Before the
system area is known nothing can be persisted or erased, and the clear waits (log 142, DEDUCED). -/
def execEvrClearDone (s : State) : Res :=
  match s.evr.clearing with
  | none => .next s
  | some (isLog, agent) =>
    if !s.hlt.known then .next s else
    let s := if isLog then
        { s with evr := { s.evr with log := [], logFirst := s.evr.logNext, logStarts := [], logPages := [], logPage := 0 } }
      else
        let s := persistAll s
        { s with evr := { s.evr with ring := [], first := s.evr.next } }
    let kept := if isLog then s.evr.logFirst else s.evr.first
    let s := { s with evr := { s.evr with clearing := none } }
    .next (logEv s 2 0 0x0004 (leBytes 1 agent ++ leBytes 1 (b2n isLog) ++ leBytes 2 0 ++ leBytes 4 kept))

/-! ### Fetches -/

/-- A fetch starts at the cursor: DONE is cleared (R389). -/
def startFetch (s : State) (p : Port) (cursor : Nat) : State :=
  modPort s p fun q => { q with win := { q.win with evrCursor := cursor % p32, evrDone := false, evrBusy := true } }

/-- EVR_CURSOR (R389). -/
def execEvrCursor (p : Port) (v : Word) (s : State) : Res :=
  regWrite p 0 s fun s => .next (startFetch s p v.toNat)

/-- The record that a source holds at a position (R389). -/
def fetchRec (e : Evr) (isLog : Bool) (pos : Nat) : Option EvRec :=
  if isLog then (e.log.find? fun x => x.1 == pos).map Prod.snd else e.ring.find? fun r => r.num == pos

/-- A fetch ends with a result and data (R389). -/
def endFetch (s : State) (p : Port) (result : Nat) (data : List Byte) : State :=
  modPort s p fun q => { q with win := { q.win with evrBusy := false, evrDone := true, evrResult := result, evrData := data } }

/-- The first position of the log page that holds a position (R387). -/
def pageOf (e : Evr) (pos : Nat) : Nat := ((e.logPages.filter fun a => !olderPos pos a).getLast?).getD pos

/-- A log page is found unreadable: counted once since boot (EVR_LOG_STAT.BAD_PAGES). The fetch ends with result 4; the manual does not state
its data, which is a free value (log 4, DESIGN CHOICE). -/
def badPage (s : State) (p : Port) (pos : Nat) : State :=
  let g := pageOf s.evr pos
  let data := (List.range 8).flatMap fun i => leBytes 4 (Config.openField (s.freeCtr + i))
  let s := { s with
    freeCtr := s.freeCtr + 8
    evr := { s.evr with badPages := if s.evr.badPages.contains g then s.evr.badPages else s.evr.badPages ++ [g] } }
  endFetch s p 4 data

/-- EVR_FETCH_DONE (R389): the fetch under way ends with its record, with zeros and result 2 where the source holds none, with the bytes as they
are stored and result 3 where their CRC fails, or with result 4 where the log page cannot be read. -/
def execEvrFetchDone (f : RecFetch) (s : State) : Res :=
  let w := (getPort s f.port).win
  if !w.evrBusy then .next s
  else .next (match fetchRec s.evr w.evrSrc w.evrCursor, f.found with
    | none, _ => endFetch s f.port 2 (List.replicate 32 0)
    | some r, .stored l =>
      if leBytes 4 (crc32c (l.take 28)).toNat = l.drop 28 then endFetch s f.port 1 (recBytes r) else endFetch s f.port 3 l
    | some r, .pageLost => if w.evrSrc then badPage s f.port w.evrCursor else endFetch s f.port 1 (recBytes r)
    | some r, .intact => endFetch s f.port 1 (recBytes r))

/-- EVR_DATA7_READ (R389): the read returns bytes 28 to 31, and with AUTOINC 1 moves the cursor on and fetches. -/
def execEvrData7Read (p : Port) (s : State) : Res :=
  hostAccess p 0 3 s fun s =>
    let w := (getPort s p).win
    let s := emit s (.value p (BitVec.ofNat 32 (leAt w.evrData 28 4)))
    if w.evrAuto then .next (startFetch s p (w.evrCursor + 1)) else .next s

end Sys2Proof.Machine
end

