-- ==== Sys2Proof/Machine/Flush.lean ====
section
/-! DEFINITION. Power loss (R249 to R267): the emergency flush, its selection, the journal and the checkpoint. -/

namespace Sys2Proof.Machine

/-- The lowest LBA of a sequential zone whose version's piece fails `ok`; at most the write pointer (R136). -/
def firstBad (s : State) (t z : Nat) (ok : Ver → Bool) : Nat :=
  s.vers.foldl (fun m e =>
    let x := e.2
    if x.tenant = t ∧ x.zone = z ∧ live s x ∧ !ok x then min m x.lba else m) (getZone s t z).wp

/-- The version of a block that the flush writes (R260, R261): in effect, its piece whole, not yet safe in flash, not
superseded by a later whole piece, and in a sequential zone not above an incomplete piece. -/
def flushTakes (s : State) (x : Ver) : Bool :=
  live s x && x.hbm && !programmed x && pieceWhole s x &&
    !(s.vers.any fun e => e.2.tenant == x.tenant && e.2.zone == x.zone && e.2.lba == x.lba && live s e.2 &&
      before x e.2.pcycle e.2.seq && pieceWhole s e.2) &&
    (isConv (tenD s x.tenant) x.zone || decide (x.lba < firstBad s x.tenant x.zone (pieceWhole s)))

/-- Acceptance order (R260): by power cycle and acceptance sequence. -/
def acceptFirst (a b : Nat × Ver) : Bool := before a.2 b.2.pcycle b.2.seq

/-- The versions that the flush writes, in its order (R260): those of acknowledged pieces first, each part in acceptance order. -/
def flushOrder (s : State) : List Nat :=
  let l := s.vers.filter fun e => flushTakes s e.2
  ((sortBy acceptFirst (l.filter fun e => e.2.acked)) ++ sortBy acceptFirst (l.filter fun e => !e.2.acked)).map Prod.fst

/-- Pages of an emergency extent: its data pages of 64 KiB and its parity page (R258). -/
def emPages (x : EmExt) : Nat := cdiv x.bytes 65536 + 1

/-- The first of a list with the least measure. -/
def leastOf (f : Nat → Nat) (l : List Nat) : Option Nat :=
  l.foldl (fun m x => match m with
    | none => some x
    | some y => if f x < f y then some x else some y) none

/-- Where a fresh emergency extent goes (R258): the channel in service with the least flush work queued, of those with an emergency block left,
and on it the LUN with the fewest programs queued; the lowest of equals (log 31, DESIGN CHOICE). -/
def emPlace (s : State) (l : List EmExt) : Option (Nat × Nat) :=
  let used := fun (c : Nat) => (l.filter fun x => x.ch == c).length
  let chs := allChs.filter fun c => chInService s c && decide (used c < Tab.get 0 s.plp.emergAvail c)
  match leastOf (fun c => sumBy (fun x => if x.ch = c then emPages x else 0) l) chs with
  | none => none
  | some c => (leastOf (fun u => sumBy (fun x => if x.lun = u then emPages x else 0) l) ((chLuns c).filter (lunOk s))).map fun u => (c, u)

/-- A version is placed in the open extent of its tenant and lifetime group, or in a fresh one (R258). -/
def emPut (s : State) (l : List EmExt) (v : Nat) : List EmExt :=
  let x := getVer s v
  let n := (tenD s x.tenant).blk
  if l.any fun e => e.tenant == x.tenant && e.grp == lifeGrp x.hint && decide (e.bytes + n ≤ 1048576) then
    l.map fun e => if e.tenant = x.tenant ∧ e.grp = lifeGrp x.hint ∧ e.bytes + n ≤ 1048576 then { e with bytes := e.bytes + n, vers := e.vers ++ [v] } else e
  else match emPlace s l with
    | none => l
    | some (c, u) => l ++ [{ ch := c, lun := u, tenant := x.tenant, grp := lifeGrp x.hint, bytes := n, vers := [v] }]

/-- The versions listed are programmed to emergency extents, one emergency block to each (R258). -/
def programEmerg (s : State) (order : List Nat) : State :=
  let l := order.foldl (emPut s) []
  let s := l.foldl (fun s e => e.vers.foldl (fun s v => modVer s v fun x => { x with emerg := true }) s) s
  { s with
    plp := { s.plp with emergExts := l, emergAvail := l.foldl (fun t e => Tab.upd 0 t e.ch (· - 1)) s.plp.emergAvail }
    hlt := { s.hlt with telLife := bump s.hlt.telLife 11 (sumBy EmExt.bytes l) } }

/-- Every version that the flush takes is in an emergency extent. -/
def takeFlush (s : State) : State := programEmerg s (flushOrder s)

/-- Reads queued or under way when a flush begins are abandoned (R263). -/
def abandonReads (s : State) : State :=
  let keep := fun (o : Option Op) => o.filter fun o => match o.k with
    | .rd _ => false
    | _ => true
  { s with media := { s.media with
      deeps := []
      luns := Tab.mapv {} (fun _ u => { u with rq := [], ovf := [], parked := [], op := keep u.op, sub := none }) s.media.luns } }

/-- Steps 1 to 4 of Table 11.3: awake, admission and capture and posting stopped, background work stopped, merge buffers
drained, reads abandoned (R263); a live activation is abandoned (R344). -/
def startFlush (s : State) (why : Nat) : State :=
  let s := if s.rst.actState = 0 then s else { s with rst := { s.rst with actState := 0, actResult := 3, actBox := none } }
  let s := abandonReads s
  { s with
    plp := { s.plp with phase := 1, why := why, startNs := s.nowNs, dAtFlush := dirtyMib s, cut := false }
    adm := { s.adm with stop := true, casStopped := true, postStop := true }
    bpm := { s.bpm with flushOpen := true }
    mep := { s.mep with merges := [] }
    rst := { s.rst with pwr := 0, qGated := 0, waking := false } }

/-- PWRFAIL_ASSERT (R249, R250, R259): the flush begins; before READY the boot waits or stops with WP_N low; a flush
under way is not changed, but one for a warm reset becomes that of the power loss (R339); nor is the one that a thermal shutdown is about to begin
(R374). -/
def execPwrfailAssert (s : State) : Res :=
  if s.plp.pwrfail ∨ s.ckm.stopped ∨ s.pins.porHeld then .next s
  else
    let s := { s with plp := { s.plp with pwrfail := true } }
    if s.plp.phase = 1 then
      .next (if s.plp.why = 2 then { s with plp := { s.plp with why := 0 }, rst := { s.rst with warmPhase := 0 } } else s)
    else if s.plp.phase = 2 ∨ s.thm.phase = 1 then .next s
    else if s.boot.ready then
      .next (startFlush { s with rst := { (wake s 5).rst with warmPhase := 0 } } 0)
    else if s.boot.phase ≤ 2 then .next { s with plp := { s.plp with phase := 3 } }
    else if s.boot.stopped then .next s
    else .next { s with
      plp := { s.plp with phase := 2 }
      media := { s.media with chans := Tab.mapv {} (fun _ c => { c with wp := true }) s.media.chans } }

/-- The data that reached HBM by the DMA cutoff (R259 step 3). -/
def acceptReached (s : State) (r : Reached) : State :=
  match getCmd s r.tenant r.seq with
  | none => s
  | some c =>
    if c.ph = .exec ∧ c.committed ∧ !c.acked ∧ (cOp c = opWrite ∨ cOp c = opAppend) then
      r.blocks.foldl (fun s i => match c.vers[i]? with
        | none => s
        | some v => if (getVer s v).hbm then s else modVer (encryptBlock s v) v fun x => { x with hbm := true }) s
    else s

/-- FLUSH_DMA_CUTOFF (R259): data of DMA reads already issued is in HBM as listed; no more is accepted. -/
def execFlushDmaCutoff (reached : List Reached) (s : State) : Res :=
  if s.plp.phase = 1 ∧ !s.plp.cut then
    let s := reached.foldl acceptReached s
    .next { s with plp := { s.plp with cut := true } }
  else .next s

/-- The flush completes (steps 5 to 7 of Table 11.3): data in emergency extents, system records and event records
written, FLUSH_END durable, WP_N low, stopped. -/
def endFlush (s : State) : State :=
  let us := (s.nowNs - s.plp.startNs) / 1000
  let s := persistAll (takeFlush s)
  let s := { s with
    zonesSaved := s.zones
    hltSaved := s.hlt
    savedMs := opMs s
    tablesSaved := s.media.tables
    flushEnd := true
    plp := { s.plp with
      phase := 2, last := if s.plp.why = 1 then 3 else 1, lastUs := us, lastMib := s.plp.dAtFlush
      flushes := satAdd 0xFFFF s.plp.flushes 1, jRecs := 0, jSeq := s.plp.jSeq + 1 }
    media := { s.media with chans := Tab.mapv {} (fun _ c => { c with wp := true }) s.media.chans } }
  logEv s 1 (src 0xD 0) 0xD001 (leBytes 4 s.plp.dAtFlush ++ leBytes 4 us ++ leBytes 1 s.plp.why)

/-! ### The journal (R265 to R267) -/

/-- ZONE_RESETs and ZONE_FINISHes whose record is durable complete (R266). -/
def journalDone (s : State) : State :=
  s.cmds.foldl (fun s c => if c.journal ∧ c.ph = .exec then genCompl s c.tenant c.seq stSuccess c.result else s) s

/-- CHECKPOINT (R267): a record that every zone-table change up to now is in the system area or in the journal. -/
def execCheckpoint (s : State) : Res :=
  if !s.boot.ready ∨ s.plp.phase ≠ 0 ∨ s.ckm.stopped ∨ paused s then .next s
  else .next { s with plp := { s.plp with ckptSeq := s.plp.jSeq, jRecs := s.plp.jRecs + 1, lastCkptMs := opMs s } }

/-- Zone records that differ from their copy in the system area. -/
def dirtyLines (s : State) : List Nat :=
  ((Tab.keys s.zones ++ Tab.keys s.zonesSaved).eraseDups).filter fun k => Tab.get {} s.zones k ≠ Tab.get {} s.zonesSaved k

/-- ZONE_TABLE_WRITEBACK (R267): the first `lines` changed zone records are written to the system area. -/
def execZoneTableWriteback (lines : Nat) (s : State) : Res :=
  if !s.boot.ready ∨ s.plp.phase ≠ 0 ∨ s.ckm.stopped ∨ paused s then .next s
  else .next { s with zonesSaved :=
    ((dirtyLines s).take lines).foldl (fun t k => Tab.set {} t k (Tab.get {} s.zones k)) s.zonesSaved }

end Sys2Proof.Machine
end

