-- ==== Sys2Proof/Machine/Thermal.lean ====
section
/-! DEFINITION. Thermal management (R364 to R379): sensors, flags, the shutter law, shutdown and the channel shutters.
Temperatures are integers in units of 0.25 °C. -/

namespace Sys2Proof.Machine

/-- A sensor. -/
def getSens (s : State) (k : Nat) : Sens := Tab.get {} s.thm.sens k

/-- The state with a sensor rewritten. -/
def modSens (s : State) (k : Nat) (f : Sens → Sens) : State :=
  { s with thm := { s.thm with sens := Tab.upd {} s.thm.sens k f } }

/-- A THM_EVT bit is set, with its generic record: severity error for bits 3 to 5. Every flag change and every denied release writes its
record, whether or not the bit was clear (R369, R375). -/
def setThmEvt (s : State) (b inst : Nat) : State :=
  let sev := if 3 ≤ b ∧ b ≤ 5 then 3 else 1
  let old := s.thm.evt
  if b ≤ 3 ∨ b = 6 then genericEv { s with thm := { s.thm with evt := setBit old b } } sev 3 inst b 0x20014 (setBit old b)
  else raiseEvt s old b (fun s v => { s with thm := { s.thm with evt := v } }) sev 3 inst 0x20014

/-- THM_CNTk rises by `n`. -/
def thmCnt (s : State) (k n : Nat) : State := { s with thm := { s.thm with cnts := bump s.thm.cnts k n } }

/-- The die of a sensor (Table 16.1). -/
def dieOf (k : Nat) : Nat := if k < 6 then 0 else if k < 18 then 1 + (k - 6) / 3 else 5 + (k - 18) / 2

/-- The sensors of a die. -/
def dieSens (d : Nat) : List Nat := (List.range 22).filter fun k => dieOf k == d

/-- A sensor is judged broken (R365): its event is the specific record, so its bit writes no generic one (R381). -/
def breakSensor (s : State) (k reason : Nat) : State :=
  if (getSens s k).broken then s
  else
    let s := thmCnt (modSens s k fun x => { x with broken := true, reason := reason }) 3 1
    let s := { s with thm := { s.thm with evt := setBit s.thm.evt 4 } }
    logEv s 3 (src 3 k) 0x3001 (leBytes 2 reason ++ leBytes 2 (twos 16 (getSens s k).temp))

/-- The highest reading of a list. -/
def maxI (l : List Int) (d : Int) : Int := l.foldl max d

/-- A temperature below any that a source can have: no maximum has been recorded yet (R208). -/
def noTemp : Int := -32768

/-- The lowest reading of a list. -/
def minI (l : List Int) (d : Int) : Int := l.foldl min d

/-- A sensor is stuck (R365): 64 equal conversions while another sensor of its die, not broken, spreads over 4 °C. -/
def stuck (s : State) (k : Nat) : Bool :=
  let h := (getSens s k).hist
  decide (h.length = 64) && h.all (· == (getSens s k).temp) &&
    (dieSens (dieOf k)).any fun j =>
      let g := (getSens s j).hist
      j != k && !(getSens s j).broken && decide (g.length = 64) && decide (maxI g (nth 0 g 0) - minI g (nth 0 g 0) > 16)

/-- One conversion of a sensor; a code outside −40 to 150 °C breaks it (R365). -/
def convert (s : State) (k : Nat) (v : Option Int) : State :=
  match v with
  | none => s
  | some t =>
    let s := modSens s k fun x => { x with temp := t, hist := (if x.hist.length ≥ 64 then x.hist.drop 1 else x.hist) ++ [t] }
    if t < -160 ∨ 600 < t then breakSensor s k 1 else s

/-- A sensor as read (R366): none while an exclusion is in effect, from the control period after its write (R367). -/
def asRead (s : State) (k : Nat) : Option Int :=
  let x := getSens s k
  if !x.broken then some x.temp else if x.exclOn then none else some (4 * s.thm.tFull)

/-- Every sensor of a die is broken. -/
def allBroken (s : State) (d : Nat) : Bool := (dieSens d).all fun k => (getSens s k).broken

/-- Die temperature (R366). -/
def dieTemp (s : State) (d : Nat) : Int :=
  if allBroken s d then 4 * s.thm.tShut
  else match (dieSens d).filterMap (asRead s) with
    | [] => 4 * s.thm.tFull
    | x :: t => maxI t x

/-- T_CTL, the highest die temperature, with its die and its sensor (0x1F when the die reads all broken), and THM_TMAX
(R366). -/
def derive' (s : State) : State :=
  let d := (List.range 7).foldl (fun m d => if dieTemp s m < dieTemp s d then d else m) 0
  let t := dieTemp s d
  let k := if allBroken s d then 0x1F else ((dieSens d).find? fun k => asRead s k == some t).getD 0x1F
  let ok := (List.range 22).filter fun k => !(getSens s k).broken
  let m := ok.foldl (fun (acc : Option Nat) k => match acc with
    | none => some k
    | some j => if (getSens s j).temp < (getSens s k).temp then some k else some j) none
  let s := { s with thm := { s.thm with
    tctl := t, tctlDie := d, tctlSens := k
    tmax := match m with
      | some j => (getSens s j).temp
      | none => -32768
    tmaxSens := m.getD 0x1F } }
  (List.range 7).foldl (fun s d => if allBroken s d then setThmEvt s 5 (0x100 + d) else s) s

/-- The law rate in 64ths at temperature `t` between an onset and a full threshold (R370). -/
def law (t on full : Int) : Nat :=
  if t ≤ on then 64
  else if full ≤ t then 8
  else ((64 * (full - on) - 56 * (t - on)) / (full - on)).toNat

/-- The shutter and its T_SET after a period (R371). -/
def shutterStep (rate : Nat) (tset t on full : Int) : Nat × Int :=
  let r := law t on full
  if r < rate then (r, t) else if rate < r ∧ t < tset - 12 then (r, t) else (rate, tset)

/-- THM_STAT flags: WARN, THROTTLE, FULL in bits 0 to 2 and SHUT in bit 3 (Table 13.6a). -/
def flagBits (s : State) : Nat := mk [(0, 1, b2n s.thm.warn), (1, 1, b2n s.thm.throttle), (2, 1, b2n s.thm.full), (3, 1, b2n s.thm.shut)]

/-- A flag of THM_STAT: 0 WARN, 1 THROTTLE, 2 FULL. -/
def flagOf (s : State) : Nat → Bool
  | 0 => s.thm.warn
  | 1 => s.thm.throttle
  | _ => s.thm.full

/-- Threshold of a flag, °C. -/
def flagThr (s : State) : Nat → Nat
  | 0 => s.thm.tWarn
  | 1 => s.thm.tOn
  | _ => s.thm.tFull

/-- When a flag last changed, 0 before its first change. -/
def flagNs (s : State) : Nat → Nat
  | 0 => s.thm.warnNs
  | 1 => s.thm.throttleNs
  | _ => s.thm.fullNs

/-- What a flag change does besides (R369): its event bit and record, vector 9, notice 1, a wake. -/
def flagChanged (s : State) (b before : Nat) : State :=
  wake (noticePf0 (firePf0 (setThmEvt s b 0xFFF) 9) 1 before (flagBits s) 0) 6

/-- A flag follows the T_CTL of this period, with its hysteresis and its dwell of 10 ms (R369). -/
def stepFlag (s : State) (f : Nat) : State :=
  let thr : Int := 4 * flagThr s f
  let on := flagOf s f
  let want := if on then decide (thr - 12 ≤ s.thm.tPub) else decide (thr ≤ s.thm.tPub)
  let free := flagNs s f = 0 ∨ flagNs s f + 10000000 ≤ s.nowNs
  if want = on ∨ ¬ free then s
  else
    let before := flagBits s
    let s := { s with thm := match f with
      | 0 => { s.thm with warn := want, warnNs := s.nowNs }
      | 1 => { s.thm with throttle := want, throttleNs := s.nowNs }
      | _ => { s.thm with full := want, fullNs := s.nowNs } }
    flagChanged s f before

/-- Step 5 of Table 16.5: stopped with WP_N low and latched, counted and recorded. -/
def thermalStopped (s : State) : State :=
  let s := { s with media := { s.media with chans := Tab.mapv {} (fun _ c => { c with wp := true }) s.media.chans } }
  let s := { s with thm := { s.thm with phase := 3, shutCnt := satAdd 0xFFFF s.thm.shutCnt 1 } }
  logEv s 3 (src 3 (0x100 + s.thm.shutDie)) 0x3002 (leBytes 2 (twos 16 s.thm.shutTctl) ++ leBytes 1 s.thm.shutDie ++
    leBytes 1 s.thm.shutSens ++ leBytes 4 (if s.plp.phase = 2 ∧ s.boot.ready then s.plp.dAtFlush else 0))

/-- Steps 1 and 2 of Table 16.5: THERMTRIP_N low, SHUT and its latch, commands refused; queued commands complete with
REFUSED_THERMAL. A flush under way becomes step 4; a boot stops (R374). -/
def beginShutdown (s : State) : State :=
  let before := flagBits s
  let s := { s with
    pins := { s.pins with thermtripN := false }
    thm := { s.thm with
      shut := true, phase := 1, latch := true, startNs := s.nowNs, shutTctl := s.thm.tPub
      shutDie := s.thm.tctlDie, shutSens := s.thm.tctlSens }
    adm := { s.adm with shutdown := true, stop := true }
    rst := { s.rst with warmPhase := 0 } }
  let s := flagChanged s 3 before
  let s := if s.rst.actState = 0 then s else { s with rst := { s.rst with actState := 0, actResult := 3, actBox := none } }
  let s := (s.cmds.filter fun c => c.ph == .queued).foldl (fun s c => refuseQueued s c stThermal) s
  if s.plp.phase = 1 then { s with thm := { s.thm with phase := 2 }, plp := { s.plp with why := 1 } }
  else if s.plp.phase = 2 then thermalStopped s
  else if s.boot.ready then s
  else thermalStopped { s with plp := { s.plp with phase := 2 } }

/-- A channel's temperature (R377): its hottest volume, one without a valid reading counted as F_FULL. -/
def chTemp (s : State) (c : Nat) : Int :=
  let vs := (getChan s c).vols.filter fun e => e.2.present && !e.2.excluded
  maxI (vs.map fun e => if e.2.tempValid then 4 * e.2.temp else 4 * s.thm.fFull) (-160)

/-- The channel shutters (R377). -/
def stepChannels (s : State) : State :=
  let s := allChs.foldl (fun s c =>
    if !(getChan s c).trained then s
    else
      let x := getChan s c
      let r := shutterStep x.shut x.tset (chTemp s c) (4 * s.thm.fOn) (4 * s.thm.fFull)
      if r = (x.shut, x.tset) then s else modChan s c fun x => { x with shut := r.1, tset := r.2 }) s
  thmCnt s 4 (allChs.filter fun c => (getChan s c).trained && decide ((getChan s c).shut < 64)).length

/-- The shutter is published for this period (R371, R372). -/
def stepShutter (s : State) : State :=
  let r := shutterStep s.thm.shutter s.thm.tSet s.thm.tPub (4 * s.thm.tOn) (4 * s.thm.tFull)
  let s := if r.1 = s.thm.shutter then s else thmCnt s 2 1
  let low := decide (s.adm.shutter < 64) || decide (r.1 < 64)
  let s := { s with
    thm := { s.thm with shutter := r.1, tSet := r.2, rate := r.1 }, adm := { s.adm with shutter := r.1 }
    cmds := s.cmds.map fun c => if c.ph = .queued ∧ low then { c with sawThrottle := true } else c }
  let s := if r.1 < 64 then thmCnt s 0 1 else s
  if r.1 = 8 then thmCnt s 1 1 else s

/-- THERMAL_CONTROL_PERIOD (R364 to R374): the T_CTL sampled in the previous period sets the shutter, the flags and a
shutdown; then this period's conversions are judged and T_CTL derived afresh. -/
def execThermalControlPeriod (conv : List (Option Int)) (s : State) : Res :=
  if s.ckm.stopped ∨ s.pins.porHeld ∨ (s.boot.phase < 2 ∧ !s.boot.ready) then .next s
  else
    let n := s.thm.tNext
    let s := { s with
      thm := { s.thm with
        tPub := s.thm.tctl, tPubDie := s.thm.tctlDie, tPubSens := s.thm.tctlSens
        tWarn := nth 95 n 0, tOn := nth 100 n 1, tFull := nth 110 n 2, tShut := nth 118 n 3 }
      media := { s.media with fpcMax := s.media.fpcNext, fpcChMax := s.media.fpcChNext } }
    let s := stepChannels (stepShutter s)
    let s := (List.range 3).foldl stepFlag s
    let s := if decide (4 * (s.thm.tShut : Int) ≤ s.thm.tPub) && !s.thm.latch then beginShutdown s else s
    let s := { s with thm := { s.thm with sens := Tab.mapv {} (fun _ x => { x with exclOn := x.excl }) s.thm.sens } }
    let s := (List.range 22).foldl (fun s k => convert s k (nth none conv k)) s
    let s := (List.range 22).foldl (fun s k => if stuck s k then breakSensor s k 3 else s) s
    .next (derive' s)

/-- SENSOR_TIMEOUT (R365): a conversion is not complete within 200 µs. -/
def execSensorTimeout (k : Nat) (s : State) : Res :=
  if 22 ≤ k ∨ s.ckm.stopped ∨ s.pins.porHeld then .next s else .next (derive' (breakSensor s k 2))

/-- FLAG_DWELL_EXPIRY (R369): the dwell of a flag has ended, and a change whose condition holds takes effect. -/
def execFlagDwellExpiry (f : Nat) (s : State) : Res :=
  if 3 ≤ f ∨ s.ckm.stopped ∨ s.pins.porHeld then .next s else .next (stepFlag s f)

/-- SHUTDOWN_DRAIN_END (R374): 1 ms after step 1 the flush begins with power present. -/
def execShutdownDrainEnd (reached : List Reached) (s : State) : Res :=
  if s.thm.phase = 1 ∧ s.plp.phase = 0 ∧ s.thm.startNs + 1000000 ≤ s.nowNs then
    let s := startFlush s 1
    .next (reached.foldl acceptReached { s with thm := { s.thm with phase := 2 } })
  else .next s

/-- SENSOR_EXCLUDE (R367): of the bits written 1, those of broken sensors whose die keeps a valid one take effect. -/
def execSensorExclude (p : Port) (v : Word) (s : State) : Res :=
  regWrite p 0 s fun s =>
    if v.toNat &&& 0xFFC00000 ≠ 0 then .fault (.reservedWrite p 0 0x20100)
    else .next ((List.range 22).foldl (fun s k =>
      if flag v k && (getSens s k).broken &&
          (dieSens (dieOf k)).any (fun j => j != k && !(getSens s j).broken && !(getSens s j).excl) then
        modSens s k fun x => { x with excl := true }
      else s) s)

/-- CNT_CLR_THM (R372): THM_CTL.CNT_CLR clears THM_CNT0 to THM_CNT4. -/
def execCntClrThm (p : Port) (s : State) : Res :=
  regWrite p 0 s fun s => .next { s with thm := { s.thm with cnts := [] } }

end Sys2Proof.Machine
end

