-- ==== Sys2Proof/Machine/CfgFields.lean ====
section
/-! DEFINITION. The fields of a configuration (Table 13.10), where their applied values lie, and the configuration that a power loss before the
commit of an image brings back (R322). -/

namespace Sys2Proof.Machine

/-! ### Device fields -/

/-- The device fields of Table 13.10 in its order. -/
def devIds : List Nat :=
  [0x101, 0x102, 0x103, 0x104, 0x105, 0x110, 0x111, 0x112, 0x113, 0x120, 0x121, 0x122, 0x123, 0x124, 0x125, 0x130, 0x131, 0x132,
    0x133, 0x134, 0x140, 0x141, 0x150, 0x160, 0x161, 0x162, 0x163, 0x170]

/-- The applied value of a device field; a die threshold's is the configured one. -/
def devGet (s : State) : Nat → Nat
  | 0x101 => s.plp.holdupMs
  | 0x102 => s.adm.ucGateOn
  | 0x103 => s.adm.ucGateOff
  | 0x104 => s.adm.lunRqMax
  | 0x105 => s.adm.ucHoldMaxMs
  | 0x110 => s.media.fpcNext
  | 0x111 => s.media.fpcChNext
  | 0x112 => s.media.fpcPlpMax
  | 0x113 => s.media.rateCap
  | 0x120 => Tab.get 0 s.bpm.floors kFold
  | 0x121 => Tab.get 0 s.bpm.caps kFold
  | 0x122 => Tab.get 0 s.bpm.floors kReloc
  | 0x123 => Tab.get 0 s.bpm.caps kReloc
  | 0x124 => Tab.get 0 s.bpm.floors kCipher
  | 0x125 => Tab.get 0 s.bpm.caps kCipher
  | 0x130 => s.hlt.wearSpread
  | 0x131 => s.hlt.retain1
  | 0x132 => s.hlt.retainQ
  | 0x133 => s.hlt.patrolMax
  | 0x134 => s.hlt.verifyMax
  | 0x140 => s.cfgSvid
  | 0x141 => s.cfgSsid
  | 0x150 => s.ckm.tolPpm
  | 0x160 => nth 0 s.thm.tConf 0
  | 0x161 => nth 0 s.thm.tConf 1
  | 0x162 => nth 0 s.thm.tConf 2
  | 0x163 => nth 0 s.thm.tConf 3
  | 0x170 => s.mctp.addr
  | _ => 0

/-- A health field is in force, and part of what a boot restores. -/
def putHlt (s : State) (f : Hlt → Hlt) : State := { s with hlt := f s.hlt, hltSaved := f s.hltSaved }

/-- A device field takes a value. -/
def devPut (s : State) (v : Nat) : Nat → State
  | 0x101 => { s with plp := { s.plp with holdupMs := v } }
  | 0x102 => { s with adm := { s.adm with ucGateOn := v } }
  | 0x103 => { s with adm := { s.adm with ucGateOff := v } }
  | 0x104 => { s with adm := { s.adm with lunRqMax := v } }
  | 0x105 => { s with adm := { s.adm with ucHoldMaxMs := v } }
  | 0x110 => { s with media := { s.media with fpcNext := v } }
  | 0x111 => { s with media := { s.media with fpcChNext := v } }
  | 0x112 => { s with media := { s.media with fpcPlpMax := v } }
  | 0x113 => { s with media := { s.media with rateCap := v } }
  | 0x120 => { s with bpm := { s.bpm with floors := Tab.set 0 s.bpm.floors kFold v } }
  | 0x121 => { s with bpm := { s.bpm with caps := Tab.set 0 s.bpm.caps kFold v } }
  | 0x122 => { s with bpm := { s.bpm with floors := Tab.set 0 s.bpm.floors kReloc v } }
  | 0x123 => { s with bpm := { s.bpm with caps := Tab.set 0 s.bpm.caps kReloc v } }
  | 0x124 => { s with bpm := { s.bpm with floors := Tab.set 0 s.bpm.floors kCipher v } }
  | 0x125 => { s with bpm := { s.bpm with caps := Tab.set 0 s.bpm.caps kCipher v } }
  | 0x130 => putHlt s fun h => { h with wearSpread := v }
  | 0x131 => putHlt s fun h => { h with retain1 := v }
  | 0x132 => putHlt s fun h => { h with retainQ := v }
  | 0x133 => putHlt s fun h => { h with patrolMax := v }
  | 0x134 => putHlt s fun h => { h with verifyMax := v }
  | 0x140 => { s with cfgSvid := v }
  | 0x141 => { s with cfgSsid := v }
  | 0x150 => { s with ckm := { s.ckm with tolPpm := v } }
  | 0x160 => { s with thm := { s.thm with tNext := s.thm.tNext.set 0 v, tConf := s.thm.tConf.set 0 v } }
  | 0x161 => { s with thm := { s.thm with tNext := s.thm.tNext.set 1 v, tConf := s.thm.tConf.set 1 v } }
  | 0x162 => { s with thm := { s.thm with tNext := s.thm.tNext.set 2 v, tConf := s.thm.tConf.set 2 v } }
  | 0x163 => { s with thm := { s.thm with tNext := s.thm.tNext.set 3 v, tConf := s.thm.tConf.set 3 v } }
  | 0x170 => { s with mctp := { s.mctp with addr := v } }
  | _ => s

/-! ### Tenant fields -/

/-- Creation-only fields, in the order in which they are applied (R319). -/
def createIds : List Nat := [0x201, 0x202, 0x203, 0x204, 0x205]

/-- Class and parameter of a class field (Table 13.10). -/
def clsField (id : Nat) : Option (Cls × Nat) :=
  if 0x300 ≤ id ∧ id < 0x340 ∧ (id - 0x300) % 16 < 9 then some (clsOfNat ((id - 0x300) / 16), (id - 0x300) % 16) else none

/-- Tenant fields (Table 13.10). -/
def isTenField (id : Nat) : Bool :=
  createIds.contains id || (decide (0x210 ≤ id) && decide (id ≤ 0x214)) || (clsField id).isSome

/-- The tenant fields in the order of Table 13.10. -/
def tenIds : List Nat :=
  createIds ++ [0x210, 0x211, 0x212, 0x213, 0x214] ++
    (List.range 4).flatMap fun c => (List.range 9).map fun k => 0x300 + 16 * c + k

/-- Parameter `k` of a class (Table 6.1). -/
def clsGet (x : TCls) : Nat → Nat
  | 0 => x.ctxSill
  | 1 => x.ctxCap
  | 2 => x.sillMbps
  | 3 => x.sillOps
  | 4 => x.capMbps
  | 5 => x.capOps
  | 6 => x.weight
  | 7 => x.burstUs
  | _ => x.holdUs

/-- Parameter `k` of a class takes a value. -/
def clsPut (x : TCls) (v : Nat) : Nat → TCls
  | 0 => { x with ctxSill := v }
  | 1 => { x with ctxCap := v }
  | 2 => { x with sillMbps := v, bktB := min x.bktB (depthB { x with sillMbps := v }) }
  | 3 => { x with sillOps := v, bktO := min x.bktO (depthO { x with sillOps := v }) }
  | 4 => { x with capMbps := v }
  | 5 => { x with capOps := v }
  | 6 => { x with weight := v }
  | 7 => { x with burstUs := v }
  | _ => { x with holdUs := v }

/-- The applied value of a tenant field. -/
def tenGet (s : State) (t id : Nat) : Nat :=
  let x := tenD s t
  match id with
  | 0x201 => x.blk
  | 0x202 => x.w
  | 0x203 => x.nz
  | 0x204 => x.nc
  | 0x205 => b2n (!x.cipherOff)
  | 0x210 => x.openMax
  | 0x211 => x.awu
  | 0x212 => x.ucAllow
  | 0x213 => Tab.get 0 s.bpm.floors t / 256
  | 0x214 => Tab.get 0 s.bpm.caps t / 256
  | _ => match clsField id with
    | some (c, k) => clsGet (tcls x c) k
    | none => 0

/-- A tenant field takes a value. -/
def tenPut (s : State) (t v id : Nat) : State :=
  match id with
  | 0x201 => modTen s t fun x => { x with blk := v }
  | 0x202 => modTen s t fun x => { x with w := v }
  | 0x203 => modTen s t fun x => { x with nz := v }
  | 0x204 => modTen s t fun x => { x with nc := v }
  | 0x205 => modTen s t fun x => { x with cipherOff := v == 0 }
  | 0x210 => modTen s t fun x => { x with openMax := v }
  | 0x211 => modTen s t fun x => { x with awu := v }
  | 0x212 => modTen s t fun x => { x with ucAllow := v }
  | 0x213 => { s with bpm := { s.bpm with floors := Tab.set 0 s.bpm.floors t (v * 256) } }
  | 0x214 => { s with bpm := { s.bpm with caps := Tab.set 0 s.bpm.caps t (v * 256) } }
  | _ => match clsField id with
    | some (c, k) => modTCls s t c fun x => clsPut x v k
    | none => s

/-! ### Commit and power loss (R322) -/

/-- The values of every field in force, for the tenants that exist. -/
def cfgNow (s : State) (jno : Nat) : CfgSave :=
  { dev := devIds.map (devGet s), tens := (tenants s).map fun e => (e.1, tenIds.map (tenGet s e.1)), insts := s.cip.insts, jno := jno }

/-- Values put back for a list of fields. -/
def putAll (put : State → Nat → Nat → State) (ids vals : List Nat) (s : State) : State :=
  (ids.zip vals).foldl (fun s e => put s e.2 e.1) s

/-- At a power loss the last durable configuration comes back (R322): a tenant whose creation was not durable is gone. -/
def restoreCfg (s : State) : State :=
  match s.cfgOpen with
  | none => s
  | some c =>
    let s := { s with cfgOpen := none }
    if c.jno < s.plp.jSeq then s
    else
      let s := putAll devPut devIds c.dev s
      let s := c.tens.foldl (fun s e => if (getTen s e.1).isSome then putAll (fun s v id => tenPut s e.1 v id) tenIds e.2 s else s) s
      { s with
        tenants := s.tenants.filter fun e => c.tens.any fun x => x.1 == e.1
        cip := { s.cip with insts := c.insts } }

end Sys2Proof.Machine
end

