-- ==== Sys2Proof/Machine/Reset.lean ====
section
/-! DEFINITION. Power-on reset and device warm reset (R338, R339): what they keep and what they clear, and the steps of a
warm reset. -/

namespace Sys2Proof.Machine

/-! ### What a reset leaves -/

/-- A tenant-class after a reset: its parameters, full buckets (R144), no counts. -/
def resetCls (x : TCls) : TCls :=
  { x with bktB := depthB x, bktO := depthO x, cnts := [], rcnts := [] }

/-- A tenant after a reset: its parameters, with its counters and its acceptance sequence at 0 (R58). -/
def resetTenant (t : Tenant) : Tenant :=
  { t with rt := resetCls t.rt, std := resetCls t.std, bulk := resetCls t.bulk, bg := resetCls t.bg
           nextAccept := 0, qhold := 0, dphold := 0 }

/-- A version after HBM is lost: only its copies in flash are left (R231, R268). -/
def resetVer (x : Ver) : Ver := { x with hbm := false, dirty := false, bufs := [], poison := x.poison }

/-- A key slot after a reset: restored when it was persisted, a lost slot (state `lost`) too; otherwise empty with its KCV and saved counts kept
(R274). -/
def resetSlot (lost : Nat) (k : KeySlot) : KeySlot :=
  if k.persist && (k.state == 1 || k.state == lost) then { k with state := 1 } else { kcv := k.kcv, loads := k.loads, plain := k.plain }

/-- The health values last saved (R208), as a boot takes them up. -/
def resetHlt (s : State) : Hlt :=
  { s.hltSaved with
    evt := 0, evtEn := 0x7F, unrec := false, wearHighPct := 90, spareLowPct := 10, power := 0, tel := []
    opMsBase := s.savedMs, known := false }

/-- A port after a reset: its link down, its functions in their reset state, PERST# as the pin stands. -/
def resetPort (q : PortSt) : PortSt := { perst := q.perst }

/-- The state that power-on reset and a device warm reset share: everything at its reset value but the system area and
media, the applied configuration, fuses and boot flash, and the pins (Table 14.8). -/
def resetKept (s : State) : State :=
  let kept := fun (e : Nat × Nat) => decide (1024 ≤ e.1) || (getTen s e.1).isSome
  { ({} : State) with
    pa := resetPort s.pa
    pb := resetPort s.pb
    tenants := Tab.mapv none (fun _ o => o.map resetTenant) s.tenants
    zones := Tab.mapv {} (fun _ r => { r with resetWait := none }) s.zones
    zonesSaved := s.zonesSaved
    vers := Tab.mapv {} (fun _ x => resetVer x) s.vers
    verCtr := s.verCtr
    adm := { ucGateOn := s.adm.ucGateOn, ucGateOff := s.adm.ucGateOff, lunRqMax := s.adm.lunRqMax
             ucHoldMaxMs := s.adm.ucHoldMaxMs }
    ssid := s.cfgSsid
    svid := s.cfgSvid
    cfgSsid := s.cfgSsid
    cfgSvid := s.cfgSvid
    fuse := s.fuse
    media := { s.media with
      fpcMax := s.media.fpcNext, fpcChMax := s.media.fpcChNext
      chans := [], luns := [],  deeps := [], folds := [], relocs := []
      tables := s.tablesSaved, lunTbit := 0, lunBlocks := 0, lunPerVol := 0, volPerCh := 0, lunCount := 0, busMts := 0 }
    bpm := { floors := s.bpm.floors.filter kept, caps := s.bpm.caps.filter kept }
    mctp := { addr := s.mctp.addr }
    evr := { log := s.evr.log, logFirst := s.evr.logFirst, logNext := s.evr.logNext, logPage := s.evr.logPage
             logStarts := s.evr.logStarts, logPages := s.evr.logPages, lastPersistMs := s.evr.lastPersistMs }
    
    plp := { holdupMs := s.plp.holdupMs, last := s.plp.last, lastUs := s.plp.lastUs, lastMib := s.plp.lastMib
             failed := s.plp.failed, flushes := s.plp.flushes, jSeq := s.plp.jSeq, ckptSeq := s.plp.ckptSeq
             pwrfail := s.plp.pwrfail, emergAvail := s.plp.emergAvail, emergExts := s.plp.emergExts
             flushList := if s.plp.phase = 1 ∧ (s.plp.cut ∨ s.plp.why ≠ 0) then flushOrder s else [] }
    cip := { plainAllow := s.cip.plainAllow, insts := s.cip.insts, sanKind := s.cip.sanKind, sanTenant := s.cip.sanTenant
             san := s.cip.san.map fun x => { x with box := none }
             dslots := Tab.mapv {} (fun _ k => resetSlot 3 k) s.cip.dslots
             tslots := Tab.mapv {} (fun _ k => resetSlot 2 k) s.cip.tslots }
    ckm := { tolPpm := s.ckm.tolPpm }
    boot := { dev0 := { mem := s.boot.dev0.mem, jedec := s.boot.dev0.jedec }
              dev1 := { mem := s.boot.dev1.mem, jedec := s.boot.dev1.jedec }, startNs := s.nowNs }
    thm := { shutCnt := s.thm.shutCnt, tNext := s.thm.tConf, tConf := s.thm.tConf
             tWarn := nth 95 s.thm.tConf 0, tOn := nth 100 s.thm.tConf 1, tFull := nth 110 s.thm.tConf 2, tShut := nth 118 s.thm.tConf 3
             fFull := s.thm.fFull, fOn := s.thm.fOn }
    hlt := resetHlt s
    hltSaved := s.hltSaved
    savedMs := s.savedMs
    tablesSaved := s.tablesSaved
    tap := s.tap
    pins := { testEn := s.pins.testEn }
    formatted := s.formatted
    cfgOpen := s.cfgOpen
    flushEnd := s.flushEnd
    
    nowNs := s.nowNs
    freeCtr := s.freeCtr
    pending := s.pending
    out := s.out }

/-- The XV8 is held in power-on reset (R338); a configuration not yet committed is lost (R322). -/
def powerOff (s : State) : State := resetKept (restoreCfg s)

/-- A reference keeps its monitor state through a warm reset; the PLLs fed by it are judged afresh (R329), on one
reference by lock alone (R330). -/
def rejudge (r : RefSt) : RefSt := { r with goodCmps := min r.goodCmps 4 }

/-- A device warm reset from step 4 on (Table 14.9): all logic but the AON domain is reset and the boot starts at phase 1
with its cause. -/
def warmReset (s : State) (cause : Nat) : State :=
  let k := resetKept s
  { k with
    ckm := { s.ckm with
      refA := rejudge s.ckm.refA, refB := rejudge s.ckm.refB, plls := Tab.mapv {} (fun _ x => { x with
        stable := s.ckm.unmonitored && x.lock, relocks := if x.on then satAdd 255 x.relocks 1 else x.relocks }) s.ckm.plls
      gRefused := false, gDone := true, gReason := 0, gLast := 0, gEn := 0x3FFFFF, gHostOff := 0 }
    rst := { warmCount := satAdd 0xFFFF s.rst.warmCount 1, cause := cause, qResets := s.rst.qResets
             qLastUs := s.rst.qLastUs, lastWakeUs := s.rst.lastWakeUs, wakeCause := s.rst.wakeCause
             maxState := s.rst.maxState, p2Ms := s.rst.p2Ms, p1Us := s.rst.p1Us, p3S := s.rst.p3S, resNs := s.rst.resNs
             wakesP2 := s.rst.wakesP2, wakesP3 := s.rst.wakesP3, idleNs := s.nowNs }
    boot := { k.boot with next := s.boot.next }
    pins := { s.pins with thermtripN := true } }

/-! ### The steps of a device warm reset (Table 14.9) -/

/-- Step 1: new commands are refused with SHUTDOWN_PENDING. From the stopped state of a boot there is nothing to quiesce or
to flush, so the reset goes on at step 4. -/
def beginWarm (s : State) (cause : Nat) : State :=
  if !s.boot.ready || s.plp.phase == 2 then warmReset s cause
  else
    { s with
      rst := { s.rst with warmPhase := 2, nextCause := cause, warmNs := s.nowNs }
      adm := { s.adm with shutdown := true } }

/-- The latch of R375 can be released: every sensor that is not broken reads below 105 °C, no die is all broken. -/
def latchFree (s : State) : Bool :=
  (List.range 22).all (fun k => (getSens s k).broken || decide ((getSens s k).temp < 420)) &&
    (List.range 7).all fun d => !allBroken s d

/-- WARM (R339, R375): with its key, RST_CTL.WARM starts a device warm reset; a thermal latch that cannot be released
denies it. -/
def execWarm (p : Port) (v : Word) (s : State) : Res :=
  hostAccess p 0 3 s fun s =>
    if v.toNat &&& 0x00FFFFFE ≠ 0 then .fault (.reservedWrite p 0 0x18004)
    else if fld v 24 8 ≠ 0xA5 ∨ !flag v 0 ∨ s.rst.warmPhase ≠ 0 then .next s
    else if s.thm.latch then
      if s.thm.phase = 3 ∧ latchFree s then .next (warmReset s 2) else .next (setThmEvt s 6 0xFFF)
    else if flushing s then .next s
    else .next (beginWarm s 2)

/-- QUIESCE_TIMEOUT (Table 14.9, step 2): no granted command remains, or RST_QUIESCE.MS has passed; step 3 begins. -/
def execQuiesceTimeout (reached : List Reached) (s : State) : Res :=
  let none' := !(s.cmds.any fun c => c.granted)
  if s.rst.warmPhase = 2 ∧ s.plp.phase = 0 ∧ (none' ∨ s.rst.warmNs + min 10000 s.rst.quiesceMs * 1000000 ≤ s.nowNs) then
    .next (reached.foldl acceptReached (startFlush { s with rst := { s.rst with warmPhase := 3 } } 2))
  else .next s

/-- FLUSH_END (R259, R339, R374): the flush completes. A flush for a warm reset goes on at step 4 of Table 14.9, that of a
thermal shutdown ends latched, that of a power loss stays stopped. -/
def execFlushEnd (s : State) : Res :=
  if s.plp.phase ≠ 1 ∨ (s.plp.why = 0 ∧ !s.plp.cut) then .next s
  else
    let t := endFlush s
    if s.plp.why = 2 then .next (warmReset t s.rst.nextCause)
    else if s.plp.why = 1 then .next (thermalStopped t)
    else .next t

/-- PWRFAIL_HIGH_TIMEOUT (R264, R250): PWRFAIL_N has been high for 10 ms while the XV8 is stopped after a flush, or in a
boot that it stopped; a warm reset follows, unless the thermal latch holds. -/
def execPwrfailHighTimeout (s : State) : Res :=
  if s.plp.phase = 2 ∧ !s.thm.latch ∧ !s.ckm.stopped ∧ s.plp.pwrfail then
    .next (warmReset { s with plp := { s.plp with pwrfail := false } } 4)
  else .next s

/-- FW_ACTIVATE_RESET_TIMEOUT (R361): 10 ms after the FW_ACTIVATE mode 2 reply was posted, the warm reset starts. -/
def execFwActivateResetTimeout (s : State) : Res :=
  if s.rst.warmPhase = 1 ∧ !flushing s ∧ s.rst.warmNs + 10000000 ≤ s.nowNs then .next (beginWarm s 3) else .next s

end Sys2Proof.Machine
end

