-- ==== Sys2Proof/Machine/Clocks.lean ====
section
/-! DEFINITION. Reference clocks, PLLs and clock gates (R323 to R335). -/

namespace Sys2Proof.Machine

/-- A CKM_EVT bit is set, with its generic record: severity error for A_DESEL, B_DESEL and PLL_FAULT. Every deselection, selection and core
switch writes its record, whether or not the bit was clear (R326, R328). -/
def setCkmEvt (s : State) (b inst : Nat) : State :=
  let sev := if b = 0 ∨ b = 1 ∨ b = 5 then 3 else 1
  let old := s.ckm.evt
  if b ≤ 4 then genericEv { s with ckm := { s.ckm with evt := setBit old b } } sev 2 inst b 0x10008 (setBit old b)
  else raiseEvt s old b (fun s v => { s with ckm := { s.ckm with evt := v } }) sev 2 inst 0x10008

/-- SOURCE instance of a reference (Table 17.3). -/
def refInst (r : Port) : Nat := 0x100 + r.num

/-- The core source (R328). -/
def coreRef (s : State) : Port := if s.ckm.coreSrc then .b else .a

/-- The core PLLs of Table 14.3. -/
def corePlls : List Nat := List.range 11

/-- The core PLLs take their input from a reference. At a switch they keep lock through holdover (R328) and are judged again
(R329, log 41, DEDUCED). -/
def setCore (s : State) (r : Port) : State :=
  let first := !(Tab.get {} s.ckm.plls 0).on
  let s := { s with ckm := { s.ckm with coreSrc := r == .b, holdover := false } }
  if first then corePlls.foldl (fun s p => startPll s p r) s
  else corePlls.foldl (fun s p => modPll s p fun x => { x with src := r == .b, stable := false }) s

/-- The core source changes in operation (R328). -/
def switchCore (s : State) (r : Port) : State := setCkmEvt (setCore s r) 4 (refInst r)

/-- A reference becomes Selected (R326, R328): its port's PHY PLL starts; the core PLLs start on it, or switch to it out of
holdover; monitoring begins. When both references were lost, the device warm reset of R331 follows. -/
def selectRef (s : State) (r : Port) : State :=
  let s := modRef s r fun x => { x with st := 2, goodCmps := 4 }
  let s := setCkmEvt s (2 + r.num) (refInst r)
  let s := startPll s (11 + r.num) r
  let s := { s with ckm := { s.ckm with unmonitored := false } }
  let s := if !(Tab.get {} s.ckm.plls 0).on then setCore s r
    else if s.ckm.holdover then switchCore s r else s
  wake s 9

/-- A Selected reference is deselected (R326, R327): its event, vector 12, its port's loss, and the core switch, or
holdover while the other is not Selected (R328). -/
def deselect (s : State) (r : Port) (st : Nat) : State :=
  let s := modRef s r fun x => { x with st := st, goodCmps := 0, desel := satAdd 0xFFFF x.desel 1 }
  let s := firePf0 (setCkmEvt s r.num (refInst r)) 12
  let s := modPort s r fun q => { q with lossDue := q.linkUp || q.lossDue, linkUp := false, speed := 0, width := 0, flit := false }
  let s := modPll s (11 + r.num) fun x => { x with on := false, lock := false, stable := false }
  let s := if coreRef s ≠ r then s
    else if (refOf s r.other).st = 2 then switchCore s r.other
    else { s with ckm := { s.ckm with holdover := true } }
  wake s 9

/-- REFCLK_MISSING (R325): no edge of a reference during 64 cycles of the other. -/
def execRefclkMissing (r : Port) (s : State) : Res :=
  if s.pins.porHeld ∨ s.ckm.stopped ∨ (refOf s r.other).st = 0 then .next s
  else if (refOf s r).st = 2 then .next (deselect s r 0)
  else .next (modRef s r fun x => { x with st := 0, goodCmps := 0 })

/-- Window of a comparison, counts (R325). -/
def tolCounts (ppm : Nat) : Nat := ppm * 65536 / 1000000

/-- A count is in window (R325). -/
def inWindow (ppm n : Nat) : Bool := decide (n ≤ 65536 + tolCounts ppm) && decide (65536 ≤ n + tolCounts ppm)

/-- PLLs are judged after a comparison in window (R329): stable once locked for four, counted with the reference's own and, after
a core switch, with those of the reference that came back. -/
def judgePlls (s : State) : State :=
  let s := if 8 ≤ (refOf s (coreRef s)).goodCmps ∧ 4 ≤ (refOf s (coreRef s).other).goodCmps then corePlls.foldl (fun s p => modPll s p fun x =>
      { x with stable := x.on && x.lock, fault := x.fault && !(x.on && x.lock) }) s else s
  [Port.a, Port.b].foldl (fun s r =>
    if 8 ≤ (refOf s r).goodCmps then modPll s (11 + r.num) fun x => { x with stable := x.on && x.lock } else s) s

/-- After a comparison in window: a Judging reference with four is Selected, REFCLKA first (R326, R328). -/
def passCmp (s : State) : State :=
  let s := [Port.a, Port.b].foldl (fun s r => modRef s r fun x => { x with goodCmps := min 8 (x.goodCmps + 1) }) s
  let s := [Port.a, Port.b].foldl (fun s r =>
    if (refOf s r).st = 1 ∧ 4 ≤ (refOf s r).goodCmps then selectRef s r else s) s
  judgePlls s

/-- After a failed comparison (R326): a reference whose port PHY PLL alone has lost lock is deselected, otherwise the one
that is not the core source; one that is only Judging starts its count again. -/
def failCmp (s : State) (lockA lockB : Bool) : State :=
  let out := if lockA != lockB then (if lockA then Port.b else Port.a) else (coreRef s).other
  let s := [Port.a, Port.b].foldl (fun s r => if (refOf s r).st = 1 then modRef s r fun x => { x with goodCmps := 0 } else s) s
  if (refOf s out).st = 2 then deselect s out 1 else s

/-- The return of references after both were lost starts the boot with cause 5 once one is Selected (R331). -/
def restart (s : State) : State :=
  if s.ckm.stopped ∧ ((refOf s .a).st = 2 ∨ (refOf s .b).st = 2) then
    let t := warmReset { s with ckm := { s.ckm with stopped := false } } 5
    setCkmEvt t 7 0
  else s

/-- REFCLK_COMPARISON (R325, R326, R329): a window over 2^16 cycles ends. -/
def execRefclkComparison (countA countB : Nat) (lockA lockB : Bool) (s : State) : Res :=
  if s.pins.porHeld ∨ s.ckm.refA.st = 0 ∨ s.ckm.refB.st = 0 then .next s
  else
    let s := modRef s .a fun x => { x with cmp := min 0x1FFFF countA }
    let s := modRef s .b fun x => { x with cmp := min 0x1FFFF countB }
    if inWindow s.ckm.tolPpm countA && inWindow s.ckm.tolPpm countB then .next (restart (passCmp s))
    else .next (failCmp s lockA lockB)

/-- REFCLK_EDGES_RETURN (R326): a reference that was Absent has edges again. -/
def execRefclkEdgesReturn (r : Port) (s : State) : Res :=
  if s.pins.porHeld ∨ (refOf s r).st ≠ 0 then .next s
  else .next (modRef s r fun x => { x with st := 1, goodCmps := 0, sinceNs := s.nowNs })

/-- SINGLE_REFERENCE_BOOT (R330): 100 ms after one reference became Judging (it may be Selected since) the other shows no edge; the
XV8 boots on the present one, its PLLs taken as stable after their lock. -/
def execSingleReferenceBoot (s : State) : Res :=
  let go := fun (r : Port) => (refOf s r).st ≠ 0 ∧ (refOf s r.other).st = 0 ∧ (refOf s r).sinceNs + 100000000 ≤ s.nowNs
  if s.pins.porHeld ∨ s.ckm.stopped ∨ s.boot.ready ∨ s.boot.phase ≠ 2 ∨ (corePlls.all fun p => (Tab.get {} s.ckm.plls p).stable) = true then
    .next s
  else
    let boot := fun (r : Port) =>
      let s := setCore { s with ckm := { s.ckm with unmonitored := true } } r
      let s := if (Tab.get {} s.ckm.plls (11 + r.num)).on then s else startPll s (11 + r.num) r
      let s := (corePlls ++ [11 + r.num]).foldl (fun s p => modPll s p fun x => { x with stable := true }) s
      Host.Outcome.next (setCkmEvt s 6 0)
    if go .a then boot .a else if go .b then boot .b else .next s

/-- BOTH_REFERENCES_LOST (R331): every clock stops and HBM is lost. What the XV8 then holds is what the warm reset that
follows starts from, so it is put in that state at once; nothing but the return of references acts on it. -/
def execBothReferencesLost (s : State) : Res :=
  if s.pins.porHeld ∨ s.ckm.stopped then .next s
  else
    let dead := fun (r : RefSt) => { r with st := 0, goodCmps := 0 }
    let k := resetKept { s with flushEnd := false }
    .next { k with
      ckm := { s.ckm with refA := dead s.ckm.refA, refB := dead s.ckm.refB, stopped := true, plls := [], unmonitored := false
                          holdover := false }
      rst := { s.rst with warmPhase := 0, actState := 0, actBox := none, qState := [], qPhase := [], qWait := [] }
      boot := { k.boot with next := s.boot.next }
      tap := s.tap }

/-! ### PLL faults -/

/-- A quadrant's skim engine restarts at position 0 with a new lap (Table 10.8). -/
def skimAfresh (s : State) (q : Nat) : State :=
  { s with mep := { s.mep with
    skims := Tab.upd {} s.mep.skims (3 + q) fun x => { laps := x.laps, lap := x.lap, fixed := x.fixed }
    lines := Tab.set {} s.mep.lines (2048 + 12 + q) {}
    pendFix := s.mep.pendFix.filter fun e => e.1 != 12 + q } }

/-- A quadrant reset begins at once (R329, R340). -/
def beginQuad (s : State) (q : Nat) : State :=
  let s := { s with
    rst := { s.rst with qState := Tab.set 0 s.rst.qState q 1, qPhase := Tab.set 0 s.rst.qPhase q 1
                        idleNs := s.nowNs }
    plp := { s.plp with qrLimit := true } }
  recompute (skimAfresh s q) true

/-- PLL_FAULT (R329): a PLL loses lock or fails its comparison. -/
def execPllFault (p : Nat) (reached : List Reached) (s : State) : Res :=
  if s.pins.porHeld ∨ s.ckm.stopped ∨ 13 ≤ p ∨ !(Tab.get {} s.ckm.plls p).on then .next s
  else
    let s := modPll s p fun x => { x with fault := true, stable := false, lock := false }
    let s := wake (setCkmEvt s 5 p) 9
    if p = 11 ∨ p = 12 then
      let port := if p = 11 then Port.a else Port.b
      if (getPort s port).linkUp then .next (losePort s port .refDeselected reached) else .next s
    else if 1 ≤ p ∧ p ≤ 8 then
      let q := (p - 1) % 4
      if s.boot.ready ∧ Tab.get 0 s.rst.qState q ≠ 1 then .next (beginQuad s q)
      else if s.boot.ready then .next { s with rst := { s.rst with qPhase := Tab.set 0 s.rst.qPhase q 1 } }
      else .next s
    else .next (warmReset s 6)

/-! ### Clock gates -/

/-- Parent of a gate node (Table 14.5); ROOT has none. -/
def gateParent (n : Nat) : Option Nat :=
  if n = 0 then none
  else if n = 1 ∨ (8 ≤ n ∧ n ≤ 11) ∨ n = 20 ∨ n = 21 then some 0
  else if n ≤ 7 then some 1
  else some (8 + (n - 12) % 4)

/-- A quadrant has a trained channel. -/
def quadTrained (s : State) (q : Nat) : Bool := (quadChs q).any fun c => (getChan s c).trained

/-- A zone member, undercoat set, emergency block or system-area block lies on quadrant q: the system area takes blocks of
every group of formatted media (Table 8.8). -/
def quadHolds (s : State) (q : Nat) : Bool :=
  (s.formatted && quadTrained s q) || s.zones.any (fun e => e.2.members.any fun m => chQuad m.ch == q) ||
    s.media.sets.any (fun e => e.2.quad == q && !e.2.blks.isEmpty)

/-- A node is in use (Table 14.5). -/
def gateInUse (s : State) (n : Nat) : Bool :=
  if n ≤ 3 then true
  else if n = 4 then (tenants s).any (fun e => !e.2.cipherOff) || s.cip.dslots.any (fun e => e.2.state == 1) ||
    s.cip.tslots.any (fun e => e.2.state == 1) || s.cip.san.isSome
  else if n = 5 ∨ n = 6 then
    let p := getPort s (if n = 5 then .a else .b)
    !p.perst || p.linkUp
  else if n = 7 then (!s.boot.ready && decide (s.boot.phase ≤ 3)) || s.boot.stState == 1 || s.boot.stState == 2 ||
    s.rst.actState != 0
  else if n ≤ 15 then let q := (n - 8) % 4
    quadTrained s q || quadHolds s q
  else if n ≤ 19 then quadTrained s (n - 16)
  else decide (7 ≤ s.boot.phase)

/-- The nodes that a power state gates now (R335, Table 14.6). P3 leaves the PCIe nodes, whose L1 logic runs. -/
def pwrGated (s : State) (n : Nat) : Bool :=
  if s.rst.pwr = 1 then decide (12 ≤ n) && decide (n ≤ 15) && bit s.rst.qGated (n - 12)
  else if s.rst.pwr = 2 then decide (8 ≤ n)
  else decide (3 ≤ s.rst.pwr) && decide (1 ≤ n) && n != 5 && n != 6

/-- A node's clock runs, power-state gating included (CLKG_EN). -/
def gateEn (s : State) (n : Nat) : Bool := bit s.ckm.gEn n && !pwrGated s n

/-- A node and every parent of it are turned on (R334). -/
def gateOn : Nat → State → Nat → State
  | 0, s, _ => s
  | fuel + 1, s, n =>
    let s := { s with ckm := { s.ckm with gEn := setBit s.ckm.gEn n, gHostOff := clrBit s.ckm.gHostOff n } }
    match gateParent n with
    | none => s
    | some p => if bit s.ckm.gEn p then s else gateOn fuel s p

/-- A refused request (R334). -/
def gateRefuse (s : State) (reason : Nat) : State :=
  { s with ckm := { s.ckm with gRefused := true, gReason := reason } }

/-- A write of CLKG_REQ (R334, R335). -/
def writeClkgReq (p : Port) (v : Word) (s : State) : Res :=
  regWriteBy (if flag v 8 && pwrGated s (fld v 0 5) then 10 else 3) p 0 s fun s =>
    if v.toNat &&& 0xFFFFFEE0 ≠ 0 then .fault (.reservedWrite p 0 0x14000)
    else
      let n := fld v 0 5
      let s := { s with ckm := { s.ckm with gLast := n, gDone := true } }
      if 21 < n then .next (gateRefuse s 3)
      else if flag v 8 then
        .next (gateOn 3 s n)
      else if !bit s.ckm.gEn n then .next s
      else if (List.range 22).any fun m => gateParent m == some n && bit s.ckm.gEn m then .next (gateRefuse s 1)
      else if gateInUse s n then .next (gateRefuse s 2)
      else .next { s with ckm := { s.ckm with gEn := clrBit s.ckm.gEn n, gHostOff := setBit s.ckm.gHostOff n } }

/-- CLOCK_GATE_ON (R334). -/
def execClockGateOn (p : Port) (v : Word) (s : State) : Res := writeClkgReq p v s
/-- CLOCK_GATE_OFF (R334). -/
def execClockGateOff (p : Port) (v : Word) (s : State) : Res := writeClkgReq p v s

end Sys2Proof.Machine
end

