-- ==== Sys2Proof/Machine/Power.lean ====
section
/-! DEFINITION. Power states (R336, R337), quadrant resets (R340 to R342) and the end of a live activation (R343 to
R345). -/

namespace Sys2Proof.Machine

/-! ### Idleness -/

/-- A LUN has no array operation queued or under way. -/
def lunIdle (u : Lun) : Bool := u.op.isNone && u.sub.isNone && u.rq.isEmpty && u.ovf.isEmpty && u.parked.isEmpty && u.pq.isEmpty && u.eq.isEmpty

/-- A quadrant with no array operation queued or under way and no processor work. -/
def quadIdle (s : State) (q : Nat) : Bool :=
  s.media.luns.all (fun e => chQuad (lunCh e.1) != q || lunIdle e.2) && Tab.get 0 s.rst.qState q != 1 &&
    s.media.deeps.all (fun e => chQuad (blkCh e.2.rd.blk) != q)

/-- A mailbox with a frame in some queue or in its backlog. -/
def boxBusy (m : Mbx) : Bool := !m.reqQ.isEmpty || !m.backlog.isEmpty || m.held.isSome || !m.rspQ.isEmpty

/-- The entry condition of P2 (Table 14.6). -/
def p2Idle (s : State) : Bool :=
  (List.range 4).all (quadIdle s) && !(s.cmds.any fun c => c.granted) &&
    [Port.a, Port.b].all (fun p => (getPort s p).vfs.all fun e => e.2.cas.valid.isEmpty) &&
    s.mbxs.all (fun e => !boxBusy e.2) && s.plp.phase == 0 && s.media.folds.isEmpty && s.media.relocs.isEmpty &&
    s.evr.waiting.isEmpty && s.rst.actState == 0 && s.rst.warmPhase == 0 && s.cip.san.isNone

/-- A boot has ended and nothing has stopped the XV8 or pauses its processors (R344). -/
def running (s : State) : Bool := s.boot.ready && !s.ckm.stopped && !s.pins.porHeld && s.plp.phase == 0 && !paused s

/-! ### Entries and wakes -/

/-- P1_ENTRY (Table 14.6): an idle quadrant's QCORE is gated after P1_US of idle. -/
def execP1Entry (q : Nat) (s : State) : Res :=
  let us := max 1 s.rst.p1Us
  if q < 4 ∧ running s ∧ 1 ≤ s.rst.maxState ∧ s.rst.pwr ≤ 1 ∧ quadIdle s q ∧
      (max s.rst.idleNs (Tab.get 0 s.rst.qIdleNs q)) + us * 1000 ≤ s.nowNs then
    .next { s with rst := { s.rst with pwr := 1, qGated := setBit s.rst.qGated q } }
  else .next s

/-- P2_ENTRY (Table 14.6, R337): from P1, after P2_MS of idle; the merge buffers are drained. -/
def execP2Entry (s : State) : Res :=
  if running s ∧ 2 ≤ s.rst.maxState ∧ s.rst.pwr = 1 ∧ p2Idle s ∧ s.rst.idleNs + max 1 s.rst.p2Ms * 1000000 ≤ s.nowNs then
    .next { s with rst := { s.rst with pwr := 2, waking := false, idleNs := s.nowNs }, mep := { s.mep with merges := [] } }
  else .next s

/-- P3_ENTRY (Table 14.6, R337): from P2, with no dirty data and both links in L1 or down; a CHECKPOINT, the threshold
tables, the health values and the event records are made durable first. -/
def execP3Entry (s : State) : Res :=
  let quiet := fun (p : Port) => !(getPort s p).linkUp || (getPort s p).inL1
  if running s ∧ 3 ≤ s.rst.maxState ∧ s.rst.pwr = 2 ∧ !s.rst.waking ∧ dirtyBytes s = 0 ∧ quiet .a ∧ quiet .b ∧
      s.rst.idleNs + max 1 s.rst.p3S * 1000000000 ≤ s.nowNs then
    let s := persistAll s
    .next { s with
      rst := { s.rst with pwr := 3 }
      plp := { s.plp with ckptSeq := s.plp.jSeq, jRecs := 0, jSeq := s.plp.jSeq + 1, lastCkptMs := opMs s }
      zonesSaved := s.zones, hltSaved := s.hlt, savedMs := opMs s, tablesSaved := s.media.tables }
  else .next s

/-- PLLs that a power state had off acquire lock again (Table 14.3). -/
def relock (s : State) (ps : List Nat) : State :=
  ps.foldl (fun s p => modPll s p fun x => { x with relocks := if x.on then satAdd 255 x.relocks 1 else x.relocks }) s

/-- WAKE_COMPLETE (R337): the wake under way, or one for background work or an SMBus transaction (codes 7 and 8), reaches
P0. -/
def execWakeComplete (cause us : Nat) (s : State) : Res :=
  if 2 ≤ s.rst.pwr ∧ (s.rst.waking ∨ cause = 7 ∨ cause = 8) then
    let c := if s.rst.waking then s.rst.wakeCause else cause
    let s := relock s (if s.rst.pwr = 2 then (List.range 10).map (· + 1) else corePlls)
    .next { s with rst := { s.rst with
      pwr := 0, qGated := 0, waking := false, lastWakeUs := min 0xFFFF us, wakeCause := c, idleNs := s.nowNs
      wakesP2 := if s.rst.pwr = 2 then satAdd 0xFFFF s.rst.wakesP2 1 else s.rst.wakesP2
      wakesP3 := if s.rst.pwr = 3 then satAdd 0xFFFF s.rst.wakesP3 1 else s.rst.wakesP3 } }
  else .next s

/-- MAX_STATE (R336): PWR_CTL.MAX_STATE is written; below the present state it is a wake source of its own. -/
def execMaxState (p : Port) (v : Word) (s : State) : Res :=
  regWriteBy (if fld v 0 2 < s.rst.pwr then 11 else 3) p 0 s fun s =>
    if v.toNat &&& 0xFFFFFFFC ≠ 0 then .fault (.reservedWrite p 0 0x1C104)
    else .next { s with rst := { s.rst with maxState := fld v 0 2 } }

/-! ### Quadrant resets -/

/-- D is within the D_max computed without quadrant q (R256, R340). -/
def fitsWithout (s : State) (q : Nat) : Bool :=
  let t := recompute { s with rst := { s.rst with qState := Tab.set 0 s.rst.qState q 1, qPhase := Tab.set 0 s.rst.qPhase q 1 } } false
  decide (dirtyBytes s ≤ t.plp.dmaxMib * 1048576)

/-- The state with every LUN of a quadrant rewritten. -/
def mapQuadLuns (s : State) (q : Nat) (f : Lun → Lun) : State :=
  { s with media := { s.media with luns := Tab.mapv {} (fun l u => if chQuad (lunCh l) = q then f u else u) s.media.luns } }

/-- Erases under way on a quadrant are suspended and recorded (Table 14.10, step 2). -/
def suspendErases (s : State) (q : Nat) : State :=
  mapQuadLuns s q fun u => match u.op with
    | some { k := .er e, runNs := r, ran := a, tokens := n, .. } =>
      { u with op := some { k := .er e, runNs := r, ran := a, tokens := n, susp := .ready, serve := [] } }
    | _ => u

/-- QUADRANT_RESET_BEGIN (R340): the wait on D has ended; step 1 begins. -/
def execQuadrantResetBegin (q : Nat) (s : State) : Res :=
  if running s ∧ Tab.get 0 s.rst.qState q = 1 ∧ Tab.get 0 s.rst.qPhase q = 7 ∧ fitsWithout s q then
    .next (suspendErases (beginQuad s q) q)
  else .next s

/-- A quadrant reset that a request asked for replies (R340, R342). -/
def quadReply (s : State) (q result : Nat) (vals : List Nat) : State :=
  match s.rst.qWait.find? fun e => e.1 == q with
  | none => s
  | some e =>
    let s := { s with rst := { s.rst with qWait := s.rst.qWait.filter fun x => x.1 != q } }
    finishReq s e.2.1 result vals []

/-- The counts of a quadrant reset that ends, with its record (0xA003). -/
def endQuad (s : State) (q us state result sev : Nat) : State :=
  let s := { s with rst := { s.rst with
    qState := Tab.set 0 s.rst.qState q state, qPhase := Tab.set 0 s.rst.qPhase q 0
    qResets := Tab.upd 0 s.rst.qResets q fun n => satAdd 0xFFFF n 1, qLastUs := Tab.set 0 s.rst.qLastUs q (min 0xFFFF us) } }
  logEv s sev (src 0xA q) 0xA003 (leBytes 4 result ++ leBytes 4 us)

/-- A quadrant reset runs: begun and not ended, with no flush. -/
def quadRuns (s : State) (q : Nat) : Bool :=
  running s && decide (q < 4) && Tab.get 0 s.rst.qState q == 1 && Tab.get 0 s.rst.qPhase q != 7

/-- QUADRANT_RESET_DONE (R340, R8): step 6 ends; the quadrant is back in service with its held work, its PLLs judged stable
and its link's spares offered again but for `badLanes` failed lanes that do not pass training. -/
def execQuadrantResetDone (q : Nat) (took : QuadDone) (s : State) : Res :=
  if quadRuns s q then
    let s := endQuad s q took.us 0 0 1
    let s := [1 + q, 5 + q].foldl (fun s p => modPll s p fun x => { x with lock := true, stable := true, fault := false }) s
    let s := trainLink { s with plp := { s.plp with qrLimit := false } } q took.badLanes
    .next (quadReply (recompute s true) q 0 [took.us])
  else .next s

/-- A rebuild for a command still has member reads on a quadrant. -/
def rebuildsOn (s : State) (q : Nat) (c : Cmd) : Bool :=
  s.media.deeps.any fun e => e.2.rebuild && e.2.rd.why == .cmd c.tenant c.seq && s.media.luns.any fun u =>
    chQuad (lunCh u.1) == q && (u.2.rq ++ u.2.ovf ++ u.2.parked).any fun r => r.why == .rebuild e.1

/-- The readers that wait for a quadrant's media, for their own sectors or for the members of a rebuild (R106, R342). -/
def waitsOnQuad (s : State) (q : Nat) (c : Cmd) : Bool :=
  c.ph == .exec && ((c.todo.any fun x => (flashPlace s (x / 4)).any fun f => chQuad (blkCh f.1) == q) || rebuildsOn s q c)

/-- The reads that `f` picks out leave the queues of a quadrant. -/
def dropReads (s : State) (q : Nat) (f : Rd → Bool) : State :=
  mapQuadLuns s q fun u => { u with rq := u.rq.filter fun r => !f r, ovf := u.ovf.filter fun r => !f r }

/-- QUADRANT_RESET_FAIL (R342): the quadrant becomes failed; held commands complete with QUADRANT_UNAVAILABLE. -/
def execQuadrantResetFail (q us : Nat) (s : State) : Res :=
  if quadRuns s q then
    let s := endQuad s q us 2 2 3
    let held := s.cmds.filter (waitsOnQuad s q)
    let s := held.foldl (fun s c => loseReader s c.tenant c.seq) s
    let s := { s with media := { s.media with deeps := s.media.deeps.filter fun e => !held.any fun c => e.2.rd.why == .cmd c.tenant c.seq } }
    let s := dropReads s q fun r => match r.why with
      | .cmd t n => held.any fun c => c.tenant == t && c.seq == n
      | .rebuild id => !(s.media.deeps.any fun e => e.1 == id)
      | _ => false
    .next (quadReply (completeFua (recompute s true)) q 2 [us])
  else .next s

/-! ### Live activation -/

/-- A staged image's little-endian field. -/
def stField (s : State) (o n : Nat) : Nat := leAt s.boot.stData o n

/-- Revocations that an image with this REVOKE field and KEY_INDEX asks for (R356). -/
def revokes (revoke key : Nat) : Nat := clrBit (revoke % 16) key

/-- LIVE_ACTIVATION_DONE (R343): step 5 is reached; the new firmware runs, BOOT_NEXT names its slot and its fuse updates
are due (R361). -/
def execLiveActivationDone (ms : Nat) (s : State) : Res :=
  if s.rst.actState = 0 ∨ flushing s ∨ s.ckm.stopped then .next s
  else
    let ver := stField s 8 4
    let box := s.rst.actBox
    let s := { s with
      rst := { s.rst with actState := 0, actResult := 1, actMs := min 0xFFFF ms, actBox := none }
      boot := { s.boot with fwVer := ver, next := s.boot.stTarget, slot := s.boot.stTarget
                            svnPend := stField s 16 2, revokePend := revokes (stField s 19 1) (stField s 18 1) } }
    let s := endActivation (noticePf0 s 5 2 ver 0)
    match box with
    | none => .next s
    | some (b, _) => .next (finishReq s b 0 [ver] [])

/-- LIVE_ACTIVATION_REVERT (R345): step 5 is not reached in 200 ms; the previous firmware goes on. The manual gives its
record of severity error no code (log 4, DESIGN CHOICE). -/
def execLiveActivationRevert (ms : Nat) (s : State) : Res :=
  if s.rst.actState = 0 ∨ flushing s ∨ s.ckm.stopped then .next s
  else
    let box := s.rst.actBox
    let ver := s.boot.fwVer
    let s := { s with
      rst := { s.rst with actState := 0, actResult := 2, actMs := min 0xFFFF ms, actBox := none } }
    let s := endActivation (noticePf0 s 5 2 ver 0)
    let s := logEv { s with freeCtr := s.freeCtr + 1 } 3 (src 2 0) (0x2000 + Config.openCode s.freeCtr % 0x1000) []
    match box with
    | none => .next s
    | some (b, _) => .next (finishReq s b 8 [ver] [])

end Sys2Proof.Machine
end

