-- ==== Sys2Proof/Machine/Recovery.lean ====
section
/-! DEFINITION. Recovery at boot (R268 to R272), format (R201) and what boot phase 8 does besides (Table 15.2). -/

namespace Sys2Proof.Machine

/-! ### Which versions are kept -/

/-- A version has a copy in flash that boot can read: undercoat, topcoat or emergency. -/
def inFlash (m : MediaFinding) (v : Nat) (x : Ver) : Bool := (programmed x || x.emerg) && !m.lostVersions.contains v

/-- `a` comes before `b` in the order in which recovery takes writers: the latest first. -/
def laterFirst (a b : Nat × Ver) : Bool := before b.2 a.2.pcycle a.2.seq

/-- One version that can still have effect: in its zone's generation, not ended by R30. -/
def candidate (s : State) (x : Ver) : Bool := live s x

/-- Recovery of one atomic piece (R135, R126): kept when every block of it is in flash or covered by a kept later one; its
blocks in flash join the kept ones. -/
def keepPiece (s : State) (m : MediaFinding) (kept : List (Nat × Ver)) (x : Ver) : List (Nat × Ver) :=
  let mine := s.vers.filter fun e => samePiece e.2 x && candidate s e.2
  let covered := fun (y : Ver) => kept.any fun k => k.2.tenant == y.tenant && k.2.zone == y.zone && k.2.lba == y.lba
  if mine.all fun e => inFlash m e.1 e.2 || covered e.2 then kept ++ mine.filter fun e => inFlash m e.1 e.2 && !covered e.2
  else kept

/-- The first version of each piece of a list. -/
def pieceHeads : List (Nat × Ver) → List Ver → List Ver
  | [], acc => acc
  | e :: t, acc => pieceHeads t (if acc.any (samePiece e.2) then acc else acc ++ [e.2])

/-- The versions that recovery finds in complete pieces (steps 4 to 6 of Table 11.5), before the run rule. -/
def recovered (s : State) (m : MediaFinding) : List (Nat × Ver) :=
  (pieceHeads (sortBy laterFirst (s.vers.filter fun e => candidate s e.2)) []).foldl (keepPiece s m) []

/-- The recovered write pointer of a sequential zone (R136): the end of the unbroken run of complete pieces from LBA 0. -/
def runEnd (s : State) (kept : List Nat) (t z wp : Nat) : Nat :=
  s.vers.foldl (fun w e =>
    let x := e.2
    if x.tenant = t ∧ x.zone = z ∧ candidate s x ∧ !kept.contains e.1 then min w x.lba else w) wp

/-! ### Zones -/

/-- A zone's record after recovery (R117, R118, R136). A ZONE_FINISH whose record had not become durable is not known: the zone is taken as the
writes before it left it. -/
def recoverZone (s : State) (m : MediaFinding) (met : Bool) (kept : List Nat) (key : Nat) (r : Zone) : Zone :=
  let durable := met || decide (r.finJno < s.plp.jSeq)
  let r := if r.finished && !durable then { r with finished := false, st := .closed, wp := r.finWp, finWp := 0 } else r
  let t := key / 4194304
  let z := key % 4194304
  let ten := tenD s t
  if m.lostZones.contains key then { r with st := .offline, resv := 0, roReason := 0, members := [], tabLost := false }
  else if isConv ten z ∨ r.st = .offline then r
  else
    let wp := runEnd s kept t z r.wp
    let none' := { r with st := .empty, wp := 0, members := [], resv := 0, capDrop := none }
    match r.st with
    | .opened | .closed => if wp = 0 then none' else { r with st := .closed, wp := wp }
    | .full =>
      if r.finished ∨ wp = r.wp then r
      else if wp = 0 then none' else { r with st := .closed, wp := wp, capDrop := none }
    | .readOnly => { r with wp := wp, capDrop := if r.roReason = 1 then some wp else r.capDrop }
    | _ => r

/-- The blocks that a zone gives up at recovery. -/
def freedBlocks (old new : Zone) : List Nat :=
  let mine := new.members.filterMap Member.blk
  (old.members.filterMap Member.blk).filter fun b => !mine.contains b

/-! ### Emergency data -/

/-- A recovered emergency block is copied into an ordinary staging extent of its zone or conventional stream (R270); where
the undercoat has no room it stays in buffers charged to RELOC (R219), as dirty data. -/
def resettle (s : State) (v : Nat) : State :=
  let x := getVer s v
  let t := tenD s x.tenant
  let (zone, gen) := stream s x
  let got := match openExt s x.tenant zone gen x.hint with
    | some e => if (getExt s e).secs.length + subs t ≤ 256 then some (s, e) else newExt s x.tenant zone gen x.hint
    | none => newExt s x.tenant zone gen x.hint
  match got with
  | none =>
    let (s, l) := popBufs { s with bpm := charge s.bpm kReloc (subs t) } 4 kReloc (subs t)
    modVer s v fun x => { x with hbm := true, dirty := true, emerg := false, placed := false, loc := .buf, bufs := l }
  | some (s, e) =>
    modVer (modExt s e fun y => { y with secs := y.secs ++ List.replicate (subs t) v }) v fun x => { x with
      placed := true, ucProg := true, emerg := false, loc := .uc e }

/-- The extents that recovery filled are closed: padded, every piece programmed (R192). -/
def sealExts (s : State) : State :=
  s.media.exts.foldl (fun s e =>
    if e.2.released ∨ e.2.issued ∨ e.2.secs.isEmpty then s
    else modExt s e.1 fun y => { y with issued := true, pad := 256 - y.secs.length, passed := List.range 17 }) s

/-- Staging extents without a kept version are released; those with one hold it (R268, steps 3 to 6). -/
def settleExts (s : State) (kept : List Nat) : State :=
  s.media.exts.foldl (fun s e =>
    if e.2.released then s
    else if e.2.secs.any fun v => kept.contains v && (getVer s v).ucProg && !(getVer s v).tcSafe then
      modExt s e.1 fun y => { y with issued := true, parity := [], pad := 256 - y.secs.length, passed := List.range 17 }
    else releaseExt (modExt s e.1 fun y => { y with parity := [] }) e.1) s

/-- A version after recovery: kept where it lies, or without effect. -/
def settleVer (s : State) (kept : List Nat) (v : Nat) (x : Ver) : Ver :=
  if !candidate s x then x
  else if !kept.contains v then { x with dead := true, emerg := false, placed := false }
  else
    let loc := if x.tcSafe then x.loc else match extOf s v with
      | some (e, _) => if x.ucProg then .uc e else .buf
      | none => .buf
    { x with loc := loc, placed := true, fua := false }

/-- A topcoat block whose window is open, or whose program was under way, is interrupted (R269). -/
def interrupt (f : FBlk) : FBlk := if f.inUse && !f.oneBit && decide (f.fine < f.coarse) then { f with interrupted := true } else f

/-! ### Unpowered time and the event recorder -/

/-- Upper ends of the elapsed-time indices, hours (Table 8.3). -/
def elapsedEnds : List Nat := [1, 4, 12, 24, 48, 96, 168, 336, 672, 1440, 2160, 4320, 6480, 8760, 17520]

/-- The unpowered time that a boot is credited with (R186): the lower bound of the elapsed-time index that suits the sample best, less the sample's
powered age. The sample is the topcoat data programmed last (log 133, DESIGN CHOICE); without topcoat data nothing is credited. -/
def sampleCredit (s : State) (idx : Nat) : Nat :=
  let hours := s.media.blks.flatMap fun e => if e.2.oneBit then [] else (e.2.stamps.map fun w => w.2.1).filter fun h => decide (h ≤ opHours s)
  match hours with
  | [] => 0
  | h :: l => nth 0 (0 :: elapsedEnds) (min 15 idx) - (opHours s - l.foldl max h)

/-- The credit of this boot is logged (R183, R186), the two oldest entries merged when 65,536 are held. -/
def addCredit (h : Hlt) (hours now : Nat) : Hlt :=
  let l := h.credits ++ [(now, hours)]
  let l := if l.length ≤ 65536 then l else match l with
    | a :: b :: t => (b.1, a.2 + b.2) :: t
    | t => t
  { h with credits := l, offHours := hours }

/-- BOOT_TIME records are filled in once the system area is known (R383). -/
def fillTimes (s : State) : State :=
  let f := fun (r : EvRec) => if r.boot then { r with time := r.time + s.hlt.opMsBase, pcycle := s.hlt.pcycle, boot := false } else r
  { s with evr := { s.evr with ring := s.evr.ring.map f, waiting := s.evr.waiting.map f, hold := s.evr.hold.map f } }

/-- The power-cycle count advances and the saved times are known (R264, R383). -/
def discover (s : State) : State :=
  fillTimes { s with hlt := { s.hlt with known := true, pcycle := (s.hlt.pcycle + 1) % 16777216 } }

/-! ### The system area is found -/

/-- A block after an erase that passed; `checked` says whether its check has been made too (R207). One that was half-erased when it was handed out
stays handed out. -/
def erasedBlk (checked : Bool) (f : FBlk) : FBlk :=
  { role := f.role, erases := f.erases + 1, checked := checked, retireWhy := f.retireWhy, failed := f.failed
    inUse := f.inUse, oneBit := f.inUse && f.oneBit }

/-- A half-erased block found at boot is erased again (R207). -/
def eraseAgain (s : State) (b : Nat) : State :=
  mcnt (mcnt (modBlk s b (erasedBlk true)) 13 1) 14 1

/-- Blocks whose erase was pending complete it at boot (R207, R263). -/
def finishErase (f : FBlk) : FBlk := if f.eraseIntent then erasedBlk true f else f

/-- A zone becomes OFFLINE (R118). -/
def noteOffline (s : State) (key : Nat) : State :=
  let t := key / 4194304
  noticeTenant (logEv s 3 (src 8 t) 0x8001 (leBytes 4 (key % 4194304))) t 4 (key % 4194304) ZSt.offline.code 0

/-- The first wordline of a zone that is not safe on every member that holds a block: folding goes on there (R269). -/
def foldFrom (s : State) (r : Zone) : Nat → Nat → Nat
  | 0, n => n
  | fuel + 1, n =>
    let bs := r.members.filterMap Member.blk
    if !bs.isEmpty && bs.all (fun b => (getBlk s b).safe.contains n) then foldFrom s r fuel (n + 1) else n

/-- Moves that the loss of power ended: folding goes on at each zone's first wordline that is not safe everywhere, open
conventional blocks take no more, and blocks that held nothing yet are erased. -/
def settleMoves (s : State) : State :=
  let s := { s with zones := Tab.mapv {} (fun _ r => { r with foldNext := foldFrom s r 128 0 }) s.zones }
  let s := { s with media := { s.media with convs := Tab.mapv {} (fun _ c => { c with used := 128 }) s.media.convs } }
  let held := fun (b : Nat) => s.zones.any (fun e => e.2.members.any fun m => m.blk == some b) ||
    s.media.sets.any (fun e => e.2.blks.contains b) || s.media.convs.any fun e => e.1 == b
  let orphans := (s.media.blks.filter fun e => e.2.inUse && !held e.1).map Prod.fst
  (orphans.foldl (fun s b => modBlk s b fun f => { f with role := some .reserve }) s |> orphans.foldl queueEr)

/-- Journal recovery (Table 11.5). The emergency blocks used are erased at its end, and its own records are durable. -/
def recover (s : State) (m : MediaFinding) : State :=
  let met := s.flushEnd
  let m := { m with lostZones := m.lostZones ++ ((s.zones.filter fun e => e.2.tabLost && !m.lostZones.contains e.1).map Prod.fst) }
  let s := discover s
  let s := if met then s
    else
      let s := programEmerg s (s.plp.flushList.take m.flushed)
      let s := { s with plp := { s.plp with last := 2, failed := satAdd 0xFFFF s.plp.failed 1 } }
      setPlpEvt s 1 3
  let s := m.halfErased.foldl eraseAgain s
  let kept := (recovered s m).map Prod.fst
  let zs : Tab Zone := Tab.mapv {} (recoverZone s m met kept) s.zones
  let zs := m.lostZones.foldl (fun t k => Tab.upd {} t k fun r => { r with st := .offline }) zs
  let rolled := (s.zones.filter fun e => decide ((Tab.get {} zs e.1).wp < e.2.wp)).length
  let freed := s.zones.flatMap fun e => freedBlocks e.2 (Tab.get {} zs e.1)
  let cut := fun (v : Nat) =>
    let x := getVer s v
    let r := Tab.get {} zs (zkey x.tenant x.zone)
    r.st != .offline && (isConv (tenD s x.tenant) x.zone || decide (x.lba < runEnd s kept x.tenant x.zone (getZone s x.tenant x.zone).wp))
  let kept := kept.filter cut
  let s := { s with vers := Tab.mapv {} (settleVer s kept) s.vers }
  let s := { s with zones := zs, zonesSaved := zs, plp := { s.plp with zonesRolled := min 0xFFFF rolled } }
  let s := { s with media := { s.media with blks := Tab.mapv {} (fun _ f => interrupt (finishErase f)) s.media.blks } }
  let s := settleMoves s
  let s := settleExts s kept
  let s := (kept.filter fun v => (getVer s v).emerg && !programmed (getVer s v)).foldl resettle s
  let s := sealExts s
  let s := freed.foldl queueEr s
  let s := m.lostZones.foldl noteOffline s
  let s := mcnt s 14 s.plp.emergExts.length
  { s with
    hlt := addCredit s.hlt (sampleCredit s m.sampleIdx) (opHours s), flushEnd := false
    plp := { s.plp with emergExts := [], flushList := [], jSeq := s.plp.jSeq + 1 } }

/-! ### Format -/

/-- A factory bad block is retired; a spare of its LUN takes the role of a nominal one (R201). -/
def retireFactory (s : State) (b : Nat) : State :=
  let l := blkLun b
  let role := roleOf s b
  let s := mcnt (modBlk s b fun f => { f with role := some .retired, failed := true }) 8 1
  match if role = .spare then none else availBlk s l .spare with
  | none => s
  | some c => modBlk s c fun f => { f with role := some role }

/-- Spares that a group holds now. -/
def countSpares (s : State) (g : Nat) : Nat := sumBy (fun l => readyLun s l .spare) ((List.range 256).map fun i => g * 256 + i)

/-- The media is formatted (R201): every block erased, factory bad blocks retired, roles given, saved values started. -/
def format (s : State) (m : MediaFinding) : State :=
  let s := { s with
    tenants := [], zones := [], zonesSaved := [], vers := [], formatted := true, flushEnd := false
    media := { s.media with blks := [], sets := [], exts := [], convs := [], eraseBase := 1, deadLuns := [], waitRoles := [] }
    hlt := { s.hlt with opMsBase := 0, pcycle := 0, credits := [], mcnts := [], telLife := [], thist := [] }
    savedMs := 0 }
  let s := m.factoryBad.foldl retireFactory (mcnt s 14 (s.media.lunCount * lunTotal s))
  let g := (List.range 16).map fun i => (i, countSpares s i)
  let put := fun (t : Tab Nat) (e : Nat × Nat) => Tab.set 0 t e.1 e.2
  let s := { s with media := { s.media with spareRem := g.foldl put [], spareInit := g.foldl put [] } }
  let s := discover s
  { s with
    cip := { s.cip with dslots := Tab.set {} s.cip.dslots 5 { state := 1, persist := true, loads := 1 } }
    hltSaved := s.hlt }

/-! ### What both do -/

/-- Staging extents that the undercoat holds: 128 for every 17 blocks of a quadrant (R192). -/
def ucExtents (s : State) : Nat :=
  sumBy (fun q => roleCount s .undercoat (fun c => chQuad c == q) / 17 * 128) (List.range 4)

/-- Admission capacities of the part modelled (Table 6.2). -/
def loadCaps (s : State) : State :=
  { s with adm := { s.adm with capMbps := 220000, peakMbps := 242000, capOps := 47000000, peakOps := 50000000 } }

/-- Boot phase 8 once the media is known: the configuration governs, the keys are there, D_max and the reserve are set, and a
SANITIZE that a power loss interrupted has been resumed and ends (R291). -/
def finishMedia (s : State) : State :=
  let s := { s with
    media := { s.media with ucTotal := ucExtents s }
    cip := { s.cip with ready := true } }
  endSan (recompute (loadCaps s) false)

end Sys2Proof.Machine
end

