-- ==== Sys2Proof/Machine/Boot.lean ====
section
/-! DEFINITION. The boot (R346 to R357, R363): slots and their checks, the phases, READY, fuses, and reading the boot
flash. -/

namespace Sys2Proof.Machine

/-! ### Boot flash -/

/-- A boot-flash device: device 0 holds slot A, device 1 slot B (R346). -/
def getDev (b : BootSt) (d : Nat) : Xspi := if d = 0 then b.dev0 else b.dev1

/-- The boot state with a device rewritten. -/
def modDev (b : BootSt) (d : Nat) (f : Xspi → Xspi) : BootSt :=
  if d = 0 then { b with dev0 := f b.dev0 } else { b with dev1 := f b.dev1 }

/-- Bytes of a device; NOR flash that nothing has programmed reads 0xFF (log 8, DESIGN CHOICE). -/
def devBytes (x : Xspi) (o n : Nat) : List Byte := (List.range n).map fun i => Tab.get 0xFF#8 x.mem (o + i)

/-- A little-endian field of a device. -/
def devField (b : BootSt) (d o n : Nat) : Nat := leNat (devBytes (getDev b d) o n)

/-- First byte of the trailer sector (R347). -/
def trailerAt : Nat := 1023 * 65536

/-- Largest image (R347). -/
def imageMax : Nat := 67043328

/-- STAGE_SEQ of a slot's trailer, none when the trailer is invalid (R347, R350 check 1). -/
def trailerSeq (b : BootSt) (d : Nat) : Option Nat :=
  let l := devBytes (getDev b d) trailerAt 64
  let seq := leAt l 4 4
  let len := leAt l 8 4
  if leAt l 0 4 = 0x58565452 ∧ leAt l 60 4 = (crc32c (l.take 60)).toNat ∧ seq ≠ 0 ∧ seq ≠ 0xFFFFFFFF ∧
      8192 ≤ len ∧ len ≤ imageMax ∧ len % 4096 = 0 then some seq else none

/-- Header checks of an image given by its fields (Table 15.1, R350 check 3). -/
def headerFields (magic format len comps want : Nat) : Bool :=
  magic == 0x58564657 && format == 1 && len == want && decide (1 ≤ comps) && decide (comps ≤ 32)

/-- Check 3 of R350 on a slot. -/
def headerOk (b : BootSt) (d : Nat) : Bool :=
  headerFields (devField b d 0 4) (devField b d 4 2) (devField b d 20 4) (devField b d 24 4) (devField b d (trailerAt + 8) 4)

/-- The fuses as this boot reads them: a key slot with bad parity is treated as revoked (Table 15.3, 0x11). -/
def fuseNow (s : State) : Fuse := { s.fuse with keyRevoked := s.fuse.keyRevoked ||| s.boot.badKeys }

/-- A key slot can verify: programmed and not revoked (R349). -/
def keyUsable (f : Fuse) (k : Nat) : Bool := decide (k < 4) && bit f.keyPresent k && !bit f.keyRevoked k

/-- Entry `i` of a component table that begins at byte 256: TYPE, OFFSET, LENGTH and SHA-384. -/
def compEntry (tab : List Byte) (i : Nat) : Nat × Nat × Nat × List Byte :=
  (leAt tab (64 * i) 4, leAt tab (64 * i + 4) 4, leAt tab (64 * i + 8) 4, slice tab (64 * i + 16) 48)

/-- The components of an image with `n` of them. -/
def comps (tab : List Byte) (n : Nat) : List (Nat × Nat × Nat × List Byte) := (List.range n).map (compEntry tab)

/-- Every component's SHA-384 equals its entry, and each of types 1 to 5 is there exactly once (R348, R350 check 5). -/
def compsOk (img : List Byte) : Bool :=
  let cs := comps (slice img 256 2048) (min 32 (leAt img 24 4))
  cs.all (fun c => decide (c.2.1 + c.2.2.1 ≤ img.length) && Config.sha384 (slice img c.2.1 c.2.2.1) == c.2.2.2) &&
    [1, 2, 3, 4, 5].all fun t => (cs.filter fun c => c.1 == t).length == 1

/-- Check 4 of R350: the key in the signature block is the one that its fused slot holds, and is not revoked. -/
def keyOk (b : Fuse) (img : List Byte) : Bool :=
  let k := leAt img 18 1
  keyUsable b k && Config.sha384 (slice img (img.length - 4096) 97) == Config.keyHash k

/-- Check 5 of R350: the signature over everything before its block, and the components. -/
def signedOk (img : List Byte) : Bool :=
  let n := img.length - 4096
  Config.ecdsaOk (slice img n 97) (Config.sha384 (img.take n)) (slice img (n + 128) 96) && compsOk img

/-- The image that a slot holds, as long as its trailer says. -/
def slotImage (b : BootSt) (d : Nat) : List Byte := devBytes (getDev b d) 0 (devField b d (trailerAt + 8) 4)

/-- Checks 4 to 6 of R350 on a slot's image, in order: the code of the first that fails, 0 when they pass. -/
def imageCheck (s : State) (d : Nat) : Nat :=
  let img := slotImage s.boot d
  if !keyOk (fuseNow s) img then 0x50
  else if !signedOk img then 0x51
  else if devField s.boot d 16 2 < s.fuse.svn then 0x52
  else 0

/-! ### Candidates -/

/-- The slots in candidate order (R351): after power-on by descending STAGE_SEQ, an invalid trailer last; after a device
warm reset BOOT_NEXT first. -/
def candOrder (s : State) : List Nat :=
  if s.rst.cause = 1 then
    match trailerSeq s.boot 0, trailerSeq s.boot 1 with
    | some a, some b => if a < b then [1, 0] else [0, 1]
    | none, some _ => [1, 0]
    | _, _ => [0, 1]
  else [s.boot.next, 1 - s.boot.next]

/-- The candidate under way: the first not yet failed. -/
def candidateSlot (s : State) : Option Nat := (candOrder s).find? fun d => !s.boot.tried.contains d

/-- A BOOT_EVT bit is set, with its generic record: severity error for WP_HIT and FLASH_ERR. Each protected write and each fuse update writes its
record, whether or not the bit was clear (R356, R357). -/
def setBootEvt (s : State) (b inst : Nat) : State :=
  let sev := if b = 0 ∨ b = 5 then 3 else 1
  let old := s.boot.evt
  if b = 0 ∨ b = 2 ∨ b = 3 then genericEv { s with boot := { s.boot with evt := setBit old b } } sev 0xC inst b 0x200080 (setBit old b)
  else raiseEvt s old b (fun s v => { s with boot := { s.boot with evt := v } }) sev 0xC inst 0x200080

/-- The eight PF0 locks are released (R298, R354). -/
def freeLocks (s : State) : State :=
  (List.range 8).foldl (fun s n => modMbx s (.pf0 n) fun m => { m with owner := 0 }) s

/-- The boot stops (R354). -/
def stopBoot (s : State) (code : Nat) : State :=
  freeLocks { s with boot := { s.boot with stopped := true, code := code } }

/-- The boot goes on to a phase with no finding. -/
def toPhase (s : State) (p : Nat) : State :=
  { s with boot := { s.boot with phase := p, code := if p = 8 then 0x80 else 0 } }

/-- Both devices are initialised at the start of phase 3 (R346), and the next candidate is read. -/
def enterRead (s : State) : State :=
  let on := fun (x : Xspi) => { x with present := true, octal := true }
  let fresh := s.boot.tried.isEmpty
  let b := if fresh then modDev (modDev s.boot 0 on) 1 on else s.boot
  toPhase { s with boot := b } 3

/-- A slot's registers show what its device holds (R355). -/
def showSlot (s : State) (d result : Nat) : State :=
  let b := s.boot
  let info : SlotInfo := { result := result, key := devField b d 18 1, svn := devField b d 16 2, ver := devField b d 8 4
                           seqNo := (trailerSeq b d).getD 0 }
  { s with boot := { b with slots := Tab.set {} b.slots d info } }

/-- A slot not read in this boot shows result 0xFF beside its trailer's STAGE_SEQ (R355). -/
def showOther (s : State) (d : Nat) : State :=
  let b := s.boot
  { s with boot := { b with slots := Tab.upd {} b.slots d fun x => { x with seqNo := (trailerSeq b d).getD 0 } } }

/-- A candidate fails (R351): the next one is read from phase 3, or the boot stops. -/
def failCandidate (s : State) (d code : Nat) : State :=
  let s := if code = 0x33 then { s with boot := modDev s.boot d fun x => { x with present := false, octal := false } } else s
  let s := showSlot s d code
  let s := { s with boot := { s.boot with tried := s.boot.tried ++ [d], lastFail := code, fellBack := true, slot := 3, fwVer := 0 } }
  let s := setBootEvt s 1 d
  match candidateSlot s with
  | some _ => enterRead s
  | none => stopBoot s 0x53

/-- A boot is under way: not held, stopped, ready or ended by a power loss or a thermal shutdown. -/
def booting (s : State) : Bool :=
  !s.pins.porHeld && !s.ckm.stopped && !s.boot.ready && !s.boot.stopped && s.plp.phase != 2 && !s.thm.latch

/-- Whether a candidate can fail with a code now (R350, R351): what the XV8 computes from the device must bear it out. -/
def canFail (s : State) (d code : Nat) : Bool :=
  let b := s.boot
  if b.phase = 3 then
    (code == 0x31 && (trailerSeq b d).isNone) || code == 0x33 ||
      (code == 0x32 && (trailerSeq b d).isSome && !headerOk b d)
  else if b.phase = 5 then
    code == imageCheck s d && code != 0
  else decide (6 ≤ b.phase) && decide (b.phase ≤ 8) && code == 0x8F

/-- BOOT_CANDIDATE_FAIL (R351). -/
def execBootCandidateFail (code : Nat) (s : State) : Res :=
  match candidateSlot s with
  | none => .next s
  | some d => if booting s ∧ canFail s d code then .next (failCandidate s d code) else .next s

/-! ### The phases -/

/-- POWER_ON (R352): power-on reset ends and phase 1 begins, with cause 1. -/
def execPowerOn (s : State) : Res :=
  if s.pins.porHeld then
    .next { s with
      pins := { s.pins with porHeld := false, testEn := false, railBad := 0 }
      tap := { s.tap with floating := false, holding := false }
      rst := { s.rst with cause := 1, idleNs := s.nowNs }
      boot := { s.boot with phase := 1, startNs := s.nowNs } }
  else .next s

/-- The core source and every core PLL are stable (R330). -/
def clocksUp (s : State) : Bool := corePlls.all fun p => (Tab.get {} s.ckm.plls p).stable

/-- BOOT_PWRFAIL_RELEASE (R250): PWRFAIL_N goes high while the boot waits in phase 2 or before it. -/
def execBootPwrfailRelease (s : State) : Res :=
  if s.plp.phase = 3 ∨ (s.pins.porHeld ∧ s.plp.pwrfail) then
    .next { s with plp := { s.plp with phase := 0, pwrfail := false } }
  else .next s

/-! ### Channel training -/

/-- Lower bound of a controller-die band in 0.25 °C (R163). -/
def bandLow : Nat → Int
  | 0 => -10000
  | 1 => 160
  | 2 => 280
  | _ => 360

/-- The band at a temperature from a band in force: entered at its lower bound, left downward below that bound less 3 °C (R163). -/
def bandAt (cur : Nat) (t : Int) : Nat :=
  let up := ((List.range 4).filter fun b => decide (bandLow b ≤ t)).length - 1
  if cur < up then up else ((List.range (cur + 1)).filter fun b => decide (bandLow b - 12 ≤ t)).length - 1

/-- The band due for a channel: from the hottest valid sensor of its quadrant die (R163). -/
def bandDue (s : State) (ch : Nat) : Nat :=
  let cur := (getChan s ch).band
  match ((dieSens (1 + chQuad ch)).filter fun k => !(getSens s k).broken).map fun k => (getSens s k).temp with
  | [] => cur
  | t :: l => bandAt cur (maxI l t)

/-- The volumes of a channel by number: up to four on each CE# line, those on CE1_N from 4 on (R159). -/
def volsOf (c : ChanFound) : List (Nat × VolFound) :=
  let num := fun (o : Nat) (l : List VolFound) => (List.range (min 4 l.length)).zipWith (fun i v => (o + i, v)) l
  num 0 c.ce0 ++ num 4 c.ce1

/-- The qualification entry of a volume: whether it states an internal retimer (R158, R161). -/
def qualEntry (p : ParamPage) : Option Bool := (Config.qualTable.find? fun e => e.1 == p.mfr && e.2.1 == p.dev).map fun e => e.2.2.1

/-- The geometries found, by flash target number (R10, R160). -/
def geoms (cs : List ChanFound) : List Geom :=
  (sortBy (fun a b => decide (a.ch < b.ch)) cs).flatMap fun c => (volsOf c).filterMap fun v => v.2.page.map ParamPage.geo

/-- The device geometry: the one that most volumes report, and of several that of the lowest flash target (R160). -/
def deviceGeom (cs : List ChanFound) : Option Geom :=
  let l := geoms cs
  l.foldl (fun acc g => match acc with
    | none => some g
    | some a => if l.count a < l.count g then some g else acc) none

/-- A volume is excluded at initialisation (R157, R158, R160). -/
def volExcluded (dev : Option Geom) (v : VolFound) : Bool :=
  match v.page with
  | none => true
  | some p => !p.lacks.isEmpty || (qualEntry p).isNone || p.geo.pageBytes != 16384 || p.geo.oobBytes != 2048 || p.geo.planes != 4 ||
      decide (4 < p.geo.luns) || decide (16384 < p.geo.blocks) || dev != some p.geo

/-- The loading rate of a channel, as a rate code (Table 7.2). -/
def loadingRate (l : List (Nat × VolFound)) : Nat :=
  if l.length ≤ 4 then 5 else if l.all fun v => (v.2.page.bind qualEntry).getD false then 4 else 3

/-- The rate that training settles on, from a rate code downwards, and the volumes that pass it (R164): each rate at which a volume fails
gives way to the next lower one, and a volume that fails at 800 MT/s is excluded. -/
def settleRate {α : Type} (fails : α → List Nat) : Nat → List α → Nat × List α
  | 0, l => (0, l)
  | r + 1, l =>
    let ok := l.filter fun v => !(fails v).contains (r + 1)
    if ok.length = l.length then (r + 1, l) else if r = 0 then (1, ok) else settleRate fails r l

/-- Volumes that fail at every rate from a code down to 800 MT/s hold no other volume back (R164): they are excluded first. -/
def trainRate {α : Type} (fails : α → List Nat) (start : Nat) (l : List α) : Nat × List α :=
  settleRate fails start (l.filter fun v => (List.range start).any fun r => !(fails v).contains (r + 1))

/-- A channel's volume as training leaves it (R159, R160). -/
def foundVol (s : State) (kept : List Nat) (v : Nat × VolFound) : Vol :=
  let p := v.2.page
  { present := true, excluded := !kept.contains v.1, retiming := (p.bind qualEntry).getD false, luns := min 4 ((p.map fun p => p.geo.luns).getD 0)
    temp := v.2.temp.getD 0, tempValid := v.2.temp.isSome, mfr := (p.map ParamPage.mfr).getD 0, dev := (p.map ParamPage.dev).getD 0
    lastZqNs := s.nowNs, lastTempNs := s.nowNs }

/-- A channel that has not completed by the bound of the phase is taken as unused, with an event (R162), to which the manual gives no code (log 4,
DESIGN CHOICE). -/
def missChan (s : State) (ch : Nat) : State :=
  logEv { s with freeCtr := s.freeCtr + 1 } 2 (src 9 ch) (0x9000 + Config.openCode s.freeCtr % 0x1000) []

/-- A channel as training leaves it (R160 to R164, Table 7.3): its volumes, its rate, the timing set of the band in force, WP_N. -/
def trainChan (dev : Option Geom) (s : State) (c : ChanFound) : State :=
  let vs := volsOf c
  let start := min s.media.rateCap (loadingRate vs)
  let (rate, pass) := trainRate (fun v => v.2.fails) start (vs.filter fun v => !volExcluded dev v.2)
  let kept := pass.map Prod.fst
  let ok := c.completed && !kept.isEmpty
  let b := bandDue s c.ch
  let s := modChan s c.ch fun x => { x with
    trained := ok, rate := if ok then rate else 0, downgraded := ok && decide (rate < start), wp := !ok
    band := b, setUsed := b, timing := if ok then [b] else []
    vols := vs.foldl (fun t v => Tab.set {} t v.1 (foundVol s kept v)) [] }
  let s := if ok && decide (rate < start) then setFchEvt s c.ch 1 1 else s
  let s := if decide (kept.length < vs.length) then setFchEvt s c.ch 5 1 else s
  if c.completed then s else missChan s c.ch

/-- LUNs in volumes that are not excluded (IDT_MEDIA0). -/
def countLuns (s : State) : Nat :=
  sumBy (fun c => sumBy (fun e => if e.2.present && !e.2.excluded then e.2.luns else 0) (getChan s c).vols) allChs

/-- Lowest rate among the channels in use, MT/s (IDT_MEDIA1). -/
def lowestMts (s : State) : Nat :=
  (((allChs.filter fun c => (getChan s c).trained).map fun c => codeMts (getChan s c).rate).min?).getD 0

/-- The channels are trained (R162); the device geometry and what they found are reported (IDT_MEDIA0, IDT_MEDIA1). -/
def trainAll (s : State) (cs : List ChanFound) : State :=
  let cs := cs.filter fun c => decide (c.ch < 128)
  let dev := deviceGeom cs
  let s := cs.foldl (trainChan dev) s
  let inUse := fun (c : Nat) => ((getChan s c).vols.filter fun e => e.2.present && !e.2.excluded).length
  { s with media := { s.media with
    lunTbit := (dev.map Geom.tbit).getD 0, lunPerVol := (dev.map Geom.luns).getD 0, lunBlocks := (dev.map Geom.blocks).getD 0
    volPerCh := (allChs.map inUse).foldl max 0, lunCount := countLuns s, busMts := lowestMts s } }

/-- The pool is built (R214): every index pushed, the head cache filled to its refill level. -/
def buildPool (s : State) : State :=
  { s with bpm := { s.bpm with ready := true, head := 4096, stack := poolSize - 4096, alloc := [], withdrawn := [], spoilt := [], lost := [], charges := []
                               rsvds := [] } }

/-- How phase 8 ends for what discovery finds (R353). -/
def phase8 (s : State) (m : MediaFinding) : State :=
  match m.area with
  | .dataOnly => stopBoot s 0x84
  | .blank => toPhase (finishMedia (format s m)) 9
  | .found =>
    if !s.formatted ∨ !m.keyStoreOk then stopBoot s 0x84
    else toPhase (finishMedia (recover s m)) 9

/-- What a finding of firmware or ROM does in a phase (Table 15.3): a stop. -/
def finding (s : State) (code : Nat) : State :=
  let p := s.boot.phase
  if (p = 1 ∧ code = 0x10) ∨ (p = 2 ∧ code = 0x22 ∧ !clocksUp s) ∨ (p = 4 ∧ code = 0x40) ∨
      (p = 6 ∧ (code = 0x60 ∨ code = 0x61)) ∨ (p = 7 ∧ code = 0x70) ∨ (p = 8 ∧ code = 0x84) then stopBoot s code
  else s

/-- A phase ends as it should; what it needs must hold (Table 15.2). -/
def phaseDone (s : State) : State :=
  let b := s.boot
  match b.phase with
  | 1 => toPhase { s with cip := { s.cip with hukOk := true } } 2
  | 2 => if clocksUp s ∧ !s.plp.pwrfail then enterRead s else s
  | 3 => match candidateSlot s with
    | some d => if (trailerSeq b d).isSome ∧ headerOk b d ∧ (getDev b d).present then toPhase (showOther (showSlot s d 0) (1 - d)) 4 else s
    | none => s
  | 4 => toPhase { s with ckm := { s.ckm with gEn := clrBit s.ckm.gEn 7 } } 5
  | 5 => match candidateSlot s with
    | some d =>
      if imageCheck s d = 0 then
        toPhase { s with boot := { b with slot := d, fwVer := devField b d 8 4, svnPend := devField b d 16 2
                                          revokePend := revokes (devField b d 19 1) (devField b d 18 1) } } 6
      else s
    | none => s
  | 6 => toPhase (buildPool s) 7
  | _ => s

/-- Phase 1 ends with fuse fields that failed parity (0x11): key slots, and the HUK. -/
def fusesRead (s : State) (bad : Nat) (huk : Bool) : State :=
  let t := toPhase { s with cip := { s.cip with hukOk := huk } } 2
  { t with boot := { t.boot with code := 0x11, badKeys := bad % 16 } }

/-- Boot-flash devices that did not answer their SFDP read, or do not support R346, are absent. -/
def flashFound (s : State) (absent : List Nat) : State :=
  { s with boot := absent.foldl (fun b d => if d < 2 then modDev b d fun x => { x with present := false, octal := false } else b) s.boot }

/-- The time of a phase is added to BOOT_PHTIMEp. -/
def addTime (s : State) (p us : Nat) : State :=
  { s with boot := { s.boot with times := Tab.upd 0 s.boot.times p fun t => satAdd 0xFFFFFFFF t us } }

/-- The die-to-die links are trained by the end of phase 5, which starts the quadrants' processors over them (R8; log 127, DEDUCED): `bad`
counts the failed lanes of each that do not pass. -/
def trainLinks (s : State) (bad : List Nat) : State :=
  (List.range 4).foldl (fun s q => trainLink s q (nth 0 bad q)) s

/-- BOOT_PHASE_DONE (R352). -/
def execBootPhaseDone (us : Nat) (r : PhaseResult) (s : State) : Res :=
  let p := s.boot.phase
  if !booting s ∨ 9 ≤ p then .next s
  else
    let t := match r with
      | .done => phaseDone (if p = 5 then trainLinks s [] else s)
      | .fuses bad huk => if p = 1 then fusesRead s bad huk else s
      | .flash absent => if p = 3 then phaseDone (flashFound s absent) else s
      | .links bad => if p = 5 then phaseDone (trainLinks s bad) else s
      | .finding c => finding s c
      | .channels cs =>
        if p = 7 then
          let t := trainAll s cs
          if allChs.any fun c => (getChan t c).trained then toPhase t 8 else stopBoot t 0x70
        else s
      | .media m => if p = 8 then
          let t := phase8 s m
          { t with plp := { t.plp with recMs := min 0xFFFF (us / 1000) } }
        else s
    if t.boot.phase = p ∧ !t.boot.stopped then .next s else .next (addTime t p us)

/-! ### READY -/

/-- Commits that wait from before READY, in commit order (R46): each is held valid again in its turn, and every task register set
whose turn has then come is captured (R51). -/
def captureHeld : List (Port × Nat × Nat) → State → Res
  | [], s => .next s
  | (p, fn, k) :: t, s =>
    let s := if hasTenant s fn then modCas s p fn fun c => { c with valid := c.valid ++ [k] } else s
    match captureAll p fn 16 s with
    | .next s => captureHeld t s
    | o => o

/-- The commits held before READY wait again, until `captureHeld` comes to each. -/
def liftHeld (s : State) : State :=
  s.heldCommits.foldl (fun s h => modCas s h.1 h.2.1 fun c => { c with valid := c.valid.filter (· != h.2.2) }) { s with heldCommits := [] }

/-- Commits to a VF whose tenant does not exist are discarded once READY is 1 (R55). -/
def dropOrphans (s : State) (p : Port) : State :=
  (getPort s p).vfs.foldl (fun s e =>
    if hasTenant s e.1 then s
    else modCas s p e.1 fun c => { c with trs := c.valid.foldl clearCommit c.trs, valid := [] }) s

/-- BOOT_READY (R46, R298, R351, phase 9 of Table 15.2). -/
def execBootReady (s : State) : Res :=
  if booting s ∧ s.boot.phase = 9 then
    let ms := (s.nowNs - s.boot.startNs) / 1000000
    let s := { s with
      boot := { s.boot with ready := true, code := 0x90, next := s.boot.slot }
      rst := { s.rst with idleNs := s.nowNs } }
    let s := logEv (freeLocks s) 1 0 0x0005 (leBytes 4 s.boot.fwVer ++ leBytes 1 s.rst.cause ++ leBytes 1 s.boot.slot ++
      leBytes 2 0 ++ leBytes 4 ms)
    let s := dropOrphans (dropOrphans s .a) .b
    captureHeld s.heldCommits (liftHeld s)
  else .next s

/-- FUSE_UPDATE (R356): after READY the counter is raised to the running image's SVN and the key slots it names are
revoked. -/
def execFuseUpdate (s : State) : Res :=
  if !s.boot.ready ∨ s.ckm.stopped ∨ s.pins.porHeld then .next s
  else
    let b := s.boot
    let adv := decide (s.fuse.svn < b.svnPend)
    let rev := b.revokePend &&& (15 - (s.fuse.keyRevoked &&& 15))
    let f := { s.fuse with svn := max s.fuse.svn b.svnPend, keyRevoked := s.fuse.keyRevoked ||| b.revokePend }
    let s := { s with fuse := f, boot := { b with revokePend := 0 } }
    let s := if adv then setBootEvt s 2 b.slot else s
    .next (if rev = 0 then s else setBootEvt s 3 b.slot)

/-! ### Reading the boot flash -/

/-- BOOT_FLASH_READ (R363): BOOT_RD_CTL.GO reads 64 B at BOOT_RD_ADDR. -/
def execBootFlashRead (p : Port) (s : State) : Res :=
  regWrite p 0 s fun s =>
    let b := s.boot
    let d := getDev b b.rdDev
    let err := if d.busy then 2 else if !d.present then 1 else 0
    .next { s with boot := { b with
      rdDone := true, rdErr := err, rdData := if err = 0 then devBytes d b.rdAddr 64 else b.rdData } }

end Sys2Proof.Machine
end

