-- ==== Sys2Proof/Machine/Blocks.lean ====
section
/-! DEFINITION. What lies where in flash, and what becomes of blocks: the version at a place, retirement and spares
(R202 to R205), the relocations that triggers ask for (R196), and the erase of blocks set free. -/

namespace Sys2Proof.Machine

/-! ### What lies where -/

/-- The staging extent whose page a block and page hold, released or not, with the piece's number (R192): its data stays until the set is erased,
which waits for the reads dispatched to it (R16). -/
def extHeld (s : State) (blk page : Nat) : Option (Nat × Nat) :=
  s.media.exts.findSome? fun e =>
    let bs := (getSet s e.2.set).blks
    if e.2.page == page && bs.contains blk then some (e.1, bs.idxOf blk) else none

/-- The staging extent in use whose page a block and page hold, with the piece's number. -/
def extAt (s : State) (blk page : Nat) : Option (Nat × Nat) := (extHeld s blk page).filter fun e => !(getExt s e.1).released

/-- The zone and member that hold a block: tenant, zone, member (R110). -/
def memberAt (s : State) (blk : Nat) : Option (Nat × Nat × Nat) :=
  s.zones.findSome? fun e =>
    let i := e.2.members.findIdx fun m => m.blk == some blk
    if i < e.2.members.length then some (e.1 / 4194304, e.1 % 4194304, i) else none

/-- The version whose sector lies at a place of a zone's data member, with its part (R112). -/
def zoneVerAt (s : State) (t z m page plane sector : Nat) : Option (Nat × Nat) :=
  let ten := tenD s t
  let o := page * (ten.w * 65536) + m * 65536 + plane * 16384 + sector * 4096
  (current s t z (o / ten.blk)).map fun v => (v.1, o % ten.blk / 4096)

/-- The version whose sector lies at a place of a staging extent's piece, with its part (R192). -/
def extVerAt (s : State) (e piece plane sector : Nat) : Option (Nat × Nat) :=
  let pos := piece * 16 + plane * 4 + sector
  let l := (getExt s e).secs
  match l[pos]? with
  | some 0 => none
  | some v => if piece < 16 then some (v, pos - l.idxOf v) else none
  | none => none

/-- The version whose sector lies at a place of a conventional topcoat block, with its part (R125). -/
def convVerAt (s : State) (blk page plane sector : Nat) : Option (Nat × Nat) :=
  let pos := page * 16 + plane * 4 + sector
  s.vers.findSome? fun e => match e.2.loc with
    | .cv b p => if b = blk ∧ p ≤ pos ∧ pos < p + subs (tenD s e.2.tenant) then some (e.1, pos - p) else none
    | _ => none

/-- The version whose sector lies at a place in flash: 0 for parity, pad and what nobody needs any more. -/
def secAt (s : State) (blk page plane sector : Nat) : SecReq :=
  let v := match extAt s blk page with
    | some (e, i) => extVerAt s e i plane sector
    | none => match memberAt s blk with
      | some (t, z, m) => if m < (tenD s t).w then zoneVerAt s t z m page plane sector else none
      | none => convVerAt s blk page plane sector
  { plane := plane, sector := sector, ver := (v.getD (0, 0)).1, sub := (v.getD (0, 0)).2 }

/-- The sixteen sectors of a multi-plane page. -/
def pageSecs (s : State) (blk page : Nat) : List SecReq :=
  (List.range 16).map fun i => secAt s blk page (i / 4) (i % 4)

/-- A block holds live data: a current location lies in it. -/
def holdsLive (s : State) (b : Nat) : Bool :=
  (memberAt s b).isSome || s.media.convs.any (fun e => e.1 == b) ||
    s.media.sets.any fun e => e.2.blks.contains b && decide (e.2.released < e.2.pages)

/-! ### Relocations asked for -/

/-- Precedence of a relocation (Table 8.7); the copy into a replacement goes with retention. -/
def RelWhy.order : RelWhy → Nat
  | .retention => 1
  | .replace => 1
  | .wear => 2
  | .cleaning => 3

/-- A relocation of a block is asked for; one that is queued already takes the higher precedence of the two triggers (R196). That of a
conventional topcoat block moves its live versions (R197). -/
def askReloc (s : State) (b : Nat) (why : RelWhy) : State :=
  match s.media.relocs.find? fun e => e.2.src == b && e.2.ext.isNone with
  | some e => if e.2.tgt.isNone ∧ why.order < e.2.why.order then modReloc s e.1 fun x => { x with why := why } else s
  | none =>
    if !holdsLive s b then s
    else
      let (s, id) := newId s
      modReloc s id fun _ => { why := why, src := b, logical := s.media.convs.any fun e => e.1 == b }

/-! ### Spares -/

/-- Some group is below SPARE_LOW_PCT (HLT_SUMMARY). -/
def spareLow (s : State) (g : Nat) : Bool :=
  decide (Tab.get 0 s.media.spareRem g * 100 < s.hlt.spareLowPct * Tab.get 0 s.media.spareInit g)

/-- A HLT_EVT bit is set, with no generic record of its own (R210, R381). -/
def setHltBit (s : State) (b : Nat) : State :=
  if bit s.hlt.evt b then s
  else
    let s := { s with hlt := { s.hlt with evt := setBit s.hlt.evt b } }
    if bit s.hlt.evtEn b then firePf0 s 11 else s

/-- Undercoat blocks in service (HLT_UC_BLOCKS). -/
def ucInService (s : State) : Nat := roleCount s .undercoat fun _ => true

/-- Undercoat blocks in service fall below what the flush area, D_max and one free set per quadrant need (R205). -/
def ucShort (s : State) : Bool :=
  decide (ucInService s < s.plp.emergReq * 128 + cdiv (s.plp.dmaxMib * 17) (16 * 8) + 4 * 17)

/-- DEVICE_READ_ONLY is entered when every group's spares are gone or the undercoat falls short (R205): always recorded. -/
def checkReadOnly (s : State) : State :=
  if !s.hlt.readOnly && s.formatted &&
      ((List.range 16).all (fun g => Tab.get 0 s.media.spareRem g == 0) || ucShort s) then
    let s := { s with hlt := { s.hlt with readOnly := true, evt := setBit s.hlt.evt 0 } }
    let s := genericEv s 1 0xE 0xFFF 0 0x300004 s.hlt.evt
    let s := if bit s.hlt.evtEn 0 then firePf0 s 11 else s
    let s := noticePf0 s 2 0 0 0
    (tenants s).foldl (fun s e => noticeTenant s e.1 2 0 0 0) s
  else s

/-- A group loses `n` spares; the thresholds it crosses are recorded (R203). -/
def loseSpares (s : State) (g n : Nat) : State :=
  let was := Tab.get 0 s.media.spareRem g
  let low := spareLow s g
  let s := { s with media := { s.media with spareRem := Tab.upd 0 s.media.spareRem g (· - n) } }
  let s := if !low && spareLow s g then setHltEvt s 2 g 1 else s
  let s := if was ≠ 0 ∧ Tab.get 0 s.media.spareRem g = 0 then setHltEvt s 1 g 1 else s
  checkReadOnly s

/-- A role on a channel is filled by a spare of its group (R202): one of the channel itself, or, by an exchange, a free
undercoat block of the channel whose place a spare of another channel takes. An undercoat block may itself lie on any channel of the group.
Without a free undercoat block the request waits for one. -/
def fillRole (s : State) (c : Nat) (r : Role) : State :=
  let g := chGrp c
  let give := fun (s : State) (b : Nat) (r : Role) => modBlk s b fun f => { f with role := some r, ready := decide (r = .pool) }
  if Tab.get 0 s.media.spareRem g = 0 ∨ r = .spare ∨ r = .retired then s
  else match chBlk s c .spare with
    | some b => loseSpares (give s b r) g 1
    | none =>
      match ((List.range 8).map fun i => g * 8 + i).findSome? fun d => chBlk s d .spare with
      | none => s
      | some b =>
        if r = .undercoat then loseSpares (give s b .undercoat) g 1
        else match chBlk s c .undercoat with
          | some u => loseSpares (give (give s u r) b .undercoat) g 1
          | none => { s with media := { s.media with waitRoles := s.media.waitRoles ++ [(c, r, 0)] } }

/-- The requests that `f` picks out and whose RETIRE record is durable are made, in order (R202, R265). -/
def fillWaiting (s : State) (f : Nat → Bool) : State :=
  let due := fun (e : Nat × Role × Nat) => f e.1 && decide (e.2.2 ≤ s.plp.jSeq)
  (s.media.waitRoles.filter due).foldl (fun s e => fillRole s e.1 e.2.1)
    { s with media := { s.media with waitRoles := s.media.waitRoles.filter fun e => !due e } }

/-- A role on a channel is to be filled once the RETIRE record, staged now, is durable (R265). -/
def askRole (s : State) (c : Nat) (r : Role) : State :=
  { s with media := { s.media with waitRoles := s.media.waitRoles ++ [(c, r, s.plp.jSeq + 1)] } }

/-- JOURNAL_PAGE_PROGRAM (R265): the records staged become durable with pass status; otherwise they stay staged for the
next page. -/
def execJournalPageProgram (pass : Bool) (s : State) : Res :=
  if s.plp.jRecs = 0 ∨ !s.boot.ready ∨ s.ckm.stopped ∨ paused s ∨ !pass then .next s
  else .next (fillWaiting (journalDone { s with plp := { s.plp with jRecs := 0, jSeq := s.plp.jSeq + 1 } }) fun _ => true)

/-- A block is retired for a row of Table 8.9 (R202): counted, recorded but for a factory bad block, and the role `r` that is short of a
block from now on to be filled: its own, or the relocation reserve that gave its replacement (R195, R197). -/
def retireAs (s : State) (b reason : Nat) (r : Role) : State :=
  if roleOf s b = .retired then s
  else
    let s := modBlk s b fun f => { f with
      role := some .retired, failed := true, inUse := false, ready := false, retireWhy := reason }
    let s := mcnt s (7 + reason) 1
    let s := if reason = 1 then s
      else logEv s 2 (src 0xB (blkLun b)) 0xB003 (leBytes 6 (mediaAddr b 0 0 0) ++ leBytes 1 reason)
    let s := if r = .spare then loseSpares s (chGrp (blkCh b)) 1 else s
    checkReadOnly (askRole (stageRec s) (blkCh b) r)

/-- A block is retired, and its own role filled (R202). -/
def retireBlk (s : State) (b reason : Nat) : State := retireAs s b reason (roleOf s b)

/-- A block is to be retired once its live data has moved (R202, Table 8.9); one without live data is retired at once. -/
def condemn (s : State) (b reason : Nat) : State :=
  let s := modBlk s b fun f => { f with failed := true, retireWhy := if f.retireWhy = 0 then reason else f.retireWhy }
  if holdsLive s b then askReloc s b .retention else retireBlk s b reason

/-- A block's live data has moved: it is retired where that is due, or goes to the relocation reserve by way of its erase
(R197). -/
def releaseBlk (s : State) (b : Nat) : State :=
  let f := getBlk s b
  if f.retireWhy ≠ 0 then retireAs s b f.retireWhy .reserve
  else if roleOf s b = .retired then modBlk s b fun f => { f with inUse := false }
  else queueEr (modBlk s b fun f => { f with role := some .reserve }) b

/-! ### Data safe in flash -/

/-- A version has reached the topcoat (R15, R17): its buffers go, and it is read from there. -/
def toTopcoat (s : State) (v : Nat) (l : Loc) : State :=
  freeVer (modVer s v fun x => { x with tcSafe := true, loc := l, unrec := [] }) v

/-- Staging extents all of whose versions have moved or are needed no more are released (R124, R192, R194); `mib` of each is counted in
FOLD_MIB. -/
def releaseMoved (s : State) (mib : Nat) (es : List Nat) : State :=
  es.foldl (fun s e =>
    let x := getExt s e
    let gone := x.secs.all fun v => v == 0 || (getVer s v).tcSafe || !wanted s v
    if !x.released && x.issued && gone then mcnt (releaseExt s e) 15 mib else s) s

/-- The staging extents of a list of versions. -/
def extsOf (s : State) (vs : List Nat) : List Nat := (vs.filterMap fun v => (extOf s v).map Prod.fst).eraseDups

/-- A fold group whose wordline is safe on every member is done (R194): its blocks' current location is the topcoat, and
its source extents are released. -/
def foldDone (s : State) (id : Nat) : State :=
  let f := getFold s id
  if f.gen ≠ (getZone s f.tenant f.zone).gen then s
  else
    let es := extsOf s f.vers
    let s := f.vers.foldl (fun s v => if live s (getVer s v) then toTopcoat s v .tc else s) s
    let s := pushBufs s 9 f.bufs
    let s := { s with media := { s.media with folds := Tab.del s.media.folds id } }
    completeFua (releaseMoved s 1 es)

/-- A fold group whose wordline is safe everywhere, if it is so now. -/
def checkFold (s : State) (id : Nat) : State :=
  let f := getFold s id
  let held := heldMembers s f.tenant f.zone
  if f.todo.isEmpty && f.readsLeft == 0 && held.all fun m => match memberBlk s f.tenant f.zone m with
      | some b => (getBlk s b).safe.contains f.wl
      | none => true
  then foldDone s id else s

/-- The fold groups of a zone that are safe everywhere now are done, in wordline order. -/
def checkFolds (s : State) (t z : Nat) : State :=
  ((s.media.folds.filter fun e => e.2.tenant == t && e.2.zone == z).map Prod.fst).foldl checkFold s

end Sys2Proof.Machine
end

