-- ==== Sys2Proof/Machine/Moves.lean ====
section
/-! DEFINITION. Data on the move: what a sector read from flash does for the command, fold, relocation or patrol that
asked for it, stripe-parity rebuild (R189), poison (R198), folds (R193) and relocations (R197, R198). -/

namespace Sys2Proof.Machine

/-! ### Unrecovered and poison sectors -/

/-- Payload of an UNRECOVERED or POISON_WRITTEN record (Table 17.4): media address, tenant ‖ zone, LBA. -/
def secPayload (s : State) (blk page : Nat) (q : SecReq) : List Byte :=
  let x := getVer s q.ver
  leBytes 6 (mediaAddr blk q.plane page q.sector) ++ leBytes 2 0 ++ leBytes 4 (tz x.tenant x.zone) ++ leBytes 8 x.lba

/-- A sector is unrecovered (R190): recorded, counted, and its block marked (R200, Table 8.9). -/
def unrecSec (s : State) (r : Rd) (q : SecReq) : State :=
  let s := logEv s 3 (src 0xB (blkLun r.blk)) 0xB001 (secPayload s r.blk r.page q)
  let s := setHltBit (mcnt { s with hlt := { s.hlt with unrec := true } } 4 1) 4
  condemn (modVer s q.ver fun x => if q.ver = 0 ∨ x.unrec.contains q.sub then x else { x with unrec := x.unrec ++ [q.sub] }) r.blk 4

/-- A sector found unrecovered stays in place, and fails every later read of it, through every tier (R190). -/
def lostSec (s : State) (q : SecReq) : Bool := q.ver != 0 && (getVer s q.ver).unrec.contains q.sub

/-- A sector carries KIND 3 (R188). -/
def isPoison (s : State) (q : SecReq) : Bool := q.ver != 0 && (getVer s q.ver).poison

/-- The sector of a block that is moved without its data is written as poison (R193, R198). -/
def poisonSec (s : State) (blk page : Nat) (q : SecReq) : State :=
  if q.ver = 0 then s
  else logEv (mcnt (modVer s q.ver fun x => { x with poison := true, unrec := [] }) 7 1) 2 (src 0xB (blkLun blk)) 0xB002
    (secPayload s blk page q)

/-! ### Sectors of a command's read -/

/-- CIPHER is charged for a sector that waits for the cipher engines and passes through them (R219). -/
def useCipher (s : State) : State :=
  let (s, l) := popBufs { s with bpm := charge s.bpm kCipher 1 } 3 kCipher 1
  pushBufs s 3 l

/-- A logical block of a reader has all its sectors: it is decrypted and returned, or it fails (R90), or it waits for its tenant's key
(Table 10.6). -/
def blockDone (s : State) (t seq v : Nat) (authBad : Bool) : State :=
  match getCmd s t seq with
  | none => s
  | some c =>
    let x := getVer s v
    if c.bad.contains v then failBlock s t seq x.lba stUnrecRead
    else if keyGone s v then modCmd s t seq fun c => { c with keyWait := c.keyWait ++ [(v, authBad)] }
    else if (authBad && !x.cipherOff) || !tagOk s v then failBlock (authFail s v) t seq x.lba stAuthFail
    else
      gotBlock (decryptBlock s v) c (x.lba - pLba c.pkt) x.content

/-- A sector of a command's read is done at a tier, or will not be had. -/
def cmdSec (s : State) (t seq : Nat) (r : Rd) (q : SecReq) (tier : Nat) (ok authBad : Bool) : State :=
  let s := modCmd s t seq fun c => { c with
    tier := max c.tier tier
    ladder := if tier = 1 then max c.ladder r.tier else c.ladder
    tierBlocks := if tier = 0 then c.tierBlocks else c.tierBlocks ++ [q.ver]
    bad := if ok then c.bad else c.bad ++ [q.ver]
    todo := c.todo.filter (· != q.ver * 4 + q.sub) }
  match getCmd s t seq with
  | none => s
  | some c =>
    if c.todo.any fun x => x / 4 == q.ver then s
    else
      let s := finishReader (blockDone s t seq q.ver authBad) t seq
      sweepVers s

/-- The blocks of a command that waited for its tenant's key go on, now that the slot is loaded again (Table 10.6). -/
def keyBack (s : State) (c : Cmd) : State :=
  if c.keyWait.isEmpty then s
  else
    let s := modCmd s c.tenant c.seq fun x => { x with keyWait := [] }
    sweepVers (finishReader (c.keyWait.foldl (fun s w => blockDone s c.tenant c.seq w.1 w.2) s) c.tenant c.seq)

/-! ### Folds -/

/-- Requester of a quadrant's media processors (Table 9.3). -/
def quadReq (c : Nat) : Nat := 5 + chQuad c

/-- Buffers of a fold for the members whose passes are to be queued: 64 for a data member, 16 for a parity member (R219). -/
def foldNeed (s : State) (f : Fold) : Nat :=
  sumBy (fun m => if m < (tenD s f.tenant).w then 64 else 16) f.todo

/-- A refused charge of an internal class is counted and presented again later (Table 9.5): class, who, since when. -/
def backOff (s : State) (k id : Nat) : State :=
  let b := chargeRefused s.bpm
  { s with bpm := { b with
      retries := b.retries ++ [(k, id, s.nowNs)]
      backoff := Tab.upd 0 b.backoff (k - kFold) fun n => satAdd 0xFFFFFFFF n 1 } }

/-- The source sectors of a fold group that lie in flash are read, as class BG stream reads (R193); a group whose data is
all in buffers, or that is only pad, goes straight to its passes. -/
def foldReads (s : State) (id : Nat) : State :=
  let f := getFold s id
  let pages := groupPages (f.vers.flatMap fun v => match (getVer s v).loc with
    | .uc _ => flashPlace s v
    | _ => [])
  let s := modFold s id fun f => { f with readsLeft := sumBy (fun g => g.2.2.2.length) pages, waiting := false }
  let s := pages.foldl (fun s g => (queueRd s (.fold id) 3 id g.1 g.2.1 g.2.2.1 g.2.2.2 false).1) s
  if pages.isEmpty then pumpFolds s f.tenant f.zone else s

/-- A fold group takes its FOLD charge and its buffers and begins, or waits for the charge (R219, R222). -/
def beginFold (s : State) (id : Nat) : State :=
  let f := getFold s id
  let n := if f.vers.isEmpty then 0 else foldNeed s f
  if chargeOk s.bpm kFold n then
    let ch := ((getZone s f.tenant f.zone).members.head?.map Member.ch).getD 0
    let (s, l) := popBufs { s with bpm := charge s.bpm kFold n } (quadReq ch) kFold n
    foldReads (modFold s id fun f => { f with bufs := f.bufs ++ l }) id
  else backOff (modFold s id fun f => { f with waiting := true }) kFold id

/-- A member must take a fold group's wordline again, in its new block (R195). -/
def refold (s : State) (id m : Nat) : State :=
  let f := getFold s id
  let busy := f.waiting || f.readsLeft != 0 || !f.todo.isEmpty
  let s := modFold s id fun f => { f with todo := f.todo.filter (· != m) ++ [m] }
  if busy ∨ f.todo.contains m then s
  else if f.direct then pumpFolds s f.tenant f.zone
  else beginFold s id

/-- A sector of a fold's source has been read; one that no tier recovers is folded as poison (R193). -/
def foldSec (s : State) (id : Nat) (r : Rd) (q : SecReq) (ok : Bool) : State :=
  if !(s.media.folds.any fun e => e.1 == id) then s
  else
    let s := if ok then s else poisonSec s r.blk r.page q
    let s := modFold s id fun f => { f with readsLeft := f.readsLeft - 1 }
    let f := getFold s id
    if f.readsLeft = 0 then pumpFolds s f.tenant f.zone else s

/-! ### Relocations: copying -/

/-- A relocation goes to QLC pages: that of a topcoat block or of conventional data. -/
def relQlc (s : State) (x : Reloc) : Bool := x.logical || !(getBlk s x.src).oneBit

/-- The sectors of a logical relocation, 64 to a wordline. -/
def relSlots (s : State) (x : Reloc) : List (Nat × Nat) :=
  x.vers.flatMap fun v => (List.range (subs (tenD s (getVer s v).tenant))).map fun i => (v, i)

/-- Pad wordlines that close the windows of the last wordlines of a logical relocation, which ends at wordline `n` (R168; log 47, DESIGN
CHOICE). -/
def padWls (n : Nat) : Nat := min 2 (128 - n)

/-- All copies of a relocation are issued: a zone's fold groups that are not safe in the source are folded again into the target (R195), and a
logical relocation's last windows are closed by pad wordlines. -/
def relIssued (s : State) (id : Nat) (x : Reloc) (b : Nat) : State :=
  if x.logical then
    let n := x.base + x.count
    (List.range (padWls n)).foldl (fun s k => queueQlc s (.reloc id 1) (.reloc id 2) b (n + k) (n + k == 127) true) s
  else match memberAt s x.src with
    | none => s
    | some (t, z, m) =>
      let again := (s.media.folds.filter fun e => e.2.tenant == t && e.2.zone == z && decide (x.count ≤ e.2.wl)).map Prod.fst
      pumpFolds (again.foldl (fun s f => refold s f m) s) t z

/-- The programs of the wordline (or one-bit page) that a relocation has read are queued (R168). -/
def relPrograms (s : State) (id : Nat) : State :=
  let x := getReloc s id
  match x.tgt with
  | none => s
  | some b =>
    let wl := x.base + x.next
    let s := modReloc s id fun x => { x with next := x.next + 1 }
    let s := if relQlc s x then queueQlc s (.reloc id 1) (.reloc id 2) b wl (wl == 127) true
      else queuePg s (.reloc id 0) b wl false true
    if x.next + 1 = x.count then relIssued s id x b else s

/-- A sector of a relocation's source has been read; one that no tier recovers is written as poison (R198). -/
def relSec (s : State) (id : Nat) (r : Rd) (q : SecReq) (ok : Bool) : State :=
  if !(s.media.relocs.any fun e => e.1 == id) then s
  else
    let s := if ok then s else poisonSec s r.blk r.page q
    let s := modReloc s id fun x => { x with readsLeft := x.readsLeft - 1 }
    if (getReloc s id).readsLeft = 0 then relPrograms s id else s

/-! ### A sector is done -/

/-- A sector read for somebody ends at a tier with its data (`ok`) or without. Sectors that a command takes from tier 2 or
3, and COPY source sectors, wait for their CIPHER charge when it is refused (R219, Table 9.5). -/
def secEnd (s : State) (r : Rd) (q : SecReq) (tier : Nat) (ok authBad : Bool) : State :=
  match r.why with
  | .cmd t seq =>
    let s := if ok && decide (2 ≤ tier) then askReloc s r.blk .retention else s
    let copy := (getCmd s t seq).any fun c => cOp c == opCopy
    if ok && (decide (2 ≤ tier) || copy) && !chargeOk s.bpm kCipher 1 then
      let (s, id) := newId s
      let d : Deep := { rd := r, secs := [q], left := tier, bad := authBad, cipher := true }
      backOff { s with media := { s.media with deeps := s.media.deeps ++ [(id, d)] } } kCipher id
    else
      let s := if ok && (decide (2 ≤ tier) || copy) then useCipher s else s
      cmdSec s t seq r q tier ok authBad
  | .fold id => foldSec s id r q ok
  | .reloc id => relSec s id r q ok
  | .patrol => if ok && decide (2 ≤ tier) then askReloc s r.blk .retention else s
  | _ => s

/-! ### Stripe-parity rebuild -/

/-- A block whose sectors cannot be read as rebuild members: its LUN out of service or hung, its quadrant failed, or an erase
pending (R189). -/
def unreadable (s : State) (b : Nat) : Bool :=
  let u := getLun s (blkLun b)
  !lunOk s (blkLun b) || u.hung || (getBlk s b).eraseIntent || quadOut s (chQuad (blkCh b))

/-- The page reads for part `q` of a version as it lies now: none when it is in buffers. -/
def elsewhere (s : State) (v sub : Nat) : List (Nat × Nat × Bool × SecReq) :=
  (flashPlace s v).filter fun g => g.2.2.2.sub == sub

/-- The zone and member whose parity groups a block's sectors belong to: also of a block that a relocation has left, and that a read dispatched
to it still reads (R16). -/
def groupAt (s : State) (blk : Nat) (q : SecReq) : Option (Nat × Nat × Nat) :=
  let x := getVer s q.ver
  match memberAt s blk with
  | some p => some p
  | none => if q.ver ≠ 0 ∧ live s x ∧ x.loc = .tc then some (x.tenant, x.zone, memberOf (tenD s x.tenant) x.lba) else none

/-- The other members of a sector's parity group that have to be read (R189); none when the group is not known. -/
def partners (s : State) (blk page : Nat) (q : SecReq) : Option (List (Nat × Nat × Bool × SecReq)) :=
  match extHeld s blk page with
  | some (e, i) =>
    let x := getExt s e
    let bs := (getSet s x.set).blks
    some (((List.range 17).filter (· != i)).flatMap fun j =>
      let here := (nth 0 bs j, page, false, { plane := q.plane, sector := q.sector, ver := 0, sub := 0 : SecReq })
      if j = 16 then (if x.parity.isEmpty then [here] else [])
      else match extVerAt s e j q.plane q.sector with
        | none => if x.passed.contains j then [here] else []
        | some (v, b) => if (getVer s v).loc = .buf then [] else [(here.1, page, false, { here.2.2.2 with ver := v, sub := b })])
  | none => match groupAt s blk q with
    | none => none
    | some (t, z, m) =>
      let w := (tenD s t).w
      let k := if m < w then m / 16 else m - w
      let group := (List.range w).filter (fun j => j / 16 == k) ++ [w + k]
      some ((group.filter (· != m)).flatMap fun j => match memberBlk s t z j with
        | none => []
        | some b =>
          let here := (b, page, true, { plane := q.plane, sector := q.sector, ver := 0, sub := 0 : SecReq })
          let safe := (getBlk s b).safe.contains (page / 4)
          if w ≤ j then (if safe then [here] else [])
          else match zoneVerAt s t z j page q.plane q.sector with
            | none => if safe then [here] else []
            | some (v, i) => if (getVer s v).loc = .tc then [(b, page, true, { here.2.2.2 with ver := v, sub := i })]
              else elsewhere s v i)

/-- A sector is unrecovered, and whoever asked for it learns so (R190). -/
def loseSec (s : State) (r : Rd) (q : SecReq) : State := secEnd (unrecSec s r q) r q 4 false false

/-- A sector has been rebuilt (R188): it is recovered, unless it was found unrecovered before (R190) or carries KIND 3. -/
def rebuilt (s : State) (r : Rd) (q : SecReq) (authBad : Bool) : State :=
  if lostSec s q then loseSec s r q
  else if isPoison s q then loseSec (mcnt s 6 1) r q
  else secEnd (mcnt s 3 1) r q 3 true authBad

/-- A command's sector whose group is gone, since its block has moved on, is taken from where it lies now (R16, R189): from its buffers, or by a
read of that place. -/
def readMoved (s : State) (r : Rd) (q : SecReq) : State :=
  let x := getVer s q.ver
  match r.why, elsewhere s q.ver q.sub with
  | .cmd _ _, [] => if live s x ∧ x.hbm ∧ x.loc = .buf then secEnd s r q 1 true false else loseSec s r q
  | .cmd _ _, g :: _ =>
    if live s x ∧ (g.1, g.2.1) ≠ (r.blk, r.page) then (queueRd s r.why r.cls r.order g.1 g.2.1 g.2.2.1 [q] r.lr).1 else loseSec s r q
  | _, _ => loseSec s r q

/-- A sector goes to stripe-parity rebuild (R188, R189): at once where every other member is at hand, by reads of the
others, or it is unrecovered. -/
def startRebuild (s : State) (r : Rd) (q : SecReq) : State :=
  match partners s r.blk r.page q with
  | none => readMoved s r q
  | some l =>
    if l.any fun g => unreadable s g.1 then loseSec s r q
    else if l.isEmpty then rebuilt s r q false
    else
      let (s, id) := newId s
      let d : Deep := { rd := r, secs := [q], rebuild := true, left := l.length }
      let s := { s with media := { s.media with deeps := s.media.deeps ++ [(id, d)] } }
      l.foldl (fun s g => (queueRd s (.rebuild id) r.cls r.order g.1 g.2.1 g.2.2.1 [g.2.2.2] false).1) s

/-- Work on sectors beyond the ladder. -/
def getDeep (s : State) (id : Nat) : Option Deep := (s.media.deeps.find? fun e => e.1 == id).map Prod.snd

/-- The state without a piece of that work. -/
def dropDeep (s : State) (id : Nat) : State :=
  { s with media := { s.media with deeps := s.media.deeps.filter fun e => e.1 != id } }

/-- A member read of a rebuild is done: the rebuild ends with the last of them, or with the first that fails (R188). -/
def rebuildMember (s : State) (id : Nat) (ok authBad : Bool) : State :=
  match getDeep s id with
  | none => s
  | some d =>
    let q := nth { plane := 0, sector := 0, ver := 0, sub := 0 } d.secs 0
    if !ok then loseSec (dropDeep s id) d.rd q
    else if d.left ≤ 1 then rebuilt (dropDeep s id) d.rd q authBad
    else
      let l := s.media.deeps.map fun e => if e.1 == id then (e.1, { e.2 with left := e.2.left - 1 }) else e
      { s with media := { s.media with deeps := l } }

/-- A read that its LUN cannot answer is redirected to stripe-parity rebuild, sector by sector (R179, R206). -/
def sendRebuild (s : State) (r : Rd) : State :=
  match r.why with
  | .rebuild id => rebuildMember s id false false
  | .patrol | .calib | .verify | .check => s
  | _ => r.secs.foldl (fun s q => startRebuild s r q) s

/-- An internal read is queued, or redirected where the LUN is lost. -/
def readPage (s : State) (why : Why) (order blk page : Nat) (qlc : Bool) (secs : List SecReq) : State :=
  let r : Rd := { id := 0, why := why, cls := 3, order := order, blk := blk, page := page, qlc := qlc, secs := secs, tier := 0,
                  lr := false, ahead := 0, ovf := false, susp := false }
  if unreadable s blk then sendRebuild s r
  else (queueRd s why 3 order blk page qlc secs false).1

/-! ### Relocations: steps -/

/-- The page reads for the next wordline of a relocation. -/
def relPages (s : State) (x : Reloc) : List (Nat × Nat × Bool × List SecReq) :=
  if x.logical then
    let slots := ((relSlots s x).drop (64 * x.next)).take 64
    groupPages (slots.flatMap fun e => if (getVer s e.1).loc = .buf then [] else elsewhere s e.1 e.2)
  else if (getBlk s x.src).oneBit then [(x.src, x.next, false, pageSecs s x.src x.next)]
  else (List.range 4).map fun i => (x.src, 4 * x.next + i, true, pageSecs s x.src (4 * x.next + i))

/-- The next wordline of a relocation: its RELOC charge of 64 buffers, then its source reads (R197, R219); or its programs at once, where a failed
target left its data in buffers (R198). -/
def stepReloc (s : State) (id : Nat) : State :=
  let x := getReloc s id
  if x.count ≤ x.next ∨ x.tgt.isNone then s
  else if x.kept.contains x.next then relPrograms s id
  else if chargeOk s.bpm kReloc 64 then
    let (s, l) := popBufs { s with bpm := charge s.bpm kReloc 64 } (quadReq (blkCh (x.tgt.getD 0))) kReloc 64
    let pages := relPages s x
    let s := modReloc s id fun x => { x with
      bufs := x.bufs ++ l, readsLeft := sumBy (fun g => g.2.2.2.length) pages, waiting := false }
    if pages.isEmpty then relPrograms s id
    else pages.foldl (fun s g => readPage s (.reloc id) id g.1 g.2.1 g.2.2.1 g.2.2.2) s
  else backOff (modReloc s id fun x => { x with waiting := true }) kReloc id

/-- The first wordlines of a block that are safe without a gap. -/
def safePrefix (f : FBlk) : Nat → Nat → Nat
  | 0, n => n
  | fuel + 1, n => if f.safe.contains n then safePrefix f fuel (n + 1) else n

/-- An undercoat set takes no further extents: those not begun count as released (R192). -/
def closeSet (s : State) (i : Nat) : State :=
  modSet s i fun x => { x with released := x.released + (128 - x.pages), pages := 128 }

/-- The versions with a sector in piece `i` of an extent. -/
def pieceVers (x : Ext) (i : Nat) : List Nat := ((x.secs.drop (16 * i)).take 16).eraseDups.filter (· != 0)

/-- An extent's piece is done with. When all 17 are, its parity buffers are pushed (R218). -/
def passPiece (s : State) (e i : Nat) : State :=
  let s := modExt s e fun x => { x with passed := if x.passed.contains i then x.passed else x.passed ++ [i] }
  let x := getExt s e
  if x.passed.length = 17 then modExt (pushBufs s 2 x.parity) e fun x => { x with parity := [] } else s

/-- A piece of an extent is not programmed: what it was to hold, still in buffers, takes new places in the undercoat (R15,
R169). -/
def failPiece (s : State) (e i : Nat) : State :=
  let vs := (pieceVers (getExt s e) i).filter fun v => !(getVer s v).ucProg
  let s := modExt s e fun x => { x with secs := x.secs.map fun v => if vs.contains v then 0 else v }
  let s := passPiece s e i
  vs.foldl (fun s v =>
    if !live s (getVer s v) || (getVer s v).tcSafe then s
    else
      let s := placeUc (modVer s v fun x => { x with placed := false }) v
      match extOf s v with
      | none => s
      | some (e', _) => if (getVer s v).fua then forceVer s v else issueIfFull s e') s

/-- The pieces that wait to be programmed on a block are taken elsewhere, and the block's set is closed. -/
def leavePieces (s : State) (b : Nat) : State :=
  let ps := (getLun s (blkLun b)).pq.filterMap fun p => match p.kind with
    | .uc e i => if p.blk = b then some (e, i) else none
    | _ => none
  let s := dropPrograms s [b] []
  let s := match s.media.sets.find? fun e => e.2.blks.contains b with
    | some e => closeSet s e.1
    | none => s
  ps.foldl (fun s p => failPiece s p.1 p.2) s

/-- A block from the relocation reserve of a channel becomes a relocation target (R197). -/
def takeReserve (s : State) (b : Nat) (r : Role) (oneBit : Bool) : State :=
  allocBlk s b fun f => { f with role := some r, oneBit := oneBit }

/-- A target for the block of a relocation (R197): on its channel; for one of an undercoat set, else on another channel of the quadrant that holds
no block of the set. -/
def relTarget (s : State) (src : Nat) : Option Nat :=
  let held := ((s.media.sets.find? fun e => e.2.blks.contains src).map fun e => e.2.blks.map blkCh).getD (quadChs (chQuad (blkCh src)))
  (blkCh src :: (quadChs (chQuad (blkCh src))).filter fun c => !held.contains c).findSome? fun c => chBlk s c .reserve

/-- The positional relocation of a block starts: its target on its channel, its safe wordlines, or its pages (R195, R197). -/
def startPlain (s : State) (id : Nat) (x : Reloc) : State :=
  match relTarget s x.src with
  | none => s
  | some b =>
    let f := getBlk s x.src
    let s := if f.oneBit then leavePieces s x.src else dropPrograms s [x.src] []
    let n := if f.oneBit then
        ((s.media.sets.find? fun e => e.2.blks.contains x.src).map fun _ => f.pages).getD 0
      else safePrefix f 129 0
    let s := takeReserve s b (if f.oneBit then .undercoat else .pool) f.oneBit
    let s := modReloc s id fun x => { x with tgt := some b, count := n, next := 0 }
    if n = 0 then relIssued s id (getReloc s id) b else stepReloc s id

/-- A version lies in the staging extent or the conventional block that a logical relocation moves data from. -/
def inSource (x : Reloc) (y : Ver) : Bool :=
  match y.loc, x.ext with
  | .uc e, some e' => e == e'
  | .cv b _, none => b == x.src
  | _, _ => false

/-- The versions that a logical relocation has to move: those still needed in its source (R124). -/
def relAll (s : State) (x : Reloc) : List Nat := (s.vers.filter fun e => inSource x e.2 && wanted s e.1).map Prod.fst

/-- Where a version of conventional data goes from quadrant `q`: the lifetime group and the quadrant of its zone's hint as it stands now (R132, R133,
R134). -/
def verDest (s : State) (q v : Nat) : Nat × Nat :=
  let x := getVer s v
  let h := (getZone s x.tenant x.zone).hint
  (lifeGrp h, (hintQuad h).getD q)

/-- The relocation of conventional data starts: into the open topcoat block of its tenant, lifetime group and quadrant, or a
new one from the relocation reserve (R133, R197). It moves the versions that go where the first one goes; for the others it is asked for
again. -/
def startLogical (s : State) (id : Nat) (x : Reloc) (t q : Nat) : State :=
  match (if x.kept.isEmpty then relAll s x else x.vers) with
  | [] => modReloc s id fun x => { x with tgt := some x.src, count := 0 }
  | v :: l =>
    let d := verDest s q v
    let vs := if x.kept.isEmpty then (v :: l).filter fun w => verDest s q w == d else x.vers
    let n := cdiv (sumBy (fun v => subs (tenD s (getVer s v).tenant)) vs) 64
    let fits := s.media.convs.find? fun e =>
      e.2.tenant == t && e.2.grp == d.1 && e.2.quad == d.2 && decide (e.2.used + n ≤ 128) && e.1 != x.src && !relocating s e.1 &&
        !(getBlk s e.1).failed
    let put := fun (s : State) (b base : Nat) =>
      let l := Tab.set {} s.media.convs b { tenant := t, grp := d.1, quad := d.2, used := base + n + padWls (base + n) }
      let s := { s with media := { s.media with convs := l } }
      stepReloc (modReloc s id fun x => { x with tgt := some b, base := base, count := n, vers := vs, next := 0 }) id
    match fits with
    | some e => put s e.1 e.2.used
    | none => match (quadChs d.2).findSome? fun c => chBlk s c .reserve with
      | none => s
      | some b => put (takeReserve s b .pool false) b 0

/-- A queued relocation starts (R197). -/
def startReloc (s : State) (id : Nat) : State :=
  let x := getReloc s id
  match x.ext with
  | some e =>
    let y := getExt s e
    startLogical s id x y.tenant (getSet s y.set).quad
  | none => match s.media.convs.find? fun e => e.1 == x.src with
    | some c => startLogical s id x c.2.tenant (chQuad (blkCh x.src))
    | none => startPlain s id x

/-! ### Relocations: switch and failure -/

/-- MiB that a relocation moved, in its counter of Table 8.10. -/
def countReloc (s : State) (x : Reloc) : State :=
  let mib := x.count * (if relQlc s x then 262144 else 65536) / 1048576
  match x.why with
  | .retention => mcnt s 16 mib
  | .wear => mcnt s 17 mib
  | .cleaning => mcnt s 18 mib
  | .replace => s

/-- The switch of conventional data (R197): each version that still lies in the source is read from the target. A source that holds needed
versions still, bound for another place, is moved on. -/
def switchLogical (s : State) (x : Reloc) (b : Nat) : State :=
  let slots := relSlots s x
  let moved := (List.range slots.length).foldl (fun s i =>
    let (v, sub) := nth (0, 0) slots i
    let y := getVer s v
    if sub = 0 ∧ inSource x y ∧ live s y then toTopcoat s v (.cv b (x.base * 64 + i)) else s) s
  match x.ext with
  | some e => releaseMoved moved 0 [e]
  | none =>
    if (relAll moved x).isEmpty then releaseBlk { moved with media := { moved.media with convs := Tab.del moved.media.convs x.src } } x.src
    else askReloc moved x.src x.why

/-- The switch of a block copied as it is (R197): the target takes its place in the member map or in its set, and folds go on into it. -/
def switchPlain (s : State) (x : Reloc) (b : Nat) : State :=
  match memberAt s x.src with
  | some (t, z, m) =>
    let s := modZone s t z fun r => { r with members := modNth r.members m fun y => { y with blk := some b } }
    let s := releaseBlk s x.src
    checkFolds (pumpFolds s t z) t z
  | none =>
    let swap := fun (y : UcSet) => { y with blks := y.blks.map fun c => if c = x.src then b else c }
    let s := { s with media := { s.media with sets := Tab.mapv {} (fun _ y => swap y) s.media.sets } }
    releaseBlk s x.src

/-- A LUN rebuild ends with the last relocation of its blocks (R206). -/
def checkRebuilds (s : State) : State :=
  let l := s.hlt.rebuilds.filter fun e => s.media.relocs.any fun r => r.2.ext.isNone && blkLun r.2.src == e.1
  { s with hlt := { s.hlt with rebuilds := l } }

/-- A relocation whose every wordline is safe in its target switches and ends (R197). -/
def checkReloc (s : State) (id : Nat) : State :=
  let x := getReloc s id
  match x.tgt with
  | none => s
  | some b =>
    if x.next < x.count ∨ !((List.range x.count).all fun i => (getBlk s b).safe.contains (x.base + i)) then s
    else
      let s := countReloc s x
      let s := { s with media := { s.media with relocs := Tab.del s.media.relocs id } }
      let s := pushBufs s (quadReq (blkCh b)) x.bufs
      let s := if x.logical then switchLogical s x b else switchPlain s x b
      completeFua (checkRebuilds s)

/-- A relocation loses its target, and is to take a fresh one (R198): the wordlines whose data its buffers hold in full keep them, and are not
read again. -/
def retarget (s : State) (id : Nat) : State :=
  let x := getReloc s id
  let n := x.next - x.freed
  let s := pushBufs { s with media := { s.media with relocs := Tab.del s.media.relocs id } } (quadReq (blkCh (x.tgt.getD 0))) (x.bufs.drop (64 * n))
  let (s, id) := newId s
  modReloc s id fun _ => { why := x.why, src := x.src, ext := x.ext, logical := x.logical, bufs := x.bufs.take (64 * n), vers := x.vers
                           kept := (List.range n).map (x.freed + ·) }

/-- A destination block fails, by a pass or by its verify (R195, R198): a relocation's target is retired and its copy begins
afresh; a zone's member is copied into a replacement and retired after the swap. -/
def destinationFailed (s : State) (b : Nat) : State :=
  let s := dropPrograms (mcnt s 19 1) [b] []
  match s.media.relocs.find? fun e => e.2.tgt == some b with
  | some e =>
    let s := retarget s e.1
    if e.2.logical && e.2.base != 0 then condemn s b 2
    else retireAs { s with media := { s.media with convs := Tab.del s.media.convs b } } b 2 .reserve
  | none =>
    let s := modBlk s b fun f => { f with failed := true, retireWhy := if f.retireWhy = 0 then 2 else f.retireWhy }
    askReloc s b .replace

end Sys2Proof.Machine
end

