-- ==== Sys2Proof/Machine/Arrays.lean ====
section
/-! DEFINITION. The channel sequencers' array operations (R166 to R177): the order of starts, power tokens, reads and their
decode tiers, programs, erases, suspension, verify reads and the erased-state check. -/

namespace Sys2Proof.Machine

/-- Array operations go on: clocks run, the XV8 is out of power-on reset, and no flush has begun. -/
def alive (s : State) : Bool := !s.ckm.stopped && !s.pins.porHeld && s.plp.phase == 0

/-- What a LUN has done can be collected: the channel is not paused for retraining (R163). Operations under way when a flush begins go on
(R177). -/
def collects (s : State) (l : Nat) : Bool :=
  !s.ckm.stopped && !s.pins.porHeld && decide (s.plp.phase ≤ 1) && !(getChan s (lunCh l)).retraining

/-! ### First-try thresholds (R183 to R185) -/

/-- WHOURS and WTEMP of the sectors of a page: those of the wordline or one-bit page that holds it. -/
def stampAt (f : FBlk) (page : Nat) : Nat × Nat := Tab.get (0, 0x7F) f.stamps (if f.oneBit then page else page / 4)

/-- Elapsed time in hours of data programmed at hour `w` (R183). -/
def elapsed (s : State) (w : Nat) : Nat := opHours s - w + sumBy (fun e => if w < e.1 then e.2 else 0) s.hlt.credits

/-- Elapsed-time index of data programmed at hour `w` (Table 8.3). -/
def elapsedIdx (s : State) (w : Nat) : Nat := (elapsedEnds.takeWhile fun e => decide (e ≤ elapsed s w)).length

/-- Temperature index (Table 8.3). -/
def tempIdx (t : Int) : Nat := (min (max (t / 8 + 1) 0) 15).toNat

/-- Write-temperature index of a WTEMP. -/
def wtempIdx (w : Nat) : Nat := if w = 0x7F then 15 else tempIdx (untwos 8 w)

/-- Read-temperature index: that of the block's volume. -/
def rtempIdx (s : State) (b : Nat) : Nat :=
  let v := Tab.get {} (getChan s (blkCh b)).vols (lunVol (blkLun b))
  if v.tempValid then tempIdx v.temp else 15

/-- Rated cycles by mode (HLT_PE_RATED, RC-1). -/
def rated (oneBit : Bool) : Nat := if oneBit then 40000 else 1500

/-- The threshold table entry that a read of a page takes (R184): channel group, mode, entry number. -/
def tableKey (s : State) (b page : Nat) : Nat :=
  let f := getBlk s b
  let w := stampAt f page
  let pe := min (16 * eraseCount s b / rated f.oneBit) 15
  (chGrp (blkCh b) * 2 + b2n f.oneBit) * 65536 + elapsedIdx s w.1 * 4096 + wtempIdx w.2 * 256 + rtempIdx s b * 16 + pe

/-- Offsets of an entry; one that no calibration has refined holds the qualification entry's defaults (R185). -/
def tableEntry (s : State) (key : Nat) (oneBit : Bool) : List Int :=
  match Tab.get [] s.media.tables key with
  | [] => (List.range (if oneBit then 1 else 15)).map fun i => Config.qualDefault (key * 16 + i)
  | l => l

/-- A read takes the entry as it stands at its start (R184, R185); the check of an erased block is made at the erased-state threshold (R207). -/
def withOffs (s : State) (r : Rd) : Rd :=
  if r.why = .check then r
  else
    let key := tableKey s r.blk r.page
    { r with key := some key, offs := tableEntry s key (getBlk s r.blk).oneBit }

/-- Offsets that a read loads: those of the table at first try, with a ladder step's added (Table 8.4). Those of the soft sense reads, about the best
ladder step, the manual does not number. -/
def readOffs (r : Rd) : List Int :=
  if r.tier = 0 then r.offs
  else if r.tier ≤ 8 then (List.range r.offs.length).map fun i => nth 0 r.offs i + Config.qualStep r.qlc r.tier i
  else []

/-! ### Power tokens (R176) -/

/-- A program in one-bit mode. -/
def oneBitPg (p : Pg) : Bool := match p.kind with
  | .uc _ _ => true
  | .reloc _ n => n == 0
  | _ => false

/-- Tokens of an operation. -/
def tokNeed : OpK → Nat
  | .rd _ => 0
  | .pg p => if oneBitPg p then 2 else 3
  | .er _ => 4
  | .rst => 0

/-- Background operations: programs of folds and relocations, and erases. -/
def opBg : OpK → Bool
  | .pg p => p.bg
  | .er _ => true
  | _ => false

/-- Tokens held by the operations that `f` picks out. -/
def heldTok (s : State) (f : Nat → Op → Bool) : Nat :=
  sumBy (fun e => match e.2.op with
    | some o => if f e.1 o then o.tokens else 0
    | none => 0) s.media.luns

/-- Device cap in force (R176, R177). -/
def devCap (s : State) : Nat := if s.plp.phase = 1 then s.media.fpcPlpMax else s.media.fpcMax * s.adm.shutter / 64

/-- Channel limit in force. -/
def chLimit (s : State) : Nat := s.media.fpcChMax * s.adm.shutter / 64

/-- Background floor of a channel: ⌈0.06 × device cap / 128⌉. -/
def bgFloor (s : State) : Nat := cdiv (6 * devCap s) 12800

/-- Background work waits on a channel. -/
def bgWaits (s : State) (c : Nat) : Bool :=
  s.media.luns.any fun e => lunCh e.1 == c && (!e.2.eq.isEmpty || e.2.pq.any Pg.bg)

/-- A foreground head waits for tokens that an operation of channel `c` would take: on that channel, or anywhere when the device cap is short (R19). -/
def fgStarved (s : State) (c : Nat) : Bool :=
  s.media.luns.any fun e => e.2.tokNs.isSome && e.2.pq.head?.any fun p =>
    !p.bg && (lunCh e.1 == c || decide (devCap s < heldTok s (fun _ _ => true) + tokNeed (.pg p)))

/-- An operation can get its tokens. Above the background floor, background operations take only tokens that no foreground head waits for
(R19). -/
def powerOk (s : State) (l : Nat) (k : OpK) : Bool :=
  let n := tokNeed k
  let c := lunCh l
  (!opBg k || !fgStarved s c || decide (heldTok s (fun i o => lunCh i == c && opBg o.k) + n ≤ bgFloor s)) &&
    decide (heldTok s (fun _ _ => true) + n ≤ devCap s) &&
    decide (heldTok s (fun i _ => lunCh i == c) + n ≤ chLimit s) &&
    (opBg k || !bgWaits s c ||
      decide (heldTok s (fun i o => lunCh i == c && !opBg o.k) + n + bgFloor s ≤ chLimit s))

/-! ### The order of starts (R170) -/

/-- A read of a block is dispatched and not finished (R16). -/
def readOf (s : State) (b : Nat) : Bool :=
  let u := getLun s (blkLun b)
  let has := fun (o : Option Op) => match o with
    | some { k := .rd r, .. } => r.blk == b
    | _ => false
  u.rq.any (fun r => r.blk == b) || u.ovf.any (fun r => r.blk == b) || has u.op || has u.sub ||
    s.media.deeps.any fun e => e.2.rd.blk == b

/-- An erase can start: its intent is durable (R265), and no read of its block is outstanding (R16). -/
def eraseReady (s : State) (e : Er) : Bool := decide (e.jno < s.plp.jSeq) && !readOf s e.blk

/-- A block can be programmed: it has been found erased since it was handed out (R207), or holds data already, and its ALLOC record is durable
(R265). -/
def pgReady (s : State) (b : Nat) : Bool :=
  let f := getBlk s b
  !f.eraseIntent && (f.checked || !f.erased) && decide (f.allocNo ≤ s.plp.jSeq)

/-- A program of dirty data: a piece of a staging extent (R255). -/
def dirtyPg (p : Pg) : Bool := match p.kind with
  | .uc _ _ => true
  | _ => false

/-- The program that a LUN starts next: the oldest, or the oldest of dirty data while D exceeds D_max (R170, R255). -/
def nextPg (s : State) (u : Lun) : Option Pg := if s.plp.overD then (u.pq.find? dirtyPg).orElse fun _ => u.pq.head? else u.pq.head?

/-- A member read of a rebuild. -/
def rebuildRd (r : Rd) : Bool := match r.why with
  | .rebuild _ => true
  | _ => false

/-- The next operation of a LUN that runs none. A program whose block is half-erased waits for its erase and its check, a rebuild for the end
of a live activation (R344). -/
def nextOp (s : State) (l : Nat) : Option OpK :=
  let u := getLun s l
  let pg := (nextPg s u).bind fun p => if pgReady s p.blk && powerOk s l (.pg p) then some (OpK.pg p) else none
  let er := if (nextPg s u).all (fun p => !pgReady s p.blk) then (u.eq.head?.filter fun e => eraseReady s e && powerOk s l (.er e)).map OpK.er else none
  let overP := (nextPg s u).any fun p => decide (p.sinceNs + 100000 ≤ s.nowNs)
  let overE := u.eq.head?.any fun e => decide (e.sinceNs + 2000000 ≤ s.nowNs)
  let rd := (if paused s then u.rq.find? (fun r => !rebuildRd r) else u.rq.head?).map OpK.rd
  match (if overP then pg else none), (if overE then er else none), rd with
  | some k, _, _ => some k
  | none, some k, _ => some k
  | none, none, some k => some k
  | none, none, none => pg.orElse fun _ => er

/-- A LUN's sequencer can start operations now: none during the bus pause of a retraining (R163). -/
def lunRuns (s : State) (l : Nat) : Bool :=
  alive s && !(getChan s (lunCh l)).retraining && decide (s.rst.pwr ≤ 1) && lunOk s l && !(getLun s l).hung && !quadOut s (chQuad (lunCh l))

/-- A tenant read: a page of a READ, VERIFY or COPY (R172). -/
def tenantRd (r : Rd) : Bool := match r.why with
  | .cmd _ _ => true
  | _ => false

/-- A program of a block and page is queued or under way, or a QLC wordline's fine pass has not completed (R174). The check of a block that is
still erased meets no program (R207). -/
def pageOpen (s : State) (r : Rd) : Bool :=
  if r.why = .check then false
  else if r.qlc then decide ((getBlk s r.blk).fine ≤ r.page / 4)
  else
    let u := getLun s (blkLun r.blk)
    let is := fun (p : Pg) => p.blk == r.blk && p.page == r.page
    u.pq.any is || match u.op with
      | some { k := .pg p, .. } => is p
      | _ => false

/-- The reads that stream read serves (R173): folding, relocation, patrol and calibration. -/
def streams (r : Rd) : Bool := match r.why with
  | .fold _ | .reloc _ | .patrol | .calib => true
  | _ => false

/-- An internal read is part of a stream: the page follows the LUN's last internal read in the same block, or the next
queued read follows it (R173). -/
def inStream (u : Lun) (r : Rd) : Bool :=
  streams r && (u.last == some (r.blk, r.page - 1) && decide (0 < r.page) ||
    u.rq.any fun n => streams n && n.blk == r.blk && n.page == r.page + 1)

/-- The sequencer is not idle: its quadrant leaves P1. -/
def stirQuad (s : State) (l : Nat) : State :=
  let g := clrBit s.rst.qGated (chQuad (lunCh l))
  { s with rst := { s.rst with qGated := g, pwr := if s.rst.pwr = 1 ∧ g = 0 then 0 else s.rst.pwr } }

/-- Page reads that a queued read stands for: the four pages of a wordline's verify (R194), the two of an erased block's check (R207). -/
def rdPages (r : Rd) : Nat := match r.why with
  | .verify => if r.qlc then 4 else 1
  | .check => 2
  | _ => 1

/-- A further page read of the LUN is counted (Table 7.9). -/
def countRd (s : State) (l : Nat) (r : Rd) (stream : Bool) : State :=
  let s := chCnt s (lunCh l) (if tenantRd r then 0 else 1) (rdPages r)
  if stream then chCnt s (lunCh l) 2 1 else s

/-- A read is taken from the queue; it is refused if its block is being erased or its wordline is open (R174): then it retries after the next
operation of the LUN ends. Otherwise it starts, as the LUN's operation or during a suspension, with LUN Set Features where its offsets differ
from those last loaded (R167). -/
def startRd (s : State) (l : Nat) (r : Rd) : State :=
  let s := modLun s l fun u => { u with rq := u.rq.filter fun x => x.id != r.id }
  if !tenantRd r && (getBlk s r.blk).eraseIntent then
    let s := chCnt s (lunCh l) 10 1
    sendRebuild s r
  else if !tenantRd r && pageOpen s r then
    modLun (chCnt s (lunCh l) 11 1) l fun u => { u with parked := u.parked ++ [r] }
  else
    let r := withOffs s r
    let u := getLun s l
    let stream := inStream u r
    let o : Op := { k := .rd r, runNs := s.nowNs, tokens := 0, stream := stream, features := readOffs r != u.loaded }
    let s := modLun s l fun u => { u with
      op := if u.op.isNone then some o else u.op
      sub := if u.op.isNone then none else some o
      last := if tenantRd r then none else some (r.blk, r.page)
      loaded := readOffs r
      fgReads := u.fgReads + b2n (tenantRd r) }
    let s := countRd s l r stream
    match r.why with
    | .cmd t seq => modCmd s t seq fun c => { c with
        ahead := max c.ahead r.ahead, overflow := c.overflow || r.ovf, suspended := c.suspended || r.susp }
    | _ => s

/-- A program or erase starts with its tokens. -/
def startWr (s : State) (l : Nat) (k : OpK) : State :=
  let s := endTokWait s l
  let s := match k with
    | .pg p => chCnt s (lunCh l) (if oneBitPg p then 3 else 4) 1
    | _ => mcnt (chCnt s (lunCh l) 6 1) 14 1
  modLun s l fun u => { u with
    op := some { k := k, runNs := s.nowNs, tokens := tokNeed k }
    last := none
    pq := match k with
      | .pg p => u.pq.filter fun x => x.id != p.id
      | _ => u.pq
    eq := match k with
      | .er e => u.eq.filter fun x => x.blk != e.blk
      | _ => u.eq }

/-- A head that lacks its tokens begins to wait for them. -/
def noteTokWait (s : State) (l : Nat) : State :=
  let u := getLun s l
  let lacks := match nextPg s u, u.eq.head? with
    | some p, _ => !powerOk s l (.pg p)
    | none, some e => !powerOk s l (.er e)
    | none, none => false
  if lacks && u.tokNs.isNone then modLun s l fun u => { u with tokNs := some s.nowNs } else s

/-- A block that is being programmed on a lost LUN is left: staging pieces go elsewhere, a relocation takes a fresh target, and
a zone's member takes a replacement block (R23, R179). -/
def leaveBlk (s : State) (b : Nat) : State :=
  let s := leavePieces s b
  match s.media.relocs.find? fun e => e.2.tgt == some b with
  | some e =>
    let s := retarget s e.1
    if e.2.logical && e.2.base != 0 then askReloc s b .replace
    else { s with media := { s.media with convs := Tab.del s.media.convs b } }
  | none => if (memberAt s b).isSome then askReloc s b .replace else s

/-- What was queued on a LUN out of service is taken elsewhere: reads to rebuild, programs off their blocks (R15, R179, R206). -/
def moveOff (s : State) (l : Nat) : State :=
  let u := getLun s l
  let s := modLun s l fun u => { u with rq := [], ovf := [], parked := [] }
  (u.rq ++ u.ovf ++ u.parked).foldl sendRebuild ((u.pq.map Pg.blk).eraseDups.foldl leaveBlk s)

/-- ARRAY_OP_START (R170): a free LUN starts its next operation, or a suspended one the next read that it serves (R172). What was queued on a
LUN out of service is taken elsewhere. -/
def execArrayOpStart (l : Nat) (s : State) : Res :=
  let u := getLun s l
  if alive s && !lunOk s l then .next (moveOff s l)
  else if !lunRuns s l then .next s
  else match u.op with
    | none => match nextOp s l with
      | some (.rd r) => .next (drainOvf (startRd (stirQuad (noteTokWait s l) l) l r) l)
      | some k => .next (startWr (stirQuad s l) l k)
      | none => .next (noteTokWait s l)
    | some o =>
      if o.susp = .ready ∧ u.sub.isNone then
        match u.rq.find? fun r => o.serve.contains r.id with
        | some r => .next (drainOvf (startRd s l r) l)
        | none => .next s
      else .next s

/-! ### Reads -/

/-- A LUN's operation has ended; its quadrant's idle time starts afresh. -/
def noteIdle (s : State) (l : Nat) : State :=
  { s with rst := { s.rst with qIdleNs := Tab.set 0 s.rst.qIdleNs (chQuad (lunCh l)) s.nowNs } }

/-- Internal reads that met an open wordline retry, now that an operation of the LUN has ended (R174). -/
def unpark (s : State) (l : Nat) : State :=
  let again := (getLun s l).parked
  again.foldl (fun s r => enterRd s l r) (modLun s l fun u => { u with parked := [] })

/-- The read that a LUN runs: during a suspension or on its own. -/
def runningRd (u : Lun) : Option Rd :=
  match u.sub, u.op with
  | some { k := .rd r, .. }, _ => some r
  | none, some { k := .rd r, .. } => some r
  | _, _ => none

/-- The read that a LUN runs goes on as a further read, or ends. -/
def setRd (s : State) (l : Nat) (r : Option Rd) : State :=
  let o := r.map fun r => ({ k := .rd r, runNs := s.nowNs, tokens := 0, features := true } : Op)
  let s := modLun s l fun u => if u.sub.isSome then { u with sub := o } else { u with op := o }
  match r with
  | some r => countRd (modLun s l fun u => { u with loaded := readOffs r }) l r false
  | none => if (getLun s l).op.isNone then unpark (noteIdle s l) l else noteIdle s l

/-- What a sector's decode and metadata check come to: whether it passes its tier, and whether the metadata check failed (R182). The check of a
parity sector stands for that of the rebuilt sector (log 45, DEDUCED). A sector found unrecovered before fails again (R190). -/
def secPasses (s : State) (q : SecReq) : SectorRead → Bool × Bool
  | .decoded ok _ _ => if q.ver = 0 then (true, false) else if lostSec s q then (false, false) else (ok, !ok)
  | .failed => (false, false)

/-- A sector passed tier 0 or 1 (R188, R191, R200): counted, then handed on; a poison sector is unrecovered. -/
def passSec (s : State) (r : Rd) (q : SecReq) (x : SectorRead) (authBad : List Nat) : State :=
  let tier := if r.tier = 0 then 0 else 1
  let (metaOk, poison, nbits) := match x with
    | .decoded m p b => (m, p, b)
    | .failed => (false, false, 0)
  match r.why with
  | .rebuild id =>
    let ok := metaOk || q.ver != 0
    rebuildMember (mcnt (mcnt s tier 1) 5 (b2n (!ok))) id ok (q.ver != 0 && authBad.contains q.ver)
  | _ =>
    if poison || isPoison s q then secEnd (unrecSec s r q) r q tier false false
    else
      let found := match r.why with
        | .patrol => decide (4 ≤ r.tier) || (r.tier == 0 && decide (s.hlt.patrolMax < nbits))
        | _ => false
      let s := if found then askReloc s r.blk .retention else s
      secEnd (mcnt s tier 1) r q tier true (authBad.contains q.ver)

/-- A read whose sectors failed the whole ladder stops there under LR (R90, R188). -/
def lrStop (s : State) (r : Rd) (q : SecReq) : State := secEnd (mcnt s 1 1) r q 1 false false

/-- FLASH_READ_DONE (R167, R188): the sectors that decode and pass their check are done; the others go to the next ladder
step, the soft sense reads, or soft decode. -/
def execFlashReadDone (l : Nat) (secs : List SectorRead) (authBad : List Nat) (s : State) : Res :=
  match runningRd (getLun s l) with
  | none => .next s
  | some r =>
    if !collects s l ∨ r.why = .calib ∨ r.why = .verify ∨ r.why = .check then .next s
    else
      let s := tel s 8 (r.secs.length * 4096)
      if r.tier = 9 then .next (setRd s l (some { r with tier := 10 }))
      else if 10 ≤ r.tier then
        let (s, id) := newId (setRd s l none)
        let d : Deep := { rd := r, secs := r.secs }
        .next (drainOvf { s with media := { s.media with deeps := s.media.deeps ++ [(id, d)] } } l)
      else
        let res := r.secs.zip (secs ++ List.replicate (r.secs.length - secs.length) .failed)
        let bad := (res.filter fun e => !(secPasses s e.1 e.2).1).map Prod.fst
        let good := res.filter fun e => (secPasses s e.1 e.2).1
        let s := mcnt s 5 (res.filter fun e => (secPasses s e.1 e.2).2).length
        let s := mcnt s 6 (b2n (good.any fun e => isPoison s e.1 || match e.2 with
          | .decoded _ p _ => p
          | .failed => false))
        let stop := r.tier == 8 && r.lr
        let s := if bad.isEmpty || stop then setRd s l none
          else setRd s l (some { r with secs := bad, tier := r.tier + 1 })
        let s := good.foldl (fun s e => passSec s r e.1 e.2 authBad) s
        let s := if stop then bad.foldl (fun s q => lrStop s r q) s else s
        .next (drainOvf s l)

/-- SOFT_DECODE_DONE (R188): each sector ends at tier 2 or goes to stripe-parity rebuild. -/
def execSoftDecodeDone (id : Nat) (ok metaBad : List Bool) (authBad : List Nat) (s : State) : Res :=
  match getDeep s id with
  | none => .next s
  | some d =>
    if d.rebuild ∨ d.cipher ∨ !alive s ∨ paused s then .next s
    else
      let s := dropDeep s id
      .next ((List.range d.secs.length).foldl (fun s i =>
        let q := nth { plane := 0, sector := 0, ver := 0, sub := 0 } d.secs i
        let meta' := nth false metaBad i && q.ver != 0
        let good := nth false ok i && !meta' && !lostSec s q
        let s := if nth false ok i && nth false metaBad i then mcnt s 5 1 else s
        match d.rd.why with
        | .rebuild n =>
          rebuildMember (if good then mcnt s 2 1 else s) n (good && !(nth false metaBad i)) (authBad.contains q.ver)
        | _ =>
          if !good then startRebuild s d.rd q
          else if isPoison s q then secEnd (unrecSec (mcnt s 6 1) d.rd q) d.rd q 2 false false
          else secEnd (mcnt s 2 1) d.rd q 2 true (authBad.contains q.ver)) s)

/-! ### Programs -/

/-- Telemetry of `n` data bytes programmed: counter `k` of this power-on, and the lifetime counter (Table 17.7). -/
def telProg (s : State) (k n : Nat) : State :=
  let s := tel s k n
  { s with hlt := { s.hlt with telLife := bump s.hlt.telLife 11 n } }

/-- A wordline or one-bit page is programmed: its block is no longer erased, and its sectors carry the WHOURS and WTEMP of the moment (Table 8.2; of
a QLC wordline, those of its coarse pass, log 46, DEDUCED). -/
def stampBlk (s : State) (b wl : Nat) : State :=
  let v := Tab.get {} (getChan s (blkCh b)).vols (lunVol (blkLun b))
  let w := (opHours s, if v.tempValid then twos 8 v.temp else 0x7F)
  modBlk s b fun f => { f with erased := false, stamps := Tab.set (0, 0x7F) f.stamps wl w }

/-- A staging extent's piece has been programmed with pass status (R15, R192): the versions whose sectors are now all in
flash are safe, and their buffers go. -/
def extPass (s : State) (e i : Nat) : State :=
  let x := getExt s e
  let s := if i < 16 then
      let pads := (((x.secs.drop (16 * i)).take 16).filter (· == 0)).length + (16 - ((x.secs.drop (16 * i)).take 16).length)
      tel (telProg s 6 65536) 9 (pads * 4096)
    else s
  let s := passPiece s e i
  let y := getExt s e
  let done := (pieceVers y i).filter fun v =>
    (List.range 16).all fun j => y.passed.contains j || !(pieceVers y j).contains v
  done.foldl (fun s v =>
    let z := getVer s v
    if z.ucProg || z.tcSafe then s
    else
      let s := if z.poison then poisonSec s (nth 0 (getSet s y.set).blks i) y.page
        { plane := 0, sector := 0, ver := v, sub := 0 } else s
      freeVer (modVer s v fun z => { z with ucProg := true, loc := .uc e }) v) s

/-- The fold group whose wordline a member has just been given its fine pass of: the member's buffers are released
(R193). -/
def foldBufs (s : State) (b wl : Nat) : State :=
  match memberAt s b with
  | none => s
  | some (t, z, m) =>
    match s.media.folds.find? fun e => e.2.tenant == t && e.2.zone == z && e.2.wl == wl with
    | none => s
    | some e =>
      if e.2.direct then s
      else
        let n := if m < (tenD s t).w then 64 else 16
        modFold (pushBufs s (quadReq (blkCh b)) (e.2.bufs.take n)) e.1 fun f => { f with bufs := f.bufs.drop n }

/-- Pad sectors of a topcoat member's wordline, in bytes. -/
def padBytes (s : State) (b wl : Nat) : Nat :=
  match memberAt s b with
  | none => 0
  | some (t, _, m) =>
    if (tenD s t).w ≤ m then 0
    else sumBy (fun i => sumBy (fun (q : SecReq) => if q.ver = 0 then 4096 else 0) (pageSecs s b (4 * wl + i))) (List.range 4)

/-- A data block's wordline counts as topcoat data; parity does not. -/
def isParity (s : State) (b : Nat) : Bool :=
  match memberAt s b with
  | none => false
  | some (t, _, m) => decide ((tenD s t).w ≤ m)

/-- A coarse pass ended with pass status. -/
def coarsePass (s : State) (b wl : Nat) : State := modBlk (stampBlk s b wl) b fun f => { f with coarse := max f.coarse (wl + 1) }

/-- A fine pass ended with pass status (R168): it closes the paired-page window of the wordline before, and for wordline 127 its own; the verify read
of what closes is queued (R194). -/
def finePass (s : State) (b wl : Nat) : State :=
  let s := modBlk s b fun f => { f with fine := max f.fine (wl + 1) }
  let s := foldBufs s b wl
  let s := if 0 < wl then queueVerify s b (wl - 1) else s
  let s := if wl = 127 then queueVerify s b wl else s
  if isParity s b then s else tel (telProg s 7 262144) 9 (padBytes s b wl)

/-- The buffers of a relocation's wordline are released. -/
def relBufs (s : State) (id wl : Nat) : State :=
  let x := getReloc s id
  if wl < x.base ∨ x.base + x.count ≤ wl then s
  else modReloc (pushBufs s (quadReq (blkCh (x.tgt.getD 0))) (x.bufs.take 64)) id fun x => { x with bufs := x.bufs.drop 64, freed := x.freed + 1 }

/-- A program ended with pass status. -/
def pgPass (s : State) (p : Pg) : State :=
  match p.kind with
  | .uc e i =>
    let s := modBlk (stampBlk s p.blk p.page) p.blk fun f => { f with
      pages := max f.pages (p.page + 1), safe := if f.safe.contains p.page then f.safe else f.safe ++ [p.page] }
    if (getExt s e).released then s else completeFua (extPass s e i)
  | .coarse _ _ => coarsePass s p.blk p.page
  | .fine _ _ => finePass s p.blk p.page
  | .reloc id n =>
    let there := s.media.relocs.any fun e => e.1 == id
    let s := if n = 0 then
        queueVerify (telProg (modBlk (stampBlk s p.blk p.page) p.blk fun f => { f with pages := max f.pages (p.page + 1) }) 6 65536) p.blk p.page
      else if n = 1 then coarsePass s p.blk p.page
      else finePass s p.blk p.page
    let s := if there && n != 1 then relBufs s id p.page else s
    if there && n != 2 then stepReloc s id else s

/-- A program ended with fail status (R169, R195, R198). -/
def pgFail (s : State) (p : Pg) : State :=
  let s := chCnt s (blkCh p.blk) 5 1
  match p.kind with
  | .uc e i =>
    let s := leavePieces s p.blk
    completeFua (condemn (if (getExt s e).released then s else failPiece s e i) p.blk 2)
  | _ =>
    if (getBlk s p.blk).eraseIntent then
      let s := modLun s (blkLun p.blk) fun u => { u with eq := u.eq.filter fun e => e.blk != p.blk }
      condemn (modBlk s p.blk fun f => { f with eraseIntent := false }) p.blk 2
    else destinationFailed s p.blk

/-- The operation of a LUN ends, suspended or not; a read that it had let pass stays. -/
def endOp (s : State) (l : Nat) : State := unpark (noteIdle (modLun s l fun u => { u with op := u.sub, sub := none }) l) l

/-- PROGRAM_DONE (R168, R169). -/
def execProgramDone (l : Nat) (pass : Bool) (s : State) : Res :=
  match (getLun s l).op with
  | some { k := .pg p, susp := u, .. } =>
    if !collects s l ∨ u = .ready then .next s
    else
      let s := endOp s l
      .next (if pass then pgPass s p else pgFail s p)
  | _ => .next s

/-! ### Erases -/

/-- ERASE_DONE (R169, R207): the completion is journalled (R265), and the block is to be checked before it rejoins a list; a failing block is
retired. -/
def execEraseDone (l : Nat) (pass : Bool) (s : State) : Res :=
  match (getLun s l).op with
  | some { k := .er e, susp := u, .. } =>
    if !collects s l ∨ u = .ready then .next s
    else
      let s := endOp s l
      let s := { s with plp := { s.plp with jRecs := s.plp.jRecs + 1 } }
      if pass then .next (queueRd (modBlk s e.blk (erasedBlk false)) .check 3 0 e.blk 0 false [] false).1
      else
        let s := modBlk (chCnt s (lunCh l) 7 1) e.blk fun f => { f with eraseIntent := false, inUse := false }
        .next (condemn s e.blk 3)
  | _ => .next s

/-- The read that a LUN runs is of a kind, a block and a page. -/
def runs (s : State) (l : Nat) (w : Why) (b page : Nat) : Bool :=
  (runningRd (getLun s l)).any fun r => r.why == w && r.blk == b && r.page == page

/-- HALF_ERASE_CHECK (R207): a block that was erased, or handed out, has been read at the erased-state threshold; with more than 64 zero bits in
some page it is half-erased and erased again. A free undercoat block serves the exchanges that wait for one (R202). -/
def execHalfEraseCheck (l b : Nat) (zeros : List Nat) (s : State) : Res :=
  if collects s l && runs s l .check b 0 then
    let s := drainOvf (setRd s l none) l
    if roleOf s b = .retired ∨ (getBlk s b).eraseIntent then .next s
    else if zeros.any fun z => decide (64 < z) then .next (eraseBlkQ (mcnt s 13 1) b)
    else
      let s := modBlk s b fun f => { f with checked := true }
      .next (if (getBlk s b).inUse ∨ roleOf s b ≠ .undercoat then s else fillWaiting s (· == blkCh b))
  else .next s

/-- READY_LIST_REFILL (R13, R203): erased and checked blocks of a group's zone block pool go to its ready-block lists, and the
writers that waited for one go on, in order. -/
def execReadyListRefill (g : Nat) (s : State) : Res :=
  if !running s then .next s
  else
    let put := fun (b : Nat) (f : FBlk) =>
      if chGrp (blkCh b) = g ∧ roleOf s b = .pool ∧ f.erased = true ∧ f.checked = true ∧ f.inUse = false then
        { f with ready := true } else f
    let s := { s with media := { s.media with blks := Tab.mapv {} put s.media.blks } }
    .next (s.cmds.foldl (fun s c =>
      if c.ph = .blockWait then zoneStage (endBlockWait s c) c.tenant c.seq else s) s)

/-! ### Suspension (R172) -/

/-- PROGRAM_SUSPEND: a tenant read at the front suspends a program or erase that has had its minimum run. -/
def execProgramSuspend (l : Nat) (s : State) : Res :=
  let u := getLun s l
  match u.op, u.rq with
  | some o, r :: rest =>
    let minRun := match o.k with
      | .pg _ => some 4000
      | .er _ => some 6000
      | _ => none
    match minRun with
    | none => .next s
    | some n =>
      if lunRuns s l && tenantRd r && o.susp == .none && decide (o.runNs + n ≤ s.nowNs) then
        let s := modLun s l fun u => { u with
          op := some { o with susp := .asked, askNs := s.nowNs }, rq := { r with susp := true } :: rest }
        .next (chCnt s (lunCh l) (if n = 6000 then 9 else 8) 1)
      else .next s
  | _, _ => .next s

/-- SUSPEND_READY: the LUN is ready, and serves the reads queued now. -/
def execSuspendReady (l : Nat) (s : State) : Res :=
  let u := getLun s l
  match u.op with
  | some o =>
    if collects s l && o.susp == .asked then
      .next (modLun s l fun u => { u with op := some { o with
        susp := .ready, serve := u.rq.map Rd.id, ran := o.ran + (s.nowNs - o.runNs) } })
    else .next s
  | none => .next s

/-- RESUME: the reads of the suspension have been served. -/
def execResume (l : Nat) (s : State) : Res :=
  let u := getLun s l
  match u.op with
  | some o =>
    if lunRuns s l && o.susp == .ready && u.sub.isNone && !(u.rq.any fun r => o.serve.contains r.id) then
      .next (modLun s l fun u => { u with op := some { o with susp := .none, serve := [], runNs := s.nowNs } })
    else .next s
  | none => .next s

/-! ### Verify reads -/

/-- A verify read passes (R194): every sector decodes at first try with at most VERIFY_MAX_BITS bits corrected and passes R182, parity sectors
not being checked that way. -/
def verifyOk (s : State) (want : List SecReq) (got : List SectorRead) : Bool :=
  decide (want.length ≤ got.length) && (want.zip got).all fun e => match e.2 with
    | .decoded ok _ n => (ok || e.1.ver == 0) && decide (n ≤ s.hlt.verifyMax)
    | .failed => false

/-- The sectors that a verify read of a wordline, or of a one-bit page, is to find. -/
def verifySecs (s : State) (b wl : Nat) : List SecReq :=
  if (getBlk s b).oneBit then pageSecs s b wl else (List.range 4).flatMap fun i => pageSecs s b (4 * wl + i)

/-- Sectors whose metadata check failed (HLT_MCNT5). -/
def metaFails (want : List SecReq) (got : List SectorRead) : Nat :=
  ((want.zip got).filter fun e => match e.2 with
    | .decoded ok _ _ => !ok && e.1.ver != 0
    | .failed => false).length

/-- Sectors that decoded. -/
def decodes (got : List SectorRead) : Nat := (got.filter fun x => x != .failed).length

/-- A wordline is safe (R194): its fold group or its relocation may be done. -/
def wlSafe (s : State) (b wl : Nat) : State :=
  let s := modBlk s b fun f => { f with safe := f.safe ++ [wl] }
  match s.media.relocs.find? fun e => e.2.tgt == some b with
  | some e => checkReloc s e.1
  | none => match memberAt s b with
    | some (t, z, _) => checkFolds s t z
    | none => s

/-- WORDLINE_VERIFY_DONE (R194, R195, R197): the verify read of a closed wordline ends; a safe wordline may finish its fold
group or relocation, and a failing one fails its block. -/
def execWordlineVerifyDone (l b wl : Nat) (secs : List SectorRead) (s : State) : Res :=
  let f := getBlk s b
  if collects s l && runs s l .verify b (if f.oneBit then wl else 4 * wl) then
    let n := if f.oneBit then 1 else 4
    let want := verifySecs s b wl
    let bad := metaFails want secs
    let s := mcnt (mcnt (tel (drainOvf (setRd s l none) l) 8 (n * 65536)) 0 (decodes secs - bad)) 5 bad
    if f.eraseIntent ∨ f.failed ∨ f.safe.contains wl then .next s
    else .next (if verifyOk s want secs then wlSafe s b wl else destinationFailed s b)
  else .next s

end Sys2Proof.Machine
end

