-- ==== Sys2Proof/Machine/Folding.lean ====
section
/-! DEFINITION. Background work of the quadrant processors: folds (R193), relocations (R196, R197), patrol (R199),
calibration (R184 to R187), partial rows (R116), interrupted blocks (R269) and the health summaries (R208). -/

namespace Sys2Proof.Machine

/-! ### Folds -/

/-- The zone's next fold group can be folded now (R129, R193, R204). -/
def foldReady (s : State) (t z : Nat) : Bool :=
  let r := getZone s t z
  let wl := r.foldNext
  let vs := wlVers s t z wl
  let stable := (heldMembers s t z).all fun m => (destOf s t z m wl).isSome
  (getTen s t).isSome && !isConv (tenD s t) z && !(heldMembers s t z).isEmpty && decide (wl < 128) &&
    r.st != .empty && r.st != .offline && !(r.st == .readOnly && r.roReason == 1) && r.resetWait.isNone && stable &&
    (if r.st = .full then vs.all fun v => (getVer s v).hbm || programmed (getVer s v) else wlFull s t z wl) &&
    (r.hint != 2 || decide (750 < ucOcc s)) &&
    !(r.hint == 1 && r.st != .full && vs.all fun v => !(getVer s v).placed)

/-- Quadrants that hold staging extents of a zone. -/
def zoneQuads (s : State) (t z : Nat) : List Nat := (zoneExts s t z).map fun e => (getSet s (getExt s e).set).quad

/-- When a zone's oldest staged extent was staged. -/
def oldestExt (s : State) (t z : Nat) : Nat :=
  ((zoneExts s t z).map fun e => (getExt s e).stagedNs).min?.getD s.nowNs

/-- Zone `a` is folded before zone `b` (R129, R193): hint 2 last, then the oldest extent, then the lowest number (log 31, DESIGN CHOICE). -/
def foldsFirst (s : State) (a b : Nat × Nat) : Bool :=
  let hot := fun (x : Nat × Nat) => b2n ((getZone s x.1 x.2).hint == 2)
  let old := fun (x : Nat × Nat) => oldestExt s x.1 x.2
  if hot a ≠ hot b then decide (hot a < hot b)
  else if old a ≠ old b then decide (old a < old b) else decide (zkey a.1 a.2 < zkey b.1 b.2)

/-- FOLD_GROUP_START (R193): the zone's next wordline, when no zone of a quadrant that it shares comes first. -/
def execFoldGroupStart (t z wl : Nat) (s : State) : Res :=
  let mine := zoneQuads s t z
  let first := !(s.zones.any fun e =>
    let o := (e.1 / 4194304, e.1 % 4194304)
    e.1 != zkey t z && (zoneQuads s o.1 o.2).any mine.contains && foldsFirst s o (t, z) && foldReady s o.1 o.2)
  if running s && decide (s.rst.pwr ≤ 1) && (getZone s t z).foldNext == wl && foldReady s t z && first then
    let vs := wlVers s t z wl
    let (s, id) := newFold s t z wl false vs.isEmpty vs
    let s := beginFold s id
    .next (if (getZone s t z).hint = 1 then startDirect s t z 128 else s)
  else .next s

/-! ### Relocations -/

/-- The quadrant whose processors carry a relocation. -/
def relQuad (s : State) (x : Reloc) : Nat := match x.ext with
  | some e => (getSet s (getExt s e).set).quad
  | none => chQuad (blkCh x.src)

/-- A relocation can start: no program is under way on its source, and no fold or relocation uses its source as target. -/
def relFree (s : State) (x : Reloc) : Bool :=
  x.tgt.isNone && x.ext.isSome || (x.tgt.isNone && !(s.media.relocs.any fun e => e.2.tgt == some x.src) &&
    match (getLun s (blkLun x.src)).op with
    | some { k := .pg p, .. } => p.blk != x.src
    | _ => true)

/-- A relocation comes before another: by precedence, then the oldest trigger (R196). -/
def relFirst (a b : Nat × Reloc) : Bool :=
  decide (a.2.why.order < b.2.why.order) || (a.2.why.order == b.2.why.order && decide (a.1 < b.1))

/-- Blocks that a tenant's conventional zones reserve for cleaning: the extra eighth (R109). -/
def cleanBlocks (t : Tenant) : Nat := t.nc * (cdiv ((t.w + parityN t) * 9) 8 - (t.w + parityN t))

/-- Free topcoat blocks of a tenant's conventional space. -/
def convFree (s : State) (t : Nat) : Nat :=
  let ten := tenD s t
  ten.nc * cdiv ((ten.w + parityN ten) * 9) 8 - (s.media.convs.filter fun e => e.2.tenant == t).length

/-- Versions in a conventional block that are still needed (R124). -/
def liveIn (s : State) (b : Nat) : Nat := (s.vers.filter fun e => wanted s e.1 && match e.2.loc with
  | .cv c _ => c == b
  | _ => false).length

/-- A version belongs to a zone whose data is hot (hint 2, R129). -/
def hotVer (s : State) (v : Nat) : Bool := v != 0 && (getZone s (getVer s v).tenant (getVer s v).zone).hint == 2

/-- A conventional block holds data that is not to be cleaned yet (R129). -/
def heldHot (s : State) (b : Nat) : Bool :=
  decide (ucOcc s ≤ 750) && s.vers.any fun e => live s e.2 && hotVer s e.1 && match e.2.loc with
    | .cv c _ => c == b
    | _ => false

/-- Cleaning of conventional space asked for (Table 8.7): the block with the least live data, hot data left alone while the undercoat has room
(R129). -/
def askCleaning (s : State) (t : Nat) : State :=
  if cleanBlocks (tenD s t) ≤ convFree s t * 16 then s
  else match (s.media.convs.filter fun e => e.2.tenant == t && !heldHot s e.1).foldl (fun (acc : Option Nat) e => match acc with
      | none => some e.1
      | some b => if liveIn s e.1 < liveIn s b then some e.1 else acc) none with
    | none => s
    | some b => askReloc s b .cleaning

/-- A conventional extent of a quadrant whose data can move to the topcoat: all programmed. Data of a hot zone moves only when the undercoat has
filled, and then last (R125, R129). -/
def cleanExt (s : State) (q : Nat) : Option Nat :=
  let can := s.media.exts.filter fun e =>
    e.2.zone.isNone && !e.2.released && e.2.issued && e.2.passed.length == 17 &&
      (getSet s e.2.set).quad == q && !(s.media.relocs.any fun r => r.2.ext == some e.1)
  let hot := fun (e : Nat × Ext) => e.2.secs.any (hotVer s)
  (((can.find? fun e => !hot e).orElse fun _ => if 750 < ucOcc s then can.head? else none)).map Prod.fst

/-- Blocks in use in a quadrant whose data is still to move are asked for again, also after a boot: those on LUNs that were retired for good (R206),
and those to be retired (R202). -/
def askLost (s : State) (q : Nat) : State :=
  s.media.blks.foldl (fun s e =>
    if !e.2.inUse ∨ chQuad (blkCh e.1) ≠ q then s
    else if s.media.deadLuns.contains (blkLun e.1) then askReloc s e.1 .replace
    else if e.2.retireWhy ≠ 0 then askReloc s e.1 .retention else s) s

/-- RELOCATION_START (R196, R197): the first of the quadrant's queued relocations that can start; with none queued, the oldest
conventional extent is cleaned (log 48, DESIGN CHOICE). -/
def execRelocationStart (q : Nat) (s : State) : Res :=
  if !running s ∨ 1 < s.rst.pwr ∨ quadOut s q = true then .next s
  else
    let s := (tenants s).foldl (fun s e => askCleaning s e.1) (askLost s q)
    match (sortBy relFirst (s.media.relocs.filter fun e => relQuad s e.2 == q && relFree s e.2)).head? with
    | some e => .next (checkReloc (startReloc s e.1) e.1)
    | none => match cleanExt s q with
      | none => .next s
      | some e =>
        let (s, id) := newId s
        let s := modReloc s id fun _ => { why := .cleaning, ext := some e, logical := true }
        .next (checkReloc (startReloc s id) id)

/-- INTERRUPTED_BLOCK_REPAIR (R269): an interrupted topcoat block is replaced, copied and folded again as R195 sets out, and
is not retired. -/
def execInterruptedBlockRepair (l b : Nat) (s : State) : Res :=
  if running s && decide (s.rst.pwr ≤ 1) && lunOk s l && blkLun b == l && (getBlk s b).interrupted && (memberAt s b).isSome &&
      !relocating s b then
    let s := askReloc s b .replace
    match s.media.relocs.find? fun e => e.2.src == b && e.2.ext.isNone with
    | none => .next s
    | some e => .next (if relFree s e.2 then checkReloc (startReloc s e.1) e.1 else s)
  else .next s

/-- PARTIAL_ROW_STAGE (R116): the partial row of an OPEN zone that has taken no write for 50 ms. -/
def execPartialRowStage (t z : Nat) (s : State) : Res :=
  let r := getZone s t z
  if running s && (getTen s t).isSome && r.st == .opened && decide (r.lastWriteNs + 50000000 ≤ s.nowNs) then
    .next (stagePartial s t z)
  else .next s

/-! ### Patrol -/

/-- Every sixteenth number from 0 below `n − 1`, and `n − 1`. -/
def sixteenths (n : Nat) : List Nat := if n = 0 then [] else ((List.range (n - 1)).filter fun i => i % 16 == 0) ++ [n - 1]

/-- The pages that a patrol visit reads (R199). -/
def patrolPages (s : State) (b : Nat) : List (Nat × Bool) :=
  let f := getBlk s b
  if f.oneBit then (sixteenths f.pages).map fun p => (p, false) else (sixteenths f.fine).map fun w => (4 * w, true)

/-- PATROL_VISIT (R199): sample pages of a block with live data, in idle time. -/
def execPatrolVisit (l b : Nat) (s : State) : Res :=
  if lunRuns s l && !paused s && blkLun b == l && lunIdle (getLun s l) && holdsLive s b && !(getBlk s b).eraseIntent then
    let s := mcnt (modBlk s b fun f => { f with patrolledNs := s.nowNs }) 20 1
    .next ((patrolPages s b).foldl (fun s p => (queueRd s .patrol 3 0 b p.1 p.2 (pageSecs s b p.1) false).1) s)
  else .next s

/-! ### Thresholds -/

/-- A level moves a quarter of the way to its measured optimum, rounded toward it and limited to ±127 (R185). -/
def refine (old m : Int) : Int :=
  let d := if old ≤ m then (cdiv (m - old).toNat 4 : Int) else -(cdiv (old - m).toNat 4 : Int)
  min 127 (max (-127) (old + d))

/-- A ladder step that started from a table entry is running on some LUN (R185). -/
def ladderOn (s : State) (key : Nat) : Bool :=
  s.media.luns.any fun e => (runningRd e.2).any fun r => decide (1 ≤ r.tier) && decide (r.tier ≤ 8) && r.key == some key

/-- A calibration read is queued (R187): one class BG read, once per 1,000 foreground reads of its LUN or in idle time. -/
def queueCalib (s : State) (l b page : Nat) : State :=
  let u := getLun s l
  let f := getBlk s b
  let written := if f.oneBit then decide (page < f.pages) else decide (page / 4 < f.fine)
  if lunRuns s l && blkLun b == l && holdsLive s b && !f.eraseIntent && written && (decide (1000 ≤ u.fgReads) || lunIdle u) then
    (queueRd (modLun s l fun u => { u with fgReads := 0 }) .calib 3 0 b page (!f.oneBit) [] false).1
  else s

/-- A calibration read ends (R185, R191): the entry that it started from moves toward the optimum that its reads measured. How many further reads
it took, up to four, is a free value (log 4, DESIGN CHOICE). A sector that needed tier 2 or 3 marks the block. -/
def endCalib (s : State) (l b key : Nat) (measured : List Int) (tier : Nat) : State :=
  let extra := Config.estimate s.freeCtr % 5
  let s := drainOvf (setRd { s with freeCtr := s.freeCtr + 1 } l none) l
  let old := tableEntry s key (getBlk s b).oneBit
  let new := (List.range old.length).map fun i => match measured[i]? with
    | some m => refine (nth 0 old i) m
    | none => nth 0 old i
  let s := { s with media := { s.media with tables := Tab.set [] s.media.tables key new } }
  let s := tel (chCnt (mcnt s 21 1) (lunCh l) 1 extra) 8 ((1 + extra) * 65536)
  if 2 ≤ tier then askReloc s b .retention else s

/-- CALIBRATION_READ (R185, R187): the calibration read of a page ends on the LUN that runs it, though not while a ladder step that started from
its entry is running; or, where none is queued, it is queued. -/
def execCalibrationRead (l b page : Nat) (found : Calibrated) (s : State) : Res :=
  let u := getLun s l
  let same := fun (r : Rd) => r.why == .calib && r.blk == b && r.page == page
  match (runningRd u).filter same with
  | some r => match r.key with
    | some key => if collects s l && !ladderOn s key then .next (endCalib s l b key found.measured found.tier) else .next s
    | none => .next s
  | none => if u.rq.any same || u.ovf.any same || u.parked.any same || paused s then .next s else .next (queueCalib s l b page)

/-- THRESHOLD_TABLE_SAVE (R184): once per hour. -/
def execThresholdTableSave (s : State) : Res :=
  if running s && decide (s.media.tableMs + 3600000 ≤ opMs s) then
    .next { s with tablesSaved := s.media.tables, media := { s.media with tableMs := opMs s } }
  else .next s

/-! ### Health -/

/-- A block in service of a mode: one-bit, or QLC. -/
def ofMode (s : State) (oneBit : Bool) (b : Nat) : Bool :=
  let f := getBlk s b
  roleOf s b != .retired && !(getLun s (blkLun b)).retired &&
    (if f.inUse then f.oneBit == oneBit else (roleOf s b == .undercoat || roleOf s b == .system) == oneBit)

/-- Highest wear of a mode, 0.1 % units (HLT_WEAR_QLC, HLT_WEAR_1BIT). -/
def wearMax (s : State) (oneBit : Bool) : Nat :=
  s.media.blks.foldl (fun m e => if ofMode s oneBit e.1 then max m (eraseCount s e.1 * 1000 / rated oneBit) else m)
    (s.media.eraseBase * 1000 / rated oneBit)

/-- Blocks in service of a mode on the channels that `f` picks out (Table 8.8). -/
def modeCount (s : State) (oneBit : Bool) (f : Nat → Bool) : Nat :=
  if oneBit then roleCount s .undercoat f + roleCount s .system f else roleCount s .pool f + roleCount s .reserve f

/-- Average wear of a mode over the blocks in service, 0.1 % units. -/
def wearAvg (s : State) (oneBit : Bool) : Nat :=
  let n := modeCount s oneBit fun _ => true
  if n = 0 then 0
  else (sumBy (fun e => if ofMode s oneBit e.1 then e.2.erases else 0) s.media.blks + n * s.media.eraseBase) * 1000 / rated oneBit / n

/-- Maximum wear of either mode is at least WEAR_HIGH_PCT (HLT_SUMMARY). -/
def wearHighNow (s : State) : Bool :=
  decide (s.hlt.wearHighPct * 10 ≤ wearMax s false) || decide (s.hlt.wearHighPct * 10 ≤ wearMax s true)

/-- Wear relocation of a group and mode (Table 8.7). -/
def askWear (s : State) (g : Nat) (oneBit : Bool) : State :=
  let mine := s.media.blks.filter fun e => chGrp (blkCh e.1) == g && ofMode s oneBit e.1
  let n := modeCount s oneBit fun c => chGrp c == g
  let total := sumBy (fun e => e.2.erases) mine
  let top := mine.foldl (fun m e => max m e.2.erases) 0
  if n = 0 ∨ (top * n - total) * 100 ≤ s.hlt.wearSpread * rated oneBit * n then s
  else match (mine.filter fun e => holdsLive s e.1).foldl (fun (acc : Option (Nat × FBlk)) e => match acc with
      | none => some e
      | some a => if e.2.erases < a.2.erases then some e else acc) none with
    | none => s
    | some e => askReloc s e.1 .wear

/-- Age triggers of retention relocation (Table 8.7). -/
def askAged (s : State) : State :=
  s.media.blks.foldl (fun s e =>
    let lim := if e.2.oneBit then s.hlt.retain1 else s.hlt.retainQ
    if holdsLive s e.1 && !e.2.erased && e.2.stamps.any (fun w => decide (lim ≤ elapsedIdx s w.2.1)) then askReloc s e.1 .retention else s) s

/-- Bin of a temperature in °C (Table 8.12). -/
def tempBin (t : Int) : Nat :=
  if t < 40 then 0 else if t < 70 then 1 else if t < 90 then 2 else if t < 100 then 3 else if t < 110 then 4 else 5

/-- The hottest valid volume reading. -/
def hotVol (s : State) : Option Int :=
  s.media.chans.foldl (fun acc c => c.2.vols.foldl (fun (acc : Option Int) v =>
    if v.2.tempValid then some (match acc with
      | none => v.2.temp
      | some a => max a v.2.temp) else acc) acc) none

/-- One second of a temperature source (R208, Table 8.12). -/
def sampleTemp (s : State) (d : Nat) (t : Int) : State :=
  let h := { s.hlt with thist := bump s.hlt.thist (d * 8 + tempBin t) 1 }
  let new := decide (Tab.get noTemp h.tmax d < t)
  { s with hlt := if new then { h with tmax := Tab.set noTemp h.tmax d t, tmaxAt := Tab.set 0 h.tmaxAt d (opHours s) } else h }

/-- HEALTH_SUMMARY (R208): once per second; `powerMw` is the power estimate (R394, log 3, DESIGN CHOICE). -/
def execHealthSummary (powerMw : Nat) (s : State) : Res :=
  if !running s ∨ opMs s < s.savedMs + 1000 then .next s
  else
    let s := (List.range 7).foldl (fun s d => sampleTemp s d (dieTemp s d / 4)) s
    let s := match hotVol s with
      | some t => sampleTemp s 7 t
      | none => s
    let s := askAged s
    let s := (List.range 16).foldl (fun s g => askWear (askWear s g false) g true) s
    let high := wearHighNow s
    let s := if high && !s.hlt.wearHigh then setHltEvt s 3 0xFFF 1 else s
    let s := checkReadOnly { s with hlt := { s.hlt with wearHigh := high, power := powerMw % 262144 } }
    .next { s with hltSaved := s.hlt, savedMs := opMs s }

/-- HLT_TSEL (R209): a snapshot of a tenant-class's read counters, cleared after it when CLR is 1. -/
def execHltTsel (p : Port) (v : Word) (s : State) : Res :=
  regWrite p 0 s fun s =>
    if fld v 10 6 ≠ 0 ∨ fld v 18 13 ≠ 0 then .fault (.reservedWrite p 0 0x300200)
    else
      let t := fld v 0 10
      let c := clsOfNat (fld v 16 2)
      let snap := (List.range 20).map fun k => if (getTen s t).isSome then Tab.get 0 (getCls s t c).rcnts k else 0
      let s := modPort s p fun q => { q with win := { q.win with hltSel := v.toNat % 2147483648, hltSnap := snap } }
      .next (if flag v 31 then modTCls s t c fun x => { x with rcnts := [] } else s)

/-- The telemetry counters (Table 17.7). -/
def telCount (s : State) (k : Nat) : Nat := if k = 10 ∨ k = 11 then Tab.get 0 s.hlt.telLife k else Tab.get 0 s.hlt.tel k

/-- HLT_TEL_SNAP (R394). -/
def execHltTelSnap (p : Port) (v : Word) (s : State) : Res :=
  regWrite p 0 s fun s =>
    if fld v 1 31 ≠ 0 then .fault (.reservedWrite p 0 0x301010)
    else if flag v 0 then
      .next (modPort s p fun q => { q with win := { q.win with telSnap := (List.range 12).map (telCount s) } })
    else .next s

end Sys2Proof.Machine
end

