-- ==== Sys2Proof/Machine/Channels.lean ====
section
/-! DEFINITION. Channel faults (R179, R206), calibration and temperature of volumes (R165, R175), and retraining (R163). -/

namespace Sys2Proof.Machine

/-! ### Sequencer hang -/

/-- What a status poll after a sequencer restart does to a program: pass completes it, fail is a program failure, busy goes on
(R179). -/
def pollPg (s : State) (l : Nat) (p : Pg) : LunPoll → State
  | .readyPass => pgPass (endOp s l) p
  | .readyFail => pgFail (endOp s l) p
  | .busy => s
  | .suspended => modLun s l fun u => { u with op := u.op.map fun o => { o with susp := .ready, serve := u.rq.map Rd.id } }

/-- One LUN is resolved after a restart (Table 7.7): a read goes back to the front of its queue, an erase that is not suspended
is issued again, a program is taken by its status. -/
def resolveLun (s : State) (status : List LunStatus) (l : Nat) : State :=
  let st := ((status.find? fun x => x.lun == l).map LunStatus.st).getD .busy
  let s := match runningRd (getLun s l) with
    | none => s
    | some r => modLun s l fun u => { u with
        rq := r :: u.rq, op := if u.sub.isSome then u.op.map fun o => { o with serve := r.id :: o.serve } else none, sub := none }
  match (getLun s l).op with
  | some { k := .pg p, .. } => pollPg s l p st
  | some { k := .er e, tokens := n, susp := u, .. } =>
    if u = .ready then s
    else if st = .suspended then
      modLun s l fun u => { u with op := u.op.map fun o => { o with susp := .ready, serve := u.rq.map Rd.id } }
    else
      modLun (mcnt (chCnt s (lunCh l) 6 1) 14 1) l fun u => { u with op := some { k := .er e, runNs := s.nowNs, tokens := n } }
  | _ => s

/-- SEQUENCER_HANG (R179). -/
def execSequencerHang (ch : Nat) (status : List LunStatus) (s : State) : Res :=
  if !alive s ∨ (getChan s ch).trained = false then .next s
  else
    let s := (chLuns ch).foldl (fun s l => resolveLun s status l) s
    let s := modChan s ch fun c => { c with restarts := satAdd 255 c.restarts 1 }
    .next (setFchEvt s ch 2 1)

/-! ### LUN hang -/

/-- Ceiling of an operation in ns (Table 7.4). -/
def ceilingNs : OpK → Nat
  | .rd r => if r.qlc then 600000 else 300000
  | .pg p => if oneBitPg p then 1500000 else 6000000
  | .er _ => 25000000
  | .rst => 2000000

/-- An operation has passed its ceiling, suspended time left out (R166): that of its suspend, once issued, or its own. -/
def pastCeiling (s : State) (o : Op) : Bool :=
  match o.susp with
  | .ready => false
  | .asked => decide (o.askNs + 100000 < s.nowNs) || decide (ceilingNs o.k < o.ran + (s.nowNs - o.runNs))
  | .none => decide (ceilingNs o.k < o.ran + (s.nowNs - o.runNs))

/-- The LUN Set Features that a read began with has passed its ceiling (Table 7.4). -/
def pastFeatures (s : State) (o : Op) : Bool := o.features && decide (o.runNs + 50000 < s.nowNs)

/-- What a LUN was doing and was to do is taken elsewhere: reads to rebuild, programs off their blocks, an erase back to its
queue (Table 7.7). -/
def clearLun (s : State) (l : Nat) : State :=
  let u := getLun s l
  let rds := (runningRd u).toList ++ u.rq ++ u.ovf ++ u.parked
  let now := match u.op with
    | some { k := .pg p, .. } => [p]
    | _ => []
  let er := match u.op with
    | some { k := .er e, .. } => [e]
    | _ => []
  let s := modLun s l fun u => { u with op := none, sub := none, rq := [], ovf := [], parked := [], eq := er ++ u.eq, loaded := [] }
  let s := now.foldl (fun s p => match p.kind with
    | .uc e i => if (getExt s e).released then s else failPiece s e i
    | _ => s) s
  let s := ((now ++ u.pq).map Pg.blk).eraseDups.foldl leaveBlk s
  rds.foldl sendRebuild s

/-- LUN_HANG (R179): reads go to rebuild, zones writing to the LUN take replacement blocks, and Reset LUN is issued. `features` says that the LUN
hangs in the LUN Set Features that a read began with, and not in the read. -/
def execLunHang (hung : HungLun) (s : State) : Res :=
  let u := getLun s hung.lun
  let past := if hung.features then u.op.any (pastFeatures s) || u.sub.any (pastFeatures s) else u.op.any (pastCeiling s) || u.sub.any (pastCeiling s)
  if !alive s ∨ u.hung = true ∨ u.retired = true ∨ past = false then .next s
  else
    let c := lunCh hung.lun
    let s := chCnt (setFchEvt (setFchEvt s c 7 1) c 3 1) c 12 1
    let s := clearLun (modLun s hung.lun fun u => { u with hung := true }) hung.lun
    .next (modChan (modLun s hung.lun fun u => { u with op := some { k := .rst, runNs := s.nowNs, tokens := 0 } }) c fun x => { x with recovering := true })

/-- In-use blocks of a LUN. -/
def blocksInUse (s : State) (l : Nat) : List Nat :=
  (s.media.blks.filter fun e => blkLun e.1 == l && e.2.inUse).map Prod.fst

/-- A LUN is retired (R179, R206): its blocks count as retired for good, its spares are gone, every role it filled is filled from its
group, and what its blocks hold is rebuilt onto other blocks. A block in use is replaced from the relocation reserve, which is what falls short then
(R202). -/
def retireLun (s : State) (l : Nat) : State :=
  let c := lunCh l
  let n := nominal s
  let spares := readyLun s l .spare
  let held := blocksInUse s l
  let roles := (List.range n).map fun i =>
    let b := l * 16384 + i
    if held.contains b ∧ roleOf s b ≠ .retired then Role.reserve else roleOf s b
  let s := modLun (clearLun s l) l fun u => { retired := true, pq := u.pq }
  let s := { s with media := { s.media with deadLuns := s.media.deadLuns ++ [l] } }
  let s := mcnt s 12 (lunTotal s)
  let s := { s with hlt := { s.hlt with retiredLuns := satAdd 255 s.hlt.retiredLuns 1 } }
  let s := logEv s 2 (src 0xB l) 0xB003 (leBytes 6 (mediaAddr (l * 16384) 0 0 0) ++ leBytes 1 5)
  let s := setHltEvt (setFchEvt s c 4 1) 5 0xFFF 1
  let s := loseSpares s (chGrp c) spares
  let s := held.foldl (fun s b => if (s.media.relocs.any fun e => e.2.tgt == some b) then leaveBlk s b else s) s
  let s := held.foldl (fun s b => askReloc (leavePieces s b) b .replace) s
  let s := roles.foldl (fun s r => askRole s c r) (stageRec s)
  let left := (s.media.relocs.filter fun e => e.2.ext.isNone && blkLun e.2.src == l).length
  if left = 0 then s else { s with hlt := { s.hlt with rebuilds := s.hlt.rebuilds ++ [(l, left)] } }

/-- Recovery on a channel ends with the reset of its last hung LUN (FCH_CH_STAT.RECOVERING). -/
def endRecovery (s : State) (c : Nat) : State :=
  modChan s c fun x => { x with recovering := (chLuns c).any fun l => (getLun s l).hung }

/-- RESET_LUN_DONE (R179): the LUN is kept, or retired. -/
def execResetLunDone (l : Nat) (ok : Bool) (s : State) : Res :=
  match (getLun s l).op with
  | some { k := .rst, .. } =>
    if !alive s then .next s
    else if ok then .next (endRecovery (noteIdle (modLun s l fun u => { u with op := none, hung := false }) l) (lunCh l))
    else .next (endRecovery (retireLun s l) (lunCh l))
  | _ => .next s

/-! ### Volumes -/

/-- A volume of a channel. -/
def getVol (s : State) (ch v : Nat) : Vol := Tab.get {} (getChan s ch).vols v

/-- The state with a volume rewritten. -/
def modVol (s : State) (ch v : Nat) (f : Vol → Vol) : State := modChan s ch fun c => { c with vols := Tab.upd {} c.vols v f }

/-- A volume in use. -/
def volOk (s : State) (ch v : Nat) : Bool := (getChan s ch).trained && (getVol s ch v).present && !(getVol s ch v).excluded

/-- ZQ_CALIBRATION_SHORT (R165): every 128 ms. -/
def execZqCalibrationShort (ch v : Nat) (s : State) : Res :=
  if alive s && volOk s ch v && decide ((getVol s ch v).lastZqNs + 128000000 ≤ s.nowNs) then
    .next (modVol s ch v fun x => { x with lastZqNs := s.nowNs })
  else .next s

/-- FLASH_TEMPERATURE_READ (R175): every 10 ms; three failures in a row make the reading invalid, with an event. -/
def execFlashTemperatureRead (ch v : Nat) (temp : Option Int) (s : State) : Res :=
  if alive s && volOk s ch v && decide ((getVol s ch v).lastTempNs + 10000000 ≤ s.nowNs) then
    let s := modVol s ch v fun x => { x with lastTempNs := s.nowNs }
    match temp with
    | some t => .next (modVol s ch v fun x => { x with temp := t, tempValid := true, tempFails := 0 })
    | none =>
      let n := (getVol s ch v).tempFails + 1
      let s := modVol s ch v fun x => { x with tempFails := n, tempValid := x.tempValid && decide (n < 3) }
      .next (if n = 3 then setFchEvt s ch 6 1 else s)
  else .next s

/-! ### Retraining (R163) -/

/-- A change of band can reach a channel now: 10 ms after the quadrant's last change, or as part of the change under way, and
after the lower channel groups. -/
def bandTurn (s : State) (ch : Nat) : Bool :=
  let cs := (quadChs (chQuad ch)).filter fun c => (getChan s c).trained
  let due := bandDue s ch
  (cs.any (fun c => (getChan s c).band == due) || cs.all fun c => decide ((getChan s c).bandNs + 10000000 ≤ s.nowNs)) &&
    cs.all fun c => chGrp c == chGrp ch ||
      (!(getChan s c).retraining && (decide (chGrp ch < chGrp c) || (getChan s c).band == due))

/-- No operation is queued or under way on any LUN of a channel. -/
def chanIdle (s : State) (ch : Nat) : Bool := (chLuns ch).all fun l => lunIdle (getLun s l)

/-- What training again leaves of a channel (R164): the rate that its remaining volumes pass. Those that fail at 800 MT/s are excluded, and what
their LUNs were to do is taken elsewhere, as after a hang (log 135, DESIGN CHOICE). -/
def retrainRate (s : State) (ch : Nat) (fails : List (Nat × List Nat)) : State :=
  let c := getChan s ch
  let vols := (c.vols.filter fun e => e.2.present && !e.2.excluded).map Prod.fst
  let (rate, kept) := trainRate (fun v => ((fails.find? fun e => e.1 == v).map Prod.snd).getD []) c.rate vols
  let lost := vols.filter fun v => !kept.contains v
  let s := modChan s ch fun c => { c with
    trained := !kept.isEmpty, wp := kept.isEmpty, rate := if kept.isEmpty then 0 else rate, downgraded := c.downgraded || decide (rate < c.rate)
    vols := Tab.mapv {} (fun v x => if lost.contains v then { x with excluded := true } else x) c.vols }
  let s := if rate < c.rate then setFchEvt s ch 1 1 else s
  let s := if lost.isEmpty then s else setFchEvt s ch 5 1
  let s := lost.foldl (fun s v => (List.range 4).foldl (fun s k => clearLun s (ch * 32 + v * 4 + k)) s) s
  { s with media := { s.media with busMts := lowestMts s } }

/-- CHANNEL_RETRAIN (R163): the bus of a channel pauses, for a new band or, at an idle moment, because FCH_CTL.RETRAIN asked. A hang recovery comes first (R179). -/
def execChannelRetrain (ch : Nat) (run : Retraining) (s : State) : Res :=
  let c := getChan s ch
  let due := bandDue s ch
  let move := due != c.band && bandTurn s ch
  if alive s && c.trained && !c.retraining && !c.recovering && (move || (c.retrainReq && chanIdle s ch)) then
    let b := if move then due else c.band
    let us := min 60 run.us
    let s := modChan s ch fun c => { c with
      band := b, bandNs := if move then s.nowNs else c.bandNs, setUsed := if c.timing.contains b then b else c.setUsed
      retraining := true, pause := some (s.nowNs + us * 1000, us) }
    .next (retrainRate s ch run.fails)
  else .next s

/-- The bus pause of a channel ends (R163, R165): its timing set is refreshed, ZQ calibration short is issued to its volumes, and the retraining is
counted. -/
def endPause (s : State) (ch us : Nat) : State :=
  let s := modChan s ch fun c => { c with
    retraining := false, pause := none, retrainReq := false, lastUs := us, trainCount := satAdd 0xFFFF c.trainCount 1, setUsed := c.band
    timing := if c.timing.contains c.band then c.timing else c.timing ++ [c.band]
    vols := Tab.mapv {} (fun _ v => { v with lastZqNs := s.nowNs }) c.vols }
  setFchEvt s ch 0 1

/-- The bus pauses that are over end. -/
def endPauses (s : State) : State :=
  s.media.chans.foldl (fun s e => match e.2.pause with
    | some (t, us) => if t ≤ s.nowNs then endPause s e.1 us else s
    | none => s) s

/-- RETRAIN (R163): FCH_CTL.RETRAIN is written 1. -/
def execRetrain (p : Port) (ch : Nat) (s : State) : Res :=
  regWrite p 0 s fun s => if ch < 128 then .next (modChan s ch fun c => { c with retrainReq := true }) else .next s

/-- CNT_CLR_FCH (R174): FCH_CTL.CNT_CLR is written 1. -/
def execCntClrFch (p : Port) (ch : Nat) (s : State) : Res :=
  regWrite p 0 s fun s => if ch < 128 then .next (modChan s ch fun c => { c with cnts := [] }) else .next s

end Sys2Proof.Machine
end

