-- ==== Sys2Proof/Machine/Bpm.lean ====
section
/-! DEFINITION. The buffer pool's own commands (R213, R221 to R225) and the tenant windows of the buffer pool and of
admission (R149). -/

namespace Sys2Proof.Machine

/-- BPM_SPILL (R213): a head cache of more than 6,144 entries. -/
def execBpmSpill (s : State) : Res :=
  if s.bpm.ready && decide (6144 < s.bpm.head) then .next { s with bpm := spillHead s.bpm } else .next s

/-- BPM_REFILL (R213): a head cache of fewer than 2,048 entries over a stack that is not empty. -/
def execBpmRefill (s : State) : Res :=
  if s.bpm.ready && decide (s.bpm.head < 2048) then .next { s with bpm := refillHead s.bpm } else .next s

/-- A request that backed off: class key, who, since when. -/
def takeRetry (s : State) (k id afterNs : Nat) : Option State :=
  match s.bpm.retries.find? fun e => e.1 == k && e.2.1 == id with
  | none => none
  | some e =>
    if e.2.2 + afterNs ≤ s.nowNs then
      some { s with bpm := { s.bpm with retries := s.bpm.retries.erase e } }
    else none

/-- CIPHER_CHARGE_RETRY (R222): a sector or COPY block that waits in staging asks for its CIPHER buffer again after 1 µs. -/
def execCipherChargeRetry (r : Retry) (s : State) : Res :=
  match takeRetry s kCipher r.id 1000, getDeep s r.id with
  | some s, some d =>
    if chargeOk s.bpm kCipher 1 then
      let s := useCipher (dropDeep s r.id)
      match d.rd.why, d.secs with
      | .cmd t seq, q :: _ => .next (cmdSec s t seq d.rd q d.left true d.bad)
      | _, _ => .next s
    else .next (backOff (tieCount s 3 kCipher 1 r.tie) kCipher r.id)
  | some s, none => .next s
  | none, _ => .next s

/-- BACK_OFF_RETRY (R222): the fold (class 0) or relocation (class 1) `n` of quadrant `q` presents its charge again after
10 µs; a quadrant under reset presents none (R226). -/
def execBackOffRetry (cls q : Nat) (r : Retry) (s : State) : Res :=
  let mine := if cls = 0 then
      let f := getFold s r.id
      chQuad (((getZone s f.tenant f.zone).members.head?.map Member.ch).getD 0)
    else relQuad s (getReloc s r.id)
  if 1 < cls ∨ q ≠ mine ∨ quadOut s q = true then .next s
  else match takeRetry s (kFold + cls) r.id 10000 with
    | none => .next s
    | some s =>
      if cls = 0 then
        if s.media.folds.any (fun e => e.1 == r.id) && (getFold s r.id).waiting then
          .next (beginFold (tieCount s (5 + q) kFold (if (getFold s r.id).vers.isEmpty then 0 else foldNeed s (getFold s r.id)) r.tie) r.id)
        else .next s
      else
        if s.media.relocs.any (fun e => e.1 == r.id) && (getReloc s r.id).waiting then
          .next (stepReloc (tieCount s (5 + q) kReloc 64 r.tie) r.id)
        else .next s

/-- BPM_TEST (R225): the checks of R223 on the pointer of BPM_TEST_ADDR, with no effect on the pool. -/
def execBpmTest (p : Port) (s : State) : Res :=
  regWrite p 0 s fun s =>
    .next { s with bpm := { s.bpm with
      testDone := true, testResult := pushCheck s.bpm (s.bpm.testLo + p32 * s.bpm.testHi) } }

/-- CNT_CLR_BPM: BPM_CTL.CNT_CLR clears BPM_MISSES and every BPM_REQk counter. -/
def execCntClrBpm (p : Port) (s : State) : Res :=
  regWrite p 0 s fun s => .next { s with bpm := { s.bpm with misses := 0, rej := [], empty := [], tie := [] } }

/-- A 64-bit counter as two registers, low half first (R37). -/
def halves (n : Nat) : List Nat := [n % p32, n / p32 % p32]

/-- Registers 0x0410 to 0x0437 of a tenant, in 32-bit words. -/
def bpmWindow (s : State) (t : Nat) : List Nat :=
  match getTen s t with
  | none => List.replicate 10 0
  | some x =>
    [Tab.get 0 s.bpm.floors t, Tab.get 0 s.bpm.caps t, Tab.get 0 s.bpm.charges t, Tab.get 0 s.bpm.rsvds t,
      sumBy (fun e => if e.2.dirty && e.2.tenant == t then e.2.bufs.length else 0) s.vers, 0] ++ halves x.qhold ++ halves x.dphold

/-- BPM_TSEL: a snapshot of a tenant's registers; CLR clears its hold counters after it. -/
def execBpmTsel (p : Port) (v : Word) (s : State) : Res :=
  regWrite p 0 s fun s =>
    if fld v 10 21 ≠ 0 then .fault (.reservedWrite p 0 0x60400)
    else
      let t := fld v 0 10
      let snap := bpmWindow s t
      let s := modPort s p fun q => { q with win := { q.win with bpmSel := t, bpmSnap := snap } }
      .next (if flag v 31 then modTen s t fun x => { x with qhold := 0, dphold := 0 } else s)

/-- Registers 0x0110 to 0x01B7 of a tenant-class, in 32-bit words (R149). -/
def admWindow (s : State) (t : Nat) (c : Cls) : List Nat :=
  match getTen s t with
  | none => List.replicate 42 0
  | some ten =>
    let x := tcls ten c
    let used := inUse s t c
    let waiting := (s.cmds.filter fun k => k.tenant == t && cCls k == c && k.ph == .queued).length
    [x.ctxSill, x.ctxCap, x.sillMbps, x.sillOps, x.capMbps, x.capOps, mk [(16, 16, x.burstUs), (0, 8, x.weight)], x.holdUs,
      used, waiting, used - x.ctxSill, 0] ++ (List.range 15).flatMap fun k => halves (Tab.get 0 x.cnts k)

/-- ADM_TWIN_SEL (R149): a snapshot of a tenant-class's registers; CLR_MAX clears its HOLD_MAX_US after it. -/
def execAdmTwinSel (p : Port) (v : Word) (s : State) : Res :=
  regWrite p 0 s fun s =>
    if fld v 10 6 ≠ 0 ∨ fld v 18 13 ≠ 0 then .fault (.reservedWrite p 0 0x80100)
    else
      let t := fld v 0 10
      let c := clsOfNat (fld v 16 2)
      let snap := admWindow s t c
      let s := modPort s p fun q => { q with win := { q.win with admSel := mk [(0, 10, t), (16, 2, fld v 16 2)], admSnap := snap } }
      .next (if flag v 31 then modTCls s t c fun x => { x with cnts := Tab.set 0 x.cnts 12 0 } else s)

end Sys2Proof.Machine
end

