-- ==== Sys2Proof/Machine/Mep.lean ====
section
/-! DEFINITION. Memory protection (R227 to R248): the outcome of a read under the line code and the word code, the error log
and counters, what an error does by region (Table 10.6), skim engines, refresh, injection and test accesses. -/

namespace Sys2Proof.Machine

/-! ### Events, counters and the log -/

/-- A MEP_EVT bit is set. -/
def setMepBit (s : State) (b : Nat) : State := { s with mep := { s.mep with evt := setBit s.mep.evt b } }

/-- A MEP_EVT bit is set, with its generic record (Table 17.8). -/
def setMepEvt (s : State) (b inst : Nat) : State :=
  raiseEvt s s.mep.evt b (fun s v => { s with mep := { s.mep with evt := v } }) 1 5 inst 0x50008

/-- A saturating 32-bit counter of a table of counters. -/
def bump32 (t : Tab Nat) (k : Nat) : Tab Nat := Tab.upd 0 t k fun n => satAdd 0xFFFFFFFF n 1

/-- A detection is logged (R245): into the next slot, over the oldest entry when every slot is in use, unless LOG_HOLD keeps
them. -/
def logMem (s : State) (mem kind source addr pos synd : Nat) : State :=
  let m := s.mep
  if m.logHold && decide (64 ≤ m.log.length) then
    setMepEvt { s with mep := { m with logLost := satAdd 0xFFFFFFFF m.logLost 1 } } 5 mem
  else
    let e : MemErr := { mem := mem, kind := kind, source := source, addr := addr, pos := pos, syndrome := synd, timeMs := opMs s }
    { s with mep := { m with log := Tab.set none m.log m.logNext (some e), logNext := (m.logNext + 1) % 64 } }

/-- A syndrome: a free value (log 4, DESIGN CHOICE). -/
def freeSynd (s : State) (mem : Nat) : State × Nat :=
  ({ s with freeCtr := s.freeCtr + 1 }, (Config.syndrome s.freeCtr).toNat % (if mem < 2 then p32 else 256))

/-- A correction (R240): counted and logged, its corrected write-back due. `by'` is 0 for a functional read and e + 1 for skim
engine e. -/
def corrected (s : State) (mem addr source pos by' : Nat) : State :=
  let (s, y) := freeSynd s mem
  let s := logMem s mem 1 source addr pos y
  { s with mep := { s.mep with
      ce := bump32 s.mep.ce mem
      hourCe := bump s.mep.hourCe mem 1
      pendFix := s.mep.pendFix.filter (fun e => !(e.1 == mem && e.2.1 == addr)) ++ [(mem, addr, by')] } }

/-- Region of an HBM line, as MEM_ERROR gives it (Table 17.4): the regions of Table 1.4 in their order, and the scratch at
the end (R247). -/
def regionOf (line : Nat) : Nat :=
  if line < 0x40000000 then 0
  else if line < 0x42000000 then 1
  else if line < 0x42400000 then 2
  else if line < 0x42800000 then 3
  else if line < 0x42900000 then 4
  else if line < 0x47FFF800 then 5
  else 6

/-! ### What an uncorrectable error does (Table 10.6) -/

/-- A logical block is poisoned (R242): recorded once. -/
def poisonVer (s : State) (mem v : Nat) : State :=
  let x := getVer s v
  if x.poison then s
  else logEv (setMepBit (modVer s v fun x => { x with poison := true }) 3) 3 (src 5 mem) 0x5002
    (leBytes 4 (tz x.tenant x.zone) ++ leBytes 8 x.lba)

/-- A block of a write not yet acknowledged is fetched again and encrypted afresh, under a new invocation (R243); with its
path lost, or with none left in the zone's final epoch, it is poisoned (R284). -/
def refetch (s : State) (mem v : Nat) : State :=
  let x := getVer s v
  match getCmd s x.tenant x.seq with
  | none => poisonVer s mem v
  | some c =>
    if c.redirected || c.ph == .gen then poisonVer s mem v
    else if x.cipherOff then s
    else
      if epochShort (getZone s x.tenant x.zone) 1 then poisonVer s mem v
      else
        let s := takeFor s x.tenant x.zone
        let r := getZone s x.tenant x.zone
        let s := modVer s v fun x => { x with iv := r.ivctr, epoch := r.epoch }
        if keyGone s v then modVer s v fun x => { x with hbm := false } else encryptBlock s v

/-- Buffers are withdrawn (R225): the entries of those that are free leave the free stack, as far as they lie there, and the head cache. -/
def withdraw (s : State) (l : List Nat) (inHead : Bool) : State :=
  let l := l.filter fun i => decide (i < poolSize) && !(s.bpm.withdrawn.any fun e => e.1 == i)
  let free := (l.filter fun i => stacked s.bpm i).length
  let fromStack := if inHead then free - s.bpm.head else min free s.bpm.stack
  let s := { s with bpm := { s.bpm with
    withdrawn := l.foldl (fun t i => Tab.set 0 t i 1) s.bpm.withdrawn
    stack := s.bpm.stack - fromStack, head := s.bpm.head - (free - fromStack) } }
  setBpmEvt s 5 0xF 1

/-- `n` free buffers whose indices lie in a word or a line of the free stack: which ones is a free value (log 4, DESIGN CHOICE). -/
def freeIndices (s : State) (n : Nat) : State × List Nat :=
  let step := fun (l : List Nat) (_ : Nat) =>
    findFree s.bpm (freeFuel s.bpm) (((l.head?.map (· + 1)).getD (Config.placeOf s.freeCtr)) % poolSize) :: l
  ({ s with freeCtr := s.freeCtr + 1 }, ((List.range n).foldl step []).eraseDups)

/-- One of a list, picked by a free value (log 111, DESIGN CHOICE). -/
def pickOf {α : Type} (s : State) (l : List α) : State × Option α :=
  ({ s with freeCtr := s.freeCtr + 1 }, l[Config.placeOf s.freeCtr % max 1 l.length]?)

/-- Whether the other copy of what was lost is lost too: a fact of the memory that no command brings, a free value (log 105, DESIGN
CHOICE). -/
def bothLost (s : State) : State × Bool := ({ s with freeCtr := s.freeCtr + 1 }, Config.placeOf s.freeCtr % 2 == 1)

/-- Both copies of a command's context are lost (R244): its completion is dropped, its tag is free, and its effects are those of R30. -/
def loseContext (s : State) (mem : Nat) (c : Cmd) : State :=
  let s := endQueued s c
  let s := if c.ph = .resetWait then modZone s c.tenant (pZone c.pkt) fun r => { r with resetWait := none } else s
  let s := if c.ph = .gen then s else endPath s c 0 []
  let s := { s with mep := { s.mep with ctxLost := satAdd 0xFFFFFFFF s.mep.ctxLost 1 } }
  let s := logEv (setMepBit s 7) 4 (src 5 mem) 0x5003
    (leBytes 2 c.tenant ++ leBytes 2 (pTag c.pkt) ++ leBytes 4 (match c.port with | .a => 0 | .b => 1) ++ leBytes 4 c.seq)
  let s := sweepVers (dropCmd s c.tenant c.seq)
  if c.ph = .resetWait then wakeHeld s c.tenant (pZone c.pkt) else s

/-- A line of the command contexts is lost (R244): repaired from the other copy, unless that is lost too. -/
def ctxAction (s : State) (mem : Nat) : State :=
  let (s, c) := pickOf s (s.cmds.filter Cmd.granted)
  match c with
  | none => s
  | some c =>
    let (s, lost) := bothLost s
    if lost then loseContext s mem c else s

/-- A line of the zone table is lost (Table 10.6): its entry is rebuilt, or the zone's commands stay held and the zone is OFFLINE at the next
power-on. The code of that event is open (log 4). -/
def zoneAction (s : State) (mem : Nat) : State :=
  let (s, e) := pickOf s s.zones
  match e with
  | none => s
  | some e =>
    let (s, lost) := bothLost s
    if lost then
      let s := { s with zones := Tab.upd {} s.zones e.1 fun r => { r with tabLost := true }, freeCtr := s.freeCtr + 1 }
      logEv s 4 (src 5 mem) (0x5000 + Config.openCode s.freeCtr % 0x1000) []
    else setMepEvt s 8 mem

/-- The current versions whose entries lie in a line of the conventional-zone map. -/
def mapped (s : State) (line : Nat) : List Nat :=
  (s.vers.filter fun e =>
    let x := e.2
    let n := subs (tenD s x.tenant)
    isConv (tenD s x.tenant) x.zone && live s x && ((current s x.tenant x.zone x.lba).map Prod.fst == some e.1) &&
      (List.range n).any fun j => Config.mapEntry x.tenant x.zone (x.lba * n + j) % 2 ^ 28 / 8 == line - mapLine0).map Prod.fst

/-- A line of the conventional-zone map is lost (Table 10.6): its entries are rebuilt, and the block of one that cannot be is poisoned. -/
def mapAction (s : State) (mem line : Nat) : State :=
  (mapped s line).foldl (fun s v =>
    let (s, lost) := bothLost s
    if lost then poisonVer s mem v else s) (setMepEvt s 8 mem)

/-- A slot whose key and wrapped copy are both lost: `st` is the state it shows. What the system area holds of it is restored at the next boot
(R274). -/
def loseSlot (st : Nat) (k : KeySlot) : KeySlot := if k.persist then { k with state := st } else { emptySlot k with state := st }

/-- A word of the key store is lost (Table 10.6): the key is recovered from the wrapped copy in its slot, or the slot is emptied; slots by
tenant, and device slots from 0x400. -/
def keyAction (s : State) : State :=
  let ts := (s.cip.tslots.filter fun e => e.2.state == 1).map Prod.fst
  let ds := (s.cip.dslots.filter fun e => e.2.state == 1).map fun e => 0x400 + e.1
  let (s, k) := pickOf s (ts ++ ds)
  match k with
  | none => s
  | some k =>
    let (s, lost) := bothLost s
    if !lost then s
    else if k < 0x400 then
      keyNotice (setCipEvt { s with cip := { s.cip with tslots := Tab.upd {} s.cip.tslots k (loseSlot 2) } } 5 k 3) k 3
    else setCipEvt { s with cip := { s.cip with dslots := Tab.upd {} s.cip.dslots (k - 0x400) (loseSlot 3) } } 5 k 3

/-- The action on a lost line of HBM, by its region. -/
def hbmAction (s : State) (mem line : Nat) : State :=
  match regionOf line with
  | 0 =>
    let i := line / 64
    match s.vers.find? fun e => e.2.bufs.contains i && e.2.hbm with
    | none => s
    | some (v, x) => if x.acked then poisonVer s mem v else refetch s mem v
  | 1 => mapAction s mem line
  | 2 => ctxAction s mem
  | 3 => zoneAction s mem
  | 4 => let r := freeIndices s 16; withdraw r.1 r.2 false
  | _ => s

/-- The action on a lost word of an on-die memory. -/
def sramAction (s : State) (mem word : Nat) : State :=
  match mem with
  | 3 => keyAction s
  | 4 => -- a derived key is dropped: which one is a free value
    let n := Config.placeOf s.freeCtr % max 1 s.cip.cache.length
    { s with freeCtr := s.freeCtr + 1, cip := { s.cip with cache := s.cip.cache.eraseIdx n } }
  | 5 => withdraw s ((List.range 64).map fun j => 64 * word + j) false
  | 6 => let r := freeIndices s 2; withdraw r.1 r.2 true
  | 8 => -- its units are primed; a unit outside the pool is lost as a whole
    (List.range 64).foldl (fun s j =>
      let u := 64 * word + j
      let s := { s with mep := prime s.mep u }
      if u < poolSize then s else hbmAction s (u % 2) (64 * u)) s
  | 9 => -- the record of four words is replaced by RECORD_LOST
    let slot := word / 4
    match s.evr.ring.find? fun r => r.num % 8192 == slot with
    | none => s
    | some r =>
      let lost := { newRec s 2 0 0x0001 false (leBytes 4 r.num) with num := r.num }
      { s with evr := { s.evr with ring := s.evr.ring.map fun x => if x.num = r.num then lost else x } }
  | 10 => -- buckets and counters in the word restart at 0: whose is a free value
    let k := Config.placeOf s.freeCtr % 4096
    modTCls { s with freeCtr := s.freeCtr + 1 } (k / 4) (clsOfNat k) fun x =>
      { x with bktB := 0, bktO := 0, cnts := [], rcnts := [] }
  | 12 | 13 | 14 | 15 => -- the operations of one LUN of the quadrant are issued again
    let (s, l) := pickOf s ((s.media.luns.map Prod.fst).filter fun l => chQuad (lunCh l) == mem - 12)
    match l with
    | none => s
    | some l => resolveLun s [] l
  | _ => s

/-- A poison pattern is written (R233): counted and logged. -/
def poisonPattern (s : State) (mem addr source : Nat) : State :=
  let s := { s with mep := { s.mep with psn := bump32 s.mep.psn mem } }
  logMem s mem 5 source addr 0xFF 0

/-- A lost word of the merge buffers (R233): its entry's line is written with the poison pattern, then handled by region. -/
def mergeAction (s : State) (word : Nat) : State :=
  match s.mep.merges[word / 10]? with
  | none => s
  | some e =>
    let s := { s with mep := { s.mep with merges := s.mep.merges.eraseIdx (word / 10) } }
    hbmAction (poisonPattern s e.stack e.line 1) e.stack e.line

/-- An uncorrectable error (kind 2), a poisoned-line read (3) or an address fault (4) is reported (R241). -/
def uncorrectable (s : State) (mem addr source kind pos : Nat) : State :=
  let (s, y) := freeSynd s mem
  let s := if kind = 3 then s else { s with mep := { s.mep with ue := bump32 s.mep.ue mem } }
  let s := logMem s mem kind source addr pos y
  let s := setMepBit s 1
  let s := if kind = 4 then setMepBit s 2 else s
  let region := if mem < 2 then regionOf addr else 0xFF
  let s := logEv s 3 (src 5 mem) 0x5001 (leBytes 1 kind ++ leBytes 1 source ++ leBytes 1 region ++ leBytes 1 0 ++ leBytes 4 addr ++
    leBytes 4 y)
  if mem < 2 then hbmAction s mem addr
  else if mem = 11 ∧ addr < 640 then mergeAction s addr
  else sramAction s mem addr

/-- What a read found is taken up. -/
def found (s : State) (mem addr source by' : Nat) : MemFinding → State
  | .clean => s
  | .corrected pos => corrected s mem addr source pos by'
  | .uncorrectable => uncorrectable s mem addr source 2 0xFF
  | .addrFault =>
    let pos := if mem < 2 then 72 + Config.placeOf s.freeCtr % 4 else 0xFF
    uncorrectable { s with freeCtr := s.freeCtr + 1 } mem addr source 4 pos
  | .poisoned => uncorrectable s mem addr source 3 0xFF

/-! ### Injection -/

/-- A write to a line or word meets the armed injection (R246). -/
def flipHits (s : State) (mem addr : Nat) : Option Flip :=
  match s.mep.flipArmed with
  | none => none
  | some f => if f.mem = mem ∧ (f.amatch = false ∨ f.addr = addr) then some f else none

/-- The armed injection fires. -/
def flipFire (s : State) (mem : Nat) : State :=
  setMepEvt { s with mep := { s.mep with flipArmed := none, flipFired := true } } 6 mem

/-! ### Scratch lines and test words -/

/-- Line index of line k of a stack's scratch (R247). -/
def scratchLine (stack k : Nat) : Nat := 0x47FFF800 + k / 64 * 128 + stack * 64 + k % 64

/-- Key of a test line: scratch line k of stack m, or the test word of memory m. -/
def testKey (mem k : Nat) : Nat := if mem < 2 then mem * 1024 + k else 2048 + mem

/-- The address of a test line: a line index, or the word index of the test word. -/
def testAddr (mem k : Nat) : Nat := if mem < 2 then scratchLine mem k else Config.testWord mem % p32

/-- A test line. -/
def getLine (s : State) (mem k : Nat) : TestLine := Tab.get {} s.mep.lines (testKey mem k)

/-- A test line is written (R246, R247): an armed injection that the write meets corrupts what is stored. -/
def putLine (s : State) (mem k : Nat) (x : TestLine) : State :=
  let a := testAddr mem k
  let s := { s with mep := dropFix (if mem < 2 then prime s.mep (a / 64) else s.mep) mem a }
  let hit := flipHits s mem a
  let x := match hit with
    | none => { data := x.data, comp := x.comp : TestLine }
    | some f => { data := x.data, comp := x.comp, grp := f.grp, dlo := f.dlo, dhi := f.dhi, chk := f.chk, amask := f.amask }
  let s := { s with mep := { s.mep with lines := Tab.set {} s.mep.lines (testKey mem k) x } }
  if hit.isSome then flipFire s mem else s

/-- The nonzero bytes of a mask: their positions from `base` on. -/
def badBytes (base n mask : Nat) : List Nat :=
  ((List.range n).filter fun j => bits mask (8 * j) 8 != 0).map fun j => base + j

/-- The one bits of a mask: their positions from `base` on. -/
def badBits (base n mask : Nat) : List Nat := ((List.range n).filter fun j => bit mask j).map fun j => base + j

/-- Symbols of a scratch line in error (Table 10.2): data or companion bytes, check bytes, virtual symbols. -/
def badSymbols (x : TestLine) : List Nat :=
  (if x.grp < 8 then badBytes (8 * x.grp) 4 x.dlo ++ badBytes (8 * x.grp + 4) 4 x.dhi
    else if x.grp = 8 then badBytes 64 4 x.dlo else []) ++ badBytes 68 4 x.chk ++ badBytes 72 4 x.amask

/-- Bits of a test word in error: data bits, then check bits. -/
def badWordBits (x : TestLine) : List Nat := badBits 0 32 x.dlo ++ badBits 32 32 x.dhi ++ badBits 64 8 x.chk

/-- The free outcome of a read with more errors than the code tells apart (log 4, DESIGN CHOICE): kind and position. -/
def manyOutcome (n : Nat) (kinds : List Nat) (width : Nat) : Nat × Nat :=
  let k := nth 2 kinds (n % 4)
  (k, if k = 1 ∨ k = 4 then n / 4 % width else 0xFF)

/-- An entry of the free stack is stored with errors (R246): of the two indices of a word of the head cache, or of the line's pair of group
GROUP, those whose mask is not 0 no longer name their buffer. It passes its check only with more errors than the code tells apart, and then
as a free value has it; which free buffers they were is a free value too (log 138, DESIGN CHOICE). -/
def spoilEntries (s : State) (f : Flip) : State :=
  let r := freeIndices s 2
  let put := fun (s : State) (i mask : Nat) =>
    if mask = 0 then s else { s with bpm := { s.bpm with spoilt := s.bpm.spoilt ++ [(i, i ^^^ mask)] } }
  let errs := if f.mem < 2 then (badSymbols { grp := f.grp, dlo := f.dlo, dhi := f.dhi, chk := f.chk, amask := f.amask }).length
    else (badWordBits { dlo := f.dlo, dhi := f.dhi, chk := f.chk }).length
  if f.mem < 2 ∧ 8 ≤ f.grp ∨ errs < 3 ∨ 1 < (manyOutcome (Config.manyErrors s.freeCtr) [0, 1, 2, 4] 72).1 then s
  else match r.2 with
    | [j, i] => put (put r.1 i f.dlo) j f.dhi
    | _ => s

/-- Outcome of a read of a test line: kind (Table 10.7, 0 clean) and position (R228, R229, R230, R233). -/
def readKind (s : State) (mem k : Nat) : Nat × Nat :=
  let x := getLine s mem k
  let many := Config.manyErrors s.freeCtr
  if mem < 2 then
    match badSymbols x with
    | [] => (0, 0xFF)
    | [p] => if p < 72 then (1, p) else (4, p)
    | l => if l.length ≤ 3 then (2, 0xFF)
      else if x.chk = 0xFFFFFFFF ∧ l.length = 4 then (3, 0xFF)
      else manyOutcome many [0, 1, 2, 4] 72
  else
    match badWordBits x with
    | [] => (0, 0xFF)
    | [p] => (1, p)
    | l => if l.length = 2 then (2, 0xFF)
      else if l = (List.range 8).map (64 + ·) then (3, 0xFF)
      else manyOutcome many (if l.length % 2 = 1 then [1, 2, 1, 2] else [0, 2, 4, 2]) 72

/-- A data DWORD of a test line as stored, its injected errors in it. -/
def rawDword (mem : Nat) (x : TestLine) (k : Nat) : Nat :=
  let d := Tab.get 0 x.data k
  if mem < 2 then
    if x.grp < 8 ∧ k = 2 * x.grp then d ^^^ x.dlo else if x.grp < 8 ∧ k = 2 * x.grp + 1 then d ^^^ x.dhi else d
  else if k = 0 then d ^^^ x.dlo else if k = 1 then d ^^^ x.dhi else d

/-- The companion bytes as stored. -/
def rawComp (x : TestLine) : Nat := if x.grp = 8 then x.comp ^^^ x.dlo else x.comp

/-- What a read of a test line returns: corrected data for kinds 0 and 1, raw data otherwise (R247). A correction of more
errors than the code tells apart changes a free symbol (log 4, DESIGN CHOICE). -/
def readData (s : State) (mem k kind : Nat) : Tab Nat × Nat :=
  let x := getLine s mem k
  let few := if mem < 2 then decide ((badSymbols x).length ≤ 1) else decide ((badWordBits x).length ≤ 1)
  if few && decide (kind ≤ 1) then (x.data, x.comp)
  else
    let raw := (List.range (if mem < 2 then 16 else 2)).foldl (fun t i => Tab.set 0 t i (rawDword mem x i)) ([] : Tab Nat)
    if kind = 1 then
      let n := Config.manyErrors s.freeCtr
      let p := n / 4 % 72
      let v := n / 288
      if mem < 2 then
        if p < 64 then (Tab.upd 0 raw (p / 4) fun d => d ^^^ (v % 256 * 2 ^ (8 * (p % 4))), rawComp x)
        else if p < 68 then (raw, rawComp x ^^^ (v % 256 * 2 ^ (8 * (p - 64))))
        else (raw, rawComp x)
      else if p < 64 then (Tab.upd 0 raw (p / 32) fun d => d ^^^ 2 ^ (p % 32), 0)
      else (raw, 0)
    else (raw, rawComp x)

/-- A read of a test line: its data and outcome in the test registers, counted, logged and acted on like any other (R247). -/
def readLine (s : State) (mem k : Nat) : State :=
  let r := readKind s mem k
  let d := readData s mem k r.1
  let s := { s with
    freeCtr := s.freeCtr + 1
    mep := { s.mep with
      testKind := r.1, testPos := r.2, testDone := true
      testData := if mem < 2 then d.1 else Tab.set 0 (Tab.set 0 s.mep.testData 0 (Tab.get 0 d.1 0)) 1 (Tab.get 0 d.1 1)
      testComp := if mem < 2 then d.2 else s.mep.testComp } }
  let a := testAddr mem k
  if r.1 = 0 then s else if r.1 = 1 then corrected s mem a 3 r.2 0 else uncorrectable s mem a 3 r.1 r.2

/-! ### Commands: injection, test, log -/

/-- A write of MEP_FLIP_CTL (R246): FIRED is cleared by 1; ARM takes the registers as they now stand. -/
def writeFlipCtl (p : Port) (v : Word) (s : State) : Res :=
  regWrite p 0 s fun s =>
    if v.toNat &&& 0x1FE0FFF0 ≠ 0 then .fault (.reservedWrite p 0 0x50300)
    else
      let m := { s.mep with
        flipMem := fld v 16 4, flipGroup := fld v 0 4, flipAddrMatch := flag v 20
        flipFired := s.mep.flipFired && !flag v 31 && !flag v 29 }
      if flag v 29 then
        .next { s with mep := { m with flipArmed := some {
          mem := m.flipMem, grp := m.flipGroup, amatch := m.flipAddrMatch, addr := m.flipAddr
          dlo := m.flipDlo, dhi := m.flipDhi, chk := m.flipChk, amask := m.flipAmask } } }
      else .next { s with mep := m }

/-- MEP_FLIP_ARM (R246). -/
def execMepFlipArm (p : Port) (v : Word) (s : State) : Res := writeFlipCtl p v s

/-- A write of MEP_TEST_CTL (R247): OP 1 writes the test data, OP 2 reads it back, 0 and 3 do nothing. -/
def writeTestCtl (p : Port) (v : Word) (s : State) : Res :=
  regWrite p 0 s fun s =>
    if v.toNat &&& 0x7FF0FFFC ≠ 0 then .fault (.reservedWrite p 0 0x50400)
    else
      let mem := fld v 16 4
      let s := { s with mep := { s.mep with testMem := mem } }
      let k := s.mep.testLine
      if fld v 0 2 = 1 then
        let data := if mem < 2 then s.mep.testData
          else Tab.set 0 (Tab.set 0 [] 0 (Tab.get 0 s.mep.testData 0)) 1 (Tab.get 0 s.mep.testData 1)
        let s := putLine s mem k { data := data, comp := if mem < 2 then s.mep.testComp else 0 }
        .next { s with mep := { s.mep with testDone := true } }
      else if fld v 0 2 = 2 then .next (readLine s mem k)
      else .next s

/-- MEP_TEST_WRITE (R247). -/
def execMepTestWrite (p : Port) (v : Word) (s : State) : Res := writeTestCtl p v s
/-- MEP_TEST_READ (R247). -/
def execMepTestRead (p : Port) (v : Word) (s : State) : Res := writeTestCtl p v s

/-- The log is emptied (R245). -/
def clearMemLog (m : Mep) : Mep := { m with log := [], logNext := 0, logLost := 0 }

/-- The counters of memory protection are cleared (R245). -/
def clearMemCnts (m : Mep) : Mep := { m with ce := [], ue := [], psn := [], ctxLost := 0 }

/-- LOG_CLR (R245). -/
def execLogClr (p : Port) (s : State) : Res := regWrite p 0 s fun s => .next { s with mep := clearMemLog s.mep }

/-- CNT_CLR_MEP (R245). -/
def execCntClrMep (p : Port) (s : State) : Res := regWrite p 0 s fun s => .next { s with mep := clearMemCnts s.mep }

/-- The five words of a log slot (Table 10.7), zeros for an empty one. -/
def logWords (m : Mep) (slot : Nat) : List Nat :=
  match Tab.get none m.log slot with
  | none => List.replicate 5 0
  | some e =>
    [e.addr % p32, e.syndrome, mk [(24, 8, e.pos), (20, 4, e.mem), (17, 3, e.kind), (15, 2, e.source)], e.timeMs % p32,
      e.timeMs / p32 % 65536]

/-- MEP_LOG_SEL (R245): a snapshot of one slot. -/
def execMepLogSel (p : Port) (v : Word) (s : State) : Res :=
  regWrite p 0 s fun s =>
    if fld v 6 26 ≠ 0 then .fault (.reservedWrite p 0 0x50208)
    else
      let snap := logWords s.mep (fld v 0 6)
      .next (modPort s p fun q => { q with win := { q.win with mepSel := fld v 0 6, mepSnap := snap } })

/-! ### Skim engines -/

/-- Memory and word index of a word position of an on-die skim engine: its memories in ascending ID (Table 10.1). -/
def sramPlace : List (Nat × Nat) → Nat → Option (Nat × Nat)
  | [], _ => none
  | (m, n) :: t, pos => if pos < n then some (m, pos) else sramPlace t (pos - n)

/-- The memories of a skim engine with their words (Table 10.1). -/
def skimMems (e : Nat) : List (Nat × Nat) :=
  if e = 2 then [(2, 2097152), (3, 16384), (4, 32768), (5, 262144), (6, 4096), (7, 1048576), (8, 294912), (9, 32768), (10, 524288),
    (11, 2097792)]
  else [(9 + e, 5242880)]

/-- The regions that are primed as a whole while they are in use, in stack-local lines (log 103, DESIGN CHOICE): contexts, zone table, free
stack (Table 1.4). -/
def wholeRegions (s : State) : List (Nat × Nat) :=
  (if s.cmds.any Cmd.granted then [(0x21000000, 0x21200000)] else []) ++ (if s.zones.isEmpty then [] else [(0x21200000, 0x21400000)]) ++
    if s.bpm.ready then [(0x21400000, 0x21480000)] else []

/-- The first line of such a region at or after a stack-local line number. -/
def nextWhole (s : State) (pos : Nat) : Option Nat :=
  ((wholeRegions s).find? fun r => decide (pos < r.2)).map fun r => max pos r.1

/-- The first line of a stack at or after a stack-local line number that a skim visits among the units known one by one: in a primed unit,
without a merge entry (R238); a stack-local line number. -/
def nextKnown (m : Mep) (stack pos : Nat) : Option Nat :=
  let units := (m.primed.filter fun e => e.2 && e.1 % 2 == stack && decide (pos / 64 ≤ e.1 / 2)).map fun e => e.1 / 2
  (units.flatMap fun u => if m.merges.any (fun e => e.line / 64 == u * 2 + stack) ∨ u = pos / 64 then
      ((List.range 64).map fun j => u * 64 + j).filter fun l =>
        decide (pos ≤ l) && !(m.merges.any fun e => e.line == (l / 64 * 2 + stack) * 64 + l % 64)
    else [u * 64]).head?

/-- The first line of a stack at or after a stack-local line number that a skim visits. -/
def nextLine (s : State) (stack pos : Nat) : Option Nat :=
  match nextKnown s.mep stack pos, nextWhole s pos with
  | some a, some b => some (min a b)
  | some a, none => some a
  | none, b => b

/-- The line index of a stack-local line number. -/
def lineIndex (stack l : Nat) : Nat := (l / 64 * 2 + stack) * 64 + l % 64

/-- The scratch line at a line index. -/
def scratchAt (line : Nat) : Nat := (line - 0x47FFF800) / 128 * 64 + line % 64

/-- A skim engine. -/
def getSkim (s : State) (e : Nat) : Skim := Tab.get {} s.mep.skims e

/-- The state with a skim engine rewritten. -/
def modSkim (s : State) (e : Nat) (f : Skim → Skim) : State :=
  { s with mep := { s.mep with skims := Tab.upd {} s.mep.skims e f } }

/-- Time spent in P2 and P3 so far (RST residency counters), which a lap does not count (R239). -/
def asleepNs (s : State) : Nat := Tab.get 0 s.rst.resNs 2 + Tab.get 0 s.rst.resNs 3

/-- Time of the lap under way in ns (R239). -/
def lapNs (s : State) (x : Skim) : Nat := s.nowNs - x.startNs - (asleepNs s - x.asleepNs)

/-- The engine goes on to a position; one that wraps back to the start ends its lap (R239). -/
def skimTo (s : State) (e : Nat) (next : Option Nat) : State :=
  modSkim s e fun x =>
    match next with
    | some n => { x with pos := n }
    | none =>
      { x with pos := 0, active := false, slow := false, lap := min 0xFFFFFFFF (lapNs s x / 1000000)
               laps := satAdd 0xFFFFFFFF x.laps 1 }

/-- An engine that runs no lap begins one. -/
def startLap (s : State) (e : Nat) : State :=
  modSkim s e fun x => if x.active then x else { x with active := true, startNs := s.nowNs, asleepNs := asleepNs s }

/-- A skim engine can read: enabled, powered, its memory in use and not asleep or under reset (R238, R248). -/
def skimRuns (s : State) (e : Nat) : Bool :=
  bit s.mep.skimEn e && !s.ckm.stopped && !s.pins.porHeld &&
    (if e < 2 then s.bpm.ready && decide (s.rst.pwr < 2)
      else if e = 2 then true else decide (e < 7) && !quadOut s (e - 3))

/-- SKIM_READ (R238): the next line or word of a lap is read; a scratch line shows what lies in it, any other place what the
read found. -/
def execSkimRead (e : Nat) (finding : MemFinding) (s : State) : Res :=
  if !skimRuns s e ∨ 7 ≤ e then .next s
  else if e < 2 then
    match nextLine s e (getSkim s e).pos with
    | none => .next s
    | some l =>
      let s := startLap s e
      let line := lineIndex e l
      let k := scratchAt line
      let s := if regionOf line = 6 then
          let r := readKind s e k
          let s := { s with freeCtr := s.freeCtr + 1 }
          if r.1 = 0 then s else if r.1 = 1 then corrected s e line 2 r.2 (e + 1) else uncorrectable s e line 2 r.1 r.2
        else found s e line 2 (e + 1) finding
      .next (skimTo s e (nextLine s e (l + 1)))
  else
    let pos := (getSkim s e).pos
    match sramPlace (skimMems e) pos with
    | none => .next s
    | some (m, w) =>
      let s := found (startLap s e) m w 2 (e + 1) finding
      .next (skimTo s e (if pos + 1 < sumBy Prod.snd (skimMems e) then some (pos + 1) else none))

/-- CORRECTED_WRITE_BACK (R238): a corrected line or word that no later write has replaced is written back. -/
def execCorrectedWriteBack (mem addr : Nat) (s : State) : Res :=
  match s.mep.pendFix.find? fun e => e.1 == mem && e.2.1 == addr with
  | none => .next s
  | some e =>
    let s := { s with mep := dropFix s.mep mem addr }
    let s := if e.2.2 = 0 then s else modSkim s (e.2.2 - 1) fun x => { x with fixed := satAdd 0xFFFFFFFF x.fixed 1 }
    if mem < 2 ∧ regionOf addr = 6 then
      let k := scratchAt addr
      .next (putLine s mem k (getLine s mem k))
    else if 2 ≤ mem ∧ addr = testAddr mem 0 then .next (putLine s mem 0 (getLine s mem 0))
    else match flipHits s mem addr with
      | none => .next s
      | some f => .next (flipFire (if mem = 6 ∨ (mem < 2 ∧ regionOf addr = 4) then spoilEntries s f else s) mem)

/-- MERGE_ENTRY_TIMEOUT (R231, R233): an entry with no write for 1 µs leaves by read-modify-write; when its read is
uncorrectable it is written with the poison pattern. -/
def execMergeEntryTimeout (stack line : Nat) (readBad : Bool) (s : State) : Res :=
  match s.mep.merges.find? fun e => e.stack == stack && e.line == line with
  | none => .next s
  | some e =>
    if s.nowNs < e.sinceNs + 1000 then .next s
    else
      let s := { s with mep := { s.mep with merges := s.mep.merges.erase e } }
      let s := if readBad then uncorrectable (poisonPattern s stack line 1) stack line 1 2 0xFF else s
      .next (if (flipHits s stack line).isSome then flipFire s stack else s)

/-! ### Refresh, lap limits and hourly rates -/

/-- Refresh band of a temperature in °C (Table 10.4). -/
def refiBand (t : Int) : Nat := if t < 85 then 0 else if t < 95 then 1 else 2

/-- Lower bound of a band in °C. -/
def refiLow (b : Nat) : Int := if b = 1 then 85 else 95

/-- HBM_REFRESH (R237): a stack is refreshed, and its interval follows its temperature: to a shorter one at once, to a
longer one after 10 ms more than 3 °C below its bound. -/
def execHbmRefresh (stack : Nat) (s : State) : Res :=
  if 2 ≤ stack ∨ !s.bpm.ready ∨ 2 ≤ s.rst.pwr ∨ s.ckm.stopped then .next s
  else
    let t := dieTemp s (5 + stack) / 4
    let b := Tab.get 0 s.mep.bands stack
    let n := refiBand t
    let cool := decide (t < refiLow b - 3) && decide (0 < b)
    let since := Tab.get 0 s.mep.coolNs stack
    let since := if !cool then 0 else if since = 0 then s.nowNs + 1 else since
    let down := cool && decide (since + 10000000 ≤ s.nowNs + 1)
    .next { s with mep := { s.mep with
      temps := Tab.set 0 s.mep.temps stack t
      bands := Tab.set 0 s.mep.bands stack (if b < n then n else if down then max n (b - 1) else b)
      coolNs := Tab.set 0 s.mep.coolNs stack (if down then 0 else since)
      refreshNs := Tab.set 0 s.mep.refreshNs stack s.nowNs } }

/-- Lap limit of an engine in ns (MEP_SKIM_LAP_LIMIT). -/
def lapLimit (s : State) (e : Nat) : Nat :=
  if e < 2 then max 1 s.mep.limHbmS * 1000000000 else max 1 s.mep.limSramMs * 1000000

/-- The memory that an engine's events name: that of an engine with one memory. -/
def skimInst (e : Nat) : Nat := if e < 2 then e else if e = 2 then 0xFFF else 9 + e

/-- SKIM_SLOW (R239): a lap has passed its limit, once per lap and engine. -/
def execSkimSlow (e : Nat) (s : State) : Res :=
  let x := getSkim s e
  if e < 7 ∧ x.active ∧ !x.slow ∧ lapLimit s e < lapNs s x then
    let s := setMepBit (modSkim s e fun x => { x with slow := true }) 4
    .next (genericEv s 1 5 (skimInst e) 4 0x50008 s.mep.evt)
  else .next s

/-- CE_RATE (R240): an hour since boot ends for memory `m`; its corrections reaching the threshold are recorded. -/
def execCeRate (m : Nat) (s : State) : Res :=
  let h := (s.nowNs - s.boot.startNs) / 3600000000000
  if 16 ≤ m ∨ h ≤ Tab.get 0 s.mep.hourNo m ∨ s.ckm.stopped then .next s
  else
    let n := Tab.get 0 s.mep.hourCe m
    let thr := Tab.get 4096 s.mep.thresh m
    let s := { s with mep := { s.mep with
      lastHour := Tab.set 0 s.mep.lastHour m (min 0xFFFF n), hourCe := Tab.set 0 s.mep.hourCe m 0
      hourNo := Tab.set 0 s.mep.hourNo m h } }
    if thr ≠ 0 ∧ thr ≤ n then
      let s := setMepBit s 0
      .next (genericEv s 1 5 m 0 0x50008 s.mep.evt)
    else .next s

end Sys2Proof.Machine
end

