-- ==== Sys2Proof/Machine/RegRead.lean ====
section
/-! DEFINITION. What the registers read as: the value of the 32-bit word at an offset of PF0 BAR0 or VF BAR0, from the register
tables of each chapter. A reserved field, an unmapped offset and a WO field read 0 (R4). -/

namespace Sys2Proof.Machine

/-- Word `i` of a 64-bit register (R37). -/
def half (n i : Nat) : Nat := n / p32 ^ i % p32

/-- A mask with bit `i` set for each of the first `n` numbers that `f` picks out. -/
def maskOf (n : Nat) (f : Nat → Bool) : Nat := sumBy (fun i => if f i then 2 ^ i else 0) (List.range n)

/-! ### IDT, CKM, CLKG, RST, PWR -/

/-- IDT_STATUS. -/
def idtStatus (s : State) : Nat :=
  mk [(4, 4, s.boot.phase), (2, 1, b2n s.adm.shutdown), (1, 1, b2n s.hlt.readOnly), (0, 1, b2n s.boot.ready)]

/-- IDT_PORTA_STAT and IDT_PORTB_STAT. -/
def portStat (q : PortSt) : Nat :=
  mk [(23, 1, b2n q.d3hot), (22, 1, b2n q.perst), (11, 11, q.numVfs), (10, 1, b2n q.vfEn), (9, 1, b2n q.flit), (4, 5, q.width)
    , (1, 3, q.speed), (0, 1, b2n q.linkUp)]

/-- The IDT block. -/
def readIdt (s : State) : Nat → Nat
  | 0x00 => mk [(16, 16, 0x8128), (0, 16, 0x1F4C)]
  | 0x04 => mk [(8, 8, 0x80), (0, 8, 0x10)]
  | 0x08 => half s.fuse.serial.toNat 0
  | 0x0C => half s.fuse.serial.toNat 1
  | 0x10 => s.boot.fwVer
  | 0x20 => mk [(16, 2, 2), (14, 2, 2), (8, 6, 32), (0, 8, 128)]
  | 0x24 => mk [(16, 5, 20), (0, 11, 1024)]
  | 0x28 => mk [(24, 5, 28), (16, 5, 22), (8, 5, 24), (0, 5, 16)]
  | 0x30 => mk [(24, 8, s.media.lunTbit), (20, 3, s.media.lunPerVol), (16, 4, s.media.volPerCh), (0, 13, s.media.lunCount)]
  | 0x34 => mk [(16, 16, 72), (0, 16, s.media.busMts)]
  | 0x40 => idtStatus s
  | 0x50 => portStat s.pa
  | 0x54 => portStat s.pb
  | 0x58 => s.portEvt
  | 0x60 => s.pa.dropped
  | 0x64 => s.pb.dropped
  | 0x70 => mk [(16, 16, s.ssid), (0, 16, s.svid)]
  | _ => 0

/-- CKM_PLLp. -/
def pllWord (x : Pll) : Nat :=
  mk [(16, 8, x.relocks), (4, 1, b2n x.fault), (3, 1, b2n x.stable), (2, 1, b2n x.lock), (1, 1, b2n x.src), (0, 1, b2n x.on)]

/-- The CKM block. -/
def readCkm (s : State) (o : Nat) : Nat :=
  let c := s.ckm
  match o with
  | 0x00 => mk [(6, 2, c.refB.st), (4, 2, c.refA.st), (3, 1, b2n c.holdover), (2, 1, b2n c.coreSrc), (1, 1, b2n c.unmonitored)]
  | 0x04 => c.tolPpm
  | 0x08 => c.evt
  | 0x0C => c.refA.cmp
  | 0x10 => c.refB.cmp
  | 0x80 => half c.aon 0
  | 0x84 => half c.aon 1
  | 0x88 => mk [(16, 16, c.refB.desel), (0, 16, c.refA.desel)]
  | _ => if 0x40 ≤ o ∧ o < 0x74 then pllWord (Tab.get {} c.plls ((o - 0x40) / 4)) else 0

/-- The CLKG block. -/
def readClkg (s : State) : Nat → Nat
  | 0x04 => mk [(31, 1, b2n s.ckm.gRefused), (30, 1, b2n s.ckm.gDone), (5, 3, s.ckm.gReason), (0, 5, s.ckm.gLast)]
  | 0x08 => maskOf 22 (gateEn s)
  | 0x0C => maskOf 22 (gateInUse s)
  | 0x10 => s.ckm.gHostOff
  | _ => 0

/-- An array operation that is not suspended runs on a quadrant. -/
def quadWorks (s : State) (q : Nat) : Bool :=
  s.media.luns.any fun e => chQuad (lunCh e.1) == q && match e.2.op with
    | some o => o.susp != .ready
    | none => false

/-- RST_QUADq: its PHASE is a free value among the steps that can be under way, since no command tells where one ends: 1 or 2 while the drain still
waits for operations (log 140, DESIGN CHOICE). Its HELD counts the readers that wait for the quadrant's media (R341). -/
def quadWord (s : State) (q : Nat) : Nat :=
  let st := Tab.get 0 s.rst.qState q
  let ph := Tab.get 0 s.rst.qPhase q
  let held := if st = 1 ∧ ph ≠ 7 then (s.cmds.filter (waitsOnQuad s q)).length else 0
  let step := if st ≠ 1 ∨ ph = 7 then ph else 1 + Config.placeOf s.freeCtr % (if quadWorks s q then 2 else 6)
  mk [(30, 2, st), (27, 3, step), (0, 20, min 0xFFFFF held)]

/-- The RST block. RST_ACT.STATE of an activation under way is a free value among its states (log 140, DESIGN CHOICE). -/
def readRst (s : State) (o : Nat) : Nat :=
  let r := s.rst
  match o with
  | 0x00 => mk [(16, 16, r.warmCount), (0, 4, r.cause)]
  | 0x08 => r.quiesceMs
  | 0x30 => mk [(30, 2, if r.actState = 0 then 0 else 1 + Config.placeOf s.freeCtr % 3), (28, 2, r.actResult), (0, 16, r.actMs)]
  | _ =>
    if 0x10 ≤ o ∧ o < 0x20 then quadWord s ((o - 0x10) / 4)
    else if 0x20 ≤ o ∧ o < 0x30 then
      mk [(16, 16, Tab.get 0 r.qResets ((o - 0x20) / 4)), (0, 16, Tab.get 0 r.qLastUs ((o - 0x20) / 4))]
    else 0

/-- PWR_PLP_STAT.STATE: recovering is phase 8 of the boot. -/
def plpState (s : State) : Nat := if s.plp.phase = 0 ∧ !s.boot.ready ∧ !s.boot.stopped ∧ s.boot.phase = 8 then 4 else s.plp.phase

/-- PWR_PLP_STAT. -/
def plpStat (s : State) : Nat :=
  mk [(20, 3, s.plp.last), (7, 1, b2n s.plp.pwrfail), (6, 1, b2n s.plp.emergShort), (5, 1, b2n s.plp.overD), (4, 1, b2n s.plp.qrLimit)
    , (0, 3, plpState s)]

/-- The channels in service (R253). -/
def servedChs (s : State) : List Nat := allChs.filter fun c => (getChan s c).trained && !quadOut s (chQuad c)

/-- Fewest erased emergency blocks on any channel in service. -/
def emergMinNow (s : State) : Nat := (((servedChs s).map fun c => Tab.get 0 s.plp.emergAvail c).min?).getD 0

/-- The PWR block. -/
def readPwr (s : State) (o : Nat) : Nat :=
  let x := s.plp
  let r := s.rst
  match o with
  | 0x000 => x.holdupMs
  | 0x004 => plpStat s
  | 0x008 => x.rateMbps
  | 0x00C => mk [(16, 16, tflush s (x.dmaxMib * 1048576) 9216), (0, 16, min 0xFFFF (tflush s (dirtyBytes s) (dirtyPairs s)))]
  | 0x010 => dirtyPairs s
  | 0x014 => mk [(16, 16, emergMinNow s), (0, 16, x.emergReq)]
  | 0x018 => x.lastUs
  | 0x01C => x.lastMib
  | 0x020 => mk [(16, 16, min 0xFFFF x.zonesRolled), (0, 16, min 0xFFFF x.recMs)]
  | 0x024 => mk [(16, 16, x.failed), (0, 16, x.flushes)]
  | 0x028 => x.evt
  | 0x100 => mk [(16, 16, r.lastWakeUs), (12, 4, r.wakeCause), (8, 4, r.qGated), (0, 2, r.pwr)]
  | 0x104 => r.maxState
  | 0x108 => mk [(16, 16, r.p2Ms), (0, 16, r.p1Us)]
  | 0x10C => r.p3S
  | 0x128 => mk [(16, 16, r.wakesP3), (0, 16, r.wakesP2)]
  | _ => if 0x110 ≤ o ∧ o < 0x128 then half (Tab.get 0 r.resNs ((o - 0x110) / 8 + 1) / 1000000) ((o - 0x110) / 4 % 2) else 0

/-! ### THM -/

/-- The hottest volume of the media, with its channel (THM_FLASH). -/
def hottest (s : State) : Nat × Int :=
  allChs.foldl (fun acc c => (getChan s c).vols.foldl (fun (acc : Nat × Int) v =>
    if v.2.tempValid && !v.2.excluded && decide (acc.2 < v.2.temp) then (c, v.2.temp) else acc) acc) (0, 0)

/-- THM_TMAX. -/
def thmTmax (s : State) : Nat := mk [(16, 5, s.thm.tmaxSens), (0, 16, twos 16 s.thm.tmax)]

/-- The thresholds in force, in the layout of THM_THRESH. -/
def threshWord (l : List Nat) : Nat := mk [(24, 8, nth 0 l 3), (16, 8, nth 0 l 2), (8, 8, nth 0 l 1), (0, 8, nth 0 l 0)]

/-- THM_SENSk. -/
def sensWord (x : Sens) : Nat := mk [(23, 1, b2n x.excl), (22, 1, b2n x.broken), (20, 2, x.reason), (0, 16, twos 16 x.temp)]

/-- The THM block. -/
def readThm (s : State) (o : Nat) : Nat :=
  let t := s.thm
  match o with
  | 0x004 => mk [(24, 3, t.phase), (19, 1, b2n t.latch), (18, 1, b2n t.full), (17, 1, b2n t.throttle), (16, 1, b2n t.warn)
      , (0, 7, t.shutter)]
  | 0x008 => thmTmax s
  | 0x00C => mk [(21, 3, t.tPubDie), (16, 5, t.tPubSens), (0, 16, twos 16 t.tPub)]
  | 0x010 => threshWord [t.tWarn, t.tOn, t.tFull, t.tShut]
  | 0x014 => t.evt
  | 0x018 => mk [(16, 16, twos 16 t.tSet), (0, 7, t.rate)]
  | 0x01C => t.shutCnt
  | 0x100 => maskOf 22 fun k => (getSens s k).excl
  | 0x104 => mk [(24, 7, (hottest s).1), (16, 8, twos 8 (hottest s).2), (8, 8, t.fFull), (0, 8, t.fOn)]
  | _ =>
    if 0x40 ≤ o ∧ o < 0x5C then
      let d := (o - 0x40) / 4
      mk [(16, 1, b2n (allBroken s d)), (0, 16, twos 16 (dieTemp s d))]
    else if 0x80 ≤ o ∧ o < 0xD8 then sensWord (getSens s ((o - 0x80) / 4))
    else if 0x200 ≤ o ∧ o < 0x280 then
      mk ((List.range 4).map fun i => (8 * i, 7, (getChan s ((o - 0x200) / 4 * 4 + i)).shut))
    else if 0x400 ≤ o ∧ o < 0x428 then half (Tab.get 0 t.cnts ((o - 0x400) / 8)) ((o - 0x400) / 4 % 2)
    else 0

/-! ### MBX -/

/-- A register of a mailbox, by its offset in the mailbox. -/
def readMbx (s : State) (b : Box) (o : Nat) : Nat :=
  let m := getMbx s b
  match o with
  | 0x48 => mk [(29, 3, if isPf0Box b then m.owner else 0), (16, 5, m.rspQ.length), (8, 5, m.reqQ.length), (0, 5, backlogCount m)]
  | 0x4C => m.ctl
  | 0x50 => m.ist
  | 0x54 => if isPf0Box b then m.owner else 0
  | 0x58 => mk [(16, 16, m.notices), (0, 16, m.drops)]
  | _ => if 0x80 ≤ o ∧ o < 0xC0 then leAt ((m.rspQ.head?.map Frame.bytes).getD []) (o - 0x80) 4 else 0

/-- MBX_GSTAT. -/
def gstat (s : State) : Nat := sumBy (fun n => (getMbx s (.pf0 n)).owner % 8 * 8 ^ n) (List.range 8)

/-! ### EVR -/

/-- The EVR block as a port's PF0 sees it. -/
def readEvr (s : State) (p : Port) (o : Nat) : Nat :=
  let e := s.evr
  let w := (getPort s p).win
  match o with
  | 0x00 => mk [(8, 1, b2n w.evrSrc), (1, 1, b2n w.evrAuto), (0, 1, b2n e.frozen)]
  | 0x04 => mk [(31, 1, b2n e.frozen), (16, 9, e.hold.length), (3, 1, b2n e.stDenied), (2, 1, b2n e.stUnpers), (1, 1, b2n e.stHold)
      , (0, 1, b2n e.stErr)]
  | 0x08 => e.first
  | 0x0C => e.next
  | 0x10 => persistedNum e
  | 0x14 => e.logFirst
  | 0x18 => e.logNext
  | 0x1C => e.holdLost
  | 0x20 => e.unpersLost
  | 0x24 => e.repeatCnt
  | 0x30 => mk [(30, 1, b2n (logClearing e)), (0, 16, min 65535 e.badPages.length)]
  | 0x40 => w.evrCursor
  | 0x44 => mk [(31, 1, b2n w.evrDone), (0, 3, w.evrResult)]
  | _ => if 0x60 ≤ o ∧ o < 0x80 then leAt w.evrData (o - 0x60) 4 else 0

/-! ### MEP -/

/-- MEP_SKIMe_POS, LAP, LAPS and FIX. -/
def skimWord (x : Skim) : Nat → Nat
  | 0 => x.pos
  | 1 => x.lap
  | 2 => x.laps
  | _ => x.fixed

/-- MEP_CEm, MEP_UEm, MEP_PSNm and MEP_CERATEm. -/
def memWord (m : Mep) (k : Nat) : Nat → Nat
  | 0 => Tab.get 0 m.ce k
  | 1 => Tab.get 0 m.ue k
  | 2 => Tab.get 0 m.psn k
  | _ => mk [(16, 16, min 0xFFFF (Tab.get 0 m.lastHour k)), (0, 16, Tab.get 4096 m.thresh k)]

/-- The MEP block as a port's PF0 sees it. -/
def readMep (s : State) (p : Port) (o : Nat) : Nat :=
  let m := s.mep
  let w := (getPort s p).win
  let band := fun (k : Nat) => if 2 ≤ s.rst.pwr then 3 else Tab.get 0 m.bands k
  match o with
  | 0x000 => mk [(16, 7, maskOf 7 fun e => (Tab.get {} m.skims e).active), (2, 2, band 1), (0, 2, band 0)]
  | 0x004 => mk [(16, 7, m.skimEn), (1, 1, b2n m.logHold)]
  | 0x008 => m.evt
  | 0x010 => mk [(16, 16, m.limHbmS), (0, 16, m.limSramMs)]
  | 0x014 => m.paceMbps
  | 0x200 => mk [(16, 6, m.logNext), (0, 7, m.log.length)]
  | 0x204 => m.logLost
  | 0x208 => w.mepSel
  | 0x300 => mk [(31, 1, b2n m.flipFired), (30, 1, b2n m.flipArmed.isSome), (20, 1, b2n m.flipAddrMatch), (16, 4, m.flipMem)
      , (0, 4, m.flipGroup)]
  | 0x304 => m.flipAddr
  | 0x308 => m.flipDlo
  | 0x30C => m.flipDhi
  | 0x310 => m.flipChk
  | 0x314 => m.flipAmask
  | 0x400 => mk [(31, 1, b2n m.testDone), (16, 4, m.testMem)]
  | 0x404 => m.testLine
  | 0x408 => mk [(8, 8, m.testPos), (0, 3, m.testKind)]
  | 0x480 => m.testComp
  | 0x500 => m.ctxLost
  | _ =>
    if 0x20 ≤ o ∧ o < 0x28 then
      let k := (o - 0x20) / 4
      mk [(24, 6, (m.merges.filter fun e => e.stack == k).length), (16, 2, band k), (0, 8, twos 8 (Tab.get 0 m.temps k))]
    else if 0x40 ≤ o ∧ o < 0xB0 then skimWord (Tab.get {} m.skims ((o - 0x40) / 16)) (o / 4 % 4)
    else if 0x100 ≤ o ∧ o < 0x200 then memWord m ((o - 0x100) / 16) (o / 4 % 4)
    else if 0x210 ≤ o ∧ o < 0x224 then nth 0 w.mepSnap ((o - 0x210) / 4)
    else if 0x440 ≤ o ∧ o < 0x480 then Tab.get 0 m.testData ((o - 0x440) / 4)
    else 0

/-! ### BPM -/

/-- The BPM block as a port's PF0 sees it. -/
def readBpm (s : State) (p : Port) (o : Nat) : Nat :=
  let b := s.bpm
  let w := (getPort s p).win
  let built := fun (n : Nat) => if b.ready then n else 0
  match o with
  | 0x000 => mk [(31, 1, b2n b.ready), (30, 1, b2n b.flushOpen), (0, 14, b.head)]
  | 0x004 => built (freeN b)
  | 0x008 => b.alloc.length
  | 0x00C => b.stack
  | 0x010 => built (sharedPool b)
  | 0x014 => built (sharedFree b)
  | 0x018 => built (floorSum b)
  | 0x01C => withdrawnN b
  | 0x024 => b.evt
  | 0x028 => mk [(28, 4, b.errReason), (24, 4, b.errReq), (0, 24, b.errIndex)]
  | 0x030 => half b.errAddr.toNat 0
  | 0x034 => half b.errAddr.toNat 1
  | 0x038 => half b.misses 0
  | 0x03C => half b.misses 1
  | 0x0C0 => b.ptr
  | 0x400 => w.bpmSel
  | 0x500 => b.testLo
  | 0x504 => b.testHi
  | 0x508 => mk [(31, 1, b2n b.testDone), (1, 3, b.testResult)]
  | _ =>
    if 0x80 ≤ o ∧ o < 0xC0 then
      let c := (o - 0x80) / 16
      match o / 4 % 4 with
      | 0 => Tab.get 0 b.floors (kFold + c)
      | 1 => Tab.get 0 b.caps (kFold + c)
      | 2 => Tab.get 0 b.charges (kFold + c)
      | _ => min 0xFFFFFFFF (Tab.get 0 b.backoff c)
    else if 0x200 ≤ o ∧ o < 0x340 then
      let k := (o - 0x200) / 32
      let t := match (o - 0x200) / 8 % 4 with
        | 0 => b.rej
        | 1 => b.empty
        | 2 => b.tie
        | _ => []
      half (Tab.get 0 t k) (o / 4 % 2)
    else if 0x410 ≤ o ∧ o < 0x438 then nth 0 w.bpmSnap ((o - 0x410) / 4)
    else 0

/-! ### CIP -/

/-- A device slot as CIP_DSLOTd shows it; slot 0 holds the fused key. -/
def dslotWord (s : State) (d : Nat) : Nat :=
  let k := Tab.get {} s.cip.dslots d
  mk [(16, 16, k.loads), (3, 1, b2n k.plain), (2, 1, b2n k.persist), (0, 2, if d = 0 then 2 else k.state)]

/-- Tenant slots that hold a key. -/
def loadedSlots (s : State) : Nat := (s.cip.tslots.filter fun e => e.2.state == 1).length

/-- CIP_SAN.PCT: the blocks erased so far, 100 when done. -/
def sanPct (s : State) : Nat :=
  match s.cip.san with
  | none => if s.cip.sanKind = 0 then 0 else 100
  | some x => if x.total = 0 then 0
      else (x.total - (x.left.filter fun b => (getBlk s b).eraseIntent).length) * 99 / x.total

/-- Registers 0x0210 to 0x024F of a tenant, in 32-bit words; one that does not exist shows its INSTANCE alone. -/
def cipWindow (s : State) (t : Nat) : List Nat :=
  let i := instOf s t
  match getTen s t with
  | none => mk [(10, 22, i)] :: List.replicate 15 0
  | some x =>
    let k := Tab.get {} s.cip.tslots t
    [mk [(10, 22, i), (4, 1, b2n (k.byPf0 && k.state == 1)), (3, 1, b2n x.cipherOff), (2, 1, b2n k.persist), (0, 2, k.state)],
      half (if k.state = 2 then 0 else k.keyId) 0, half (if k.state = 2 then 0 else k.keyId) 1, half k.kcv 0, half k.kcv 1, 0] ++
      (List.range 5).flatMap fun c => halves (Tab.get 0 s.cip.tcnts (t * 8 + c))

/-- The CIP block as a port's PF0 sees it. -/
def readCip (s : State) (p : Port) (o : Nat) : Nat :=
  let c := s.cip
  let w := (getPort s p).win
  match o with
  | 0x000 => mk [(31, 1, b2n c.ready), (30, 1, b2n c.hukOk), (29, 1, b2n c.plainAllow), (28, 1, b2n c.san.isSome), (0, 11, loadedSlots s)]
  | 0x008 => c.evt
  | 0x00C => c.cache.length
  | 0x010 => mk [(31, 1, b2n c.san.isSome), (28, 3, c.sanKind), (18, 10, c.sanTenant), (0, 8, sanPct s)]
  | 0x200 => w.cipSel
  | _ =>
    if 0x40 ≤ o ∧ o < 0x80 then dslotWord s ((o - 0x40) / 4)
    else if 0x100 ≤ o ∧ o < 0x150 then half (Tab.get 0 c.cnts ((o - 0x100) / 8)) (o / 4 % 2)
    else if 0x210 ≤ o ∧ o < 0x250 then nth 0 w.cipSnap ((o - 0x210) / 4)
    else 0

/-! ### ADM -/

/-- A sum over every tenant-class. -/
def sumCls (s : State) (f : TCls → Nat) : Nat := sumBy (fun e => sumBy (fun c => f (tcls e.2 c)) allCls) (tenants s)

/-- Some writing head is held by the dirty gate (ADM_STATE). -/
def dirtyGateNow (s : State) : Bool :=
  (tenants s).any fun e => allCls.any fun c => ((laneHead s e.1 c true).map fun h => gateOf s h == .dirty).getD false

/-- The ADM block as a port's PF0 sees it. -/
def readAdm (s : State) (p : Port) (o : Nat) : Nat :=
  let a := s.adm
  let w := (getPort s p).win
  match o with
  | 0x000 => mk [(16, 8, a.ucGateOff), (8, 8, a.ucGateOn), (0, 4, a.lunRqMax)]
  | 0x004 => a.capMbps
  | 0x008 => a.peakMbps
  | 0x00C => a.capOps
  | 0x010 => a.peakOps
  | 0x014 => ctxPool
  | 0x018 => sumCls s TCls.ctxSill
  | 0x01C => sumCls s TCls.sillMbps
  | 0x020 => sumCls s TCls.sillOps
  | 0x024 => ctxFree s
  | 0x028 => mk [(10, 1, b2n a.stop), (9, 1, b2n (dirtyGateNow s)), (8, 1, b2n (gateNow s)), (0, 7, a.shutter)]
  | 0x02C => dirtyMib s
  | 0x030 => s.plp.dmaxMib
  | 0x034 => mk [(16, 10, if s.media.ucTotal = 0 then 0 else reserved s * 1000 / s.media.ucTotal), (0, 10, ucOcc s)]
  | 0x038 => a.ucHoldMaxMs
  | 0x03C => mk [(16, 16, a.tieLossB), (0, 16, a.tieLossA)]
  | 0x100 => w.admSel
  | _ => if 0x110 ≤ o ∧ o < 0x1B8 then nth 0 w.admSnap ((o - 0x110) / 4) else 0

/-! ### FCH -/

/-- OP of FCH_LUNk for an operation under way. A read shows the LUN Set Features that it began with for the 1 µs of Table 7.4. -/
def opCode (now : Nat) (o : Op) : Nat :=
  match o.k with
  | .rd _ => if o.features ∧ now < o.runNs + 1000 then 10 else if o.stream then 2 else 1
  | .pg p => if o.susp = .ready then 7 else if oneBitPg p then 3 else match p.kind with
      | .fine _ _ => 5
      | .reloc _ 2 => 5
      | _ => 4
  | .er _ => if o.susp = .ready then 8 else 6
  | .rst => 9

/-- FCH_LUNk. -/
def lunWord (now : Nat) (u : Lun) : Nat :=
  let op := match u.sub, u.op with
    | some o, _ => opCode now o
    | none, some o => opCode now o
    | none, none => 0
  mk [(24, 8, min 255 u.rq.length), (16, 8, min 255 u.ovf.length), (12, 4, min 15 u.pq.length), (8, 4, min 15 u.eq.length)
    , (4, 1, b2n u.retired), (0, 4, op)]

/-- FCH_VOLv. -/
def volWord (v : Nat) (x : Vol) : Nat :=
  mk [(16, 8, twos 8 x.temp), (15, 1, b2n x.tempValid), (8, 3, x.luns), (3, 1, b2n x.retiming), (2, 1, b2n x.excluded)
    , (1, 1, b2n (decide (4 ≤ v))), (0, 1, b2n x.present)]

/-- The FCH registers of a channel; the power limits show 0, their reset value, until training has brought channels into service. -/
def readFch (s : State) (c o : Nat) : Nat :=
  let x := getChan s c
  let flush := b2n (s.plp.phase == 1)
  match o with
  | 0x000 => mk [(24, 8, x.restarts), (20, 4, (x.vols.filter fun e => e.2.present && !e.2.excluded).length), (16, 2, x.band)
      , (13, 3, x.rate), (12, 1, b2n x.downgraded), (11, 1, b2n x.retraining), (10, 1, b2n x.recovering), (9, 1, b2n x.wp), (8, 1, flush)
      , (0, 1, b2n x.trained)]
  | 0x004 => b2n x.retrainReq
  | 0x008 => x.evt
  | 0x00C => mk [(16, 16, x.lastUs), (0, 16, x.trainCount)]
  | 0x100 => if !x.trained then 0
    else if flush = 1 then heldTok s fun l _ => lunCh l == c
    else mk [(16, 8, bgFloor s), (8, 8, chLimit s), (0, 8, heldTok s fun l _ => lunCh l == c)]
  | 0x104 => mk [(31, 1, flush), (16, 15, if s.media.chans.any fun e => e.2.trained then devCap s else 0), (0, 15, heldTok s fun _ _ => true)]
  | 0x108 => mk [(16, 15, s.media.fpcPlpMax), (0, 15, s.media.fpcNext)]
  | 0x10C => mk [(16, 3, s.media.rateCap), (0, 8, s.media.fpcChNext)]
  | _ =>
    if 0x40 ≤ o ∧ o < 0x60 then let v := (o - 0x40) / 4; volWord v (Tab.get {} x.vols v)
    else if 0x80 ≤ o ∧ o < 0x100 then lunWord s.nowNs (getLun s (c * 32 + (o - 0x80) / 4))
    else if 0x200 ≤ o ∧ o < 0x270 then half (Tab.get 0 x.cnts ((o - 0x200) / 8)) (o / 4 % 2)
    else 0

/-! ### BOOT -/

/-- A word of BOOT_WPd_w: 32 sectors of a device. -/
def protWord (x : Xspi) (w : Nat) : Nat := Tab.get 0xFFFFFFFF x.prot w

/-- BOOT_STAT.CODE: in phase 2 the codes of Table 15.3 that tell what it waits for. -/
def bootCode (s : State) : Nat :=
  if s.boot.phase = 2 ∧ !s.boot.ready ∧ !s.boot.stopped then
    if s.plp.pwrfail then 0x20
    else if !clocksUp s && (s.ckm.refA.st == 0) != (s.ckm.refB.st == 0) then 0x21
    else s.boot.code
  else s.boot.code

/-- The BOOT block. -/
def readBoot (s : State) (o : Nat) : Nat :=
  let b := s.boot
  match o with
  | 0x000 => mk [(31, 1, b2n b.stopped), (30, 1, b2n b.fellBack), (28, 2, b.slot), (24, 4, b.phase), (16, 8, bootCode s), (0, 8, b.lastFail)]
  | 0x070 => mk [(12, 4, s.fuse.keyPresent), (8, 4, s.fuse.keyRevoked ||| s.boot.badKeys), (0, 8, s.fuse.svn)]
  | 0x074 => b.next
  | 0x078 => mk [(30, 2, b.stState), (27, 3, b.stAgent), (26, 1, b.stTarget)]
  | 0x07C => b.stBytes
  | 0x080 => b.evt
  | 0x090 => mk [(31, 1, b2n b.dev0.present), (30, 1, b2n b.dev0.octal), (0, 24, b.dev0.jedec)]
  | 0x094 => mk [(31, 1, b2n b.dev1.present), (30, 1, b2n b.dev1.octal), (0, 24, b.dev1.jedec)]
  | 0x200 => mk [(31, 1, b.rdDev), (6, 20, b.rdAddr / 64)]
  | 0x204 => mk [(31, 1, b2n b.rdDone), (1, 2, b.rdErr)]
  | _ =>
    if 0x10 ≤ o ∧ o < 0x30 then
      let x := Tab.get {} b.slots ((o - 0x10) / 16)
      match o / 4 % 4 with
      | 0 => mk [(24, 8, x.result), (8, 8, x.key), (0, 8, x.svn)]
      | 1 => x.ver
      | 2 => x.seqNo
      | _ => 0
    else if 0x40 ≤ o ∧ o < 0x64 then Tab.get 0 b.times ((o - 0x40) / 4 + 1)
    else if 0x100 ≤ o ∧ o < 0x200 then protWord (getDev b ((o - 0x100) / 128)) ((o - 0x100) / 4 % 32)
    else if 0x240 ≤ o ∧ o < 0x280 then leAt b.rdData (o - 0x240) 4
    else 0

/-! ### HLT -/

/-- HLT_SUMMARY. -/
def hltSummary (s : State) : Nat :=
  let grp := fun (f : Nat → Bool) => b2n ((List.range 16).any f)
  mk [(8, 8, s.hlt.retiredLuns), (6, 1, b2n (s.zones.any fun e => e.2.st == .readOnly && e.2.roReason == 1))
    , (5, 1, b2n (!s.hlt.rebuilds.isEmpty)), (4, 1, b2n s.hlt.unrec), (3, 1, b2n (wearHighNow s)), (2, 1, grp (spareLow s))
    , (1, 1, grp fun g => decide (0 < Tab.get 0 s.media.spareInit g) && Tab.get 0 s.media.spareRem g == 0)
    , (0, 1, b2n s.hlt.readOnly)]

/-- HLT_SPARE_MIN: fewest spares of any group, and the lowest-numbered group with that count. -/
def spareMin (s : State) : Nat :=
  let g := (List.range 16).foldl (fun m g => if Tab.get 0 s.media.spareRem g < Tab.get 0 s.media.spareRem m then g else m) 0
  mk [(8, 17, Tab.get 0 s.media.spareRem g), (0, 4, g)]

/-- HLT_WEAR_QLC and HLT_WEAR_1BIT. -/
def wearWord (s : State) (oneBit : Bool) : Nat := mk [(16, 16, wearMax s oneBit), (0, 16, wearAvg s oneBit)]

/-- HLT_REBUILD: the earliest retired LUN whose rebuild goes on. -/
def rebuildWord (s : State) : Nat :=
  match s.hlt.rebuilds with
  | [] => 0
  | (l, n) :: _ =>
    let left := (s.media.relocs.filter fun r => r.2.ext.isNone && blkLun r.2.src == l).length
    mk [(31, 1, 1), (24, 7, (n - left) * 100 / max 1 n), (0, 12, l)]

/-- HLT_MCFG0. -/
def mcfgWord (s : State) : Nat :=
  mk [(24, 8, s.hlt.wearSpread), (20, 4, s.hlt.retain1), (16, 4, s.hlt.retainQ), (8, 8, s.hlt.patrolMax), (0, 8, s.hlt.verifyMax)]

/-- The HLT block as a port's PF0 sees it. -/
def readHlt (s : State) (p : Port) (o : Nat) : Nat :=
  let h := s.hlt
  let w := (getPort s p).win
  match o with
  | 0x0000 => hltSummary s
  | 0x0004 => h.evt
  | 0x0008 => h.evtEn
  | 0x000C => mk [(8, 8, h.wearHighPct), (0, 8, h.spareLowPct)]
  | 0x0010 => spareMin s
  | 0x00C0 => wearWord s false
  | 0x00C4 => wearWord s true
  | 0x00C8 => mk [(16, 16, rated true), (0, 16, rated false)]
  | 0x00D0 => ucInService s
  | 0x00D4 => rebuildWord s
  | 0x00D8 => h.offHours
  | 0x00DC => opHours s
  | 0x00E0 => mcfgWord s
  | 0x0200 => w.hltSel
  | 0x1000 => half (opMs s) 0
  | 0x1004 => half (opMs s) 1 % 65536
  | 0x1008 => h.pcycle
  | 0x100C => h.power
  | _ =>
    if 0x40 ≤ o ∧ o < 0x80 then
      let g := (o - 0x40) / 4
      let r := Tab.get 0 s.media.spareRem g
      mk [(24, 8, r * 100 / max 1 (Tab.get 0 s.media.spareInit g)), (0, 17, r)]
    else if 0x80 ≤ o ∧ o < 0xC0 then Tab.get 0 s.media.spareInit ((o - 0x80) / 4)
    else if 0x100 ≤ o ∧ o < 0x1B0 then half (Tab.get 0 h.mcnts ((o - 0x100) / 8)) (o / 4 % 2)
    else if 0x210 ≤ o ∧ o < 0x2B0 then half (nth 0 w.hltSnap ((o - 0x210) / 8)) ((o - 0x210) / 4 % 2)
    else if 0x400 ≤ o ∧ o < 0x600 then
      if (o - 0x400) % 64 < 48 then half (Tab.get 0 h.thist ((o - 0x400) / 8)) (o / 4 % 2) else 0
    else if 0x600 ≤ o ∧ o < 0x620 then
      let d := (o - 0x600) / 4
      mk [(8, 24, Tab.get 0 h.tmaxAt d), (0, 8, twos 8 (if Tab.get noTemp h.tmax d = noTemp then 0 else Tab.get noTemp h.tmax d))]
    else if 0x1040 ≤ o ∧ o < 0x10A0 then half (nth 0 w.telSnap ((o - 0x1040) / 8)) (o / 4 % 2)
    else 0

/-! ### MSI-X, casements and rings -/

/-- A word of an MSI-X table. -/
def vecWord (v : Vec) : Nat → Nat
  | 0 => v.addrLo
  | 1 => v.addrHi
  | 2 => v.data
  | _ => b2n v.masked

/-- The MSI-X table (at `tab`) or PBA (at `pba`) of a function (R38). -/
def readMsix (f : Fn) (n tab pba o : Nat) : Nat :=
  if tab ≤ o ∧ o < tab + 16 * n then vecWord (Tab.get {} f.vecs ((o - tab) / 16)) (o / 4 % 4)
  else if o = pba then maskOf n fun v => (Tab.get {} f.vecs v).pend
  else 0

/-- A word of a ring's registers. -/
def ringWord (r : Ring) : Nat → Nat
  | 0 => r.baseLo
  | 1 => r.baseHi
  | 2 => mk [(24, 8, r.itime), (16, 8, r.icnt), (8, 5, r.sizeLog2), (4, 1, b2n r.cfgErr), (3, 1, b2n r.mirror), (2, 1, b2n r.ien)
      , (0, 1, b2n r.en)]
  | _ => r.head

/-- A word of VF BAR0 (Table 2.4). -/
def readVf (s : State) (p : Port) (fn o : Nat) : Nat :=
  if o = 0x400 then (getCas s p fn).taken % p32
  else if o = 0x404 then casStatus s p fn
  else if 0x800 ≤ o ∧ o < 0x900 then ringWord (getRing s p fn ((o - 0x800) / 16)) (o / 4 % 4)
  else if 0x1000 ≤ o ∧ o < 0x10C0 then readMbx s (.vf p fn) (o - 0x1000)
  else readMsix (getFn s p fn) 17 0x2000 0x3000 o

/-- A word of PF0 BAR0 (Table 2.3). -/
def readPf0 (s : State) (p : Port) (o : Nat) : Nat :=
  if o < 0x8000 then readIdt s o
  else if o < 0x10000 then readMsix (getFn s p 0) 16 0x8000 0x9000 o
  else if o < 0x14000 then readCkm s (o - 0x10000)
  else if o < 0x18000 then readClkg s (o - 0x14000)
  else if o < 0x1C000 then readRst s (o - 0x18000)
  else if o < 0x20000 then readPwr s (o - 0x1C000)
  else if o < 0x30000 then readThm s (o - 0x20000)
  else if o < 0x40000 then
    if o < 0x30800 then readMbx s (.pf0 ((o - 0x30000) / 256)) (o % 256) else if o = 0x30804 then gstat s else 0
  else if o < 0x50000 then readEvr s p (o - 0x40000)
  else if o < 0x60000 then readMep s p (o - 0x50000)
  else if o < 0x70000 then readBpm s p (o - 0x60000)
  else if o < 0x80000 then readCip s p (o - 0x70000)
  else if o < 0x90000 then readAdm s p (o - 0x80000)
  else if 0x100000 ≤ o ∧ o < 0x140000 then readFch s ((o - 0x100000) / 2048) (o % 2048)
  else if 0x200000 ≤ o ∧ o < 0x201000 then readBoot s (o - 0x200000)
  else if 0x300000 ≤ o ∧ o < 0x302000 then readHlt s p (o - 0x300000)
  else 0

/-- The 32-bit word at an offset of a function's BAR0 (R4, R35, R36). -/
def regVal (s : State) (p : Port) (fn o : Nat) : Nat := if fn = 0 then readPf0 s p o else readVf s p fn o

end Sys2Proof.Machine
end

