-- ==== Sys2Proof/Machine/CfgSpace.lean ====
section
/-! DEFINITION. What the configuration space of a function reads as (R25, R31, Tables 2.1 and 2.2), its Routing ID (R32), and the function
that a memory address reaches (R35, R36). Fields lie where the PCIe header and capabilities put them, each capability at 0x1000 × its
ID and an extended one at 0x100000 × its ID (log 50, PRESUMED). -/

namespace Sys2Proof.Machine

/-! ### Routing IDs and addresses -/

/-- Routing ID of a function (R32): PF0's, which host software chose with the bus number (log 125, DESIGN CHOICE), plus n for VF n. -/
def routingId (p : Port) (fn : Nat) : Nat := Config.pf0Bus p.num * 256 + fn

/-- Buses above PF0's own that the functions up to VF n of a port reach (R32). -/
def busSpan (n : Nat) : Nat := n / 256 + 1

/-- The function of a port that a Routing ID names, if it exists (R32). -/
def fnOfRid (s : State) (p : Port) (rid : Nat) : Option Nat :=
  if routingId p 0 ≤ rid ∧ fnExists s p (rid - routingId p 0) then some (rid - routingId p 0) else none

/-- The Routing ID under which something leaves (R6, R32): that of the function it was sent for. -/
def outRid : Out → Option Nat
  | .data p fn .. => some (routingId p fn)
  | .bytes p fn .. => some (routingId p fn)
  | .entry p fn .. => some (routingId p fn)
  | .mirror p fn .. => some (routingId p fn)
  | .msix p fn _ => some (routingId p fn)
  | _ => none

/-- Bytes of the SR-IOV VF BAR0 aperture of a port (R36). -/
def vfAperture (q : PortSt) : Nat := q.numVfs * 65536

/-- Where the BAR0 of a function of a port begins (R31, R36). -/
def barBase (s : State) (p : Port) (fn : Nat) : Nat :=
  if fn = 0 then (getPort s p).pf0.bar.toNat else (getPort s p).vfBar.toNat + (fn - 1) * 65536

/-- The function and offset that a memory address on a port reaches (R31, R36): PF0's 16 MiB, or 64 KiB of a VF. -/
def memTarget (s : State) (p : Port) (addr : Nat) : Option (Nat × Nat) :=
  let a := barBase s p 0
  let b := barBase s p 1
  if a ≤ addr ∧ addr < a + 16777216 then some (0, addr - a)
  else if b ≤ addr ∧ addr < b + vfAperture (getPort s p) then some ((addr - b) / 65536 + 1, (addr - b) % 65536)
  else none

/-! ### Values -/

/-- The Type 0 header (Table 2.2): Vendor and Device ID are 0xFFFF for a VF; no other BAR, no expansion ROM, Interrupt Pin 0. -/
def cfgHeader (s : State) (p : Port) (fn : Nat) : Nat → Nat
  | 0x00 => if fn = 0 then 0x81281F4C else 0xFFFFFFFF
  | 0x04 => mk [(20, 1, 1), (2, 1, b2n (getFn s p fn).bme), (1, 1, b2n (getFn s p fn).mse)]
  | 0x08 => mk [(8, 24, 0x018000), (0, 8, 0x10)]
  | 0x10 => if fn = 0 then half (getFn s p fn).bar.toNat 0 + 4 else 0
  | 0x14 => if fn = 0 then half (getFn s p fn).bar.toNat 1 else 0
  | 0x2C => mk [(16, 16, s.ssid), (0, 16, s.svid)]
  | _ => 0

/-- The PCI Express capability (Table 2.1): Max Payload Size up to 1,024 B, FLR, x16 at 64 GT/s, ASPM L1 only with an exit latency of
8 to 16 µs (R27), the link as trained, Device Control and Device Control 2 as written, and no TPH, LTR, OBFF, or AtomicOps. -/
def cfgPcie (s : State) (p : Port) (fn : Nat) : Nat → Nat
  | 0x00 => mk [(16, 4, 2), (0, 8, 0x10)]
  | 0x04 => mk [(28, 1, 1), (15, 1, 1), (5, 1, 1), (0, 3, 3)]
  | 0x08 => mk [(12, 3, (getFn s p fn).mrrs), (5, 3, (getFn s p fn).mps), (4, 1, b2n (getFn s p fn).relaxed)]
  | 0x0C => mk [(24, 8, p.num), (15, 3, 4), (10, 2, 2), (4, 6, 16), (0, 4, 6)]
  | 0x10 => mk [(20, 6, (getPort s p).width), (16, 4, (getPort s p).speed)]
  | 0x24 => mk [(17, 1, 1), (16, 1, 1), (4, 1, 1), (0, 4, 0xF)]
  | 0x28 => mk [(0, 4, (getFn s p fn).cplTimeout)]
  | 0x2C => mk [(1, 7, 0x3F)]
  | _ => 0

/-- The MSI-X capability (R38): the Table Size less 1, Function Mask, and where table and PBA lie (Tables 2.3, 2.4). -/
def cfgMsix (s : State) (p : Port) (fn : Nat) : Nat → Nat
  | 0x00 => mk [(30, 1, b2n (getFn s p fn).fnMask), (16, 11, if fn = 0 then 15 else 16), (0, 8, 0x11)]
  | 0x04 => if fn = 0 then 0x8000 else 0x2000
  | 0x08 => if fn = 0 then 0x9000 else 0x3000
  | _ => 0

/-- The Power Management capability of PF0: D0 or D3hot, No_Soft_Reset 1 (Table 2.8). -/
def cfgPm (s : State) (p : Port) : Nat → Nat
  | 0x00 => mk [(16, 3, 3), (0, 8, 1)]
  | 0x04 => mk [(3, 1, 1), (0, 2, if (getPort s p).d3hot then 3 else 0)]
  | _ => 0

/-- The SR-IOV capability of PF0 (Table 2.2). -/
def cfgSriov (s : State) (p : Port) : Nat → Nat
  | 0x00 => mk [(16, 4, 1), (0, 16, 0x10)]
  | 0x08 => mk [(0, 1, b2n (getPort s p).vfEn)]
  | 0x0C => mk [(16, 16, 1024), (0, 16, 1024)]
  | 0x10 => mk [(0, 16, (getPort s p).numVfs)]
  | 0x14 => mk [(16, 16, 1), (0, 16, 1)]
  | 0x18 => mk [(16, 16, 0x8129)]
  | 0x1C => 0x1F
  | 0x20 => 1
  | 0x24 => half (getPort s p).vfBar.toNat 0 + 4
  | 0x28 => half (getPort s p).vfBar.toNat 1
  | _ => 0

/-- An extended capability (Table 2.2's list): AER with the errors reported (R29), the Device Serial Number, and those of which the manual
names no field. -/
def cfgExt (s : State) (p : Port) (fn id o : Nat) : Nat :=
  let listed := if fn = 0 then [0x01, 0x03, 0x0E, 0x25, 0x26, 0x27, 0x2A, 0x31] else [0x01, 0x0E]
  if !listed.contains id then 0
  else if o = 0 then mk [(16, 4, 1), (0, 16, id)]
  else if id = 1 ∧ o = 4 then (getFn s p fn).aer
  else if id = 3 ∧ o = 4 then half s.fuse.serial.toNat 0
  else if id = 3 ∧ o = 8 then half s.fuse.serial.toNat 1
  else 0

/-- The 32-bit word at an offset of a function's configuration space; what is not listed in Tables 2.1 and 2.2 is absent and reads 0. -/
def cfgVal (s : State) (p : Port) (fn o : Nat) : Nat :=
  if o < 0x1000 then cfgHeader s p fn o
  else if o < 0x2000 then (if fn = 0 then cfgPm s p (o - 0x1000) else 0)
  else if 0x10000 ≤ o ∧ o < 0x11000 then cfgPcie s p fn (o - 0x10000)
  else if 0x11000 ≤ o ∧ o < 0x12000 then cfgMsix s p fn (o - 0x11000)
  else if 0x1000000 ≤ o ∧ o < 0x1100000 then (if fn = 0 then cfgSriov s p (o - 0x1000000) else 0)
  else if 0x100000 ≤ o then cfgExt s p fn (o / 0x100000) (o % 0x100000)
  else 0

/-- CLKREQA_N and CLKREQB_N, by port: driven low at all times (R27). -/
def clkreqLow (_s : State) (_p : Port) : Bool := true

end Sys2Proof.Machine
end

