-- ==== Sys2Proof/Machine/Codeword.lean ====
section
/-! DEFINITION. What the XV8 writes for one sector: the codeword of R180 and its metadata of R181, as functions of the model's state. The data
bytes, the GCM tag and the LDPC parity are not held in State (log 7, DESIGN CHOICE), so they are arguments. -/

namespace Sys2Proof.Machine

/-- The kind of a sector (Table 8.2). -/
inductive SecKind | data | parity | pad | poison | system
  deriving DecidableEq, Repr

/-- KIND as the metadata holds it. -/
def SecKind.code : SecKind → Nat
  | .data => 0
  | .parity => 1
  | .pad => 2
  | .poison => 3
  | .system => 4

/-- The metadata of a sector, MCRC aside: bytes 0 to 59 of Table 8.2. -/
def metaHead (lba zone tenant : Nat) (kind : SecKind) (sub : Nat) (off : Bool) (hint gen epoch wtemp whours iv tag seq pcycle : Nat) : List Byte :=
  leBytes 8 lba ++ leBytes 4 zone ++ leBytes 2 (tenant % 1024) ++ leBytes 1 (mk [(5, 1, b2n off), (3, 2, sub), (0, 3, kind.code)]) ++
    leBytes 1 (hint % 16) ++ leBytes 4 gen ++ leBytes 2 epoch ++ leBytes 1 wtemp ++ leBytes 1 0 ++ leBytes 4 whours ++ leBytes 8 iv ++
    leBytes 16 tag ++ leBytes 4 seq ++ leBytes 3 pcycle ++ leBytes 1 0

/-- The metadata with its MCRC: CRC-32C over the data bytes and bytes 0 to 59. -/
def withMcrc (data head : List Byte) : List Byte := head ++ leBytes 4 (crc32c (data ++ head)).toNat

/-- The metadata of part `sub` of a version in page `page` of block `b`, whose program gave it WHOURS and WTEMP (R181, R183). -/
def sectorMeta (s : State) (v sub b page tag : Nat) (data : List Byte) : List Byte :=
  let x := getVer s v
  let st := stampAt (getBlk s b) page
  let kind := if x.poison then SecKind.poison else .data
  withMcrc data (metaHead x.lba x.zone x.tenant kind sub x.cipherOff x.hint x.gen x.epoch st.2 st.1 (if x.cipherOff then 0 else x.iv)
    (if sub = 0 ∧ !x.cipherOff then tag else 0) x.seq x.pcycle)

/-- The metadata of a pad sector of a zone's extent or member: data bytes of 0 and an LBA of all ones (R181). -/
def padMeta (s : State) (t z b page : Nat) : List Byte :=
  let st := stampAt (getBlk s b) page
  withMcrc (List.replicate 4096 0) (metaHead (2 ^ 64 - 1) z t .pad 0 false 0 0 0 st.2 st.1 0 0 0 0)

/-- A stripe-parity sector: the XOR of bytes 0 to 4,159 of the sectors that it covers (R181). -/
def parityBytes : List (List Byte) → List Byte
  | [] => List.replicate 4160 0
  | l :: ls => (List.range 4160).map fun i => nth 0 l i ^^^ nth 0 (parityBytes ls) i

/-- The codeword of a sector (Table 8.1): 4,096 data bytes, 64 of metadata, 448 of LDPC parity. -/
def codeword (data info parity : List Byte) : List Byte := data ++ info ++ parity

end Sys2Proof.Machine
end

