-- ==== Sys2Proof/Machine/Mgmt.lean ====
section
/-! DEFINITION. Management requests (R303 to R315): the checks common to every opcode, and IDENTIFY, GET_LOG, HEALTH, THERMAL_SET,
QUADRANT_RESET and EVREC_PERSIST. -/

namespace Sys2Proof.Machine

/-- The head of a reply queue is removed (R295). With the reply of FW_ACTIVATE mode 2 popped, its warm reset starts (R361). -/
def popReply (s : State) (b : Box) : State :=
  match (getMbx s b).rspQ with
  | [] => s
  | f :: t =>
    let s := modMbx s b fun m => { m with rspQ := t }
    if f.resets && s.rst.warmPhase == 1 then beginWarm s 3 else s

/-- MBX_POP (R295). -/
def execMbxPop (p : Port) (b : Box) (v : Word) (s : State) : Res :=
  boxWrite 3 p b 0x44 0xFFFFFFFE v s fun s _ => .next (if flag v 0 then popReply s b else s)

/-! ### Checks of a request (R305) -/

/-- TARGET of a request for the device. -/
def devTarget : Nat := 0xFFFFFFFF

/-- The tenant of a tenant mailbox. -/
def boxTenant : Box → Option Nat
  | .pf0 _ => none
  | .vf _ fn => some (fn - 1)

/-- The opcodes of Table 13.6. -/
def knownOp (op : Nat) : Bool := decide (0x80 ≤ op) && decide (op ≤ 0x8D)

/-- Some argument from ARG`k` on is not 0. -/
def argsFrom (f : List Byte) (k : Nat) : Bool := (List.range 4).any fun i => decide (k ≤ i) && fArg f i != 0

/-- Opcodes with request data (Table 13.6). -/
def takesData (op : Nat) : Bool := op == 0x82 || op == 0x84 || op == 0x86 || op == 0x87
/-- Opcodes with reply data (Table 13.6). -/
def givesData (op : Nat) : Bool := decide (0x80 ≤ op) && decide (op ≤ 0x84)

/-- An argument out of range, or one that the opcode does not use and that is not 0 (R303, Table 13.6). -/
def argsBad (f : List Byte) : Bool :=
  let a := fArg f
  match fOp f with
  | 0x80 => decide (2 < a 0) || argsFrom f 1
  | 0x81 =>
    a 3 != 0 || (match a 0 with
    | 0x01 | 0x02 => decide (3 < a 1) || a 2 != 0
    | 0x03 | 0x04 | 0x10 | 0x12 => a 1 != 0 || a 2 != 0
    | 0x11 => decide (1 < a 1)
    | _ => false)
  | 0x86 => argsFrom f 0 || fDlen f != 64
  | 0x87 => decide (3 < a 0) || argsFrom f 2 || fDlen f == 0
  | 0x88 => decide (2 < a 0) || argsFrom f 1
  | 0x8A => (a 0 &&& 0xFFFFFEF0) != 0 || argsFrom f 2
  | 0x8B => argsFrom f 2
  | 0x8C => argsFrom f 1
  | _ => argsFrom f 0

/-- What a log page takes in TARGET: a tenant, or the device; a tenant mailbox may leave its own tenant unnamed (R315). -/
inductive TargetKind | device | tenant | either | any
  deriving DecidableEq, Repr

/-- What an opcode takes in TARGET (R303, R314, R315, Table 13.6). -/
def targetKind (op a0 : Nat) (vf : Bool) : TargetKind :=
  match op with
  | 0x80 => if a0 = 1 then .tenant else .device
  | 0x81 =>
    if 1 ≤ a0 ∧ a0 ≤ 4 then (if vf then .either else .tenant)
    else if a0 = 0x10 ∨ a0 = 0x11 ∨ a0 = 0x12 then .device
    else .any
  | 0x83 => .either
  | 0x84 | 0x85 => .tenant
  | 0x8B => if a0 = 1 ∨ a0 = 2 then .tenant else if a0 = 3 ∨ a0 = 4 then .device else .any
  | _ => .device

/-- TARGET is not one that the request takes. -/
def targetBad (t : Nat) : TargetKind → Bool
  | .device => t != devTarget
  | .tenant => decide (1023 < t)
  | .either => decide (1023 < t) && t != devTarget
  | .any => false

/-- Kind of target of a request of a mailbox. -/
def kindOf (b : Box) (f : List Byte) : TargetKind := targetKind (fOp f) (fArg f 0) (!isPf0Box b)

/-- INVALID_FIELD (R303, Table 13.5). Agent 3's DADDR and RADDR are ignored (R304). -/
def fieldBad (b : Box) (f : Frame) : Bool :=
  let r := f.bytes
  let op := fOp r
  let host := f.agent != 3
  fKey r != 0xC3 || fFlags r != 0 || fZero r != 0 || fArg4 r != 0 || argsBad r || targetBad (fTarget r) (kindOf b r) ||
    fDlen r % 4 != 0 || fRlen r % 4 != 0 || (host && (fDaddr r % 4 != 0 || fRaddr r % 4 != 0)) ||
    (!takesData op && (fDlen r != 0 || (host && fDaddr r != 0))) ||
    (!givesData op && (fRlen r != 0 || (host && fRaddr r != 0)))

/-- Most request data (R304). -/
def dataLimit (f : Frame) : Nat := if f.agent = 3 then 4096 else 1048576

/-- What a device that stopped during boot still serves (R354). -/
def stoppedServes (f : List Byte) : Bool :=
  match fOp f with
  | 0x80 => fArg f 0 == 0
  | 0x81 => fArg f 0 == 0x11 && fArg f 1 == 0
  | 0x87 | 0x88 => true
  | _ => false

/-- NOT_PERMITTED (R310, R314, R315): a tenant mailbox asks for what only PF0 agents may have, or a device that stopped during
boot for what it does not serve. -/
def notPermitted (s : State) (b : Box) (f : List Byte) : Bool :=
  let a0 := fArg f 0
  let own := some (fTarget f) == boxTenant b
  let dev := fTarget f == devTarget
  let tenant := match fOp f with
    | 0x80 => a0 == 1 && !own
    | 0x81 => if 1 ≤ a0 ∧ a0 ≤ 4 then !(own || dev) else a0 == 0x10 || a0 == 0x11 || a0 == 0x12
    | 0x83 => !own
    | 0x86 => false
    | _ => true
  (!isPf0Box b && tenant) || (s.boot.stopped && !s.boot.ready && !stoppedServes f)

/-- NO_TENANT: the mailbox's own tenant, or the tenant that TARGET names, does not exist. SANITIZE has a result of its own for
this (Table 13.7), and TENANT_CREATE needs it. -/
def noTenant (s : State) (b : Box) (f : List Byte) : Bool :=
  match boxTenant b with
  | some t => (getTen s t).isNone
  | none =>
    let k := kindOf b f
    (k == .tenant || k == .either) && fTarget f != devTarget && fOp f != 0x84 && fOp f != 0x8B && (getTen s (fTarget f)).isNone

/-- The common result that a request fails with, the first that applies (R305), or none. -/
def reqError (s : State) (b : Box) (f : Frame) : Option Nat :=
  if !knownOp (fOp f.bytes) then some 0xF0
  else if fieldBad b f then some 0xF2
  else if dataLimit f < fDlen f.bytes then some 0xF5
  else if notPermitted s b f.bytes then some 0xF1
  else if noTenant s b f.bytes then some 0xF4
  else none

/-! ### Execution (R311) -/

/-- A mailbox's request that can start now and that `sel` picks out is executed: it fails with its common result, or `k` runs. -/
def runReq (sel : Frame → Bool) (b : Box) (s : State) (k : Frame → State → State) : Res :=
  match nextReq s b with
  | none => .next s
  | some f =>
    if !sel f then .next s
    else match reqError s b f with
      | some e => .next (finishReq s b e [] [])
      | none => .next (k f s)

/-- Request data (R304): what agent 3 sent with its frame, or what the DMA read brought; none when that failed. -/
def reqData (f : Frame) (d : ReqData) : Option (List Byte) :=
  if f.agent = 3 then some (padTo (fDlen f.bytes) f.data)
  else if fDlen f.bytes = 0 then some []
  else match d with
    | .ok l => some (padTo (fDlen f.bytes) l)
    | .fault => none

/-- A request with data: its DMA read waits while its function cannot be accessed (R301), and a failure of it ends the request with
DMA_FAULT. -/
def runData (sel : Frame → Bool) (b : Box) (d : ReqData) (s : State) (k : List Byte → Frame → State → State) : Res :=
  runReq sel b s fun f s =>
    let path := boxPath (agentPort f.agent) b
    if f.agent != 3 && fDlen f.bytes != 0 && !canWrite s path.1 path.2 then s
    else match reqData f d with
      | none => finishReq s b 0xF3 [] []
      | some l => k l f s

/-- Requests with an opcode. -/
def isOp (op : Nat) (f : Frame) : Bool := fOp f.bytes == op

/-- The tenant that a request names, or the mailbox's own. -/
def reqTenant (b : Box) (f : Frame) : Nat :=
  if fTarget f.bytes = devTarget then (boxTenant b).getD 0 else fTarget f.bytes

/-- MBX_INVALID_OPCODE (R305): an opcode outside 0x80 to 0x8D. -/
def execMbxInvalidOpcode (b : Box) (s : State) : Res := runReq (fun f => !knownOp (fOp f.bytes)) b s fun _ s => s

/-! ### IDENTIFY (R314) -/

/-- Several 32-bit values as bytes. -/
def words32 (l : List Nat) : List Byte := l.flatMap (leBytes 4)
/-- Several 64-bit values as bytes. -/
def words64 (l : List Nat) : List Byte := l.flatMap (leBytes 8)

/-- Topcoat blocks that a tenant's zones reserve (R109). -/
def reservedBlocks (t : Tenant) : Nat :=
  let n := t.w + parityN t
  (t.nz - t.nc) * n + t.nc * cdiv (n * 9) 8

/-- Bytes of a tenant's conventional space (R109). -/
def convBytes (t : Tenant) : Nat := t.nc * zoneSize t * t.blk

/-- The zone block pool (Table 13.8): the pool blocks of the 16 channel groups (Table 8.8), known once the media is. -/
def zonePool (s : State) : Nat :=
  let span := roleSpan (256 * nominal s) .pool
  if s.hlt.known then 16 * (span.2 - span.1) else 0

/-- IDENTIFY CNS 0 (Table 13.8). -/
def identifyDevice (s : State) : List Byte :=
  let ts := (tenants s).map Prod.snd
  padTo 4096 (words32 ([0x08, 0x0C, 0x10, 0x04, 0x20, 0x24, 0x28, 0x30, 0x34].map (readIdt s)) ++
    words32 [zonePool s, sumBy reservedBlocks ts, sumBy Tenant.nz ts] ++ leBytes 8 (sumBy convBytes ts) ++
    words32 [s.media.ucTotal, s.plp.dmaxMib, s.adm.capMbps, s.adm.peakMbps, s.adm.capOps, s.adm.peakOps, ts.length,
      Config.qualTable.length])

/-- IDENTIFY CNS 1. -/
def identifyTenant (s : State) (t : Nat) : List Byte :=
  let x := tenD s t
  padTo 64 (words32 [x.blk, x.w, zoneSize x, x.nz, x.nc, x.openMax, x.awu, x.ucAllow, b2n (!x.cipherOff), instOf s t, openCount s t])

/-- Some volume in service matches a qualification entry. -/
def volMatches (s : State) (mfr dev : Nat) : Bool :=
  allChs.any fun c => (getChan s c).trained &&
    (getChan s c).vols.any fun v => v.2.present && !v.2.excluded && v.2.mfr == mfr && v.2.dev == dev

/-- IDENTIFY CNS 2: the qualification table. -/
def identifyQual (s : State) : List Byte :=
  Config.qualTable.flatMap fun (mfr, dev, ret, qlc, one) =>
    leBytes 1 mfr ++ leBytes 7 dev ++ leBytes 1 (b2n ret + 2 * b2n (volMatches s mfr dev)) ++ leBytes 1 0 ++ leBytes 2 qlc ++ leBytes 4 one

/-- IDENTIFY (R314). -/
def execIdentify (b : Box) (s : State) : Res :=
  runReq (isOp 0x80) b s fun f s =>
    finishReq s b 0 [] (match fArg f.bytes 0 with
      | 0 => identifyDevice s
      | 1 => identifyTenant s (reqTenant b f)
      | _ => identifyQual s)

/-! ### GET_LOG (R315) -/

/-- Records of page 0x11 (R390), each with its position: in ascending order from ARG2, or from the oldest when that is later. -/
def eventPage (e : Evr) (isLog : Bool) (start n : Nat) : List (Nat × EvRec) :=
  let l := if isLog then e.log else e.ring.map fun r => (r.num, r)
  let first := if isLog then e.logFirst else e.first
  let from' := if olderPos start first then first else start
  (l.filter fun x => !olderPos x.1 from').take n

/-- A free value for a reply field (log 4, DESIGN CHOICE). -/
def openField (s : State) : State × Nat := ({ s with freeCtr := s.freeCtr + 1 }, Config.openField s.freeCtr % p32)

/-- GET_LOG page 0x11 (R390): the page, VAL1 the position of its first record and VAL2 the position after its last; with no record
the manual states neither. -/
def logEvents (s : State) (b : Box) (f : Frame) : State :=
  let l := eventPage s.evr (fArg f.bytes 1 == 1) (fArg f.bytes 2) (room f / 32)
  let out := l.flatMap fun x => recBytes x.2
  match l.head?, l.getLast? with
  | some x, some y => finishReq s b 0 [out.length, x.1, (y.1 + 1) % p32] out
  | _, _ =>
    let (s, v1) := openField s
    let (s, v2) := openField s
    finishReq s b 0 [0, v1, v2] []

/-- The tenant pages, the lifetime counters and the clamp report (Table 13.9), or none for an unknown page. -/
def logPage (s : State) (page t cls : Nat) : Option (List Byte) :=
  let c := clsOfNat cls
  match page with
  | 0x01 => some (words32 ((admWindow s t c).drop 8))
  | 0x02 => some (words64 ((List.range 20).map fun k => Tab.get 0 (getCls s t c).rcnts k))
  | 0x03 => some (words32 ((cipWindow s t).take 1) ++ words64 ((List.range 5).map fun k => Tab.get 0 s.cip.tcnts (t * 8 + k)))
  | 0x04 => some (words32 ((bpmWindow s t).take 5) ++ words64 [(tenD s t).qhold, (tenD s t).dphold])
  | 0x10 => some (words64 ((List.range 22).map fun k => Tab.get 0 s.hlt.mcnts k))
  | 0x12 => some s.cfgReport
  | _ => none

/-- GET_LOG (R315): the page, with its length; no page clears anything. -/
def execGetLog (b : Box) (s : State) : Res :=
  runReq (isOp 0x81) b s fun f s =>
    if fArg f.bytes 0 = 0x11 then logEvents s b f
    else match logPage s (fArg f.bytes 0) (reqTenant b f) (fArg f.bytes 1) with
      | none => finishReq s b 1 [] []
      | some d => finishReq s b 0 [d.length] d

/-! ### HEALTH, THERMAL_SET, QUADRANT_RESET and EVREC_PERSIST -/

/-- HEALTH (Table 13.6). -/
def execHealth (b : Box) (s : State) : Res :=
  runReq (isOp 0x89) b s fun _ s =>
    finishReq s b 0 [hltSummary s, spareMin s, wearWord s false, wearWord s true, thmTmax s, dirtyMib s, idtStatus s, plpStat s] []

/-- Range of die threshold `i`, T_WARN first (Table 16.2). -/
def thrRange : Nat → Nat × Nat
  | 0 => (70, 105)
  | 1 => (80, 108)
  | 2 => (90, 115)
  | _ => (105, 120)

/-- A value clamped to a range. -/
def clampTo (r : Nat × Nat) (v : Nat) : Nat := min (max v r.1) r.2

/-- The order that die thresholds keep (R368). -/
def thrOrder (l : List Nat) : Bool :=
  decide (nth 0 l 0 ≤ nth 0 l 1) && decide (nth 0 l 1 + 4 ≤ nth 0 l 2) && decide (nth 0 l 2 + 3 ≤ nth 0 l 3)

/-- THERMAL_SET (R368): the thresholds selected by ARG0 are clamped, checked together, and in force from the next control period;
with PERSIST they are committed as the configured ones too (R322). -/
def execThermalSet (b : Box) (s : State) : Res :=
  runReq (isOp 0x8A) b s fun f s =>
    let mask := bits (fArg f.bytes 0) 0 4
    let want := fun (i : Nat) => bits (fArg f.bytes 1) (8 * i) 8
    let l := (List.range 4).map fun i => if bit mask i then clampTo (thrRange i) (want i) else nth 0 s.thm.tNext i
    if !thrOrder l then finishReq s b 1 [] []
    else
      let clamped := maskOf 4 fun i => bit mask i && clampTo (thrRange i) (want i) != want i
      let conf := if bit (fArg f.bytes 0) 8 then l else s.thm.tConf
      let t := { s with thm := { s.thm with tNext := l, tConf := conf } }
      if bit (fArg f.bytes 0) 8 then finishDurable { t with cfgOpen := some (cfgNow s s.plp.jSeq) } b 0 [threshWord l, clamped] []
      else finishReq t b 0 [threshWord l, clamped] []

/-- QUADRANT_RESET (R340): the request waits for the quadrant's reset, which begins once D allows; its reply comes with the end of
the reset. -/
def execQuadrantReset (b : Box) (s : State) : Res :=
  runReq (isOp 0x8C) b s fun f s =>
    let q := fArg f.bytes 0
    if 3 < q then finishReq s b 1 [] []
    else
      let s := modMbx s b fun m => { m with busy := true }
      let under := Tab.get 0 s.rst.qState q == 1
      { s with rst := { s.rst with
        qState := Tab.set 0 s.rst.qState q 1
        qPhase := if under then s.rst.qPhase else Tab.set 0 s.rst.qPhase q 7
        qWait := s.rst.qWait ++ [(q, b, s.nowNs)] } }

/-- EVREC_PERSIST (R388): every record waiting is persisted, once no clear of the log runs; VAL0 and VAL1 tell of the last record
of the log. -/
def execEvrecPersist (b : Box) (s : State) : Res :=
  runReq (isOp 0x8D) b s fun _ s =>
    if logClearing s.evr then s else
    let s := persistAll s
    match s.evr.log.getLast? with
    | some x => finishReq s b 0 [x.2.num % 65536, x.2.time % p32] []
    | none =>
      let (s, v0) := openField s
      let (s, v1) := openField s
      finishReq s b 0 [v0 % 65536, v1] []

end Sys2Proof.Machine
end

