-- ==== Sys2Proof/Machine/Keys.lean ====
section
/-! DEFINITION. Keys and erasure (R274 to R280, R289 to R291): KEY_LOAD, eviction, SANITIZE, and the CIP registers that a host
writes. -/

namespace Sys2Proof.Machine

/-- A tenant's key slot. -/
def tslot (s : State) (t : Nat) : KeySlot := Tab.get {} s.cip.tslots t
/-- A device key slot. -/
def dslot (s : State) (d : Nat) : KeySlot := Tab.get {} s.cip.dslots d
/-- The state with a tenant's key slot rewritten. -/
def modTslot (s : State) (t : Nat) (f : KeySlot → KeySlot) : State :=
  { s with cip := { s.cip with tslots := Tab.upd {} s.cip.tslots t f } }
/-- The state with a device key slot rewritten. -/
def modDslot (s : State) (d : Nat) (f : KeySlot → KeySlot) : State :=
  { s with cip := { s.cip with dslots := Tab.upd {} s.cip.dslots d f } }

/-! ### The descriptor (Table 12.2) -/

/-- TARGET of a descriptor. -/
def kTarget (d : List Byte) : Nat := leAt d 0 2
/-- WRAP_SLOT of a descriptor. -/
def kWrap (d : List Byte) : Nat := leAt d 2 1
/-- FLAGS of a descriptor. -/
def kFlags (d : List Byte) : Nat := leAt d 3 1
/-- BLOB of a descriptor. -/
def kBlob (d : List Byte) : List Byte := slice d 8 40
/-- KEY_ID of a descriptor. -/
def kId (d : List Byte) : Nat := leAt d 48 8
/-- FLAGS.EVICT of a descriptor. -/
def kEvict (d : List Byte) : Bool := bit (kFlags d) 1

/-- The target is a tenant slot. -/
def kTenant (d : List Byte) : Bool := decide (kTarget d ≤ 0x3FF)

/-- Step 1 of R277 refuses: a tenant mailbox names a slot that is not its own, or evicts a key that a PF0 agent loaded. -/
def agentRefused (s : State) (b : Box) (d : List Byte) : Bool :=
  match boxTenant b with
  | none => false
  | some t => kTarget d != t || (kEvict d && (tslot s t).state == 1 && (tslot s t).byPf0)

/-- Step 2 of R277 fails: TARGET, WRAP_SLOT, FLAGS, or a byte that must be 0 (R276). -/
def descBad (d : List Byte) : Bool :=
  let t := kTarget d
  !(kTenant d || (decide (0x401 ≤ t) && decide (t ≤ 0x404))) || decide (4 < kWrap d) || decide (3 < kFlags d) ||
    leAt d 4 4 != 0 || leAt d 56 8 != 0 ||
    (if kEvict d then leAt d 8 40 != 0 else kWrap d == 0 && leAt d 40 8 != 0)

/-- Step 3 of R277 fails: a tenant target that does not exist or has cipher off. -/
def keyTenantBad (s : State) (d : List Byte) : Bool :=
  kTenant d && (match getTen s (kTarget d) with
    | none => true
    | some t => t.cipherOff)

/-- The checks that a load and an eviction share: a SANITIZE under way when the request was taken, and steps 1 to 3 of R277. -/
def keyCheck (s : State) (b : Box) (f : Frame) (d : List Byte) : Option Nat :=
  if f.duringSan then some 8
  else if agentRefused s b d then some 2
  else if descBad d then some 1
  else if keyTenantBad s d then some 3
  else none

/-- The tenant holds data, or may: some zone of it is not EMPTY (R277, step 5). -/
def holdsData (s : State) (t : Nat) : Bool := s.zones.any fun e => e.1 / 4194304 == t && e.2.st != .empty

/-- Result of step 4 of R277: the key of the blob, or why there is none. -/
def unwrapBlob (s : State) (d : List Byte) : Except Nat (List Byte) :=
  if kWrap d = 0 then
    if kTenant d || !s.cip.plainAllow then .error 6 else .ok ((kBlob d).take 32)
  else
    let k := dslot s (kWrap d)
    if k.state ≠ 1 then .error 4
    else match kwUnwrap k.key (kBlob d) with
      | none => .error 5
      | some key => .ok key

/-- A failed integrity check (Table 12.3, 0x05). -/
def unwrapFailed (s : State) (d : List Byte) : State := setCipEvt (cipCnt s 7 1) 1 (kTarget d % 4096) 3

/-- A slot takes a key (R277, step 6): the key it already holds changes only KEY_ID and PERSIST. -/
def takeKey (k : KeySlot) (key : List Byte) (d : List Byte) (pf0 : Bool) : KeySlot :=
  let persist := !kTenant d || bit (kFlags d) 0
  if k.state = 1 ∧ k.key = key then { k with keyId := kId d, persist := persist }
  else { state := 1, persist := persist, plain := kWrap d == 0, key := key, keyId := kId d, kcv := leNat (kcvOf key)
         loads := satAdd 0xFFFF k.loads 1, byPf0 := pf0 }

/-- Commands released before a tenant's slot was lost go on with the key that it now holds (Table 10.6). -/
def keyLoaded (s : State) (t : Nat) : State := (s.cmds.filter fun c => c.tenant == t).foldl keyBack s

/-- The request's descriptor asks for an eviction. -/
def wantsEvict (d : ReqData) (f : Frame) : Bool :=
  match reqData f d with
  | some l => kEvict l
  | none => false

/-- KEY_LOAD (R277): a load; its persisted copy is programmed before the reply. -/
def execKeyLoad (b : Box) (d : ReqData) (s : State) : Res :=
  runData (fun f => isOp 0x86 f && !wantsEvict d f) b d s fun l f s =>
    match keyCheck s b f l with
    | some e => finishReq s b e [] []
    | none =>
      match unwrapBlob s l with
      | .error e => finishReq (if e = 5 then unwrapFailed s l else s) b e [] []
      | .ok key =>
        let t := kTarget l
        let pf0 := isPf0Box b
        if !kTenant l then finishDurable (modDslot s (t - 0x400) fun k => takeKey k key l pf0) b 0 [] []
        else if holdsData s t && (tslot s t).loads != 0 && (tslot s t).kcv != leNat (kcvOf key) then finishReq s b 7 [] []
        else
          let s := keyLoaded (modTslot s t fun k => takeKey k key l pf0) t
          if bit (kFlags l) 0 then finishDurable s b 0 [] [] else finishReq s b 0 [] []

/-- KEY_EVICT (R278): KEY_LOAD with EVICT; the eviction point. The reply waits for KEY_EVICT_REPLY; a slot that is empty already
needs none. -/
def execKeyEvict (b : Box) (d : ReqData) (s : State) : Res :=
  runData (fun f => isOp 0x86 f && wantsEvict d f) b d s fun l f s =>
    match keyCheck s b f l with
    | some e => finishReq s b e [] []
    | none =>
      let t := kTarget l
      let slot := if kTenant l then tslot s t else dslot s (t - 0x400)
      if slot.state = 0 ∨ (kTenant l ∧ slot.state = 3) then finishReq s b 0 [] []
      else
        let jno := s.plp.jSeq
        let s := stageRec (modMbx s b fun m => { m with busy := true })
        let s := { s with cip := { s.cip with evicting := s.cip.evicting ++ [(t, jno, b)] } }
        if kTenant l then
          if slot.state = 2 then modTslot s t fun k => { k with persist := false } -- the key is gone: what is left is the persisted copy
          else keyNotice (modTslot s t fun k => { k with state := 3 }) t 1
        else modDslot s (t - 0x400) emptySlot

/-- A command of a tenant, released before, still has cipher work to do (R278). -/
def cipherWork (s : State) (t : Nat) : Bool :=
  s.cmds.any fun c => c.tenant == t && c.released && c.ph != .gen && needsKey (cOp c) &&
    !(isWriter (cOp c) && c.committed && c.vers.all fun v => (getVer s v).hbm || (getVer s v).dead)

/-- No command waits for the cipher engines with a key that the tenant's slot still holds (R278). -/
def keyIdle (s : State) (t : Nat) : Bool := (tslot s t).state == 2 || !cipherWork s t

/-- A tenant's slot is empty at last, and its derived keys are purged (R278, R282); a slot that was lost shows so while commands wait for its
KEY_LOAD (Table 10.6). -/
def keyOut (s : State) (t : Nat) : State :=
  let wait := (tslot s t).state == 2 && cipherWork s t
  purgeTenant (modTslot s t fun k => if wait then { emptySlot k with state := 2 } else emptySlot k) t

/-- KEY_EVICT_REPLY (R278): the last such command is done and the journal record is durable; derived keys are purged. -/
def execKeyEvictReply (b : Box) (s : State) : Res :=
  match s.cip.evicting.find? fun e => e.2.2 == b with
  | none => .next s
  | some (t, jno, _) =>
    if jno < s.plp.jSeq && serving s b && (decide (0x400 ≤ t) || keyIdle s t) then
      let s := { s with cip := { s.cip with evicting := s.cip.evicting.filter fun e => e.2.2 != b } }
      let s := if 0x400 ≤ t then s else keyOut s t
      .next (finishReq s b 0 [] [])
    else .next s

/-! ### SANITIZE -/

/-- What a tenant holds on the media: its zones' members, its undercoat sets, its topcoat blocks of conventional data. -/
def tenantBlocks (s : State) (t : Nat) : List Nat :=
  (s.zones.filter fun e => e.1 / 4194304 == t).flatMap (fun e => e.2.members.filterMap Member.blk) ++
    (s.media.sets.filter fun e => e.2.tenant == t).flatMap (fun e => e.2.blks) ++
    (s.media.convs.filter fun e => e.2.tenant == t).map Prod.fst

/-- Writers whose data is still on its way complete later with SUCCESS, and their data without effect (R291). -/
def severWriters (s : State) (t : Nat) : State :=
  s.cmds.foldl (fun s c =>
    if c.tenant = t ∧ c.ph = .exec ∧ c.committed ∧ isWriter (cOp c) ∧ !c.acked then
      c.vers.foldl (fun s v => modVer s v fun x => { x with dead := true, sup := true }) s
    else s) s

/-- A tenant's staging extents, block sets, conventional blocks and logical relocations are given up, their blocks queued for
erase (R18). -/
def dropStreams (s : State) (t : Nat) : State :=
  let exts := (s.media.exts.filter fun e => e.2.tenant == t && !e.2.released).map Prod.fst
  let mine := fun (x : Reloc) => x.logical && (match x.ext with
    | some e => (getExt s e).tenant == t
    | none => (Tab.get {} s.media.convs x.src).tenant == t && s.media.convs.any fun c => c.1 == x.src)
  let rs := s.media.relocs.filter fun e => mine e.2
  let convs := (s.media.convs.filter fun e => e.2.tenant == t).map Prod.fst
  let s := pushBufs s 9 (rs.flatMap fun e => e.2.bufs)
  let s := { s with media := { s.media with
    relocs := s.media.relocs.filter fun e => !mine e.2
    convs := s.media.convs.filter fun e => e.2.tenant != t } }
  let s := dropPrograms s convs exts
  let s := exts.foldl releaseExt s
  let open' := s.media.sets.filter fun e => e.2.tenant == t && !e.2.blks.isEmpty
  let s := open'.foldl (fun s e => modSet s e.1 fun y => { y with blks := [] }) s
  (open'.flatMap (fun e => e.2.blks) ++ convs).foldl queueEr s

/-- Every zone of a tenant becomes EMPTY with its next generation and epoch 0, its data dropped and its blocks queued for erase
(R290). -/
def dropZones (s : State) (t : Nat) : State :=
  let s := severWriters s t
  dropStreams ((List.range (tenD s t).nz).foldl (fun s z => applyReset s t z) s) t

/-- Tenants that a SANITIZE affects. -/
def sanTenants (s : State) (kind t : Nat) : List Nat := if kind ≤ 2 then [t] else (tenants s).map Prod.fst

/-- A tenant under SANITIZE: its slot leaves the loaded state with notice 3 as under R278, its derived keys are purged, its instance number
advances, its zones are dropped. Commands released before finish their cipher work with the key (R291). -/
def sanTenant (s : State) (t : Nat) : State :=
  let held := decide ((tslot s t).state = 1)
  let s := modTslot s t fun k => if k.state = 1 then { k with state := 3, persist := false } else { k with persist := false }
  let s := if held then keyNotice s t 2 else s
  let s := dropZones (purgeTenant s t) t
  let i := instOf s t
  if i < 0x3FFFFF then { s with cip := { s.cip with insts := Tab.set 0 s.cip.insts t (i + 1) } } else s

/-- Device slots under kinds 3 and 4: KEKs emptied, the system-area key regenerated, plain loads allowed again. -/
def sanDevice (s : State) : State :=
  let s := [1, 2, 3, 4].foldl (fun s d => modDslot s d emptySlot) s
  let s := modDslot s 5 fun k => { k with loads := satAdd 0xFFFF k.loads 1 }
  { s with cip := { s.cip with plainAllow := true } }

/-- Why a SANITIZE is refused (Table 13.7), or none. -/
def sanRefused (s : State) (kind confirm t : Nat) : Option Nat :=
  if kind = 0 ∨ 4 < kind ∨ (kind ≤ 2 ∧ (getTen s t).isNone) then some 1
  else if confirm ≠ 0x53414E49 then some 2
  else if kind = 1 ∧ (tenD s t).cipherOff then some 3
  else none

/-- The effect of a SANITIZE at its cycle (R290, R291). -/
def startSan (s : State) (b : Box) (kind t : Nat) : State :=
  let ts := sanTenants s kind t
  let s := ts.foldl sanTenant s
  let s := if 3 ≤ kind then sanDevice s else s
  let left := if kind = 2 ∨ kind = 4 then (s.media.blks.filter fun e => e.2.eraseIntent).map Prod.fst else []
  let jno := s.plp.jSeq
  let x : San := { kind := kind, tenant := if kind ≤ 2 then t else 0, box := some b, jno := jno, left := left, total := left.length }
  completeFua (stageRec { s with cip := { s.cip with san := some x, sanKind := kind, sanTenant := x.tenant } })

/-- SANITIZE (R290): kind 1 of a tenant whose instance number stands at its end performs kind 2. -/
def execSanitize (b : Box) (s : State) : Res :=
  runReq (isOp 0x8B) b s fun f s =>
    let kind := fArg f.bytes 0
    let t := fTarget f.bytes
    match sanRefused s kind (fArg f.bytes 1) t with
    | some e => finishReq s b e [] []
    | none =>
      let kind := if kind = 1 ∧ instOf s t = 0x3FFFFF then 2 else kind
      startSan (modMbx s b fun m => { m with busy := true }) b kind t

/-- A block has been erased and has passed its check, or is retired (R207). -/
def wiped (s : State) (blk : Nat) : Bool :=
  let f := getBlk s blk
  !f.eraseIntent && (f.checked || f.failed || roleOf s blk == .retired)

/-- SANITIZE_DONE (R290): every effect has taken place. Under kind 4 every buffer is free by then, and the pool's primer bits
are cleared (Table 10.8). -/
def execSanitizeDone (b : Box) (s : State) : Res :=
  match s.cip.san with
  | none => .next s
  | some x =>
    if x.box = some b ∧ x.jno < s.plp.jSeq ∧ serving s b ∧ (sanTenants s x.kind x.tenant).all (keyIdle s) ∧
        x.left.all (wiped s) ∧ (x.kind ≠ 4 ∨ s.bpm.alloc.isEmpty) then
      let s := if x.kind = 4 then { s with mep := { s.mep with primed := s.mep.primed.filter fun e => !decide (e.1 < poolSize) } } else s
      .next (finishReq (endSan ((sanTenants s x.kind x.tenant).foldl keyOut s)) b 0 [x.kind] [])
    else .next s

/-! ### Registers -/

/-- PLAIN_KEK_CLOSE (R280): persisted at once. -/
def execPlainKekClose (p : Port) (s : State) : Res :=
  regWrite p 0 s fun s => .next { s with cip := { s.cip with plainAllow := false } }

/-- CNT_CLR_CIP: CIP_CTL.CNT_CLR clears CIP_CNT0 to CIP_CNT9. -/
def execCntClrCip (p : Port) (s : State) : Res :=
  regWrite p 0 s fun s => .next { s with cip := { s.cip with cnts := [] } }

/-- CIP_TSEL: a snapshot of a tenant's registers; CLR clears its counters after it. -/
def execCipTsel (p : Port) (v : Word) (s : State) : Res :=
  regWrite p 0 s fun s =>
    if fld v 10 21 ≠ 0 then .fault (.reservedWrite p 0 0x70200)
    else
      let t := fld v 0 10
      let snap := cipWindow s t
      let s := modPort s p fun q => { q with win := { q.win with cipSel := t, cipSnap := snap } }
      .next (if flag v 31 then
        { s with cip := { s.cip with tcnts := (List.range 5).foldl (fun c k => Tab.set 0 c (t * 8 + k) 0) s.cip.tcnts } }
      else s)

end Sys2Proof.Machine
end

