-- ==== Sys2Proof/Machine/Image.lean ====
section
/-! DEFINITION. Configuration (R312, R313, R316 to R322): images and their fields, SET_CONFIG, GET_CONFIG, TENANT_CREATE and
TENANT_DELETE. -/

namespace Sys2Proof.Machine

/-! ### Parsing (R316 to R318) -/

/-- A field of an image: its ID, its LEN, and its value (a value of other than four bytes is read as far as 32 bits go). -/
structure CfgField where
  id : Nat
  len : Nat
  val : Nat
  deriving DecidableEq, Repr

/-- The fields that lie wholly below `lim`, from `off` on, and where parsing stops (R318). -/
def parseFields (l : List Byte) (lim : Nat) : Nat → Nat → List CfgField × Nat
  | 0, off => ([], off)
  | fuel + 1, off =>
    let len := leAt l (off + 2) 2
    if lim < off + 4 ∨ lim < off + 4 + len then ([], off)
    else
      let r := parseFields l lim fuel (off + 4 + cdiv len 4 * 4)
      ({ id := leAt l off 2, len := len, val := leAt l (off + 4) (min len 4) } :: r.1, r.2)

/-- An image's fields and its truncation word VAL2 (R321), or none for an invalid header (R317). -/
def parseImage (l : List Byte) : Option (List CfgField × Nat) :=
  let decl := leAt l 8 4
  if l.length < 16 ∨ leAt l 0 4 ≠ 0x58564346 ∨ leAt l 4 2 ≠ 1 ∨ decl < 16 then none
  else
    let lim := min decl l.length
    let r := parseFields l lim (lim / 4) 16
    some (r.1, if r.2 < lim ∨ lim < decl then 2147483648 + r.2 % 16777216 else 0)

/-! ### Applying: the state, the clamp report and the count of fields applied -/

/-- An image being applied: the state so far, the clamp report and the count for VAL0. -/
structure Apply where
  s : State
  report : List Byte := []
  count : Nat := 0
  deriving DecidableEq, Repr

/-- An entry of the clamp report (R322). -/
def reportEntry (id scope reason want got : Nat) : List Byte :=
  leBytes 2 id ++ leBytes 2 scope ++ leBytes 1 reason ++ leBytes 3 0 ++ leBytes 4 want ++ leBytes 4 got

/-- A field was applied as `got`; reason 0 means as requested. -/
def applied (a : Apply) (id scope reason want got : Nat) : Apply :=
  { a with count := a.count + 1
           report := if reason = 0 then a.report else a.report ++ reportEntry id scope reason want got }

/-- A field was skipped; the value kept, where there is one in force, goes into its entry (otherwise a free value, log 4, DESIGN CHOICE). -/
def skipped (a : Apply) (f : CfgField) (scope reason : Nat) (kept : Option Nat) : Apply :=
  match kept with
  | some v => { a with report := a.report ++ reportEntry f.id scope reason f.val v }
  | none =>
    let (s, v) := openField a.s
    { a with s := s, report := a.report ++ reportEntry f.id scope reason f.val v }

/-- A cap that is not the field applied is raised (R320): reported, not counted. -/
def raisedCap (a : Apply) (id scope old new : Nat) : Apply := { a with report := a.report ++ reportEntry id scope 3 old new }

/-- A value clamped to a range, with reason 1 when it changed. -/
def clampR (lo hi v : Nat) : Nat × Nat :=
  let got := clampTo (lo, hi) v
  (got, if got = v then 0 else 1)

/-- A value limited to the room left, with reason 2 when that changed it (R139, R217). -/
def roomR (room : Nat) (x : Nat × Nat) : Nat × Nat := if room < x.1 then (room, 2) else x

/-- A cap: clamped to its maximum; nonzero and below `floor` it is raised to it, with reason 3 (R320). -/
def capR (floor hi v : Nat) : Nat × Nat :=
  let x := clampR 0 hi v
  if x.1 ≠ 0 ∧ x.1 < floor then (floor, 3) else x

/-- The largest of a rising list of values that is not above `v`, or the smallest (R320). -/
def enumR (l : List Nat) (v : Nat) : Nat × Nat :=
  let got := ((l.filter fun x => decide (x ≤ v)).getLast?).getD (l.headD 0)
  (got, if got = v then 0 else 1)

/-! ### Device fields -/

/-- Range of a device field as it stands when the field is applied (Table 13.10): the gates against each other (R320), the die
thresholds against their neighbours (R368). -/
def devRange (s : State) : Nat → Nat × Nat
  | 0x101 => (10, 60)
  | 0x102 => (max 60 (s.adm.ucGateOff + 1), 99)
  | 0x103 => (50, s.adm.ucGateOn - 1)
  | 0x104 => (1, 8)
  | 0x105 => (1, 60000)
  | 0x110 => (512, 16384)
  | 0x111 => (8, 255)
  | 0x112 => (256, 16384)
  | 0x113 => (1, 5)
  | 0x120 => (65536, 4194304)
  | 0x121 => (0, 4194304)
  | 0x122 => (16384, 2097152)
  | 0x123 => (0, 2097152)
  | 0x124 => (4096, 1048576)
  | 0x125 => (0, 1048576)
  | 0x130 => (1, 50)
  | 0x131 => (8, 15)
  | 0x132 => (8, 15)
  | 0x133 => (32, 255)
  | 0x134 => (16, 255)
  | 0x140 => (0, 65535)
  | 0x141 => (0, 65535)
  | 0x150 => (250, 5000)
  | 0x160 => (70, min 105 (nth 0 s.thm.tNext 1))
  | 0x161 => (max 80 (nth 0 s.thm.tNext 0), min 108 (nth 0 s.thm.tNext 2 - 4))
  | 0x162 => (max 90 (nth 0 s.thm.tNext 1 + 4), min 115 (nth 0 s.thm.tNext 3 - 3))
  | 0x163 => (max 105 (nth 0 s.thm.tNext 2 + 3), 120)
  | 0x170 => (0x08, 0x77)
  | _ => (0, 0)

/-- Fields that a new D_max and FLUSH reserve follow from (R251). -/
def isPlpField (id : Nat) : Bool := id == 0x101 || id == 0x112

/-- Buffers left for a class's floor beside every other applied floor and the withdrawn buffers (R217). -/
def floorRoom (s : State) (k : Nat) : Nat := poolSize - (floorSum s.bpm - Tab.get 0 s.bpm.floors k) - withdrawnN s.bpm

/-- Class key of a device floor field, with the ID of its cap field. -/
def floorField : Nat → Option (Nat × Nat)
  | 0x120 => some (kFold, 0x121)
  | 0x122 => some (kReloc, 0x123)
  | 0x124 => some (kCipher, 0x125)
  | _ => none

/-- Class key of a device cap field. -/
def capField : Nat → Option Nat
  | 0x121 => some kFold
  | 0x123 => some kReloc
  | 0x125 => some kCipher
  | _ => none

/-- The value that a device field is applied as, with its reason (R320, R251, R217). A cap of 0 is below its range, whose lower end
is the floor. -/
def devValue (s : State) (id v : Nat) : Nat × Nat :=
  let r := devRange s id
  let x := clampR r.1 r.2 v
  if isPlpField id then
    let fit := fitValue s (fun t n => devPut t n id) r.1 x.1
    if fit = x.1 then x else (fit, 2)
  else match floorField id, capField id with
    | some (k, _), _ => roomR (floorRoom s k) x
    | none, some k =>
      let f := Tab.get 0 s.bpm.floors k
      if x.1 = 0 then (f, 1) else if x.1 < f then (f, 3) else x
    | none, none => x

/-- A device field is applied. -/
def applyDev (a : Apply) (id v : Nat) : Apply :=
  let x := devValue a.s id v
  let s := devPut a.s x.1 id
  let a := applied { a with s := if isPlpField id then recompute s true else s } id 0xFFFF x.2 v x.1
  match floorField id with
  | none => a
  | some (k, cap) =>
    let old := Tab.get 0 a.s.bpm.caps k
    if old ≠ 0 ∧ old < x.1 then raisedCap { a with s := devPut a.s x.1 cap } cap 0xFFFF old x.1 else a

/-! ### Tenant fields -/

/-- Top of the range of a class parameter (Table 6.1). -/
def clsTop (s : State) : Nat → Nat
  | 0 => ctxPool
  | 1 => ctxPool
  | 2 => s.adm.capMbps
  | 3 => s.adm.capOps
  | 4 => s.adm.peakMbps
  | 5 => s.adm.peakOps
  | 6 => 255
  | 7 => 65535
  | _ => 16777215

/-- Capacity less the applied sills of every other tenant-class, for sill parameter `k` (R139). -/
def sillRoom (s : State) (t : Nat) (c : Cls) (k : Nat) : Nat :=
  clsTop s k - (sumCls s (fun x => clsGet x k) - clsGet (getCls s t c) k)

/-- The cap parameter of a sill parameter. -/
def capOfSill : Nat → Option Nat
  | 0 => some 1
  | 2 => some 4
  | 3 => some 5
  | _ => none

/-- The sill parameter of a cap parameter. -/
def sillOfCap : Nat → Option Nat
  | 1 => some 0
  | 4 => some 2
  | 5 => some 3
  | _ => none

/-- The value that a class parameter is applied as. -/
def clsValue (s : State) (t : Nat) (c : Cls) (k v : Nat) : Nat × Nat :=
  match capOfSill k, sillOfCap k with
  | some _, _ => roomR (sillRoom s t c k) (clampR 0 (clsTop s k) v)
  | none, some sill => capR (clsGet (getCls s t c) sill) (clsTop s k) v
  | none, none => clampR (if k = 7 then 1 else 0) (clsTop s k) v

/-- The value that a tenant field is applied as, with its reason (R320). -/
def tenValue (s : State) (t id v : Nat) : Nat × Nat :=
  let x := tenD s t
  match id with
  | 0x201 => enumR [4096, 16384] v
  | 0x202 => enumR [8, 16, 32, 64, 128] v
  | 0x203 => clampR 1 4194304 v
  | 0x204 => clampR 0 x.nz v
  | 0x205 => let got := min v 1; (got, if got = v then 0 else 1)
  | 0x210 => clampR 1 65536 v
  | 0x211 =>
    let got := clampTo (x.blk, 1048576) (if v = 0 then 0 else 2 ^ v.log2)
    (got, if got = v then 0 else 1)
  | 0x212 => clampR 0 s.media.ucTotal v
  | 0x213 => roomR (floorRoom s t / 256) (clampR 0 65536 v)
  | 0x214 => capR (tenGet s t 0x213) 65536 v
  | _ => match clsField id with
    | some (c, k) => clsValue s t c k v
    | none => (0, 0)

/-- The field ID of the cap that a sill or floor field can raise. -/
def raises (id : Nat) : Option Nat :=
  if id = 0x213 then some 0x214
  else match clsField id with
    | some (_, k) => (capOfSill k).map fun c => id - k + c
    | none => none

/-- A tenant field is applied. -/
def applyTen (a : Apply) (t id v : Nat) : Apply :=
  let x := tenValue a.s t id v
  let a := applied { a with s := tenPut a.s t x.1 id } id t x.2 v x.1
  match raises id with
  | none => a
  | some cap =>
    let old := tenGet a.s t cap
    if old ≠ 0 ∧ old < x.1 then raisedCap { a with s := tenPut a.s t x.1 cap } cap t old x.1 else a

/-! ### The two passes (R319) -/

/-- Place of a tenant field in its tenant's pass. -/
def tenRank (create : Bool) (id : Nat) : Nat :=
  if create && createIds.contains id then id - 0x201
  else match clsField id with
    | some (c, k) => if (capOfSill k).isSome then 10 + c.num * 16 + k else 200
    | none => if id = 0x213 then 100 else 200

/-- One field in the scope of a tenant that exists, or is being created. -/
def tenField (create : Bool) (t : Nat) (a : Apply) (f : CfgField) : Apply :=
  if f.id = 1 then skipped a f t 8 none
  else if devIds.contains f.id then skipped a f t 9 (some (devGet a.s f.id))
  else if !isTenField f.id then skipped a f t 5 none
  else if f.len ≠ 4 then skipped a f t 6 (some (tenGet a.s t f.id))
  else if !create && createIds.contains f.id then skipped a f t 4 (some (tenGet a.s t f.id))
  else applyTen a t f.id f.val

/-- The pass of one tenant. -/
def tenPass (create : Bool) (t : Nat) (a : Apply) (l : List CfgField) : Apply :=
  if create || (getTen a.s t).isSome then
    (sortBy (fun (x y : CfgField) => decide (tenRank create x.id < tenRank create y.id)) l).foldl (tenField create t) a
  else l.foldl (fun a f => skipped a f t 7 none) a

/-- One field in device scope. -/
def devField' (a : Apply) (f : CfgField) : Apply :=
  if isTenField f.id then skipped a f 0xFFFF 9 none
  else if !devIds.contains f.id then skipped a f 0xFFFF 5 none
  else if f.len ≠ 4 then skipped a f 0xFFFF 6 (some (devGet a.s f.id))
  else applyDev a f.id f.val

/-- Scope of a field of a SET_CONFIG image: the device, a tenant, or none after an invalid SCOPE, with the reason of the field
there. -/
inductive Scope | device | tenant (t : Nat) | bad (reason : Nat)
  deriving DecidableEq, Repr

/-- What a SCOPE field sets (R316). -/
def scopeOf (f : CfgField) : Scope :=
  if f.len ≠ 4 then .bad 6
  else if f.val = devTarget then .device
  else if f.val < 1024 then .tenant f.val
  else .bad 10

/-- The fields with their scopes; a valid SCOPE field leaves no entry, an invalid one keeps its own reason. -/
def withScopes : Scope → List CfgField → List (CfgField × Scope)
  | _, [] => []
  | sc, f :: t =>
    if f.id = 1 then
      match scopeOf f with
      | .bad r => (f, .bad r) :: withScopes (.bad 10) t
      | sc' => withScopes sc' t
    else (f, sc) :: withScopes sc t

/-- The tenants that an image names, in the order in which SCOPE first names them. -/
def namedTenants (l : List (CfgField × Scope)) : List Nat :=
  (l.filterMap fun e => match e.2 with
    | .tenant t => some t
    | _ => none).eraseDups

/-- The device pass (R319): the fields that set the FLUSH reserve first, then the others and the skipped ones in image order. -/
def devPass (a : Apply) (l : List (CfgField × Scope)) : Apply :=
  let first := l.filter fun e => e.2 == .device && isPlpField e.1.id
  let rest := l.filter fun e => !(e.2 == .device && isPlpField e.1.id)
  (first ++ rest).foldl (fun a e => match e.2 with
    | .device => devField' a e.1
    | .bad r => skipped a e.1 0xFFFF r (if devIds.contains e.1.id then some (devGet a.s e.1.id) else none)
    | .tenant _ => a) a

/-- An image applied by SET_CONFIG. -/
def applyImage (s : State) (l : List CfgField) : Apply :=
  let l := withScopes .device l
  (namedTenants l).foldl (fun a t => tenPass false t a ((l.filter fun e => e.2 == .tenant t).map Prod.fst)) (devPass { s := s } l)

/-- SET_CONFIG (R316 to R322): the whole configuration is durable before the reply; D_max may have fallen. -/
def execSetConfig (b : Box) (d : ReqData) (s : State) : Res :=
  runData (isOp 0x82) b d s fun l _ s =>
    match parseImage l with
    | none => finishReq s b 7 [] []
    | some (fields, trunc) =>
      let a := applyImage s fields
      finishDurable (checkOver { a.s with cfgReport := a.report, cfgOpen := some (cfgNow s s.plp.jSeq) }) b 0 [a.count, a.report.length / 16, trunc]
        a.report

/-! ### GET_CONFIG -/

/-- A field of an image with a 32-bit value. -/
def fieldBytes (id v : Nat) : List Byte := leBytes 2 id ++ leBytes 2 4 ++ leBytes 4 v

/-- An image that holds the given fields. -/
def imageOf (body : List Byte) : List Byte :=
  leBytes 4 0x58564346 ++ leBytes 2 1 ++ leBytes 2 0 ++ leBytes 4 (16 + body.length) ++ leBytes 4 0 ++ body

/-- GET_CONFIG (Table 13.6): every field of the scope at its applied value; a tenant's image names its scope first. -/
def execGetConfig (b : Box) (s : State) : Res :=
  runReq (isOp 0x83) b s fun f s =>
    let t := fTarget f.bytes
    let img := if t = devTarget then imageOf (devIds.flatMap fun i => fieldBytes i (devGet s i))
      else imageOf (fieldBytes 1 t ++ tenIds.flatMap fun i => fieldBytes i (tenGet s t i))
    finishReq s b 0 [] img

/-! ### TENANT_CREATE -/

/-- A tenant with every field at its default (Table 13.10, Table 6.1). -/
def newTenant : Tenant :=
  { openMax := 1024, awu := 65536, rt := { weight := 8 }, std := { weight := 4 }, bulk := { weight := 2 }, bg := { weight := 1 } }

/-- Which limit of R109 or R275 a state with the new tenant breaks (Table 13.7), or none. -/
def createLimit (s : State) (t : Nat) : Option Nat :=
  let ts := (tenants s).map Prod.snd
  if 4194304 < sumBy Tenant.nz ts then some 2
  else if 2 ^ 40 < sumBy convBytes ts then some 3
  else if zonePool s < sumBy reservedBlocks ts then some 4
  else if 0x3FFFFF ≤ instOf s t then some 5
  else none

/-- A created tenant starts (R312): its counters 0, its buckets full, its key slot empty, its zones EMPTY at generation 0. -/
def startTenant (s : State) (t : Nat) : State :=
  let s := modTslot (modTen s t resetTenant) t emptySlot
  { s with
    zones := s.zones.filter fun e => e.1 / 4194304 != t
    cip := { s.cip with
      insts := Tab.set 0 s.cip.insts t (instOf s t + 1)
      tcnts := (List.range 5).foldl (fun c k => Tab.set 0 c (t * 8 + k) 0) s.cip.tcnts } }

/-- TENANT_CREATE (R312). -/
def execTenantCreate (b : Box) (d : ReqData) (s : State) : Res :=
  runData (isOp 0x84) b d s fun l f s =>
    let t := fTarget f.bytes
    if (getTen s t).isSome then finishReq s b 1 [] []
    else match parseImage l with
      | none => finishReq s b 7 [] []
      | some (fields, _) =>
        let s0 := { s with
          tenants := Tab.set none s.tenants t (some newTenant)
          bpm := { s.bpm with floors := Tab.set 0 s.bpm.floors t 0, caps := Tab.set 0 s.bpm.caps t 0 } }
        let a := tenPass true t { s := s0 } fields
        if !(fields.any fun f => f.id == 0x203 && f.len == 4) then finishReq s b 6 [] []
        else match createLimit a.s t with
          | some e => finishReq s b e [] []
          | none =>
            let s := startTenant { a.s with cfgReport := a.report, cfgOpen := some (cfgNow s s.plp.jSeq) } t
            finishDurable s b 0 [instOf s t, a.count, a.report.length / 16, zoneSize (tenD s t)] a.report

/-! ### TENANT_DELETE -/

/-- What a deleted tenant leaves (R313): its key slot emptied, its zones' data dropped and their blocks queued for erase, its zone
records, parameters and mailboxes given up. Its instance number stays. A commit that waits for its turn in the casement stays valid there, and a
tenant created later under the ID has it captured (R55 is silent; log 137, DESIGN CHOICE). -/
def removeTenant (s : State) (t : Nat) : State :=
  let held := decide ((tslot s t).state = 1)
  let s := purgeTenant (modTslot s t emptySlot) t
  let s := if held then noticePf0 s 3 t 4 0 else s
  let mine := (s.zones.filter fun e => e.1 / 4194304 == t).map fun e => e.1 % 4194304
  let s := dropStreams (mine.foldl (fun s z => applyReset s t z) s) t
  let s := { s with
    zones := s.zones.filter fun e => e.1 / 4194304 != t
    vers := Tab.mapv {} (fun _ x => if x.tenant = t then { x with dead := true } else x) s.vers }
  let s := [Port.a, Port.b].foldl (fun s p => if fnExists s p (t + 1) then discardVfBox s p (t + 1) 5 else s) s
  freeFloor { s with tenants := Tab.set none s.tenants t none } t

/-- TENANT_DELETE (R313): refused while any tag of the tenant is outstanding; the reply follows the invalidation of the persisted key. -/
def execTenantDelete (b : Box) (s : State) : Res :=
  runReq (isOp 0x85) b s fun f s =>
    let t := fTarget f.bytes
    if s.cmds.any fun c => c.tenant == t then finishReq s b 1 [] []
    else finishDurable (removeTenant s t) b 0 [] []

end Sys2Proof.Machine
end

