-- ==== Sys2Proof/Machine/Firmware.lean ====
section
/-! DEFINITION. Firmware images (R358 to R362): staging them, writing them to the boot flash, and activating them. -/

namespace Sys2Proof.Machine

/-! ### Staging -/

/-- STAGE_SEQ of a slot, 0 when its trailer is invalid. -/
def seqOf (s : State) (d : Nat) : Nat := (trailerSeq s.boot d).getD 0

/-- The slot with the lower STAGE_SEQ. -/
def lowerSeq (s : State) : Nat := if seqOf s 1 < seqOf s 0 then 1 else 0

/-- The target slot of a staging (R358): the slot not running, or in the stopped state the first rule that applies. -/
def stageTarget (s : State) : Nat :=
  if s.boot.ready then 1 - s.boot.slot
  else
    let ok := fun (d : Nat) => (Tab.get {} s.boot.slots d).result == 0
    match ok 0, ok 1 with
    | true, true => lowerSeq s
    | true, false => 1
    | false, true => 0
    | false, false =>
      match trailerSeq s.boot 0, trailerSeq s.boot 1 with
      | none, some _ => 0
      | _, none => 1
      | some _, some _ => lowerSeq s

/-- Discarding a staging. -/
def dropStage (s : State) : State :=
  { s with boot := { s.boot with stState := 0, stBytes := 0, stData := [], stBox := none } }

/-- FIRST: a new staging of an agent; an earlier one is discarded, which is recorded. -/
def firstStage (s : State) (agent : Nat) : State :=
  let s := if s.boot.stState ≠ 0 then setBootEvt s 4 s.boot.stTarget else s
  let t := stageTarget s
  let s := dropStage s
  { s with boot := { s.boot with stState := 1, stAgent := agent, stTarget := t } }

/-- In the stopped state HBM that has not passed phase 6 is trained when a FIRST arrives (R354); how that ends is a free value
(log 4, DESIGN CHOICE). -/
def stageTrain (s : State) : State × Bool :=
  if s.boot.stopped ∧ s.boot.phase ≤ 6 then
    let (s, v) := openField s
    (s, v % 2 == 1)
  else (s, true)

/-- A chunk is appended (R358): the state with it, or the result that the request fails with. -/
def takeChunk (s : State) (f : Frame) (l : List Byte) : State × Nat :=
  let first := bit (fArg f.bytes 0) 0
  let off := fArg f.bytes 1
  let (s, trained) := if first then stageTrain s else (s, true)
  if !trained then (s, 0xF1)
  else if (if first then off != 0 else s.boot.stState != 1 || s.boot.stAgent != f.agent || off != s.boot.stBytes) then (s, 1)
  else
    let s := if first then firstStage s f.agent else s
    let n := s.boot.stBytes + l.length
    if imageMax < n then (dropStage s, 2)
    else ({ s with boot := { s.boot with stBytes := n, stData := s.boot.stData ++ l } }, 0)

/-- FW_STAGE without LAST (R358). -/
def execFwStage (b : Box) (d : ReqData) (s : State) : Res :=
  runData (fun f => isOp 0x87 f && !bit (fArg f.bytes 0) 1) b d s fun l f s =>
    let (s, r) := takeChunk s f l
    if r = 0 then finishReq s b 0 [s.boot.stBytes] [] else finishReq s b r [] []

/-! ### LAST (R359) -/

/-- STAGE_SEQ of the next trailer. -/
def nextSeq (s : State) : Nat := max (seqOf s 0) (seqOf s 1) + 1

/-- The result of step 1 of R359, 0 when the image passes. -/
def verifyStage (s : State) : Nat :=
  let img := s.boot.stData
  let n := img.length
  if !(headerFields (leAt img 0 4) (leAt img 4 2) (leAt img 20 4) (leAt img 24 4) n && decide (8192 ≤ n) && n % 4096 == 0) then 3
  else if !keyOk (fuseNow s) img || !signedOk img then 3
  else if leAt img 16 2 < s.fuse.svn then 4
  else if nextSeq s = 0xFFFFFFFF then 6
  else 0

/-- Bytes of the sectors that an image takes. -/
def imageSpan (n : Nat) : Nat := cdiv n 65536 * 65536

/-- The write begins (R357, R359): the target slot's protection is lifted and its trailer and image sectors are erased. -/
def startWrite (s : State) (b : Box) : State :=
  let span := imageSpan s.boot.stBytes
  let s := modMbx s b fun m => { m with busy := true }
  let boot := modDev s.boot s.boot.stTarget fun x => { x with
    busy := true, prot := (List.range 32).map fun w => (w, 0)
    mem := x.mem.filter fun e => decide (span ≤ e.1) && decide (e.1 < trailerAt) }
  { s with boot := { boot with stState := 2, stBox := some (b, 0) } }

/-- FW_STAGE with LAST (R359): the chunk, the checks, and the write, whose end is BOOT_FLASH_WRITE_DONE. -/
def execFwStageLast (b : Box) (d : ReqData) (s : State) : Res :=
  runData (fun f => isOp 0x87 f && bit (fArg f.bytes 0) 1) b d s fun l f s =>
    let (s, r) := takeChunk s f l
    if r ≠ 0 then finishReq s b r [] []
    else
      let v := verifyStage s
      if v ≠ 0 then finishReq (dropStage s) b v [] [] else startWrite s b

/-- A slot trailer (R347). -/
def trailerBytes (seq len : Nat) : List Byte :=
  let h := leBytes 4 0x58565452 ++ leBytes 4 seq ++ leBytes 4 len ++ List.replicate 48 0#8
  h ++ leBytes 4 (crc32c h).toNat

/-- Bytes as entries of a device's contents from address `o` on; an erased byte is not listed. -/
def flashCells (o : Nat) : List Byte → Tab Byte
  | [] => []
  | b :: t => if b = 0xFF#8 then flashCells (o + 1) t else (o, b) :: flashCells (o + 1) t

/-- BOOT_FLASH_WRITE_DONE (R359): steps 2 to 5 end, with a device error or without; every protection bit is set again. -/
def execBootFlashWriteDone (err : Bool) (s : State) : Res :=
  match s.boot.stBox with
  | none => .next s
  | some (b, _) =>
    if s.boot.stState ≠ 2 ∨ flushing s ∨ s.ckm.stopped then .next s
    else
      let t := s.boot.stTarget
      let n := s.boot.stBytes
      let seq := nextSeq s
      if err ∨ !(getDev s.boot t).present then
        let s := { s with boot := modDev s.boot t fun x => { x with busy := false, prot := [] } }
        .next (finishReq (setBootEvt (dropStage s) 5 t) b 5 [] [])
      else
        let mem := fun (m : Tab Byte) => flashCells 0 s.boot.stData ++ m ++ flashCells trailerAt (trailerBytes seq n)
        let boot := modDev s.boot t fun x => { x with busy := false, prot := [], mem := mem x.mem }
        .next (finishReq { s with boot := { boot with stState := 3, stBox := none } } b 0 [n] [])

/-! ### Activation (R360 to R362) -/

/-- The request is FW_ACTIVATE with a mode. -/
def isActivate (live : Bool) (mode : Nat) (f : Frame) : Bool :=
  isOp 0x88 f && (if live then fArg f.bytes 0 == mode else fArg f.bytes 0 == mode || (decide (2 < fArg f.bytes 0) && mode == 2))

/-- SHA-384 of the component of a type. -/
def compSha (tab : List Byte) (n t : Nat) : Option (List Byte) := ((comps tab n).find? fun c => c.1 == t).map fun c => c.2.2.2

/-- Mode 0 may activate the staged image from the running one (R362). -/
def liveOk (s : State) : Bool :=
  let d := s.boot.slot
  let run := devBytes (getDev s.boot d) 256 2048
  let mine := slice s.boot.stData 256 2048
  let n := min 32 (stField s 24 4)
  bit (stField s 6 2) 0 && decide (stField s 12 4 ≤ s.boot.fwVer) && decide (devField s.boot d 16 2 ≤ stField s 16 2) &&
    [3, 4, 5].all fun t => compSha mine n t == compSha run (min 32 (devField s.boot d 24 4)) t

/-- FW_ACTIVATE mode 0 (R343, R362): the activation begins; its end is LIVE_ACTIVATION_DONE or LIVE_ACTIVATION_REVERT. -/
def execFwActivateLive (b : Box) (s : State) : Res :=
  runReq (isActivate true 0) b s fun _ s =>
    if s.boot.stopped then finishReq s b 7 [] []
    else if s.boot.stState ≠ 3 then finishReq s b 6 [] []
    else if !liveOk s then finishReq s b 7 [] []
    else
      let s := modMbx s b fun m => { m with busy := true }
      let s := noticePf0 s 5 1 (stField s 8 4) 0
      { s with rst := { s.rst with actState := 1, actBox := some (b, 0) } }

/-- BOOT_NEXT names the staged slot. -/
def nextStaged (s : State) : State := { s with boot := { s.boot with next := s.boot.stTarget } }

/-- FW_ACTIVATE mode 1 (R361): the slot runs at the next device warm reset. -/
def execFwActivateNextReset (b : Box) (s : State) : Res :=
  runReq (isActivate true 1) b s fun _ s =>
    if s.boot.stState ≠ 3 then finishReq s b 6 [] [] else finishReq (nextStaged s) b 0 [stField s 8 4] []

/-- FW_ACTIVATE mode 2 (R361): the reply is generated; the device warm reset follows it. -/
def execFwActivateWarmReset (b : Box) (s : State) : Res :=
  runReq (isActivate false 2) b s fun f s =>
    if s.boot.stState ≠ 3 then finishReq s b 6 [] []
    else
      let s := finishReq (nextStaged s) b 0 [stField s 8 4] []
      if f.mute then startReplyTimer s
      else modMbx s b fun m => { m with held := m.held.map fun r => { r with resets := true } }

end Sys2Proof.Machine
end

