-- ==== Sys2Proof/Machine/Mctp.lean ====
section
/-! DEFINITION. The MCTP endpoint on SMBus (R307 to R309): control messages, the bridge of agent 3, and the Alert Response Address.
A message is its body, without packet headers, instance number and PEC. The bodies of control messages are those of DSP0236. -/

namespace Sys2Proof.Machine

/-- An SMBus transaction addressed to MCTP_ADDR (Table 14.7, code 8): nobody answers in power-on reset or without clocks. -/
def smbusAccess (s : State) (k : State → Res) : Res := if s.pins.porHeld || s.ckm.stopped then .next s else k (wake s 8)

/-- A control response: type, response header, command code, completion code and data. -/
def ctlReply (s : State) (cmd code : Nat) (data : List Byte) : Res :=
  .next (emit s (.mctp (leBytes 1 0 ++ leBytes 1 0 ++ leBytes 1 cmd ++ leBytes 1 code ++ data)))

/-- SET_ENDPOINT_ID (R307): operations 0 and 1 assign an EID from 1 to 254; others are answered as invalid data. -/
def execSetEndpointId (op eid : Byte) (s : State) : Res :=
  smbusAccess s fun s =>
    if op.toNat % 4 < 2 ∧ 1 ≤ eid.toNat ∧ eid.toNat ≤ 254 then
      ctlReply { s with mctp := { s.mctp with eid := eid.toNat } } 1 0 [0#8, eid, 0#8]
    else ctlReply s 1 2 []

/-- GET_ENDPOINT_ID (R307): the EID, of a simple endpoint with a dynamic EID. -/
def execGetEndpointId (s : State) : Res := smbusAccess s fun s => ctlReply s 2 0 (leBytes 1 s.mctp.eid ++ [0#8, 0#8])

/-- GET_ENDPOINT_UUID (R307). -/
def execGetEndpointUuid (s : State) : Res := smbusAccess s fun s => ctlReply s 3 0 (padTo 16 Config.uuid)

/-- Message types of the endpoint: base (0xFF), control and vendor-defined PCI (R307). -/
def knownType (t : Nat) : Bool := t == 0xFF || t == 0x00 || t == 0x7E

/-- GET_MCTP_VERSION_SUPPORT (R307). -/
def execGetMctpVersionSupport (mtype : Byte) (s : State) : Res :=
  smbusAccess s fun s =>
    if knownType mtype.toNat then
      let l := Config.mctpVersions mtype.toNat
      ctlReply s 4 0 (leBytes 1 (l.length / 4) ++ l)
    else ctlReply s 4 0x80 []

/-- GET_MESSAGE_TYPE_SUPPORT (R307): one type besides control, vendor-defined PCI. -/
def execGetMessageTypeSupport (s : State) : Res := smbusAccess s fun s => ctlReply s 5 0 [1#8, 0x7E#8]

/-- GET_VENDOR_DEFINED_MESSAGE_SUPPORT (R307): the one vendor, PCI 0x1F4C. -/
def execGetVendorDefinedMessageSupport (sel : Byte) (s : State) : Res :=
  smbusAccess s fun s =>
    if sel = 0#8 then ctlReply s 6 0 ([0xFF#8, 0#8, 0x1F#8, 0x4C#8] ++ padTo 2 Config.mctpCommandSet) else ctlReply s 6 2 []

/-! ### The bridge (R308) -/

/-- A vendor-defined response (Table 13.7a). -/
def bridgeReply (s : State) (op n status : Nat) (data : List Byte) (dlen : Nat) : Res :=
  .next (emit s (.mctp ([0x7E#8, 0x1F#8, 0x4C#8] ++ leBytes 1 op ++ leBytes 1 n ++ leBytes 1 status ++ beBytes 2 dlen ++ data)))

/-- A vendor-defined request: accepted once an EID is assigned (R307); a bad MBX is answered with STATUS 4. -/
def bridge (op n : Nat) (s : State) (k : State → Res) : Res :=
  smbusAccess s fun s => if s.mctp.eid = 0 then .next s else if 7 < n then bridgeReply s op n 4 [] 0 else k s

/-- An operation that needs the lock and writes: STATUS 1 when agent 3 does not own it; none during a flush (R262). -/
def bridgeOwned (op n : Nat) (s : State) (k : State → Res) : Res :=
  bridge op n s fun s =>
    if flushing s then .next s else if (getMbx s (.pf0 n)).owner ≠ 3 then bridgeReply s op n 1 [] 0 else k s

/-- MCTP_LOCK (R308): reads MBX_LOCKn for agent 3. -/
def execMctpLock (n : Nat) (s : State) : Res :=
  bridge 1 n s fun s =>
    let r := readLock s n 3
    bridgeReply r.1 1 n 0 (leBytes 1 r.2) 0

/-- MCTP_RELEASE (R308). -/
def execMctpRelease (n : Nat) (s : State) : Res := bridgeOwned 2 n s fun s => bridgeReply (releaseLock s n 3 3) 2 n 0 [] 0

/-- MCTP_SEND (R308): frame and data go to the request queue; nothing is queued on data over 4,096 bytes or a full queue. -/
def execMctpSend (n : Nat) (frame data : List Byte) (s : State) : Res :=
  bridgeOwned 3 n s fun s =>
    if 4096 < data.length then bridgeReply s 3 n 5 [] 0
    else if 16 ≤ (getMbx s (.pf0 n)).reqQ.length then bridgeReply s 3 n 2 [] 0
    else bridgeReply (pushRequest s (.pf0 n) { bytes := padTo 64 frame, data := data, agent := 3 }) 3 n 0 [] 0

/-- MCTP_FETCH (R308): the head reply frame and its data, popped. -/
def execMctpFetch (n : Nat) (s : State) : Res :=
  bridgeOwned 4 n s fun s =>
    match (getMbx s (.pf0 n)).rspQ with
    | [] => bridgeReply s 4 n 3 [] 0
    | f :: _ => bridgeReply (popReply s (.pf0 n)) 4 n 0 (f.bytes ++ f.data) f.data.length

/-- MCTP_STATUS (R308): MBX_STATn. -/
def execMctpStatus (n : Nat) (s : State) : Res :=
  bridge 5 n s fun s => bridgeReply s 5 n 0 (leBytes 4 (readMbx s (.pf0 n) 0x48)) 0

/-- MCTP_BREAK (R308, R300). -/
def execMctpBreak (n : Nat) (s : State) : Res :=
  bridge 6 n s fun s =>
    if flushing s then .next s
    else
      let o := (getMbx s (.pf0 n)).owner
      bridgeReply (if 1 ≤ o ∧ o ≤ 3 then breakLock s n 3 3 else s) 6 n 0 [] 0

/-- SMBUS_ALERT_RESPONSE (R309): while ALERT_N is asserted the Alert Response Address is answered with MCTP_ADDR, the 7-bit
address. -/
def execSmbusAlertResponse (s : State) : Res :=
  if s.pins.porHeld || s.ckm.stopped then .next s
  else if alertOn s then .next (emit s (.smbus (BitVec.ofNat 8 s.mctp.addr))) else .next s

end Sys2Proof.Machine
end

