-- ==== Sys2Proof/Machine/Tap.lean ====
section
/-! DEFINITION. Test access (R398, R400), the rails (R403), and the outputs that the pins show (R309, R374, R399). -/

namespace Sys2Proof.Machine

/-- The `n` low bits of a number, least significant first, as TDO shifts them out. -/
def shiftBits (n x : Nat) : List Bool := (List.range n).map (bit x)

/-- The TAP takes an instruction: its opcode, the shift register that it selects, and whether it floats or holds the boundary
outputs, which only a high TEST_EN allows (R400). -/
def tapTakes (s : State) (opcode : Nat) (reg : List Bool) (float hold : Bool) : State :=
  { s with tap := { s.tap with
    instr := opcode, shift := reg, floating := float && s.pins.testEn, holding := hold && s.pins.testEn } }

/-- IDCODE of the part (Table 18.6). -/
def idcodeValue : Nat := 0x18128A8F

/-- TAP_RESET (R400): IDCODE is selected. -/
def execTapReset (s : State) : Res := .next (tapTakes s 0x01 (shiftBits 32 idcodeValue) false false)

/-- IDCODE (R400): the code is shifted out. -/
def execIdcode (s : State) : Res :=
  let s := tapTakes s 0x01 (shiftBits 32 idcodeValue) false false
  .next (emit s (.jtag s.tap.shift))

/-- SAMPLE_PRELOAD (R400): the boundary is sampled and shifted out; no pin is disturbed. -/
def execSamplePreload (cells : List Bool) (s : State) : Res :=
  let s := tapTakes { s with tap := { s.tap with boundary := cells } } 0x02 cells false false
  .next (emit s (.jtag cells))

/-- EXTEST (R400): with TEST_EN high the boundary cells drive; with it low it acts as BYPASS. -/
def execExtest (s : State) : Res := .next (tapTakes s 0x03 (if s.pins.testEn then s.tap.boundary else [false]) false true)

/-- HIGHZ (R400): with TEST_EN high the boundary outputs float; the bypass register is selected. -/
def execHighz (s : State) : Res := .next (tapTakes s 0x04 [false] true false)

/-- CLAMP (R400): with TEST_EN high the boundary outputs hold; the bypass register is selected. -/
def execClamp (s : State) : Res := .next (tapTakes s 0x05 [false] false true)

/-- BYPASS (R400): 0xFF, and every opcode that Table 18.6 does not list. -/
def execBypass (opcode : Byte) (s : State) : Res :=
  if 1 ≤ opcode.toNat ∧ opcode.toNat ≤ 5 then .next s else .next (tapTakes s opcode.toNat [false] false false)

/-- RAIL_UNDERVOLTAGE (R403): a rail of Table 18.7 (0 VDD_H, 1 to 4 VDD_Q0 to VDD_Q3, 5 VDD_AON, 6 VDDQ_FL, 7 VDD_M, 8 VDDQL_M,
9 VDD_PCIE09, 10 VDD_PCIE12, 11 VDD_IO) has been below its minimum for 1 µs: power-on reset at once, whatever is under way. -/
def execRailUndervoltage (rail : Nat) (s : State) : Res :=
  if 11 < rail then .next s
  else
    let bad := setBit s.pins.railBad rail
    let t := if s.pins.porHeld then s else powerOff s
    .next { t with pins := { t.pins with railBad := bad } }

/-- TEST_EN_ASSERT (R398): the XV8 is held in power-on reset while TEST_EN is high. -/
def execTestEnAssert (s : State) : Res :=
  let s := { s with pins := { s.pins with testEn := true } }
  .next (if s.pins.porHeld then s else powerOff s)

/-! ### What the output pins show -/

/-- A pattern of an LED output (Table 18.5). -/
inductive Led | off | on | blink4Hz | blink1Hz | flash | activity
  deriving DecidableEq, Repr

/-- LED1_N, attention (R399): the first row whose condition holds. -/
def led1 (s : State) : Led :=
  if s.pins.porHeld then .off
  else if s.thm.shut || s.thm.latch then .blink4Hz
  else if s.boot.stopped || s.hlt.readOnly then .on
  else if bit s.plp.evt 1 || [0, 1, 2, 3].any fun q => Tab.get 0 s.rst.qState q == 2 then .blink1Hz
  else if s.thm.throttle then .flash
  else .off

/-- LED0_N, activity (R399). -/
def led0 (s : State) : Led :=
  if !s.boot.ready then .off
  else match s.postNs with
    | some t => if s.nowNs < t + 100000000 then .activity else .on
    | none => .on

/-- ALERT_N is driven low (R309). -/
def alertLow (s : State) : Bool := !s.pins.porHeld && alertOn s

/-- XSPI_RST_N is driven low: until boot phase 3 begins (R398). -/
def xspiRstLow (s : State) : Bool := s.pins.porHeld || decide (s.boot.phase < 3)

/-- THERMTRIP_N is driven low (R374, R375). -/
def thermtripLow (s : State) : Bool := !s.pins.thermtripN

/-- WP_N of a channel is driven low (R178, R406). -/
def wpLow (s : State) (c : Nat) : Bool := s.pins.porHeld || (getChan s c).wp

/-! ### The package (R396, R397) -/

/-- The place, as row and column, of the ball in tile row `r` and tile column `k` (both from 1) of device channel `n`: each quadrant's channels fill a
band along one edge, tiles in slot order clockwise along it, 16 to a depth, and tile rows count inward (R397, Table 18.2). -/
def tileBall (n r k : Nat) : Nat × Nat :=
  let c := n % 32
  let along := 4 * (c % 16) + (k - 1)
  let inward := 6 * (c / 16) + (r - 1)
  match n / 32 with
  | 0 => (1 + inward, 13 + along)
  | 1 => (13 + along, 83 - inward)
  | 2 => (83 - inward, 71 - along)
  | _ => (71 - along, 1 + inward)

/-- The balls of a channel tile, row 1 at the package edge (Table 18.3), without the FLn_ of their names. -/
def tileNames : List (List String) :=
  [["DQ0", "DQ1", "DQ2", "DQ3"], ["VSS", "DQS_P", "DQS_N", "VDDQ_FL"], ["DQ4", "DQ5", "DQ6", "DQ7"], ["VSS", "RE_P", "RE_N", "VDDQ_FL"],
   ["WE_N", "ALE", "CLE", "WP_N"], ["CE0_N", "CE1_N", "RB_N", "ZQ"]]

end Sys2Proof.Machine
end

