-- ==== Sys2Proof/Machine/RegMap.lean ====
section
/-! DEFINITION. Which offsets of the two BARs hold a register, and which bits of each are reserved: the register tables of every
chapter (R4). -/

namespace Sys2Proof.Machine

/-- Registers of one layout: the lowest offset, how many 32-bit words each takes, the strides and counts of its indices (widest
first), and the mask of its reserved bits. -/
structure RegEnt where
  base : Nat
  words : Nat
  dims : List (Nat × Nat)
  rsv : Nat
  deriving DecidableEq, Repr

/-- An offset from the first register of a layout falls in one of its registers. -/
def inDims (words : Nat) : List (Nat × Nat) → Nat → Bool
  | [], r => decide (r < 4 * words)
  | (st, n) :: t, r => decide (r / st < n) && inDims words t (r % st)

/-- The IDT registers. -/
def pf0MapIdt : List RegEnt := [
  ⟨0x0, 1, [], 0x0⟩,
  ⟨0x4, 1, [], 0xFFFF0000⟩,
  ⟨0x8, 1, [], 0x0⟩,
  ⟨0xC, 1, [], 0x0⟩,
  ⟨0x10, 1, [], 0x0⟩,
  ⟨0x20, 1, [], 0xFFFC0000⟩,
  ⟨0x24, 1, [], 0xFFE0F800⟩,
  ⟨0x28, 1, [], 0xE0E0E0E0⟩,
  ⟨0x30, 1, [], 0x80E000⟩,
  ⟨0x34, 1, [], 0x0⟩,
  ⟨0x40, 1, [], 0xFFFFFF08⟩,
  ⟨0x50, 1, [], 0xFF000000⟩,
  ⟨0x54, 1, [], 0xFF000000⟩,
  ⟨0x58, 1, [], 0xFFFFFFF0⟩,
  ⟨0x60, 1, [], 0x0⟩,
  ⟨0x64, 1, [], 0x0⟩,
  ⟨0x70, 1, [], 0x0⟩]

/-- The CKM registers. -/
def pf0MapCkm : List RegEnt := [
  ⟨0x10000, 1, [], 0xFFFFFF01⟩,
  ⟨0x10004, 1, [], 0xFFFFE000⟩,
  ⟨0x10008, 1, [], 0xFFFFFF00⟩,
  ⟨0x1000C, 1, [], 0xFFFE0000⟩,
  ⟨0x10010, 1, [], 0xFFFE0000⟩,
  ⟨0x10040, 1, [(0x4, 13)], 0xFF00FFE0⟩,
  ⟨0x10080, 2, [], 0x0⟩,
  ⟨0x10088, 1, [], 0x0⟩]

/-- The CLKG registers. -/
def pf0MapClkg : List RegEnt := [
  ⟨0x14000, 1, [], 0xFFFFFEE0⟩,
  ⟨0x14004, 1, [], 0x3FFFFF00⟩,
  ⟨0x14008, 1, [], 0xFFC00000⟩,
  ⟨0x1400C, 1, [], 0xFFC00000⟩,
  ⟨0x14010, 1, [], 0xFFC00000⟩]

/-- The RST registers. -/
def pf0MapRst : List RegEnt := [
  ⟨0x18000, 1, [], 0xFFF0⟩,
  ⟨0x18004, 1, [], 0xFFFFFE⟩,
  ⟨0x18008, 1, [], 0xFFFF0000⟩,
  ⟨0x18030, 1, [], 0xFFF0000⟩,
  ⟨0x18010, 1, [(0x4, 4)], 0x7F00000⟩,
  ⟨0x18020, 1, [(0x4, 4)], 0x0⟩]

/-- The PWR registers. -/
def pf0MapPwr : List RegEnt := [
  ⟨0x1C000, 1, [], 0xFFFFFF00⟩,
  ⟨0x1C004, 1, [], 0xFF8FFF08⟩,
  ⟨0x1C008, 1, [], 0x0⟩,
  ⟨0x1C00C, 1, [], 0x0⟩,
  ⟨0x1C010, 1, [], 0xFFFFC000⟩,
  ⟨0x1C014, 1, [], 0x0⟩,
  ⟨0x1C018, 1, [], 0x0⟩,
  ⟨0x1C01C, 1, [], 0x0⟩,
  ⟨0x1C020, 1, [], 0x0⟩,
  ⟨0x1C024, 1, [], 0x0⟩,
  ⟨0x1C028, 1, [], 0xFFFFFFF0⟩,
  ⟨0x1C100, 1, [], 0xFC⟩,
  ⟨0x1C104, 1, [], 0xFFFFFFFC⟩,
  ⟨0x1C108, 1, [], 0x0⟩,
  ⟨0x1C10C, 1, [], 0x0⟩,
  ⟨0x1C128, 1, [], 0x0⟩,
  ⟨0x1C110, 2, [(0x8, 3)], 0x0⟩]

/-- The THM registers. -/
def pf0MapThm : List RegEnt := [
  ⟨0x20000, 1, [], 0xFFFFFFFE⟩,
  ⟨0x20004, 1, [], 0xF8F0FF80⟩,
  ⟨0x20008, 1, [], 0xFFE00000⟩,
  ⟨0x2000C, 1, [], 0xFF000000⟩,
  ⟨0x20010, 1, [], 0x0⟩,
  ⟨0x20014, 1, [], 0xFFFFFF80⟩,
  ⟨0x20018, 1, [], 0xFF80⟩,
  ⟨0x2001C, 1, [], 0xFFFF0000⟩,
  ⟨0x20100, 1, [], 0xFFC00000⟩,
  ⟨0x20104, 1, [], 0x80000000⟩,
  ⟨0x20040, 1, [(0x4, 7)], 0xFFFE0000⟩,
  ⟨0x20080, 1, [(0x4, 22)], 0xFF0F0000⟩,
  ⟨0x20200, 1, [(0x4, 32)], 0x80808080⟩,
  ⟨0x20400, 2, [(0x8, 5)], 0x0⟩]

/-- The MBX registers. -/
def pf0MapMbx : List RegEnt := [
  ⟨0x30000, 1, [(0x100, 8), (0x4, 16)], 0x0⟩,
  ⟨0x30080, 1, [(0x100, 8), (0x4, 16)], 0x0⟩,
  ⟨0x30040, 1, [(0x100, 8)], 0xFFFFFFFE⟩,
  ⟨0x30044, 1, [(0x100, 8)], 0xFFFFFFFE⟩,
  ⟨0x30048, 1, [(0x100, 8)], 0x1FE0E0E0⟩,
  ⟨0x3004C, 1, [(0x100, 8)], 0xFFFFFFF0⟩,
  ⟨0x30050, 1, [(0x100, 8)], 0xFFFFFFF0⟩,
  ⟨0x30054, 1, [(0x100, 8)], 0xFFFFFFF8⟩,
  ⟨0x30058, 1, [(0x100, 8)], 0x0⟩,
  ⟨0x30800, 1, [], 0xFFFFF8⟩,
  ⟨0x30804, 1, [], 0xFF000000⟩]

/-- The EVR registers. -/
def pf0MapEvr : List RegEnt := [
  ⟨0x40000, 1, [], 0xFFFFFEF8⟩,
  ⟨0x40004, 1, [], 0x7E00FFF0⟩,
  ⟨0x40008, 1, [], 0x0⟩,
  ⟨0x4000C, 1, [], 0x0⟩,
  ⟨0x40010, 1, [], 0x0⟩,
  ⟨0x40014, 1, [], 0x0⟩,
  ⟨0x40018, 1, [], 0x0⟩,
  ⟨0x4001C, 1, [], 0x0⟩,
  ⟨0x40020, 1, [], 0x0⟩,
  ⟨0x40024, 1, [], 0x0⟩,
  ⟨0x40030, 1, [], 0x3FFF0000⟩,
  ⟨0x40040, 1, [], 0x0⟩,
  ⟨0x40044, 1, [], 0x7FFFFFF8⟩,
  ⟨0x40060, 1, [(0x4, 8)], 0x0⟩]

/-- The MEP registers. -/
def pf0MapMep : List RegEnt := [
  ⟨0x50000, 1, [], 0xFF80FFF0⟩,
  ⟨0x50004, 1, [], 0xFF80FFF8⟩,
  ⟨0x50008, 1, [], 0xFFFFFE00⟩,
  ⟨0x50010, 1, [], 0x0⟩,
  ⟨0x50014, 1, [], 0xFFFF0000⟩,
  ⟨0x50200, 1, [], 0xFFC0FF80⟩,
  ⟨0x50204, 1, [], 0x0⟩,
  ⟨0x50208, 1, [], 0xFFFFFFC0⟩,
  ⟨0x50300, 1, [], 0x1FE0FFF0⟩,
  ⟨0x50314, 1, [], 0x80000000⟩,
  ⟨0x50400, 1, [], 0x7FF0FFFC⟩,
  ⟨0x50404, 1, [], 0xFFFFFC00⟩,
  ⟨0x50408, 1, [], 0xFFFF00F8⟩,
  ⟨0x50500, 1, [], 0x0⟩,
  ⟨0x50020, 1, [(0x4, 2)], 0xC0FCFF00⟩,
  ⟨0x50040, 1, [(0x10, 7), (0x4, 4)], 0x0⟩,
  ⟨0x50100, 1, [(0x10, 16), (0x4, 3)], 0x0⟩,
  ⟨0x5010C, 1, [(0x10, 16)], 0x0⟩,
  ⟨0x50210, 1, [(0x4, 5)], 0x0⟩,
  ⟨0x50304, 1, [(0x4, 4)], 0x0⟩,
  ⟨0x50440, 1, [(0x4, 17)], 0x0⟩]

/-- The BPM registers. -/
def pf0MapBpm : List RegEnt := [
  ⟨0x60000, 1, [], 0x3FFFC000⟩,
  ⟨0x60020, 1, [], 0xFFFFFFFE⟩,
  ⟨0x60024, 1, [], 0xFFFFFF80⟩,
  ⟨0x60028, 1, [], 0x0⟩,
  ⟨0x60030, 1, [], 0x0⟩,
  ⟨0x60034, 1, [], 0x0⟩,
  ⟨0x600C0, 1, [], 0xFFFFFFF8⟩,
  ⟨0x60400, 1, [], 0x7FFFFC00⟩,
  ⟨0x60500, 1, [], 0x0⟩,
  ⟨0x60504, 1, [], 0x0⟩,
  ⟨0x60508, 1, [], 0x7FFFFFF0⟩,
  ⟨0x60004, 1, [(0x4, 3)], 0xFE000000⟩,
  ⟨0x60010, 1, [(0x4, 4)], 0xFE000000⟩,
  ⟨0x60038, 2, [], 0x0⟩,
  ⟨0x60080, 1, [(0x10, 4), (0x4, 3)], 0xFE000000⟩,
  ⟨0x6008C, 1, [(0x10, 4)], 0x0⟩,
  ⟨0x60200, 2, [(0x20, 10), (0x8, 3)], 0x0⟩,
  ⟨0x60410, 1, [(0x4, 5)], 0xFE000000⟩,
  ⟨0x60428, 2, [(0x8, 2)], 0x0⟩]

/-- The CIP registers. -/
def pf0MapCip : List RegEnt := [
  ⟨0x70000, 1, [], 0xFFFF800⟩,
  ⟨0x70004, 1, [], 0xFFFFFFFC⟩,
  ⟨0x70008, 1, [], 0xFFFFFF00⟩,
  ⟨0x7000C, 1, [], 0xFFFFE000⟩,
  ⟨0x70010, 1, [], 0x3FF00⟩,
  ⟨0x70200, 1, [], 0x7FFFFC00⟩,
  ⟨0x70210, 1, [], 0x3E0⟩,
  ⟨0x70040, 1, [(0x4, 16)], 0xFFF0⟩,
  ⟨0x70100, 2, [(0x8, 10)], 0x0⟩,
  ⟨0x70214, 1, [(0x4, 4)], 0x0⟩,
  ⟨0x70228, 2, [(0x8, 5)], 0x0⟩]

/-- The ADM registers. -/
def pf0MapAdm : List RegEnt := [
  ⟨0x80000, 1, [], 0xFF0000F0⟩,
  ⟨0x80014, 1, [], 0xFFE00000⟩,
  ⟨0x80024, 1, [], 0xFFE00000⟩,
  ⟨0x80028, 1, [], 0xFFFFF880⟩,
  ⟨0x8002C, 1, [], 0x0⟩,
  ⟨0x80030, 1, [], 0x0⟩,
  ⟨0x80034, 1, [], 0xFC00FC00⟩,
  ⟨0x80038, 1, [], 0xFFFF0000⟩,
  ⟨0x8003C, 1, [], 0x0⟩,
  ⟨0x80100, 1, [], 0x7FFCFC00⟩,
  ⟨0x80128, 1, [], 0xFF00⟩,
  ⟨0x8012C, 1, [], 0xFF000000⟩,
  ⟨0x80004, 1, [(0x4, 4)], 0x0⟩,
  ⟨0x80018, 1, [(0x4, 3)], 0x0⟩,
  ⟨0x80110, 1, [(0x4, 2)], 0xFFF00000⟩,
  ⟨0x80118, 1, [(0x4, 4)], 0x0⟩,
  ⟨0x80130, 1, [(0x4, 3)], 0xFFE00000⟩,
  ⟨0x80140, 2, [(0x8, 15)], 0x0⟩]

/-- The FCH registers. -/
def pf0MapFch : List RegEnt := [
  ⟨0x100000, 1, [(0x10000, 4), (0x800, 32)], 0xC00FE⟩,
  ⟨0x100004, 1, [(0x10000, 4), (0x800, 32)], 0xFFFFFFFC⟩,
  ⟨0x100008, 1, [(0x10000, 4), (0x800, 32)], 0xFFFFFF00⟩,
  ⟨0x10000C, 1, [(0x10000, 4), (0x800, 32)], 0x0⟩,
  ⟨0x100100, 1, [(0x10000, 4), (0x800, 32)], 0xFF000000⟩,
  ⟨0x100104, 1, [(0x10000, 4), (0x800, 32)], 0x8000⟩,
  ⟨0x100108, 1, [(0x10000, 4), (0x800, 32)], 0x80008000⟩,
  ⟨0x10010C, 1, [(0x10000, 4), (0x800, 32)], 0xFFF8FF00⟩,
  ⟨0x100040, 1, [(0x10000, 4), (0x800, 32), (0x4, 8)], 0xFF0078F0⟩,
  ⟨0x100080, 1, [(0x10000, 4), (0x800, 32), (0x4, 32)], 0xE0⟩,
  ⟨0x100200, 2, [(0x10000, 4), (0x800, 32), (0x8, 14)], 0x0⟩]

/-- The BOOT registers. -/
def pf0MapBoot : List RegEnt := [
  ⟨0x200000, 1, [], 0xFF00⟩,
  ⟨0x200070, 1, [], 0xFFFF0000⟩,
  ⟨0x200074, 1, [], 0xFFFFFFFE⟩,
  ⟨0x200080, 1, [], 0xFFFFFFC0⟩,
  ⟨0x200200, 1, [], 0x7C00003F⟩,
  ⟨0x200204, 1, [], 0x7FFFFFF8⟩,
  ⟨0x200010, 1, [(0x10, 2)], 0xFF0000⟩,
  ⟨0x200014, 1, [(0x10, 2), (0x4, 2)], 0x0⟩,
  ⟨0x200040, 1, [(0x4, 9)], 0x0⟩,
  ⟨0x200078, 1, [], 0x3FFFFFF⟩,
  ⟨0x20007C, 1, [], 0x0⟩,
  ⟨0x200090, 1, [(0x4, 2)], 0x3F000000⟩,
  ⟨0x200100, 1, [(0x80, 2), (0x4, 32)], 0x0⟩,
  ⟨0x200240, 1, [(0x4, 16)], 0x0⟩]

/-- The HLT registers. -/
def pf0MapHlt : List RegEnt := [
  ⟨0x300000, 1, [], 0xFFFF0080⟩,
  ⟨0x300004, 1, [], 0xFFFFFF80⟩,
  ⟨0x300008, 1, [], 0xFFFFFF80⟩,
  ⟨0x30000C, 1, [], 0xFFFF0000⟩,
  ⟨0x300010, 1, [], 0xFE0000F0⟩,
  ⟨0x3000C0, 1, [], 0x0⟩,
  ⟨0x3000C4, 1, [], 0x0⟩,
  ⟨0x3000C8, 1, [], 0x0⟩,
  ⟨0x3000D0, 1, [], 0xFFC00000⟩,
  ⟨0x3000D4, 1, [], 0xFFF000⟩,
  ⟨0x3000D8, 1, [], 0x0⟩,
  ⟨0x3000DC, 1, [], 0x0⟩,
  ⟨0x3000E0, 1, [], 0x0⟩,
  ⟨0x300200, 1, [], 0x7FFCFC00⟩,
  ⟨0x301008, 1, [], 0xFF000000⟩,
  ⟨0x30100C, 1, [], 0xFFFC0000⟩,
  ⟨0x301010, 1, [], 0xFFFFFFFE⟩,
  ⟨0x300040, 1, [(0x4, 16)], 0xFE0000⟩,
  ⟨0x300080, 1, [(0x4, 16)], 0xFFFE0000⟩,
  ⟨0x300100, 2, [(0x8, 22)], 0x0⟩,
  ⟨0x300210, 2, [(0x8, 20)], 0x0⟩,
  ⟨0x300400, 2, [(0x40, 8), (0x8, 6)], 0x0⟩,
  ⟨0x300600, 1, [(0x4, 8)], 0x0⟩,
  ⟨0x301000, 1, [], 0x0⟩,
  ⟨0x301004, 1, [], 0xFFFF0000⟩,
  ⟨0x301040, 2, [(0x8, 12)], 0x0⟩]

/-- The registers of PF0 BAR0 that the chapters map (Table 2.3), without its MSI-X table and PBA. -/
def pf0Regs : List RegEnt := pf0MapIdt ++ pf0MapCkm ++ pf0MapClkg ++ pf0MapRst ++ pf0MapPwr ++ pf0MapThm ++ pf0MapMbx ++ pf0MapEvr ++ pf0MapMep ++ pf0MapBpm ++ pf0MapCip ++ pf0MapAdm ++ pf0MapFch ++ pf0MapBoot ++ pf0MapHlt

/-- The CAS registers of a VF. -/
def vfMapCas : List RegEnt := [
  ⟨0x400, 1, [], 0x0⟩,
  ⟨0x404, 1, [], 0xFC000068⟩]

/-- The RNG registers of a VF. -/
def vfMapRng : List RegEnt := [
  ⟨0x800, 1, [(0x10, 16)], 0xFFF⟩,
  ⟨0x804, 1, [(0x10, 16)], 0x0⟩,
  ⟨0x808, 1, [(0x10, 16)], 0xE0E2⟩,
  ⟨0x80C, 1, [(0x10, 16)], 0x0⟩]

/-- The MBX registers of a VF. -/
def vfMapMbx : List RegEnt := [
  ⟨0x1000, 1, [(0x4, 16)], 0x0⟩,
  ⟨0x1080, 1, [(0x4, 16)], 0x0⟩,
  ⟨0x1040, 1, [], 0xFFFFFFFE⟩,
  ⟨0x1044, 1, [], 0xFFFFFFFE⟩,
  ⟨0x1048, 1, [], 0x1FE0E0E0⟩,
  ⟨0x104C, 1, [], 0xFFFFFFF8⟩,
  ⟨0x1050, 1, [], 0xFFFFFFF0⟩,
  ⟨0x1058, 1, [], 0x0⟩]

/-- The registers of a VF BAR0 that the chapters map (Table 2.4), without its MSI-X table and PBA. -/
def vfRegs : List RegEnt := vfMapCas ++ vfMapRng ++ vfMapMbx

/-- The reserved bits of the register at an offset, or none where no register stands (R4). -/
def rsvAt (l : List RegEnt) (o : Nat) : Option Nat :=
  (l.find? fun e => decide (e.base ≤ o) && inDims e.words e.dims (o - e.base)).map RegEnt.rsv

/-- Whether an offset lies in the MSI-X table or PBA of a function (R38): 16 vectors of PF0, 17 of a VF. -/
def inMsix (fn o : Nat) : Bool :=
  if fn = 0 then (decide (0x8000 ≤ o) && decide (o < 0x8100)) || decide (o = 0x9000) || decide (o = 0x9004)
  else (decide (0x2000 ≤ o) && decide (o < 0x2110)) || decide (o = 0x3000) || decide (o = 0x3004)

/-- The reserved bits of the 32-bit word at an offset of a function's BAR0, or none where nothing is mapped (R4). -/
def rsvOf (fn o : Nat) : Option Nat := if inMsix fn o then some 0 else rsvAt (if fn = 0 then pf0Regs else vfRegs) o

end Sys2Proof.Machine
end

