-- ==== Sys2Proof/Machine/Regs.lean ====
section
/-! DEFINITION. REGISTER_WRITE and RC_REGISTER_READ: the access rules of R4, R34 and R37, the fields that have no row of their own,
and the configuration space of R31. A write to a register that has a row of its own does what that row does. -/

namespace Sys2Proof.Machine

/-! ### Stores to the fields of PF0 BAR0 -/

/-- The IDT, CKM, CLKG, RST and PWR blocks: event bits are cleared by 1, RW fields stored. -/
def storeSys (s : State) (o n : Nat) : State :=
  match o with
  | 0x00058 => { s with portEvt := clrMask s.portEvt n }
  | 0x10008 => { s with ckm := { s.ckm with evt := clrMask s.ckm.evt n } }
  | 0x14004 => { s with ckm := { s.ckm with gRefused := s.ckm.gRefused && !bit n 31 } }
  | 0x18008 => { s with rst := { s.rst with quiesceMs := bits n 0 16 } }
  | 0x1C108 => { s with rst := { s.rst with p2Ms := bits n 16 16, p1Us := bits n 0 16 } }
  | 0x1C10C => { s with rst := { s.rst with p3S := n } }
  | 0x20014 => { s with thm := { s.thm with evt := clrMask s.thm.evt n } }
  | _ => s

/-- EVR_STAT: its four event bits are cleared by 1. -/
def storeEvr (s : State) (o n : Nat) : State :=
  if o = 0x40004 then
    { s with evr := { s.evr with
      stDenied := s.evr.stDenied && !bit n 3, stUnpers := s.evr.stUnpers && !bit n 2
      stHold := s.evr.stHold && !bit n 1, stErr := s.evr.stErr && !bit n 0 } }
  else s

/-- The MEP block. MEP_CTL stores its fields, and its CNT_CLR and LOG_CLR clear (R245). -/
def storeMep (m : Mep) (o n : Nat) : Mep :=
  match o with
  | 0x004 =>
    let m := { m with skimEn := bits n 16 7, logHold := bit n 1 }
    let m := if bit n 2 then clearMemLog m else m
    if bit n 0 then clearMemCnts m else m
  | 0x008 => { m with evt := clrMask m.evt n }
  | 0x010 => { m with limHbmS := bits n 16 16, limSramMs := bits n 0 16 }
  | 0x014 => { m with paceMbps := bits n 0 16 }
  | 0x304 => { m with flipAddr := n }
  | 0x308 => { m with flipDlo := n }
  | 0x30C => { m with flipDhi := n }
  | 0x310 => { m with flipChk := n }
  | 0x314 => { m with flipAmask := n }
  | 0x404 => { m with testLine := n }
  | 0x480 => { m with testComp := n }
  | _ =>
    if 0x440 ≤ o ∧ o < 0x480 then { m with testData := Tab.set 0 m.testData ((o - 0x440) / 4) n }
    else if 0x100 ≤ o ∧ o < 0x200 ∧ o % 16 = 12 then { m with thresh := Tab.set 4096 m.thresh ((o - 0x100) / 16) (bits n 0 16) }
    else m

/-- The BPM block. -/
def storeBpm (b : Bpm) (o n : Nat) : Bpm :=
  match o with
  | 0x024 => { b with evt := clrMask b.evt n }
  | 0x500 => { b with testLo := n }
  | 0x504 => { b with testHi := n }
  | _ => b

/-- FCH_EVT of a channel. -/
def storeFch (s : State) (c o n : Nat) : State :=
  if o = 0x008 then modChan s c fun x => { x with evt := clrMask x.evt n } else s

/-- The BOOT block. -/
def storeBoot (b : BootSt) (o n : Nat) : BootSt :=
  match o with
  | 0x080 => { b with evt := clrMask b.evt n }
  | 0x200 => { b with rdDev := bits n 31 1, rdAddr := bits n 6 20 * 64 }
  | _ => b

/-- The HLT block. -/
def storeHlt (h : Hlt) (o n : Nat) : Hlt :=
  match o with
  | 0x0004 => { h with evt := clrMask h.evt n }
  | 0x0008 => { h with evtEn := n }
  | 0x000C => { h with wearHighPct := bits n 8 8, spareLowPct := bits n 0 8 }
  | _ => h

/-- An MSI-X table entry is written (R38); the PBA is read-only. -/
def storeVec (v : Vec) (i n : Nat) : Vec :=
  match i with
  | 0 => { v with addrLo := n }
  | 1 => { v with addrHi := n }
  | 2 => { v with data := n }
  | _ => { v with masked := bit n 0 }

/-- A word of a function's MSI-X table, which starts at `tab`, is written. -/
def storeMsix (s : State) (p : Port) (fn tab o n : Nat) : State :=
  if o < tab + 0x1000 then
    modFn s p fn fun f => { f with vecs := Tab.upd {} f.vecs ((o - tab) / 16) fun v => storeVec v (o / 4 % 4) n }
  else s

/-- MBX_CTLn and MBX_ISTATn (R297). -/
def storeMbx (s : State) (b : Box) (o n : Nat) : State :=
  match o with
  | 0x4C => modMbx s b fun m => { m with ctl := n }
  | 0x50 => modMbx s b fun m => { m with ist := clrMask m.ist n }
  | _ => s

/-- A 32-bit word of PF0 BAR0 is stored into the fields that host software can write; read-only fields keep their values. -/
def storePf0 (s : State) (p : Port) (o n : Nat) : State :=
  if inMsix 0 o then storeMsix s p 0 0x8000 o n
  else if o < 0x30000 then storeSys s o n
  else if o < 0x40000 then (if o < 0x30800 then storeMbx s (.pf0 ((o - 0x30000) / 256)) (o % 256) n else s)
  else if o < 0x50000 then storeEvr s o n
  else if o < 0x60000 then { s with mep := storeMep s.mep (o - 0x50000) n }
  else if o < 0x70000 then { s with bpm := storeBpm s.bpm (o - 0x60000) n }
  else if o < 0x80000 then (if o = 0x70008 then { s with cip := { s.cip with evt := clrMask s.cip.evt n } } else s)
  else if 0x100000 ≤ o ∧ o < 0x140000 then storeFch s ((o - 0x100000) / 2048) (o % 2048) n
  else if 0x200000 ≤ o ∧ o < 0x300000 then { s with boot := storeBoot s.boot (o - 0x200000) n }
  else if 0x300000 ≤ o then { s with hlt := storeHlt s.hlt (o - 0x300000) n }
  else s

/-- A 32-bit word of VF BAR0 is stored. The base of an enabled ring must not change (R61). -/
def storeVf (s : State) (p : Port) (fn o n : Nat) : Res :=
  if inMsix fn o then .next (storeMsix s p fn 0x2000 o n)
  else if o = 0x404 then
    .next (modCas s p fn fun c => { c with seqErr := c.seqErr && !bit n 7, orphan := c.orphan && !bit n 1 })
  else if 0x800 ≤ o ∧ o < 0x900 then
    let k := (o - 0x800) / 16
    let r := getRing s p fn k
    if r.en ∧ n ≠ (if o % 16 = 0 then r.baseLo else r.baseHi) then .fault (.ringChangedWhileEnabled p fn k)
    else .next (modRing s p fn k fun r => if o % 16 = 0 then { r with baseLo := n } else { r with baseHi := n })
  else if 0x1000 ≤ o ∧ o < 0x10C0 then .next (storeMbx s (.vf p fn) (o - 0x1000) n)
  else .next s

/-! ### Registers with rows of their own -/

/-- Four bytes of a request window are written (R295). -/
def storeReq (s : State) (b : Box) (i : Nat) (v : Word) : State :=
  modMbx s b fun m =>
    let w := padTo 64 m.req
    { m with req := w.take i ++ leBytes 4 v.toNat ++ w.drop (i + 4) }

/-- A write to a mailbox's registers that have rows of their own, and to MBX_REQn, which needs the lock too (R299). -/
def mbxRow (p : Port) (b : Box) (o : Nat) (v : Word) : Option (State → Res) :=
  if o < 0x40 then some fun s => boxWrite 3 p b o 0 v s fun s _ => .next (storeReq s b (o / 4 * 4) v)
  else match o with
    | 0x40 => some (execMbxDoorbell p b v)
    | 0x44 => some (execMbxPop p b v)
    | _ => none

/-- A control register of PF0 whose bits, once its reserved ones are known to be 0, are commands of their own. -/
def ctlRow (p : Port) (o : Nat) (v : Word) : Option (State → Res) :=
  match o with
  | 0x20000 => some fun s => if flag v 0 then execCntClrThm p s else .next s
  | 0x60020 => some fun s => if flag v 0 then execCntClrBpm p s else .next s
  | 0x60508 => some fun s => if flag v 0 then execBpmTest p s else .next s
  | 0x70004 => some fun s =>
      bindRes (if flag v 1 then execCntClrCip p s else .next s) fun s => if flag v 0 then execPlainKekClose p s else .next s
  | 0x200204 => some fun s => if flag v 0 then execBootFlashRead p s else .next s
  | _ =>
    if 0x100000 ≤ o ∧ o < 0x140000 ∧ o % 2048 = 4 then
      let c := (o - 0x100000) / 2048
      some fun s => bindRes (if flag v 1 then execCntClrFch p c s else .next s) fun s => if flag v 0 then execRetrain p c s else .next s
    else none

/-- A write to a register of PF0 BAR0 that has a row of its own. -/
def pf0Row (p : Port) (o : Nat) (v : Word) : Option (State → Res) :=
  match o with
  | 0x14000 => some (if flag v 8 then execClockGateOn p v else execClockGateOff p v)
  | 0x18004 => some (execWarm p v)
  | 0x1C104 => some (execMaxState p v)
  | 0x20100 => some (execSensorExclude p v)
  | 0x30800 => some (execMbxBreak p v)
  | 0x40000 => some (if flag v 2 then execClr p v else if flag v 0 then execFreeze p v else execUnfreeze p v)
  | 0x40040 => some (execEvrCursor p v)
  | 0x50208 => some (execMepLogSel p v)
  | 0x50300 => some (execMepFlipArm p v)
  | 0x50400 => some (if fld v 0 2 = 2 then execMepTestRead p v else execMepTestWrite p v)
  | 0x60400 => some (execBpmTsel p v)
  | 0x70200 => some (execCipTsel p v)
  | 0x80100 => some (execAdmTwinSel p v)
  | 0x300200 => some (execHltTsel p v)
  | 0x301010 => some (execHltTelSnap p v)
  | _ =>
    if 0x30000 ≤ o ∧ o < 0x30800 then
      let n := (o - 0x30000) / 256
      if o % 256 = 0x54 then some (execMbxLockRelease p n v) else mbxRow p (.pf0 n) (o % 256) v
    else none

/-- A write to a register of VF BAR0 that has a row of its own. -/
def vfRow (p : Port) (fn o : Nat) (v : Word) : Option (State → Res) :=
  if 0x800 ≤ o ∧ o < 0x900 ∧ o % 16 = 8 then
    let k := (o - 0x800) / 16
    some (if !flag v 0 then execRingDisable p fn k v else if !flag v 2 then execRingIenClear p fn k v else execRingEnable p fn k v)
  else if 0x800 ≤ o ∧ o < 0x900 ∧ o % 16 = 12 then some (execRingHeadWrite p fn ((o - 0x800) / 16) v)
  else if 0x1000 ≤ o ∧ o < 0x10C0 then mbxRow p (.vf p fn) (o - 0x1000) v
  else none

/-! ### The write itself -/

/-- A 32-bit write to a register without a row of its own: an unmapped offset or a nonzero reserved field is undefined (R4),
read-only fields ignore it. -/
def writePlain (p : Port) (fn o : Nat) (v : Word) (s : State) : Res :=
  regWrite p fn s fun s =>
    match rsvOf fn o with
    | none => .fault (.unmappedWrite p fn o)
    | some m =>
      if v.toNat &&& m ≠ 0 then .fault (.reservedWrite p fn o)
      else if fn = 0 then
        match ctlRow p o v with
        | some k => k s
        | none => .next (storePf0 s p o v.toNat)
      else storeVf s p fn o v.toNat

/-- PWR_PLP_EVT, the one register whose writes take effect during a flush too (R262). -/
def writePlpEvt (p : Port) (v : Word) (s : State) : Res :=
  hostAccess p 0 3 s fun s =>
    if v.toNat &&& 0xFFFFFFF0 ≠ 0 then .fault (.reservedWrite p 0 0x1C028)
    else .next { s with plp := { s.plp with evt := clrMask s.plp.evt v.toNat } }

/-- An aligned 32-bit write outside the TRS range (R37). -/
def write32 (p : Port) (fn o : Nat) (v : Word) (s : State) : Res :=
  match if fn = 0 then pf0Row p o v else vfRow p fn o v with
  | some k => k s
  | none => if fn = 0 ∧ o = 0x1C028 then writePlpEvt p v s else writePlain p fn o v s

/-- The bytes of a write, as the TRS range takes them. -/
def writeBytes (size : Nat) (v : Word64) : List (Option Byte) := (leBytes size v.toNat).map some

/-- A write to a function's BAR0 (R37): an aligned 32-bit or 64-bit one acts, the lower word first; the TRS range takes any; every
other one is completed and discarded; one beyond the BAR is an Unsupported Request. -/
def writeBar (p : Port) (fn off size : Nat) (v : Word64) (s : State) : Res :=
  if (if fn = 0 then 16777216 else 65536) ≤ off then execUnsupportedRequest p fn off false s
  else if fn ≠ 0 ∧ off < 1024 then execTrsWrite p fn off (writeBytes (min 8 size) v) s
  else if size = 4 ∧ off % 4 = 0 then write32 p fn off (v.setWidth 32) s
  else if size = 8 ∧ off % 8 = 0 ∧ (getPort s p).linkUp ∧ !s.ckm.stopped ∧ !unsupported s p fn off then
    bindRes (write32 p fn off (v.setWidth 32) s) fun s => write32 p fn (off + 4) ((v >>> 32).setWidth 32) s
  else hostAccess p fn 3 s .next

/-! ### Configuration space -/

/-- A write to a function's configuration space: Command, BAR0 of PF0, and the fields of its capabilities that the manual names,
each capability at 0x1000 × its ID, an extended one at 0x100000 × its ID (log 50, PRESUMED). The rest is read-only, or has rows of its
own. -/
def storeCfg (s : State) (p : Port) (fn off size n : Nat) : State :=
  match off with
  | 0x0004 => settleOut (modFn s p fn fun f => { f with mse := bit n 1, bme := bit n 2 })
  | 0x0010 => if fn = 0 then modFn s p 0 fun f => { f with bar := BitVec.ofNat 64 (f.bar.toNat / p32 * p32 + bits n 24 8 * 16777216) } else s
  | 0x0014 => if fn = 0 then modFn s p 0 fun f => { f with bar := BitVec.ofNat 64 (f.bar.toNat % p32 + n % p32 * p32) } else s
  | 0x10008 => modFn s p fn fun f =>
      { f with relaxed := bit n 4, mps := bits n 5 3, mrrs := if size < 2 then f.mrrs else bits n 12 3 }
  | 0x10028 => modFn s p fn fun f => { f with cplTimeout := bits n 0 4 }
  | 0x100004 => modFn s p fn fun f => { f with aer := clrMask f.aer n }
  | 0x11000 => if size < 4 then s else modFn s p fn fun f => { f with fnMask := bit n 30 }
  | 0x11002 => if size < 2 then s else modFn s p fn fun f => { f with fnMask := bit n 14 }
  | 0x11003 => modFn s p fn fun f => { f with fnMask := bit n 6 }
  | 0x1000024 => if fn = 0 then modPort s p fun q => { q with vfBar := BitVec.ofNat 64 (q.vfBar.toNat / p32 * p32 + bits n 16 16 * 65536) } else s
  | 0x1000028 => if fn = 0 then modPort s p fun q => { q with vfBar := BitVec.ofNat 64 (q.vfBar.toNat % p32 + n % p32 * p32) } else s
  | _ => s

/-- REGISTER_WRITE (R4, R34, R37): to an offset of a function's BAR0 or configuration space, or to a memory address of its port (R36); an
address that no function claims is not the XV8's. -/
def execRegisterWrite (p : Port) (fn : Nat) (sp : Space) (off size : Nat) (v : Word64) (s : State) : Res :=
  match sp with
  | .bar => writeBar p fn off size v s
  | .mem => match memTarget s p off with
    | some (f, o) => writeBar p f o size v s
    | none => .next s
  | .cfg => cfgAccess p fn s fun s => .next (storeCfg s p fn off size (v.toNat % 2 ^ (8 * min 4 size)))

/-! ### Registers cleared by read -/

/-- The RC registers of PF0 BAR0 and VF BAR0: the state once they are read. -/
def clearRc (s : State) (p : Port) (fn o : Nat) : State :=
  if fn ≠ 0 then (if o = 0x1058 then modMbx s (.vf p fn) fun m => { m with notices := 0, drops := 0 } else s)
  else match o with
    | 0x00060 => { s with pa := { s.pa with dropped := 0 } }
    | 0x00064 => { s with pb := { s.pb with dropped := 0 } }
    | 0x4001C => { s with evr := { s.evr with holdLost := 0 } }
    | 0x40020 => { s with evr := { s.evr with unpersLost := 0 } }
    | 0x40024 => { s with evr := { s.evr with repeatCnt := 0 } }
    | 0x8003C => { s with adm := { s.adm with tieLossA := 0, tieLossB := 0 } }
    | _ =>
      if 0x30000 ≤ o ∧ o < 0x30800 ∧ o % 256 = 0x58 then
        modMbx s (.pf0 ((o - 0x30000) / 256)) fun m => { m with notices := 0, drops := 0 }
      else s

/-- Whether an offset holds an RC register. -/
def isRc (fn o : Nat) : Bool :=
  if fn ≠ 0 then decide (o = 0x1058)
  else [0x60, 0x64, 0x4001C, 0x40020, 0x40024, 0x8003C].contains o ||
    (decide (0x30000 ≤ o) && decide (o < 0x30800) && decide (o % 256 = 0x58))

/-- Whether an offset of PF0 BAR0 holds a mailbox lock, whose read takes it (R298). -/
def isLock (fn o : Nat) : Bool :=
  fn == 0 && decide (0x30000 ≤ o) && decide (o < 0x30800) && decide (o % 256 = 0x54)

/-- An aligned 32-bit read of a register of a function's BAR0: its value is returned, and an RC register is cleared (R34). MBX_LOCKn and
EVR_DATA7 do what their own rows do; an offset that holds no register reads 0 (R4). -/
def read32 (p : Port) (fn off : Nat) (s : State) : Res :=
  if isLock fn off then execMbxLockRead p ((off - 0x30000) / 256) s
  else if fn = 0 ∧ off = 0x4007C then execEvrData7Read p s
  else hostAccess p fn 3 s fun s => .next (clearRc (emit s (.value p (BitVec.ofNat 32 (regVal s p fn off)))) p fn off)

/-- A read of a function's BAR0 (R37): an aligned 32-bit one, or an aligned 64-bit one, which acts on the lower word first; one of any other
size or alignment is completed with 0, as is one in the TRS range (R49); one beyond the BAR is an Unsupported Request. -/
def readBar (p : Port) (fn off size : Nat) (s : State) : Res :=
  if (if fn = 0 then 16777216 else 65536) ≤ off then execUnsupportedRequest p fn off true s
  else if size = 4 ∧ off % 4 = 0 then read32 p fn off s
  else if size = 8 ∧ off % 8 = 0 ∧ (getPort s p).linkUp ∧ !s.ckm.stopped ∧ !unsupported s p fn off ∧ !(fn ≠ 0 ∧ off < 1024) then
    bindRes (read32 p fn off s) fun s => read32 p fn (off + 4) s
  else hostAccess p fn 3 s fun s => .next (emit s (.value p 0))

/-- RC_REGISTER_READ (R34), and a read of any other register, of configuration space, or by memory address, which the table gives no row
(log 52, DESIGN CHOICE). -/
def execRcRegisterRead (p : Port) (fn : Nat) (r : ReadAt) (s : State) : Res :=
  match r.space with
  | .bar => readBar p fn r.off r.size s
  | .mem => match memTarget s p r.off with
    | some (f, o) => readBar p f o r.size s
    | none => .next s
  | .cfg => cfgAccess p fn s fun s => .next (emit s (.value p (BitVec.ofNat 32 (cfgVal s p fn r.off))))

end Sys2Proof.Machine
end

