-- ==== Sys2Proof/Machine/Tick.lean ====
section
/-! DEFINITION. What time does by itself: one AON cycle of 320 ns (R333), which passes when no command waits (log 1, DESIGN CHOICE). Tokens fill
(R144), the direct-to-topcoat allowance fills (R140), and the counters of time run. -/

namespace Sys2Proof.Machine

/-- Length of an AON cycle in ns: 3.125 MHz (Table 14.3). -/
def aonNs : Nat := 320

/-- A bucket filled by `n`, up to its depth. -/
def fillBkt (depth n : Nat) (b : Int) : Int := if b + n ≤ depth then b + n else max b depth

/-- Most tokens that a tenant-class gets in a cycle from both sources (R144): its cap, which the shutter does not scale. -/
def capOf (cap n : Nat) : Nat := if cap = 0 then n else min n (cap * 64 * aonNs)

/-- Sill tokens of a cycle in the byte bucket of a tenant-class (R144). -/
def sillB (sh : Nat) (x : TCls) : Nat := capOf x.capMbps (x.sillMbps * sh * aonNs)
/-- Sill tokens of a cycle in the operation bucket of a tenant-class (R144). -/
def sillO (sh : Nat) (x : TCls) : Nat := capOf x.capOps (x.sillOps * sh * aonNs)

/-- The sill tokens that a tenant-class's byte bucket takes up in a cycle; what overflows joins the surplus. -/
def takenB (sh : Nat) (x : TCls) : Nat := (fillBkt (depthB x) (sillB sh x) x.bktB - x.bktB).toNat
/-- The sill tokens that a tenant-class's operation bucket takes up in a cycle. -/
def takenO (sh : Nat) (x : TCls) : Nat := (fillBkt (depthO x) (sillO sh x) x.bktO - x.bktO).toNat

/-- The oldest head of a tenant-class that waits for tokens (R143). -/
def tokenHead (s : State) (t : Nat) (c : Cls) : Option Cmd :=
  match laneHead s t c true, laneHead s t c false with
  | some w, some o =>
    let (x, y) := if w.seq < o.seq then (w, o) else (o, w)
    if !tokensOk s x then some x else if !tokensOk s y then some y else none
  | some w, none => if tokensOk s w then none else some w
  | none, some o => if tokensOk s o then none else some o
  | none, none => none

/-- A claim on the surplus of a cycle in one unit: the tenant and acceptance sequence of a waiting head, its tenant-class's weight and the most it
can use. -/
abbrev Claim := Nat × Nat × Nat × Nat

/-- What a waiting head still lacks in one unit, as far as its cap leaves room. -/
def lacks (bkt : Int) (cred cost cap taken : Nat) : Nat :=
  let need := ((cost : Int) - bkt - cred).toNat
  if cap = 0 then need else min need (cap * 64 * aonNs - taken)

/-- The claims of the waiting heads on byte tokens. -/
def claimsB (s : State) : List Claim :=
  (tenants s).flatMap fun e => allCls.filterMap fun c => (tokenHead s e.1 c).map fun h =>
    let x := tcls e.2 c
    (e.1, h.seq, x.weight, lacks x.bktB h.credB (costB s h) x.capMbps (takenB s.adm.shutter x))

/-- The claims of the waiting heads on operation tokens. -/
def claimsO (s : State) : List Claim :=
  (tenants s).flatMap fun e => allCls.filterMap fun c => (tokenHead s e.1 c).map fun h =>
    let x := tcls e.2 c
    (e.1, h.seq, x.weight, lacks x.bktO h.credO opUnit x.capOps (takenO s.adm.shutter x))

/-- Surplus is divided in proportion to WEIGHT; what a claim cannot use goes to the others in the same proportion (R144). -/
def share : Nat → Nat → List Claim → List (Nat × Nat × Nat)
  | 0, _, _ => []
  | fuel + 1, n, l =>
    let w := sumBy (fun k => k.2.2.1) l
    if w = 0 then []
    else
      let full := l.filter fun k => decide (k.2.2.2 * w ≤ n * k.2.2.1)
      if full.isEmpty then l.map fun k => (k.1, k.2.1, n * k.2.2.1 / w)
      else
        full.map (fun k => (k.1, k.2.1, k.2.2.2)) ++
          share fuel (n - sumBy (fun k => k.2.2.2) full) (l.filter fun k => decide (n * k.2.2.1 < k.2.2.2 * w))

/-- Sums of the sill tokens that the buckets take up. -/
def sumTaken (s : State) (f : TCls → Nat) : Nat := sumBy (fun e => sumBy (fun c => f (tcls e.2 c)) allCls) (tenants s)

/-- Every bucket of a tenant takes its sill tokens. -/
def fillTenant (sh : Nat) (t : Tenant) : Tenant :=
  allCls.foldl (fun t c => modCls t c fun x => { x with
    bktB := fillBkt (depthB x) (sillB sh x) x.bktB, bktO := fillBkt (depthO x) (sillO sh x) x.bktO }) t

/-- The tokens of a cycle (R144): sill first, then the surplus to the heads that wait for tokens. -/
def fillTokens (s : State) : State :=
  let sh := s.adm.shutter
  let b := share 4096 (s.adm.peakMbps * sh * aonNs - sumTaken s (takenB sh)) (claimsB s)
  let o := share 4096 (s.adm.peakOps * sh * aonNs - sumTaken s (takenO sh)) (claimsO s)
  let s := { s with tenants := Tab.mapv none (fun _ x => x.map (fillTenant sh)) s.tenants }
  let s := b.foldl (fun s k => modCmd s k.1 k.2.1 fun c => { c with credB := c.credB + k.2.2 }) s
  o.foldl (fun s k => modCmd s k.1 k.2.1 fun c => { c with credO := c.credO + k.2.2 }) s

/-- The direct-to-topcoat allowance fills at 120,000 MB/s × s, up to one control period's fill (R140). -/
def fillDirect (s : State) : State :=
  { s with adm := { s.adm with direct := fillBkt (directDepth s) (120000 * s.adm.shutter * aonNs) s.adm.direct } }

/-- Time passes in the power state of the moment (PWR_RESp). -/
def countState (s : State) : State :=
  if s.rst.pwr = 0 then s else { s with rst := { s.rst with resNs := bump s.rst.resNs s.rst.pwr aonNs } }

/-- One AON cycle. Before power-on and with both references lost no clock runs (R331): time passes, and nothing else happens. -/
def tick (s : State) : State :=
  let s := { s with nowNs := s.nowNs + aonNs }
  if s.pins.porHeld || s.ckm.stopped then s
  else
    let s := { s with ckm := { s.ckm with aon := (s.ckm.aon + 1) % 2 ^ 64 } }
    watchGate (fillDirect (fillTokens (countState (endPauses s))))

end Sys2Proof.Machine
end

