-- ==== Sys2Proof/Machine/Dispatch.lean ====
section
/-! DEFINITION. What each command does: one arm for each row of spec/opcode_table.json. -/

namespace Sys2Proof.Machine

/-- The effect of a command on everything but the queue. -/
def exec (i : Instr) (s : State) : Host.Outcome State Fault Refusal :=
  match i with
  | .trsWrite p fn off bytes => Sys2Proof.Machine.execTrsWrite p fn off bytes s
  | .trsCommit p fn off bytes => Sys2Proof.Machine.execTrsCommit p fn off bytes s
  | .read t seq rival => Sys2Proof.Machine.execRead t seq rival s
  | .write t seq rival => Sys2Proof.Machine.execWrite t seq rival s
  | .append t seq rival => Sys2Proof.Machine.execAppend t seq rival s
  | .zoneOpen t seq rival => Sys2Proof.Machine.execZoneOpen t seq rival s
  | .zoneClose t seq rival => Sys2Proof.Machine.execZoneClose t seq rival s
  | .zoneFinish t seq rival => Sys2Proof.Machine.execZoneFinish t seq rival s
  | .zoneReset t seq rival => Sys2Proof.Machine.execZoneReset t seq rival s
  | .flush t seq rival => Sys2Proof.Machine.execFlush t seq rival s
  | .abort t seq => Sys2Proof.Machine.execAbort t seq s
  | .zoneReport t seq rival => Sys2Proof.Machine.execZoneReport t seq rival s
  | .copy t seq rival => Sys2Proof.Machine.execCopy t seq rival s
  | .verify t seq rival => Sys2Proof.Machine.execVerify t seq rival s
  | .hint t seq rival => Sys2Proof.Machine.execHint t seq rival s
  | .invalidOpcode t seq => Sys2Proof.Machine.execInvalidOpcode t seq s
  | .admissionRelease t c turn => Sys2Proof.Machine.execAdmissionRelease t c turn s
  | .refusalAfterWaiting t seq => Sys2Proof.Machine.execRefusalAfterWaiting t seq s
  | .extentListFetch t seq bytes => Sys2Proof.Machine.execExtentListFetch t seq bytes s
  | .writeAcknowledgement t seq => Sys2Proof.Machine.execWriteAcknowledgement t seq s
  | .readerResume t seq => Sys2Proof.Machine.execReaderResume t seq s
  | .zoneResetApply t seq => Sys2Proof.Machine.execZoneResetApply t seq s
  | .mirrorWrite p fn => Sys2Proof.Machine.execMirrorWrite p fn s
  | .completionPost p fn ring => Sys2Proof.Machine.execCompletionPost p fn ring s
  | .ringEnable p fn ring ctl => Sys2Proof.Machine.execRingEnable p fn ring ctl s
  | .ringDisable p fn ring ctl => Sys2Proof.Machine.execRingDisable p fn ring ctl s
  | .ringHeadWrite p fn ring v => Sys2Proof.Machine.execRingHeadWrite p fn ring v s
  | .ringIenClear p fn ring ctl => Sys2Proof.Machine.execRingIenClear p fn ring ctl s
  | .ringInterruptTimer p fn ring => Sys2Proof.Machine.execRingInterruptTimer p fn ring s
  | .msixPendingSend p fn vec => Sys2Proof.Machine.execMsixPendingSend p fn vec s
  | .portLost p cause reached => Sys2Proof.Machine.execPortLost p cause reached s
  | .portUp p speed width flit => Sys2Proof.Machine.execPortUp p speed width flit s
  | .dmaReadFail t seq fail => Sys2Proof.Machine.execDmaReadFail t seq fail s
  | .completionTimeout t seq reached => Sys2Proof.Machine.execCompletionTimeout t seq reached s
  | .flr p vf reached => Sys2Proof.Machine.execFlr p vf reached s
  | .pf0Flr p reached => Sys2Proof.Machine.execPf0Flr p reached s
  | .vfEnableWrite p on reached => Sys2Proof.Machine.execVfEnableWrite p on reached s
  | .numvfsWrite p v reached => Sys2Proof.Machine.execNumvfsWrite p v reached s
  | .busMasterEnableClear p fn => Sys2Proof.Machine.execBusMasterEnableClear p fn s
  | .pf0D3hot p => Sys2Proof.Machine.execPf0D3hot p s
  | .perstDeassert p => Sys2Proof.Machine.execPerstDeassert p s
  | .unsupportedRequest p fn off isRead => Sys2Proof.Machine.execUnsupportedRequest p fn off isRead s
  | .registerWrite p fn sp off size v => Sys2Proof.Machine.execRegisterWrite p fn sp off size v s
  | .rcRegisterRead p fn r => Sys2Proof.Machine.execRcRegisterRead p fn r s
  | .d2dLaneFault q lane => Sys2Proof.Machine.execD2dLaneFault q lane s
  | .coreHang die core items => Sys2Proof.Machine.execCoreHang die core items s
  | .arrayOpStart lun => Sys2Proof.Machine.execArrayOpStart lun s
  | .flashReadDone lun secs authBad => Sys2Proof.Machine.execFlashReadDone lun secs authBad s
  | .softDecodeDone id ok metaBad authBad => Sys2Proof.Machine.execSoftDecodeDone id ok metaBad authBad s
  | .programDone lun pass => Sys2Proof.Machine.execProgramDone lun pass s
  | .eraseDone lun pass => Sys2Proof.Machine.execEraseDone lun pass s
  | .programSuspend lun => Sys2Proof.Machine.execProgramSuspend lun s
  | .suspendReady lun => Sys2Proof.Machine.execSuspendReady lun s
  | .resume lun => Sys2Proof.Machine.execResume lun s
  | .sequencerHang ch status => Sys2Proof.Machine.execSequencerHang ch status s
  | .lunHang hung => Sys2Proof.Machine.execLunHang hung s
  | .resetLunDone lun ok => Sys2Proof.Machine.execResetLunDone lun ok s
  | .zqCalibrationShort ch vol => Sys2Proof.Machine.execZqCalibrationShort ch vol s
  | .flashTemperatureRead ch vol temp => Sys2Proof.Machine.execFlashTemperatureRead ch vol temp s
  | .channelRetrain ch run => Sys2Proof.Machine.execChannelRetrain ch run s
  | .retrain p ch => Sys2Proof.Machine.execRetrain p ch s
  | .cntClrFch p ch => Sys2Proof.Machine.execCntClrFch p ch s
  | .foldGroupStart t zone wl => Sys2Proof.Machine.execFoldGroupStart t zone wl s
  | .wordlineVerifyDone lun blk wl secs => Sys2Proof.Machine.execWordlineVerifyDone lun blk wl secs s
  | .relocationStart q => Sys2Proof.Machine.execRelocationStart q s
  | .patrolVisit lun blk => Sys2Proof.Machine.execPatrolVisit lun blk s
  | .calibrationRead lun blk page found => Sys2Proof.Machine.execCalibrationRead lun blk page found s
  | .halfEraseCheck lun blk zeros => Sys2Proof.Machine.execHalfEraseCheck lun blk zeros s
  | .readyListRefill group => Sys2Proof.Machine.execReadyListRefill group s
  | .healthSummary powerMw => Sys2Proof.Machine.execHealthSummary powerMw s
  | .thresholdTableSave => Sys2Proof.Machine.execThresholdTableSave s
  | .hltTsel p v => Sys2Proof.Machine.execHltTsel p v s
  | .partialRowStage t zone => Sys2Proof.Machine.execPartialRowStage t zone s
  | .thermalControlPeriod conv => Sys2Proof.Machine.execThermalControlPeriod conv s
  | .sensorTimeout k => Sys2Proof.Machine.execSensorTimeout k s
  | .flagDwellExpiry flag => Sys2Proof.Machine.execFlagDwellExpiry flag s
  | .shutdownDrainEnd reached => Sys2Proof.Machine.execShutdownDrainEnd reached s
  | .sensorExclude p v => Sys2Proof.Machine.execSensorExclude p v s
  | .cntClrThm p => Sys2Proof.Machine.execCntClrThm p s
  | .admTwinSel p v => Sys2Proof.Machine.execAdmTwinSel p v s
  | .bpmSpill => Sys2Proof.Machine.execBpmSpill s
  | .bpmRefill => Sys2Proof.Machine.execBpmRefill s
  | .cipherChargeRetry r => Sys2Proof.Machine.execCipherChargeRetry r s
  | .backOffRetry cls q r => Sys2Proof.Machine.execBackOffRetry cls q r s
  | .bpmTest p => Sys2Proof.Machine.execBpmTest p s
  | .cntClrBpm p => Sys2Proof.Machine.execCntClrBpm p s
  | .bpmTsel p v => Sys2Proof.Machine.execBpmTsel p v s
  | .skimRead e finding => Sys2Proof.Machine.execSkimRead e finding s
  | .correctedWriteBack mem addr => Sys2Proof.Machine.execCorrectedWriteBack mem addr s
  | .mergeEntryTimeout stack line readBad => Sys2Proof.Machine.execMergeEntryTimeout stack line readBad s
  | .hbmRefresh stack => Sys2Proof.Machine.execHbmRefresh stack s
  | .skimSlow e => Sys2Proof.Machine.execSkimSlow e s
  | .ceRate m => Sys2Proof.Machine.execCeRate m s
  | .mepFlipArm p v => Sys2Proof.Machine.execMepFlipArm p v s
  | .mepTestWrite p v => Sys2Proof.Machine.execMepTestWrite p v s
  | .mepTestRead p v => Sys2Proof.Machine.execMepTestRead p v s
  | .logClr p => Sys2Proof.Machine.execLogClr p s
  | .cntClrMep p => Sys2Proof.Machine.execCntClrMep p s
  | .mepLogSel p v => Sys2Proof.Machine.execMepLogSel p v s
  | .pwrfailAssert => Sys2Proof.Machine.execPwrfailAssert s
  | .flushDmaCutoff reached => Sys2Proof.Machine.execFlushDmaCutoff reached s
  | .flushEnd => Sys2Proof.Machine.execFlushEnd s
  | .pwrfailHighTimeout => Sys2Proof.Machine.execPwrfailHighTimeout s
  | .journalPageProgram pass => Sys2Proof.Machine.execJournalPageProgram pass s
  | .checkpoint => Sys2Proof.Machine.execCheckpoint s
  | .zoneTableWriteback lines => Sys2Proof.Machine.execZoneTableWriteback lines s
  | .interruptedBlockRepair lun blk => Sys2Proof.Machine.execInterruptedBlockRepair lun blk s
  | .keyLoad b d => Sys2Proof.Machine.execKeyLoad b d s
  | .keyEvict b d => Sys2Proof.Machine.execKeyEvict b d s
  | .keyEvictReply b => Sys2Proof.Machine.execKeyEvictReply b s
  | .plainKekClose p => Sys2Proof.Machine.execPlainKekClose p s
  | .cntClrCip p => Sys2Proof.Machine.execCntClrCip p s
  | .cipTsel p v => Sys2Proof.Machine.execCipTsel p v s
  | .sanitize b => Sys2Proof.Machine.execSanitize b s
  | .sanitizeDone b => Sys2Proof.Machine.execSanitizeDone b s
  | .mbxDoorbell p b v => Sys2Proof.Machine.execMbxDoorbell p b v s
  | .mbxPop p b v => Sys2Proof.Machine.execMbxPop p b v s
  | .mbxLockRead p n => Sys2Proof.Machine.execMbxLockRead p n s
  | .mbxLockRelease p n v => Sys2Proof.Machine.execMbxLockRelease p n v s
  | .mbxBreak p v => Sys2Proof.Machine.execMbxBreak p v s
  | .mbxTakeRequest b => Sys2Proof.Machine.execMbxTakeRequest b s
  | .mbxReplyPost b => Sys2Proof.Machine.execMbxReplyPost b s
  | .mbxInvalidOpcode b => Sys2Proof.Machine.execMbxInvalidOpcode b s
  | .identify b => Sys2Proof.Machine.execIdentify b s
  | .getLog b => Sys2Proof.Machine.execGetLog b s
  | .setConfig b d => Sys2Proof.Machine.execSetConfig b d s
  | .getConfig b => Sys2Proof.Machine.execGetConfig b s
  | .tenantCreate b d => Sys2Proof.Machine.execTenantCreate b d s
  | .tenantDelete b => Sys2Proof.Machine.execTenantDelete b s
  | .fwStage b d => Sys2Proof.Machine.execFwStage b d s
  | .fwStageLast b d => Sys2Proof.Machine.execFwStageLast b d s
  | .fwActivateLive b => Sys2Proof.Machine.execFwActivateLive b s
  | .fwActivateNextReset b => Sys2Proof.Machine.execFwActivateNextReset b s
  | .fwActivateWarmReset b => Sys2Proof.Machine.execFwActivateWarmReset b s
  | .health b => Sys2Proof.Machine.execHealth b s
  | .thermalSet b => Sys2Proof.Machine.execThermalSet b s
  | .quadrantReset b => Sys2Proof.Machine.execQuadrantReset b s
  | .evrecPersist b => Sys2Proof.Machine.execEvrecPersist b s
  | .quadrantResetBegin q => Sys2Proof.Machine.execQuadrantResetBegin q s
  | .quadrantResetDone q took => Sys2Proof.Machine.execQuadrantResetDone q took s
  | .quadrantResetFail q us => Sys2Proof.Machine.execQuadrantResetFail q us s
  | .liveActivationDone ms => Sys2Proof.Machine.execLiveActivationDone ms s
  | .liveActivationRevert ms => Sys2Proof.Machine.execLiveActivationRevert ms s
  | .setEndpointId op eid => Sys2Proof.Machine.execSetEndpointId op eid s
  | .getEndpointId => Sys2Proof.Machine.execGetEndpointId s
  | .getEndpointUuid => Sys2Proof.Machine.execGetEndpointUuid s
  | .getMctpVersionSupport mtype => Sys2Proof.Machine.execGetMctpVersionSupport mtype s
  | .getMessageTypeSupport => Sys2Proof.Machine.execGetMessageTypeSupport s
  | .getVendorDefinedMessageSupport sel => Sys2Proof.Machine.execGetVendorDefinedMessageSupport sel s
  | .mctpLock n => Sys2Proof.Machine.execMctpLock n s
  | .mctpRelease n => Sys2Proof.Machine.execMctpRelease n s
  | .mctpSend n frame data => Sys2Proof.Machine.execMctpSend n frame data s
  | .mctpFetch n => Sys2Proof.Machine.execMctpFetch n s
  | .mctpStatus n => Sys2Proof.Machine.execMctpStatus n s
  | .mctpBreak n => Sys2Proof.Machine.execMctpBreak n s
  | .smbusAlertResponse => Sys2Proof.Machine.execSmbusAlertResponse s
  | .refclkMissing r => Sys2Proof.Machine.execRefclkMissing r s
  | .refclkComparison countA countB pllLockA pllLockB => Sys2Proof.Machine.execRefclkComparison countA countB pllLockA pllLockB s
  | .singleReferenceBoot => Sys2Proof.Machine.execSingleReferenceBoot s
  | .pllFault pll reached => Sys2Proof.Machine.execPllFault pll reached s
  | .bothReferencesLost => Sys2Proof.Machine.execBothReferencesLost s
  | .clockGateOn p v => Sys2Proof.Machine.execClockGateOn p v s
  | .clockGateOff p v => Sys2Proof.Machine.execClockGateOff p v s
  | .p1Entry q => Sys2Proof.Machine.execP1Entry q s
  | .p2Entry => Sys2Proof.Machine.execP2Entry s
  | .p3Entry => Sys2Proof.Machine.execP3Entry s
  | .wakeComplete cause us => Sys2Proof.Machine.execWakeComplete cause us s
  | .maxState p v => Sys2Proof.Machine.execMaxState p v s
  | .warm p v => Sys2Proof.Machine.execWarm p v s
  | .quiesceTimeout reached => Sys2Proof.Machine.execQuiesceTimeout reached s
  | .powerOn => Sys2Proof.Machine.execPowerOn s
  | .bootPwrfailRelease => Sys2Proof.Machine.execBootPwrfailRelease s
  | .bootCandidateFail code => Sys2Proof.Machine.execBootCandidateFail code s
  | .bootReady => Sys2Proof.Machine.execBootReady s
  | .fuseUpdate => Sys2Proof.Machine.execFuseUpdate s
  | .bootFlashRead p => Sys2Proof.Machine.execBootFlashRead p s
  | .repeat => Sys2Proof.Machine.execRepeat s
  | .eventPersistWrite => Sys2Proof.Machine.execEventPersistWrite s
  | .freeze p v => Sys2Proof.Machine.execFreeze p v s
  | .unfreeze p v => Sys2Proof.Machine.execUnfreeze p v s
  | .clr p v => Sys2Proof.Machine.execClr p v s
  | .evrClearDone => Sys2Proof.Machine.execEvrClearDone s
  | .evrCursor p v => Sys2Proof.Machine.execEvrCursor p v s
  | .evrFetchDone f => Sys2Proof.Machine.execEvrFetchDone f s
  | .evrData7Read p => Sys2Proof.Machine.execEvrData7Read p s
  | .hltTelSnap p v => Sys2Proof.Machine.execHltTelSnap p v s
  | .tapReset => Sys2Proof.Machine.execTapReset s
  | .idcode => Sys2Proof.Machine.execIdcode s
  | .samplePreload cells => Sys2Proof.Machine.execSamplePreload cells s
  | .extest => Sys2Proof.Machine.execExtest s
  | .highz => Sys2Proof.Machine.execHighz s
  | .clamp => Sys2Proof.Machine.execClamp s
  | .bypass opcode => Sys2Proof.Machine.execBypass opcode s
  | .railUndervoltage rail => Sys2Proof.Machine.execRailUndervoltage rail s
  | .testEnAssert => Sys2Proof.Machine.execTestEnAssert s
  | .refclkEdgesReturn r => Sys2Proof.Machine.execRefclkEdgesReturn r s
  | .busMasterEnableSet p fn => Sys2Proof.Machine.execBusMasterEnableSet p fn s
  | .pf0D3hotExit p => Sys2Proof.Machine.execPf0D3hotExit p s
  | .aspmL1Entry p => Sys2Proof.Machine.execAspmL1Entry p s
  | .bootPhaseDone us r => Sys2Proof.Machine.execBootPhaseDone us r s
  | .bootFlashWriteDone err => Sys2Proof.Machine.execBootFlashWriteDone err s
  | .fwActivateResetTimeout => Sys2Proof.Machine.execFwActivateResetTimeout s

end Sys2Proof.Machine
end

