-- ==== Sys2Proof/Machine/Step.lean ====
section
/-! DEFINITION. One step of the XV8: the command at the front of the queue, or one AON cycle when none waits (log 1, DESIGN CHOICE). -/

namespace Sys2Proof.Machine

/-- The command that a word spells is put at the front of the queue. -/
def State.withFetchWord (s : State) (nbits w : Nat) : State :=
  match decodeTableWord nbits w with
  | some i => { s with pending := i :: s.pending }
  | none => s

/-- One step. -/
def step (s : State) : Host.Outcome State Fault Refusal :=
  match s.pending with
  | [] => .next (tick s)
  | i :: rest => exec i { s with pending := rest }

end Sys2Proof.Machine
end

