-- ==== Sys2Proof/Safety.lean ====
section
/-! DEFINITION. What a good step and a good state are, in the words that statements use. -/

namespace Sys2Proof.Machine

/-- A step that goes on. -/
def Safe (r : Host.Outcome State Fault Refusal) : Prop := ∃ t, r = .next t

/-- A command that is taken without an undefined case of Table 0.7. -/
def SafeCmd (i : Instr) (s : State) : Prop := Safe (exec i s)

/-- The parts of the state, one for each field of it. -/
inductive Part
  | pa
  | pb
  | cmds
  | genCtr
  | tenants
  | zones
  | zonesSaved
  | vers
  | verCtr
  | adm
  | portEvt
  | ssid
  | svid
  | fuse
  | media
  | bpm
  | evr
  | mep
  | plp
  | cip
  | mbxs
  | takeNo
  | mctp
  | ckm
  | rst
  | boot
  | thm
  | hlt
  | hltSaved
  | savedMs
  | tablesSaved
  | heldCommits
  | heldOut
  | tap
  | pins
  | formatted
  | flushEnd
  | postNs
  | cfgReport
  | cfgOpen
  | cfgSsid
  | cfgSvid
  | nowNs
  | freeCtr
  | pending
  | out
  deriving DecidableEq, Repr

/-- The part is the same in both states. -/
def Part.same (q : Part) (s t : State) : Prop :=
  match q with
  | .pa => t.pa = s.pa
  | .pb => t.pb = s.pb
  | .cmds => t.cmds = s.cmds
  | .genCtr => t.genCtr = s.genCtr
  | .tenants => t.tenants = s.tenants
  | .zones => t.zones = s.zones
  | .zonesSaved => t.zonesSaved = s.zonesSaved
  | .vers => t.vers = s.vers
  | .verCtr => t.verCtr = s.verCtr
  | .adm => t.adm = s.adm
  | .portEvt => t.portEvt = s.portEvt
  | .ssid => t.ssid = s.ssid
  | .svid => t.svid = s.svid
  | .fuse => t.fuse = s.fuse
  | .media => t.media = s.media
  | .bpm => t.bpm = s.bpm
  | .evr => t.evr = s.evr
  | .mep => t.mep = s.mep
  | .plp => t.plp = s.plp
  | .cip => t.cip = s.cip
  | .mbxs => t.mbxs = s.mbxs
  | .takeNo => t.takeNo = s.takeNo
  | .mctp => t.mctp = s.mctp
  | .ckm => t.ckm = s.ckm
  | .rst => t.rst = s.rst
  | .boot => t.boot = s.boot
  | .thm => t.thm = s.thm
  | .hlt => t.hlt = s.hlt
  | .hltSaved => t.hltSaved = s.hltSaved
  | .savedMs => t.savedMs = s.savedMs
  | .tablesSaved => t.tablesSaved = s.tablesSaved
  | .heldCommits => t.heldCommits = s.heldCommits
  | .heldOut => t.heldOut = s.heldOut
  | .tap => t.tap = s.tap
  | .pins => t.pins = s.pins
  | .formatted => t.formatted = s.formatted
  | .flushEnd => t.flushEnd = s.flushEnd
  | .postNs => t.postNs = s.postNs
  | .cfgReport => t.cfgReport = s.cfgReport
  | .cfgOpen => t.cfgOpen = s.cfgOpen
  | .cfgSsid => t.cfgSsid = s.cfgSsid
  | .cfgSvid => t.cfgSvid = s.cfgSvid
  | .nowNs => t.nowNs = s.nowNs
  | .freeCtr => t.freeCtr = s.freeCtr
  | .pending => t.pending = s.pending
  | .out => t.out = s.out

/-- Nothing but the listed parts differs: the frame of an effect. -/
def Only (l : List Part) (s t : State) : Prop := ∀ q, q ∉ l → q.same s t

/-- The part that holds a port. -/
def portPart : Port → Part
  | .a => .pa
  | .b => .pb

/-- A memory request of port `p` reaches function `fn` (R37, R44): the link is up, some reference clocks the XV8, the port is not in
D3hot, the function exists and its Memory Space Enable is 1. -/
abbrev Reaches (s : State) (p : Port) (fn : Nat) : Prop :=
  (getPort s p).linkUp = true ∧ s.ckm.stopped = false ∧ (getPort s p).d3hot = false ∧ fnExists s p fn = true ∧
    (getFn s p fn).mse = true

/-- A register write of port `p` reaches function `fn` and is applied: no flush is under way or over (R262). -/
abbrev Writable (s : State) (p : Port) (fn : Nat) : Prop := Reaches s p fn ∧ flushing s = false

/-- What a memory request that arrives does before its own effect: the port leaves L1 and the request wakes the XV8 (R336,
R337). -/
def woken (s : State) (p : Port) (cause : Nat) : State := wake (modPort s p fun q => { q with inL1 := false }) cause

/-- What holds MSI-X vector `v` of a function back (R38): its mask, Function Mask, Bus Master Enable 0, D3hot. -/
abbrev Held (s : State) (p : Port) (fn v : Nat) : Prop :=
  (Tab.get {} (getFn s p fn).vecs v).masked = true ∨ (getFn s p fn).fnMask = true ∨ (getFn s p fn).bme = false ∨
    (getPort s p).d3hot = true

/-- Vector `v` of a function falls due in the step from `s` to `t` (R38): its message is sent, or kept in the PBA while it is held. -/
abbrev Signalled (s t : State) (p : Port) (fn v : Nat) : Prop :=
  (Held s p fn v → (Tab.get {} (getFn t p fn).vecs v).pend = true ∧ t.out = s.out) ∧
    (¬Held s p fn v → t.out = s.out ++ [.msix p fn v] ∧ (getFn t p fn).vecs = (getFn s p fn).vecs)

/-- What a memory write at offset `off` puts in byte `a`, if its byte enables include it. -/
def written (off : Nat) (bytes : List (Option Byte)) (a : Nat) : Option Byte :=
  if off ≤ a then (bytes[a - off]?).join else none

/-- A 64-byte packet as the write of a whole task register set carries it, every byte enabled. -/
def packetBytes (w : List Word) : List (Option Byte) := w.flatMap fun x => (leBytes 4 x.toNat).map some

/-- The command of tenant `t` with acceptance sequence `seq` has its completion generated, with this status and RESULT (R62, R67). -/
def Completes (s : State) (t seq status result : Nat) : Prop :=
  ∃ c, getCmd s t seq = some c ∧ c.ph = .gen ∧ c.status = status ∧ c.result = result

/-- What ending a command changes: its entry, charge and place in the order of completions, and, for a reader, the blocks that only it still
needed, whose buffers go back (R124) with a record of any push that is rejected (R223). -/
def endParts (c : Cmd) : List Part :=
  if isReader (cOp c) then [.cmds, .bpm, .genCtr, .vers, .pa, .pb, .out, .evr] else [.cmds, .bpm, .genCtr]

/-- The decode row of each Katus opcode but ABORT (Table 4.4). -/
def decodeRow (op t seq : Nat) (rival : Bool) : Option Instr :=
  match op with
  | 0x01 => some (.read t seq rival)
  | 0x02 => some (.write t seq rival)
  | 0x03 => some (.append t seq rival)
  | 0x04 => some (.zoneOpen t seq rival)
  | 0x05 => some (.zoneClose t seq rival)
  | 0x06 => some (.zoneFinish t seq rival)
  | 0x07 => some (.zoneReset t seq rival)
  | 0x08 => some (.flush t seq rival)
  | 0x0A => some (.zoneReport t seq rival)
  | 0x0B => some (.copy t seq rival)
  | 0x0C => some (.verify t seq rival)
  | 0x0D => some (.hint t seq rival)
  | _ => none

/-- A command is its port's next to be decoded (R142), and no flush is under way. -/
abbrev AtDecode (s : State) (t seq : Nat) (c : Cmd) : Prop :=
  getCmd s t seq = some c ∧ c.ph = .captured ∧ nextCaptured s c.port = some c ∧ flushing s = false

/-- A configuration request of port `p` reaches function `fn` (R44): it is accepted in D3hot too. -/
abbrev CfgReaches (s : State) (p : Port) (fn : Nat) : Prop :=
  (getPort s p).linkUp = true ∧ s.ckm.stopped = false ∧ fnExists s p fn = true

/-- The recorder takes records into its live ring (R384), and in this second of operating time it has had fewer than 64 of this SOURCE and
CODE, or, as the second's first record, has no REPEAT record to write before it (R386). -/
abbrev Recordable (s : State) (source code : Nat) : Prop :=
  s.evr.frozen = false ∧ (s.evr.sec = opMs s / 1000 → Tab.get 0 s.evr.seen (source * 65536 + code) < 64) ∧
    (s.evr.sec ≠ opMs s / 1000 → s.evr.excess = [])

/-- `u` holds, under the next record number of `s`, a record with these fields and the first 12 bytes of this payload (R382, R384). -/
def Recorded (s u : State) (sev source code : Nat) (payload : List Byte) : Prop :=
  ∃ r ∈ u.evr.ring, r.num = s.evr.evNext ∧ r.sev = sev ∧ r.source = source ∧ r.code = code ∧ r.payload = padTo 12 payload

/-- The oldest request `f` of a mailbox can start now (R296, R311) and passes the checks common to every opcode (R305). -/
abbrev AtRequest (s : State) (b : Box) (f : Frame) : Prop := nextReq s b = some f ∧ reqError s b f = none

/-- The data of a request is there (R304): `d` brought `l`, and the function that reads it for the agent can be accessed. -/
abbrev DataAt (s : State) (b : Box) (f : Frame) (d : ReqData) (l : List Byte) : Prop :=
  reqData f d = some l ∧
    (f.agent = 3 ∨ fDlen f.bytes = 0 ∨ canWrite s (boxPath (agentPort f.agent) b).1 (boxPath (agentPort f.agent) b).2 = true)

/-- The oldest request `f` of a mailbox of `s` has ended in `u`: its reply, with this result, these VALs and this data cut to the room
that the request gives (R303, R304), waits to be posted, or is discarded when the request lost its sender (R300). -/
def Replies (s u : State) (b : Box) (f : Frame) (result : Nat) (vals : List Nat) (data : List Byte) : Prop :=
  (getMbx u b).backlog = (getMbx s b).backlog.drop 1 ∧ (getMbx u b).busy = false ∧
    (f.mute = true → (getMbx u b).held = none) ∧
    (f.mute = false → ∃ r, (getMbx u b).held = some r ∧ r.agent = f.agent ∧ r.data = data.take (room f) ∧
      r.bytes = replyBytes f.bytes result vals (data.take (room f)).length data.length f.agent)

/-- A host of port `p` may write the queues of a mailbox (R299): through its own function, or through PF0 as the owner of the lock. -/
def OwnsBox (s : State) (p : Port) (b : Box) : Prop :=
  Writable s (boxPath p b).1 (boxPath p b).2 ∧ ∀ n, b = .pf0 n → (getMbx s b).owner = agentOf p

end Sys2Proof.Machine
end

