-- ==== Sys2Proof/Certificates/Slice0/Obligations.lean ====
section
/-! DEFINITION. The statements about the XV8 for the provers. Each holds of every state and all operands that meet its hypotheses. A statement
about one command says what it answers (its conclusion is a next state, or the fault it stops with) and what it leaves as it was: `Only l`
lists the parts of the state that may differ. -/

open Sys2Proof Sys2Proof.Machine

/-- A command at the front of the queue is executed on the state with the rest of the queue. With no command waiting, one step is one
AON clock cycle (log 1, the model's choice). -/
def Obligations.StepRunsCommand : Prop :=
  (∀ (s : State) (c : Instr) (rest : List Instr), s.pending = c :: rest → step s = exec c { s with pending := rest }) ∧
  (∀ s : State, s.pending = [] → step s = .next (tick s))

/-- A ring enabled by a write of RNG_CTLn with EN = 1 and SIZE_LOG2 from 6 to 16 starts afresh: P and RNG_HEADn are 0 (R61). One with
SIZE_LOG2 outside that range leaves EN 0 and sets CFG_ERR. Nothing but the ring and what the access itself does changes. A write of
RNG_CTLn that keeps or clears EN (R64, R66): EN 0 stops the ring, IEN 0 makes every unsignalled entry count as signalled; P and
RNG_HEADn stay. With IEN 1 the entries that are unsignalled stay so, unless they are now ICNT + 1 or more: then the message goes at once. -/
def Obligations.RingsAreControlled : Prop :=
  (∀ (s : State) (p : Port) (fn ring : Nat) (v : Word), Writable s p fn → (getRing s p fn ring).en = false → flag v 0 = true →
      v.toNat &&& 0xE0E2 = 0 →
      ∃ t, exec (.ringEnable p fn ring v) s = .next t ∧
        Only [portPart p, .out] (woken s p 3) t ∧
        (∀ n, n ≠ ring → getRing t p fn n = getRing s p fn n) ∧
        (flag v 2 = true ∧ fld v 16 8 + 1 ≤ (getRing s p fn ring).unsig → (getRing t p fn ring).unsig = 0 ∧ Signalled (woken s p 3) t p fn ring) ∧
        (¬(flag v 2 = true ∧ fld v 16 8 + 1 ≤ (getRing s p fn ring).unsig) →
          (getRing t p fn ring).unsig = (if flag v 2 then (getRing s p fn ring).unsig else 0) ∧ t.out = s.out) ∧
        (getRing t p fn ring).sizeLog2 = fld v 8 5 ∧ (getRing t p fn ring).ien = flag v 2 ∧ (getRing t p fn ring).mirror = flag v 3 ∧
        (getRing t p fn ring).icnt = fld v 16 8 ∧ (getRing t p fn ring).itime = fld v 24 8 ∧
        ((6 ≤ fld v 8 5 ∧ fld v 8 5 ≤ 16) → (getRing t p fn ring).en = true ∧ (getRing t p fn ring).cfgErr = false ∧
          (getRing t p fn ring).posted = 0 ∧ (getRing t p fn ring).head = 0) ∧
        (¬(6 ≤ fld v 8 5 ∧ fld v 8 5 ≤ 16) → (getRing t p fn ring).en = false ∧ (getRing t p fn ring).cfgErr = true)) ∧
  (∀ (s : State) (p : Port) (fn ring : Nat) (v : Word) (c : Instr),
      c = .ringDisable p fn ring v ∧ flag v 0 = false ∨
        c = .ringIenClear p fn ring v ∧ flag v 0 = true ∧ (getRing s p fn ring).en = true ∧ fld v 8 5 = (getRing s p fn ring).sizeLog2 →
      Writable s p fn → v.toNat &&& 0xE0E2 = 0 →
      ∃ t, exec c s = .next t ∧ Only [portPart p, .out] (woken s p 3) t ∧
        (∀ n, n ≠ ring → getRing t p fn n = getRing s p fn n) ∧
        (flag v 2 = true ∧ fld v 16 8 + 1 ≤ (getRing s p fn ring).unsig → Signalled (woken s p 3) t p fn ring) ∧
        (¬(flag v 2 = true ∧ fld v 16 8 + 1 ≤ (getRing s p fn ring).unsig) → t.out = s.out) ∧
        getRing t p fn ring = { getRing s p fn ring with
          en := flag v 0, sizeLog2 := fld v 8 5, ien := flag v 2, mirror := flag v 3, icnt := fld v 16 8, itime := fld v 24 8,
          unsig := if flag v 2 = true ∧ ¬(fld v 16 8 + 1 ≤ (getRing s p fn ring).unsig) then (getRing s p fn ring).unsig else 0 })

/-- R63: a write of RNG_HEADn sets the head, and the free space with it, and does nothing else; it is ignored while EN is 0; a value
past the entries posted is the undefined case. -/
def Obligations.RingHeadWrites : Prop :=
  ∀ (s : State) (p : Port) (fn ring : Nat) (v : Word), Writable s p fn →
    ((getRing s p fn ring).en = false → exec (.ringHeadWrite p fn ring v) s = .next (woken s p 3)) ∧
    ((getRing s p fn ring).en = true →
      ((getRing s p fn ring).posted + p32 - v.toNat) % p32 ≤ 2 ^ (getRing s p fn ring).sizeLog2 →
      ∃ t, exec (.ringHeadWrite p fn ring v) s = .next t ∧ Only [portPart p] (woken s p 3) t ∧
        (∀ n, n ≠ ring → getRing t p fn n = getRing s p fn n) ∧
        getRing t p fn ring = { getRing s p fn ring with head := v.toNat } ∧
        ringFree (getRing t p fn ring) =
          2 ^ (getRing s p fn ring).sizeLog2 - ((getRing s p fn ring).posted + p32 - v.toNat) % p32) ∧
    ((getRing s p fn ring).en = true →
      2 ^ (getRing s p fn ring).sizeLog2 < ((getRing s p fn ring).posted + p32 - v.toNat) % p32 →
      exec (.ringHeadWrite p fn ring v) s = .fault (.headPastPosted p fn ring))

/-- The completion ring's interrupt after ITIME µs (R66) and the sending of a pending message (R38): the message is sent, or kept in
the PBA while it is held. -/
def Obligations.RingInterrupts : Prop :=
  ∀ (s : State) (p : Port) (fn v : Nat),
    ((getRing s p fn v).ien = true → 0 < (getRing s p fn v).itime → 0 < (getRing s p fn v).unsig →
      (getRing s p fn v).firstUnsigNs + (getRing s p fn v).itime * 1000 ≤ s.nowNs →
      ∃ t, exec (.ringInterruptTimer p fn v) s = .next t ∧ Only [portPart p, .out] s t ∧
        getRing t p fn v = { getRing s p fn v with unsig := 0 } ∧
        Signalled s t p fn v) ∧
    ((Tab.get {} (getFn s p fn).vecs v).pend = true → ¬Held s p fn v → (getPort s p).linkUp = true → s.ckm.stopped = false →
      ∃ t, exec (.msixPendingSend p fn v) s = .next t ∧ Only [portPart p, .out] s t ∧ t.out = s.out ++ [.msix p fn v] ∧
        (Tab.get {} (getFn t p fn).vecs v).pend = false ∧
        (∀ n, n ≠ v → Tab.get {} (getFn t p fn).vecs n = Tab.get {} (getFn s p fn).vecs n))

/-- A completion that is due is written to its ring (R62): the entry with ordinal P goes to index P mod size with the phase of its
turn, carries the status, tag, RESULT, acceptance number and redirection of Table 3.3, P rises by one, and the command is over. -/
def Obligations.CompletionIsPosted : Prop :=
  ∀ (s : State) (p : Port) (fn ring : Nat) (c : Cmd),
    (getRing s p fn ring).en = true → 0 < ringFree (getRing s p fn ring) → canWrite s p fn = true → s.adm.postStop = false →
    nextFor s p fn ring = some c →
    ∃ t w, exec (.completionPost p fn ring) s = .next t ∧
      Only [portPart p, .out, .cmds, .genCtr, .hlt, .postNs] s t ∧
      .entry p fn ring ((getRing s p fn ring).posted % 2 ^ (getRing s p fn ring).sizeLog2)
        (ringBase (getRing s p fn ring) + (getRing s p fn ring).posted % 2 ^ (getRing s p fn ring).sizeLog2 * 32) w ∈ t.out ∧
      pktD w 0 = c.status % 65536 * 65536 + pTag c.pkt ∧ pktQ w 1 = c.result % 2 ^ 64 ∧ pktD w 4 = c.seq % p32 ∧
      bit (pktD w 5) 17 = c.redirected ∧ bit (pktD w 7) 0 =
        decide ((getRing s p fn ring).posted / 2 ^ (getRing s p fn ring).sizeLog2 % 2 = 0) ∧
      (getRing t p fn ring).posted = (getRing s p fn ring).posted + 1 ∧
      (∀ x ∈ t.cmds, ¬(x.tenant = c.tenant ∧ x.seq = c.seq)) ∧
      t.hlt = { s.hlt with tel := bump s.hlt.tel (if p = .a then 4 else 5) 1 }

/-- The CAS_TAKEN mirror (R56): after eight unmirrored captures, or 1 µs after the earliest, CAS_TAKEN and CAS_STATUS are written
behind the lowest-numbered enabled mirror ring, and no capture is left unmirrored. -/
def Obligations.MirrorIsWritten : Prop :=
  ∀ (s : State) (p : Port) (fn : Nat) (r : Ring),
    canWrite s p fn = true → 0 < (getCas s p fn).unmirrored →
    8 ≤ (getCas s p fn).unmirrored ∨ (getCas s p fn).firstUnmirroredNs + 1000 ≤ s.nowNs →
    mirrorRing (getCas s p fn) = some r →
    ∃ t, exec (.mirrorWrite p fn) s = .next t ∧ Only [portPart p, .out] s t ∧
      t.out = s.out ++ [.mirror p fn (ringBase r + 2 ^ r.sizeLog2 * 32) ((getCas s p fn).taken % p32) (casStatus s p fn)] ∧
      getCas t p fn = { getCas s p fn with unmirrored := 0, mirrored := (getCas s p fn).taken }

/-- A write in the TRS range that commits nothing (R49, R50), with byte enables that leave out byte 0 or byte 1 of DWORD 15, or with a DWORD 15
[7:0] that is not 0xC3, stores its enabled bytes and no others. Two writes are the undefined case of R54: one into a TRS that holds an
uncaptured valid commit, and a commit of a TRS before the other bytes of its packet have been written. -/
def Obligations.TrsWritesStore : Prop :=
  ∀ (s : State) (p : Port) (fn off : Nat) (bytes : List (Option Byte)) (i : Instr), Reaches s p fn → off + bytes.length ≤ 1024 →
    i = .trsWrite p fn off bytes ∨ i = .trsCommit p fn off bytes →
    ((∀ k ∈ (getCas s p fn).valid, (k = (getCas s p fn).taken % 16 → casOpen s fn = false) ∧ ∀ a, a / 64 = k → written off bytes a = none) →
      (∀ k, written off bytes (k * 64 + 60) = none ∨ written off bytes (k * 64 + 61) = none ∨
        written off bytes (k * 64 + 60) ≠ some 0xC3#8) →
      ∃ t, exec i s = .next t ∧ Only [portPart p] (woken s p 1) t ∧
        (∀ a, Tab.get 0#8 (getCas t p fn).trs a = (written off bytes a).getD (Tab.get 0#8 (getCas s p fn).trs a)) ∧
        (∀ a, Tab.get false (getCas t p fn).seen a = ((written off bytes a).isSome || Tab.get false (getCas s p fn).seen a)) ∧
        getCas t p fn = { getCas s p fn with trs := (getCas t p fn).trs, seen := (getCas t p fn).seen }) ∧
    (∀ k, (∀ a, (written off bytes a).isSome = true → a / 64 = k) →
      (k ∈ (getCas s p fn).valid → (∃ a, (written off bytes a).isSome = true) → exec i s = .fault (.trsOverwrite p fn k)) ∧
      (k ∉ (getCas s p fn).valid → written off bytes (k * 64 + 60) = some 0xC3#8 → (written off bytes (k * 64 + 61)).isSome = true →
        (∃ a, a < 60 ∧ written off bytes (k * 64 + a) = none ∧ Tab.get false (getCas s p fn).seen (k * 64 + a) = false) →
        exec i s = .fault (.commitEarly p fn k)))

/-- R53: a whole packet committed to the TRS whose turn it is, with the sequence it expects, is captured in one step: the packet is
copied, DWORD 15 is cleared, CAS_TAKEN rises by 1, the command gets the tenant's next acceptance sequence number and its tag is
outstanding; the other fifteen DWORDs keep their values. An ABORT passes its commit point here (R70). -/
def Obligations.CommitIsCaptured : Prop :=
  ∀ (s : State) (p : Port) (fn : Nat) (w : List Word) (x : Tenant) (i : Instr), Reaches s p fn → s.boot.ready = true →
    s.adm.casStopped = false → fn ≠ 0 → getTen s (fn - 1) = some x → (getCas s p fn).valid = [] → w.length = 16 →
    pktD w 15 % 256 = 0xC3 → pktD w 15 / 256 % 256 = (getCas s p fn).taken % 256 → tagBusy s (fn - 1) (pTag w) = false →
    i = .trsCommit p fn ((getCas s p fn).taken % 16 * 64) (packetBytes w) ∨ i = .trsWrite p fn ((getCas s p fn).taken % 16 * 64) (packetBytes w) →
    ∃ t c, exec i s = .next t ∧
      Only [portPart p, .cmds, .tenants] (woken s p 1) t ∧
      t.cmds = s.cmds ++ [c] ∧ c.tenant = fn - 1 ∧ c.seq = x.nextAccept ∧ c.pkt = w ∧ c.ph = .captured ∧ c.port = p ∧
      c.committed = decide (pOp w = 0x09) ∧
      getTen t (fn - 1) = some { x with nextAccept := x.nextAccept + 1 } ∧
      tagBusy t (fn - 1) (pTag w) = true ∧
      (getCas t p fn).taken = (getCas s p fn).taken + 1 ∧ (getCas t p fn).valid = [] ∧
      (getCas t p fn).rings = (getCas s p fn).rings ∧
      (∀ a, Tab.get 0#8 (getCas t p fn).trs a =
        if a / 4 = (getCas s p fn).taken % 16 * 16 + 15 then 0#8
        else (written ((getCas s p fn).taken % 16 * 64) (packetBytes w) a).getD (Tab.get 0#8 (getCas s p fn).trs a))

/-- R52: a commit to TRS k whose SEQ differs from e(k) is not captured: DWORD 15 of TRS k is cleared, SEQ_ERR is set and SEQERR_TRS is
k; CAS_TAKEN does not change and no completion is posted. R55: with READY 1 a commit for a tenant that does not exist is discarded, its
DWORD 15 cleared; before READY a commit with the expected sequence is held, and waits its turn. -/
def Obligations.WrongSequenceIsRefused : Prop :=
  ∀ (s : State) (p : Port) (fn k : Nat) (w : List Word) (i : Instr), Reaches s p fn →
    (getCas s p fn).valid = [] → w.length = 16 → k < 16 → pktD w 15 % 256 = 0xC3 →
    i = .trsCommit p fn (k * 64) (packetBytes w) ∨ i = .trsWrite p fn (k * 64) (packetBytes w) →
    s.boot.ready = false ∨ hasTenant s fn = false ∨ pktD w 15 / 256 % 256 ≠ expectSeq (getCas s p fn).taken k →
    ∃ t, exec i s = .next t ∧
      (∀ a, Tab.get false (getCas t p fn).seen a = ((written (k * 64) (packetBytes w) a).isSome || Tab.get false (getCas s p fn).seen a)) ∧
      (s.boot.ready = true → hasTenant s fn = false →
        Only [portPart p] (woken s p 1) t ∧
        getCas t p fn = { getCas s p fn with trs := (getCas t p fn).trs, seen := (getCas t p fn).seen } ∧
        (∀ a, Tab.get 0#8 (getCas t p fn).trs a =
          if a / 4 = k * 16 + 15 then 0#8
          else (written (k * 64) (packetBytes w) a).getD (Tab.get 0#8 (getCas s p fn).trs a))) ∧
      (hasTenant s fn = true ∨ s.boot.ready = false → pktD w 15 / 256 % 256 ≠ expectSeq (getCas s p fn).taken k →
        Only [portPart p] (woken s p 1) t ∧
        getCas t p fn = { getCas s p fn with
          seqErr := true, seqErrTrs := k, trs := (getCas t p fn).trs, seen := (getCas t p fn).seen } ∧
        (∀ a, Tab.get 0#8 (getCas t p fn).trs a =
          if a / 4 = k * 16 + 15 then 0#8
          else (written (k * 64) (packetBytes w) a).getD (Tab.get 0#8 (getCas s p fn).trs a))) ∧
      (s.boot.ready = false → pktD w 15 / 256 % 256 = expectSeq (getCas s p fn).taken k →
        Only [portPart p, .heldCommits] (woken s p 1) t ∧ t.heldCommits = s.heldCommits ++ [(p, fn, k)] ∧
        getCas t p fn = { getCas s p fn with valid := [k], trs := (getCas t p fn).trs, seen := (getCas t p fn).seen } ∧
        (∀ a, Tab.get 0#8 (getCas t p fn).trs a = (written (k * 64) (packetBytes w) a).getD (Tab.get 0#8 (getCas s p fn).trs a)))

/-- A command of any opcode that passes its checks and is granted a context is queued (R105, R141, R143): nothing but its own record,
the tenant's counters and the note of the last context taken (R142) changes. -/
def Obligations.CommandsAreQueued : Prop :=
  ∀ (s : State) (t seq : Nat) (rival : Bool) (c : Cmd) (i : Instr), AtDecode s t seq c → decodeRow (cOp c) t seq rival = some i →
    (getRing s c.port c.fn (pRing c.pkt)).en = true → decodeCheck (tenD s t) c.pkt = none → stateCheck s (cOp c) = none →
    contextStep (admCnt s t (cCls c) 0 1) t (cCls c) c.port rival = none →
    ∃ u, exec i s = .next u ∧ Only [.cmds, .tenants, .adm] s u ∧
      getCmd u t seq = some { c with granted := true, grantNs := s.nowNs, ph := .queued, sawThrottle := decide (s.adm.shutter < 64) } ∧
      u.adm = { s.adm with lastCtx := u.adm.lastCtx } ∧
      ∀ t' seq', ¬(t' = t ∧ seq' = seq) → getCmd u t' seq' = getCmd s t' seq'

/-- A command that fails a check of stage 1 or 2 completes with that check's status and has no effect (R85 to R88, R105); an opcode
outside 0x01 to 0x0D completes with INVALID_OPCODE (R86), its RESULT open (log 4). -/
def Obligations.FailedChecksComplete : Prop :=
  ∀ (s : State) (t seq : Nat) (c : Cmd), AtDecode s t seq c → (getRing s c.port c.fn (pRing c.pkt)).en = true →
    (∀ (st : Nat) (rival : Bool) (i : Instr), decodeRow (cOp c) t seq rival = some i →
      decodeCheck (tenD s t) c.pkt = some st ∨ decodeCheck (tenD s t) c.pkt = none ∧ stateCheck s (cOp c) = some st →
      ∃ u, exec i s = .next u ∧ Only (endParts c) s u ∧ Completes u t seq st (noEffectResult (cOp c))) ∧
    (cOp c = 0 ∨ 0x0D < cOp c →
      ∃ u, exec (.invalidOpcode t seq) s = .next u ∧ Only [.cmds, .bpm, .genCtr, .freeCtr] s u ∧
        Completes u t seq 0x1001 (Config.abortResult s.freeCtr).toNat)

/-- ABORT finds its target by tag among the commands accepted before it (R72, R73): none is outstanding; the target has passed its commit point or has its completion; or it
is caught, ends ABORTED with no effect, and the ABORT ends ABORT_CAUGHT. -/
def Obligations.AbortResolves : Prop :=
  ∀ (s : State) (t seq : Nat) (c : Cmd), getCmd s t seq = some c → c.ph = .captured → cOp c = 0x09 → flushing s = false →
    (getRing s c.port c.fn (pRing c.pkt)).en = true → decodeCheck (tenD s t) c.pkt = none →
    ((∀ x ∈ s.cmds, x.tenant = t → x.seq < seq → pTag x.pkt ≠ bits (pD10 c.pkt) 0 16) →
      ∃ u, exec (.abort t seq) s = .next u ∧ Only [.cmds, .bpm, .genCtr] s u ∧ Completes u t seq 0x4004 0xFFFFFFFFFFFFFFFF) ∧
    (∀ x, s.cmds.find? (fun x => x.tenant == t && pTag x.pkt == bits (pD10 c.pkt) 0 16 && decide (x.seq < seq)) = some x →
      getCmd s t x.seq = some x →
      ((x.committed = true ∨ x.ph = .gen) → ∃ u, exec (.abort t seq) s = .next u ∧ Only [.cmds, .bpm, .genCtr] s u ∧
        Completes u t seq 0x4003 (x.seq % p32) ∧ getCmd u t x.seq = some x) ∧
      (x.committed = false → x.ph = .queued → ∃ u, exec (.abort t seq) s = .next u ∧
        Only (.tenants :: endParts x) s u ∧ Completes u t seq 0x4002 (x.seq % p32) ∧
        Completes u t x.seq 0x4001 (noEffectResult (cOp x))))

/-- A command whose wait, in its queue or for a ready block (R203), has reached a bound of R146 is refused with no effect, with its wait in
QUEUE_US; it keeps its context until its completion is posted (R141). The fetch of an extent list and the failures of DMA reads (R29, R83). A
list, little-endian (R409), that breaks a rule of R83 ends its command with INVALID_FIELD, a failed fetch with DMA_FAULT and the error in its
function's AER, each with no effect; a list that keeps them all takes its command to the zone sequencer. A failed read of the data of a
writer past its commit point ends it with DMA_FAULT and its first LBA. -/
def Obligations.WaitersEnd : Prop :=
  (∀ (s : State) (t seq : Nat) (c : Cmd), getCmd s t seq = some c → c.ph = .queued ∨ c.ph = .blockWait → s.adm.stop = false →
      boundOf s c ≠ .none →
      ∃ u st, exec (.refusalAfterWaiting t seq) s = .next u ∧ Only (.tenants :: endParts c) s u ∧
        Completes u t seq st (noEffectResult (cOp c)) ∧ (st = 0x3003 ∨ st = 0x3004 ∨ st = 0x3005) ∧
        (heldBy s c ≠ .none → st = 0x3004) ∧
        (getCmd u t seq).map Cmd.queueUs = some (waitUs s c) ∧ (getCmd u t seq).map Cmd.granted = some c.granted) ∧
  (∀ (s : State) (t seq : Nat) (c : Cmd), getCmd s t seq = some c →
      (c.ph = .listWait → ∀ bytes, dmaRuns s c = true → listOk c.pkt (parseExtents bytes (pXcount c.pkt)) = false →
        ∃ u, exec (.extentListFetch t seq bytes) s = .next u ∧
          Only (endParts c) s u ∧ Completes u t seq 0x1002 (noEffectResult (cOp c))) ∧
      (c.ph = .listWait → ∀ bytes, dmaRuns s c = true → listOk c.pkt (parseExtents bytes (pXcount c.pkt)) = true →
        exec (.extentListFetch t seq bytes) s =
          .next (zoneStage (modCmd s t seq fun x => { x with exts := parseExtents bytes (pXcount c.pkt), ph := .exec }) t seq)) ∧
      (∀ i err b reached, (i = .dmaReadFail t seq ⟨err, reached⟩ ∧ b = aerBit err) ∨
          (i = .completionTimeout t seq reached ∧ b = 14 ∧ c.relNs + cplTimeoutNs (getFn s c.port c.fn).cplTimeout ≤ s.nowNs) →
        (c.ph = .listWait → ∃ u, exec i s = .next u ∧ Only (portPart c.port :: endParts c) s u ∧
          Completes u t seq 0x1005 (noEffectResult (cOp c)) ∧ (getFn u c.port c.fn).aer = setBit (getFn s c.port c.fn).aer b) ∧
        (c.ph = .exec → c.committed = true → c.acked = false → cOp c = 0x02 ∨ cOp c = 0x03 →
          ∃ u, exec i s = .next u ∧ Completes u t seq 0x1005 c.lba0)))

/-- The head of a lane goes when nothing holds it and no head of its tenant-class with a lower acceptance number could go first (R143):
it takes its tokens (R144). One that needs a key that is not loaded ends there with KEY_NOT_LOADED (R105). One with an extent list has
it fetched (R83). A head that is held stays queued, with the gate that holds it. -/
def Obligations.HeadsAreReleased : Prop :=
  ∀ (s : State) (t : Nat) (cls : Cls) (w tie : Bool) (h : Cmd), laneHead s t cls w = some h → getCmd s t h.seq = some h →
    s.adm.stop = false → (∀ o, laneHead s t cls (!w) = some o → o.seq < h.seq → canRelease s o = false) →
    (∃ x, getTen s t = some x) →
    (canRelease s h = true → needsKey (cOp h) = true → keyReady s t = false →
      ∃ u, exec (.admissionRelease t cls ⟨w, tie⟩) s = .next u ∧ Completes u t h.seq 0x6002 (noEffectResult (cOp h)) ∧
        (getCls u t cls).bktB = takeTok (getCls s t cls).bktB h.credB (costBytes s h * 64000) ∧
        (getCls u t cls).bktO = takeTok (getCls s t cls).bktO h.credO 64000000000) ∧
    (canRelease s h = true → needsKey (cOp h) = false ∨ keyReady s t = true → pXL h.pkt = true →
      ∃ u d, exec (.admissionRelease t cls ⟨w, tie⟩) s = .next u ∧ getCmd u t h.seq = some d ∧ d.ph = .listWait ∧ d.released = true ∧
        d.relNs = s.nowNs ∧ d.queueUs = waitUs s h ∧ (h.blockNs = none → d.queueUs = (s.nowNs - h.grantNs) / 1000) ∧
        (getCls u t cls).bktB = takeTok (getCls s t cls).bktB h.credB (costBytes s h * 64000) ∧
        (getCls u t cls).bktO = takeTok (getCls s t cls).bktO h.credO 64000000000) ∧
    (canRelease s h = false →
      ∃ u d, exec (.admissionRelease t cls ⟨w, tie⟩) s = .next u ∧ getCmd u t h.seq = some d ∧ d.ph = .queued ∧ d.gate = gateOf s h ∧
        (∀ t' seq', ¬(t' = t ∧ seq' = h.seq) → getCmd u t' seq' = getCmd s t' seq'))

/-- What a released zone command does to its zone (R98, R104), where no ZONE_RESET waits on it, its table entry is not lost and no live
activation has paused the processors: ZONE_OPEN of an EMPTY zone opens it
with its hint, ZONE_CLOSE at write pointer 0 empties it, ZONE_FINISH fills it, HINT changes its hint; each with its RESULT. A
ZONE_RESET that waited applies once no transfer into its zone is left (R99, R100, R121): the zone is EMPTY at write pointer 0 in its
next generation at key epoch 0, and the command's RESULT is that generation. -/
def Obligations.ZonesChange : Prop :=
  (∀ (s : State) (t : Nat) (cls : Cls) (tie : Bool) (h : Cmd) (x : Tenant), laneHead s t cls false = some h → getCmd s t h.seq = some h →
      s.adm.stop = false → laneHead s t cls true = none → canRelease s h = true → getTen s t = some x → pXL h.pkt = false →
      x.nc ≤ pZone h.pkt → (getZone s t (pZone h.pkt)).resetWait = none →
      (getZone s t (pZone h.pkt)).tabLost = false → s.rst.actState = 0 → pHint h.pkt ≠ 3 →
      (cOp h = 0x04 → (getZone s t (pZone h.pkt)).st = .empty → openCount s t < x.openMax → openAll s < 65536 →
        ∃ u, exec (.admissionRelease t cls ⟨false, tie⟩) s = .next u ∧ Completes u t h.seq 0 0 ∧
          (getZone u t (pZone h.pkt)).st = .opened ∧ (getZone u t (pZone h.pkt)).hint = pHint h.pkt ∧
          (getZone u t (pZone h.pkt)).wp = (getZone s t (pZone h.pkt)).wp) ∧
      (cOp h = 0x05 → (getZone s t (pZone h.pkt)).st = .opened → (getZone s t (pZone h.pkt)).wp = 0 →
        ∃ u, exec (.admissionRelease t cls ⟨false, tie⟩) s = .next u ∧ Completes u t h.seq 0 0 ∧
          (getZone u t (pZone h.pkt)).st = .empty ∧ (getZone u t (pZone h.pkt)).members = []) ∧
      (cOp h = 0x06 → (getZone s t (pZone h.pkt)).st = .opened →
        ∃ u d, exec (.admissionRelease t cls ⟨false, tie⟩) s = .next u ∧ getCmd u t h.seq = some d ∧ d.journal = true ∧
          d.result = zoneCap x (pZone h.pkt) (getZone s t (pZone h.pkt)) ∧
          getZone u t (pZone h.pkt) = { getZone s t (pZone h.pkt) with
            st := .full, wp := zoneCap x (pZone h.pkt) (getZone s t (pZone h.pkt)), finished := true,
            finWp := (getZone s t (pZone h.pkt)).wp, finJno := s.plp.jSeq, resv := 0 }) ∧
      (cOp h = 0x0D → (getZone s t (pZone h.pkt)).st = .opened →
        ∃ u, exec (.admissionRelease t cls ⟨false, tie⟩) s = .next u ∧ Completes u t h.seq 0 0 ∧
          getZone u t (pZone h.pkt) = { getZone s t (pZone h.pkt) with hint := pHint h.pkt, resv := 0 })) ∧
  (∀ (s : State) (t seq : Nat) (c : Cmd), getCmd s t seq = some c → c.ph = .resetWait → transfersInto s t (pZone c.pkt) = false →
      s.rst.actState = 0 → (∀ x ∈ s.cmds, x.ph ≠ .heldReset) →
      ∃ u d, exec (.zoneResetApply t seq) s = .next u ∧
        getZone u t (pZone c.pkt) = { getZone s t (pZone c.pkt) with
          foldNext := 0, st := .empty, wp := 0, gen := ((getZone s t (pZone c.pkt)).gen + 1) % p32, epoch := 0, invoc := 0, resv := 0,
          roReason := 0, capDrop := none, finished := false, finWp := 0, members := [], resetWait := none } ∧
        getCmd u t seq = some d ∧ d.journal = true ∧ d.ph = .exec ∧ d.result = ((getZone s t (pZone c.pkt)).gen + 1) % p32 ∧
        u.plp.jRecs ≥ s.plp.jRecs + 1)

/-- A writer whose blocks have all been transferred, or for a COPY read and re-encrypted, is acknowledged (R95): without FUA it completes with SUCCESS and its first LBA. A
held reader goes on when no earlier writer it might have to return is unresolved (R123): its zone's checks are made again, and it runs.
Where none of its blocks has ever been written a READ ends with SUCCESS (R122). -/
def Obligations.TransfersEnd : Prop :=
  (∀ (s : State) (t seq : Nat) (c : Cmd), getCmd s t seq = some c → c.ph = .exec → c.committed = true → c.acked = false →
      (cOp c = 0x02 ∨ cOp c = 0x03) ∧ dmaRuns s c = true ∨ cOp c = 0x0B ∧ c.todo = [] ∧ c.failLba = none →
      (∀ v ∈ c.vers, (getVer s v).hbm = true ∨ keyGone s v = false) → pFUA c.pkt = false →
      ∃ u, exec (.writeAcknowledgement t seq) s = .next u ∧ Completes u t seq 0 c.lba0) ∧
  (∀ (s : State) (t seq : Nat) (c : Cmd), getCmd s t seq = some c → c.ph = .heldReader → readerHeld s c = false →
      (s.rst.actState = 0 ∨ cOp c = 0x01) →
      exec (.readerResume t seq) s = .next (zoneStage s t seq) ∧
      (cOp c = 0x01 → c.todo = [] → c.keyWait = [] → c.failLba = none → (getZone s t (pZone c.pkt)).tabLost = false → (getZone s t (pZone c.pkt)).st ≠ .offline →
        (getZone s t (pZone c.pkt)).resetWait = none → (∀ lba, visibleTo s t (pZone c.pkt) lba seq c.skip = none) →
        Completes (zoneStage s t seq) t seq 0 0))

/-- Writes of configuration space that remove no function (R32, R44, Table 2.8): Bus Master Enable of any function, the power state of
PF0, VF Enable to 1 and NumVFs raised each change that field alone; a NumVFs above 1,024 is ignored. With Bus Master Enable or D0 back, the data writes that waited leave. -/
def Obligations.ConfigurationWrites : Prop :=
  ∀ (s : State) (p : Port) (fn v : Nat) (r : List Reached),
    (CfgReaches s p fn →
      exec (.busMasterEnableSet p fn) s = .next (settleOut (modFn (woken s p 3) p fn fun f => { f with bme := true })) ∧
      exec (.busMasterEnableClear p fn) s = .next (modFn (woken s p 3) p fn fun f => { f with bme := false })) ∧
    (CfgReaches s p 0 →
      exec (.pf0D3hot p) s = .next (modPort (woken s p 3) p fun q => { q with d3hot := true }) ∧
      exec (.pf0D3hotExit p) s = .next (settleOut (modPort (woken s p 3) p fun q => { q with d3hot := false })) ∧
      exec (.vfEnableWrite p true r) s = .next (modPort (woken s p 3) p fun q => { q with vfEn := true }) ∧
      (1024 < v → exec (.numvfsWrite p v r) s = .next (woken s p 3)) ∧
      ((getPort s p).vfEn = false ∨ (getPort s p).numVfs ≤ v → v ≤ 1024 →
        exec (.numvfsWrite p v r) s = .next (modPort (woken s p 3) p fun q => { q with numVfs := v })))

/-- A function that is reset or removed (R45, Table 2.8) is in its reset state afterwards, and no command captured through it is left
that is not redirected. -/
def Obligations.RemovedFunctionsAreReset : Prop :=
  ∀ (s : State) (p : Port) (f v : Nat) (r : List Reached) (i : Instr), f ≠ 0 → CfgReaches s p f → (getPort s p).vfEn = true →
    i = .flr p f r ∨ i = .pf0Flr p r ∨ i = .vfEnableWrite p false r ∨ (i = .numvfsWrite p v r ∧ v < f ∧ v ≤ 1024) →
    ∃ u, exec i s = .next u ∧ getFn u p f = {} ∧ (∀ c ∈ u.cmds, c.port = p → c.fn = f → c.redirected = true) ∧
      (i = .pf0Flr p r → getFn u p 0 = {} ∧ (getPort u p).vfEn = false ∧ (getPort u p).numVfs = 0) ∧
      (i = .vfEnableWrite p false r → (getPort u p).vfEn = false) ∧
      (i = .numvfsWrite p v r → (getPort u p).numVfs = v)

/-- A port is lost and comes back (R40, R43, R46). The loss takes the link down, resets every function of the port, sets its LOST bit
and leaves no command of the port that is not redirected. The link comes up, in a mode of Table 2.1, when the port's logic runs, and sets UP. -/
def Obligations.PortsAreLostAndReturn : Prop :=
  ∀ (s : State) (p : Port) (cause : LossCause) (r : List Reached) (sp w : Nat) (fl : Bool),
    ((getPort s p).linkUp = true →
      ∃ u, exec (.portLost p cause r) s = .next u ∧ (getPort u p).linkUp = false ∧ (∀ f, getFn u p f = {}) ∧
        (getPort u p).vfEn = false ∧ bit u.portEvt p.num = true ∧ (∀ c ∈ u.cmds, c.port = p → c.redirected = true)) ∧
    (portLogic s p = true → (getPort s p).linkUp = false → (getPort s p).lossDue = false → linkModeOk sp w fl = true →
      ∃ u, exec (.portUp p sp w fl) s = .next u ∧ (getPort u p).linkUp = true ∧ (getPort u p).speed = sp ∧
        (getPort u p).width = w ∧ (getPort u p).flit = fl ∧ bit u.portEvt (2 + p.num) = true) ∧
    (∃ u, exec (.perstDeassert p) s = .next u ∧ (getPort u p).perst = false ∧ bit u.ckm.gEn (5 + p.num) = true ∧
      bit u.ckm.gHostOff (5 + p.num) = false ∧ Only [portPart p, .ckm, .rst] s u) ∧
    ((getPort s p).linkUp = true →
      exec (.aspmL1Entry p) s = .next (modPort s p fun q => { q with inL1 := true }))

/-- Internal faults (R8, Table 1.10): a die-to-die link takes a spare lane, or narrows with both spares in use; the work of a hung core, of the
hub's 16 or a quadrant's 8 (R7), goes to another core. Each is recorded, and nothing else changes. That a further fault of a narrowed link
changes nothing is the model's choice (log 127). A memory request that its function does not answer (R37): Unsupported
Request, and nothing else. -/
def Obligations.FaultsAreAnswered : Prop :=
  (∀ (s : State) (q lane die core items : Nat),
      (q < 4 → Tab.get 0 s.media.links q < 2 → Recordable s (0xA000 + q) 0xA001 →
        ∃ u, exec (.d2dLaneFault q lane) s = .next u ∧ Tab.get 0 u.media.links q = Tab.get 0 s.media.links q + 1 ∧
          Only [.pa, .pb, .out, .evr, .media] s u ∧ Recorded s u 2 (0xA000 + q) 0xA001 (leBytes 1 lane ++ leBytes 1 (1 - Tab.get 0 s.media.links q))) ∧
      (q < 4 → Tab.get 0 s.media.links q = 2 → Recordable s (0xA000 + q) 0xA002 →
        ∃ u, exec (.d2dLaneFault q lane) s = .next u ∧ Tab.get 0 u.media.links q = 3 ∧
          Only [.pa, .pb, .out, .evr, .media] s u ∧ Recorded s u 3 (0xA000 + q) 0xA002 (leBytes 1 lane)) ∧
      (q < 4 → 3 ≤ Tab.get 0 s.media.links q → exec (.d2dLaneFault q lane) s = .next s) ∧
      (core < (if die = 0 then 16 else if die < 5 then 8 else 0) → Recordable s (0xF000 + die * 256 + core) 0xF001 →
        ∃ u, exec (.coreHang die core items) s = .next u ∧ Only [.pa, .pb, .out, .evr] s u ∧
          Recorded s u 2 (0xF000 + die * 256 + core) 0xF001 (leBytes 4 items))) ∧
  (∀ (s : State) (p : Port) (fn off : Nat) (rd : Bool), (getPort s p).linkUp = true → s.ckm.stopped = false →
      ((getPort s p).d3hot = true ∨ fnExists s p fn = false ∨ (getFn s p fn).mse = false ∨
        (if fn = 0 then 16777216 else 65536) ≤ off) →
      exec (.unsupportedRequest p fn off rd) s = .next { s with out := s.out ++ [.unsupported p fn] })

/-- A free LUN starts its next operation (R170): with no program or erase waiting, the read at the head of its queue; with no read
waiting, the program at the head of its queue, if its block is ready for it (R207, R265) and it can have its tokens (R176); with neither, an
erase that is ready. The operation leaves its queue and holds its power tokens. A read takes the offsets of its threshold table entry as it
stands (R184, R185), with LUN Set Features where they differ from those last loaded (R167). -/
def Obligations.ArrayOperationsStart : Prop :=
  ∀ (s : State) (l : Nat), lunRuns s l = true → (getLun s l).op = none → (getLun s l).sub = none → (getLun s l).ovf = [] →
    (∀ r t seq, (getLun s l).rq = [r] → (getLun s l).pq = [] → (getLun s l).eq = [] → r.why = .cmd t seq →
      ∀ r', r' = { r with key := some (tableKey s r.blk r.page),
                          offs := tableEntry s (tableKey s r.blk r.page) (getBlk s r.blk).oneBit } →
      ∃ u, exec (.arrayOpStart l) s = .next u ∧
        (getLun u l).op = some { k := .rd r', runNs := s.nowNs, tokens := 0, features := readOffs r' != (getLun s l).loaded } ∧
        (getLun u l).rq = [] ∧ (getLun u l).loaded = readOffs r') ∧
    (∀ p, (getLun s l).rq = [] → (getLun s l).pq = [p] → (getLun s l).eq = [] → pgReady s p.blk = true → powerOk s l (.pg p) = true →
      ∃ u, exec (.arrayOpStart l) s = .next u ∧
        (getLun u l).op = some { k := .pg p, runNs := s.nowNs, tokens := if oneBitPg p then 2 else 3 } ∧ (getLun u l).pq = []) ∧
    (∀ e, (getLun s l).rq = [] → (getLun s l).pq = [] → (getLun s l).eq = [e] → eraseReady s e = true →
      powerOk s l (.er e) = true →
      ∃ u, exec (.arrayOpStart l) s = .next u ∧
        (getLun u l).op = some { k := .er e, runNs := s.nowNs, tokens := 4 } ∧ (getLun u l).eq = [])

/-- A tenant read suspends a program or erase that has run for its minimum (R172): Suspend is issued, the LUN serves the reads queued
when it is ready, and Resume follows the last of them. Each changes the LUN and its channel's counters only. -/
def Obligations.SuspensionServesReads : Prop :=
  ∀ (s : State) (l : Nat) (o : Op), (getLun s l).op = some o →
    (∀ r rest, (getLun s l).rq = r :: rest → lunRuns s l = true → tenantRd r = true → o.susp = .none →
      ((∃ p, o.k = .pg p) ∧ o.runNs + 4000 ≤ s.nowNs ∨ (∃ e, o.k = .er e) ∧ o.runNs + 6000 ≤ s.nowNs) →
      ∃ u, exec (.programSuspend l) s = .next u ∧ Only [.media] s u ∧
        getLun u l = { getLun s l with op := some { o with susp := .asked, askNs := s.nowNs }, rq := { r with susp := true } :: rest }) ∧
    (collects s l = true → o.susp = .asked →
      exec (.suspendReady l) s = .next (modLun s l fun u => { u with op := some { o with
        susp := .ready, serve := u.rq.map Rd.id, ran := o.ran + (s.nowNs - o.runNs) } })) ∧
    (lunRuns s l = true → o.susp = .ready → (getLun s l).sub = none → (∀ r ∈ (getLun s l).rq, r.id ∉ o.serve) →
      exec (.resume l) s = .next (modLun s l fun u => { u with op := some { o with
        susp := .none, serve := [], runNs := s.nowNs } }))

/-- A page read goes down the decode tiers (R188, Table 8.4): sectors that fail take the next step of the ladder, the first soft sense
read is followed by the second, and after it the sectors go to soft decode and the LUN is free. Each further read loads its offsets with
LUN Set Features (R167). Soft decode of a patrol read's sector
ends (R188, R190): one that decodes asks for its block's relocation (Table 8.7), one that fails where no parity group is known is
unrecovered. -/
def Obligations.DecodeTiersFollow : Prop :=
  (∀ (s : State) (l : Nat) (o : Op) (r : Rd) (q : SecReq) (ab : List Nat), collects s l = true → (getLun s l).op = some o → o.k = .rd r →
      (getLun s l).sub = none → (getLun s l).ovf = [] → r.why ≠ .calib → r.why ≠ .verify → r.why ≠ .check →
      (r.secs = [q] → r.tier < 8 ∨ (r.tier = 8 ∧ r.lr = false) →
        ∃ u, exec (.flashReadDone l [.failed] ab) s = .next u ∧
          (getLun u l).op = some { k := .rd { r with tier := r.tier + 1 }, runNs := s.nowNs, tokens := 0, features := true } ∧
          u.cmds = s.cmds ∧ u.vers = s.vers) ∧
      (r.tier = 9 → ∃ u, exec (.flashReadDone l [] ab) s = .next u ∧
          (getLun u l).op = some { k := .rd { r with tier := 10 }, runNs := s.nowNs, tokens := 0, features := true } ∧ u.cmds = s.cmds) ∧
      (r.tier = 10 → ∃ u, exec (.flashReadDone l [] ab) s = .next u ∧ (getLun u l).op = none ∧
          u.media.deeps = s.media.deeps ++ [(s.media.idCtr, { rd := r, secs := r.secs })] ∧ u.cmds = s.cmds)) ∧
  (∀ (s : State) (id : Nat) (d : Deep) (q : SecReq), alive s = true → s.rst.actState = 0 → getDeep s id = some d → d.rebuild = false → d.cipher = false →
      d.rd.why = .patrol → d.secs = [q] → lostSec s q = false → isPoison s q = false →
      exec (.softDecodeDone id [true] [false] []) s = .next (askReloc (mcnt (dropDeep s id) 2 1) d.rd.blk .retention) ∧
      (partners (dropDeep s id) d.rd.blk d.rd.page q = none →
        ∃ u, exec (.softDecodeDone id [false] [false] []) s = .next u ∧ u.hlt.unrec = true ∧ getDeep u id = none))

/-- The last sector that a READ waits for decodes at its first sense (R89, R188): its block's tag matches (R286), its plaintext goes to host memory
and the command completes with SUCCESS. -/
def Obligations.FlashReadReturnsData : Prop :=
  ∀ (s : State) (l : Nat) (o : Op) (r : Rd) (q : SecReq) (t seq n : Nat) (c : Cmd), collects s l = true →
    (getLun s l).op = some o → o.k = .rd r → (getLun s l).sub = none → (getLun s l).ovf = [] →
    r.why = .cmd t seq → r.tier = 0 → r.secs = [q] → q.ver ≠ 0 → isPoison s q = false → lostSec s q = false →
    keyGone s q.ver = false → tagOk s q.ver = true → canWrite s c.port c.fn = true →
    getCmd s t seq = some c → c.ph = .exec → c.redirected = false → c.keyWait = [] → cOp c = 0x01 → c.todo = [q.ver * 4 + q.sub] → q.sub < 4 → c.bad = [] → c.failLba = none →
    ∃ u, exec (.flashReadDone l [.decoded true false n] []) s = .next u ∧ Completes u t seq 0 0 ∧
      .data c.port c.fn t seq ((getVer s q.ver).lba - pLba c.pkt) (hostSegs s c ((getVer s q.ver).lba - pLba c.pkt))
        (getVer s q.ver).content (getFn s c.port c.fn).relaxed ∈ u.out ∧ (getLun u l).op = none

/-- A program ends (R168, R169): with pass status a coarse or fine pass moves its block's wordline on and a one-bit page becomes safe;
with fail status a zone's block is failed and counted. The LUN is left to the read that a suspension let pass, if one runs. -/
def Obligations.ProgramsEnd : Prop :=
  ∀ (s : State) (l : Nat) (o : Op) (p : Pg), collects s l = true → (getLun s l).op = some o → o.k = .pg p → o.susp ≠ .ready →
    ((∃ i m, p.kind = .coarse i m) →
      ∃ u, exec (.programDone l true) s = .next u ∧ Only [.media, .rst] s u ∧ (getLun u l).op = (getLun s l).sub ∧
        (getBlk u p.blk).coarse = max (getBlk s p.blk).coarse (p.page + 1) ∧ (getBlk u p.blk).erased = false ∧
        ∀ b, b ≠ p.blk → getBlk u b = getBlk s b) ∧
    ((∃ i m, p.kind = .fine i m) → memberAt s p.blk = none →
      ∃ u, exec (.programDone l true) s = .next u ∧ Only [.media, .rst, .hlt] s u ∧ (getLun u l).op = (getLun s l).sub ∧
        (getBlk u p.blk).fine = max (getBlk s p.blk).fine (p.page + 1)) ∧
    ((∃ e i, p.kind = .uc e i) →
      ∃ u, exec (.programDone l true) s = .next u ∧ (getLun u l).op = (getLun s l).sub ∧
        (getBlk u p.blk).pages = max (getBlk s p.blk).pages (p.page + 1) ∧ p.page ∈ (getBlk u p.blk).safe) ∧
    ((∃ i m, p.kind = .coarse i m ∨ p.kind = .fine i m) → (getBlk s p.blk).eraseIntent = false →
      (∀ e ∈ s.media.relocs, e.2.tgt ≠ some p.blk) →
      ∃ u, exec (.programDone l false) s = .next u ∧ (getBlk u p.blk).failed = true ∧
        Tab.get 0 (getChan u (blkCh p.blk)).cnts 5 = Tab.get 0 (getChan s (blkCh p.blk)).cnts 5 + 1)

/-- An erase ends (R207, R265): the block is erased with one erase more, the read that checks it is queued, and the completion is one record
more for the journal. The check that finds a half-erased block has it erased again under a new intent; a checked block can join its group's
ready-block list (R13, R203). -/
def Obligations.ErasedBlocksAreChecked : Prop :=
  ∀ (s : State) (l b : Nat),
    (∀ o e, collects s l = true → (getLun s l).op = some o → o.k = .er e → o.susp ≠ .ready →
      ∃ u, exec (.eraseDone l true) s = .next u ∧ Only [.media, .rst, .plp] s u ∧ (getLun u l).op = (getLun s l).sub ∧
        u.plp = { s.plp with jRecs := s.plp.jRecs + 1 } ∧
        getBlk u e.blk = {
          role := (getBlk s e.blk).role, erases := (getBlk s e.blk).erases + 1, retireWhy := (getBlk s e.blk).retireWhy
          failed := (getBlk s e.blk).failed, inUse := (getBlk s e.blk).inUse
          oneBit := (getBlk s e.blk).inUse && (getBlk s e.blk).oneBit } ∧
        (∃ r, (r ∈ (getLun u (blkLun e.blk)).rq ∨ r ∈ (getLun u (blkLun e.blk)).ovf) ∧ r.why = .check ∧ r.blk = e.blk ∧ r.cls = 3)) ∧
    (∀ zeros, collects s l = true → runs s l .check b 0 = true → blkLun b = l →
      (getBlk s b).eraseIntent = false → roleOf s b ≠ .retired →
      ((∀ z ∈ zeros, z ≤ 64) → ((getBlk s b).inUse = true ∨ roleOf s b ≠ .undercoat ∨ s.media.waitRoles = []) →
        ∃ u, exec (.halfEraseCheck l b zeros) s = .next u ∧ Only [.media, .rst] s u ∧
          getBlk u b = { getBlk s b with checked := true }) ∧
      ((∃ z ∈ zeros, 64 < z) →
        ∃ u, exec (.halfEraseCheck l b zeros) s = .next u ∧ Only [.media, .hlt, .plp, .rst] s u ∧
          getBlk u b = { getBlk s b with eraseIntent := true, erased := false } ∧
          (getLun u l).eq = (getLun s l).eq ++ [{ blk := b, sinceNs := s.nowNs, jno := s.plp.jSeq }] ∧
          Tab.get 0 u.hlt.mcnts 13 = Tab.get 0 s.hlt.mcnts 13 + 1)) ∧
    (∀ g, running s = true → Tab.wf {} s.media.blks = true → (∀ c ∈ s.cmds, c.ph ≠ .blockWait) →
      ∃ u, exec (.readyListRefill g) s = .next u ∧ Only [.media] s u ∧
        ∀ b, getBlk u b =
          if chGrp (blkCh b) = g ∧ roleOf s b = .pool ∧ (getBlk s b).erased = true ∧ (getBlk s b).checked = true ∧
            (getBlk s b).inUse = false then { getBlk s b with ready := true } else getBlk s b)

/-- A verify read of a closed wordline ends (R194, R195): one in which every sector decodes at first try with no more than VERIFY_MAX_BITS
corrected bits and passes its metadata check makes the wordline safe; any other fails its block. -/
def Obligations.VerifyReadsEnd : Prop :=
  ∀ (s : State) (l b wl : Nat) (got : List SectorRead), collects s l = true →
    runs s l .verify b (if (getBlk s b).oneBit then wl else 4 * wl) = true → wl ∉ (getBlk s b).safe →
    (getBlk s b).eraseIntent = false → (getBlk s b).failed = false → (∀ e ∈ s.media.relocs, e.2.tgt ≠ some b) →
    ((verifySecs s b wl).length ≤ got.length →
      (∀ e ∈ (verifySecs s b wl).zip got, ∃ ok poison n, e.2 = .decoded ok poison n ∧ (ok = true ∨ e.1.ver = 0) ∧ n ≤ s.hlt.verifyMax) →
      memberAt s b = none → ∃ u, exec (.wordlineVerifyDone l b wl got) s = .next u ∧ Only [.media, .hlt, .rst] s u ∧
        getBlk u b = { getBlk s b with safe := (getBlk s b).safe ++ [wl] }) ∧
    (got.length < (verifySecs s b wl).length ∨
        (∃ e ∈ (verifySecs s b wl).zip got, e.2 = .failed ∨
          ∃ ok poison n, e.2 = .decoded ok poison n ∧ (ok = false ∧ e.1.ver ≠ 0 ∨ s.hlt.verifyMax < n)) →
      ∃ u, exec (.wordlineVerifyDone l b wl got) s = .next u ∧ (getBlk u b).failed = true ∧ wl ∉ (getBlk u b).safe)

/-- Faults of a channel (R179): a hung sequencer is restarted, counted and reported; an operation past its ceiling, or past that of its suspend
or its LUN Set Features (R166), hangs its LUN, which is reset; a LUN that its reset brings back is kept, and one that it does not is retired
(R206). The care of channels and volumes (R163, R165, R174, R175): calibration, temperature readings, retraining for a new band or as FCH_CTL
asked, and the commands of FCH_CTL. A channel pauses while it is retrained, and the end of the pause counts it and issues ZQ calibration. -/
def Obligations.ChannelsAreKept : Prop :=
  (∀ (s : State) (ch l : Nat) (st : List LunStatus) (fe : Bool), alive s = true →
      ((getChan s ch).trained = true → (∀ i ∈ chLuns ch, (getLun s i).op = none ∧ (getLun s i).sub = none) →
        ∃ u, exec (.sequencerHang ch st) s = .next u ∧ (getChan u ch).restarts = min 255 ((getChan s ch).restarts + 1) ∧
          bit (getChan u ch).evt 2 = true ∧ Only [.media, .evr, .pa, .pb, .out] s u) ∧
      ((getLun s l).hung = false → (getLun s l).retired = false →
        (fe = false ∧ ((getLun s l).op.any (pastCeiling s) = true ∨ (getLun s l).sub.any (pastCeiling s) = true) ∨
          fe = true ∧ ((getLun s l).op.any (pastFeatures s) = true ∨ (getLun s l).sub.any (pastFeatures s) = true)) →
        ∃ u, exec (.lunHang ⟨l, fe⟩) s = .next u ∧ (getLun u l).hung = true ∧ (getChan u (lunCh l)).recovering = true ∧
          (getLun u l).op = some { k := .rst, runNs := s.nowNs, tokens := 0 } ∧
          bit (getChan u (lunCh l)).evt 7 = true ∧ bit (getChan u (lunCh l)).evt 3 = true) ∧
      (∀ o, (getLun s l).op = some o → o.k = .rst →
        (∃ u, exec (.resetLunDone l true) s = .next u ∧ Only [.media, .rst] s u ∧
          getLun u l = { getLun s l with op := none, hung := false }) ∧
        (∃ u, exec (.resetLunDone l false) s = .next u ∧ (getLun u l).retired = true ∧
          u.hlt.retiredLuns = min 255 (s.hlt.retiredLuns + 1)))) ∧
  (∀ (s : State) (ch v us : Nat) (p : Port) (t : Int) (fails : List (Nat × List Nat)),
      (alive s = true → volOk s ch v = true → (getVol s ch v).lastZqNs + 128000000 ≤ s.nowNs →
        exec (.zqCalibrationShort ch v) s = .next (modVol s ch v fun x => { x with lastZqNs := s.nowNs })) ∧
      (alive s = true → volOk s ch v = true → (getVol s ch v).lastTempNs + 10000000 ≤ s.nowNs →
        (∃ u, exec (.flashTemperatureRead ch v (some t)) s = .next u ∧ Only [.media] s u ∧
          getVol u ch v = { getVol s ch v with lastTempNs := s.nowNs, temp := t, tempValid := true, tempFails := 0 }) ∧
        ((getVol s ch v).tempFails = 2 →
          ∃ u, exec (.flashTemperatureRead ch v none) s = .next u ∧ (getVol u ch v).tempValid = false ∧
            bit (getChan u ch).evt 6 = true)) ∧
      (alive s = true → (getChan s ch).trained = true → (getChan s ch).retraining = false → (getChan s ch).recovering = false → us ≤ 60 →
        (bandDue s ch = (getChan s ch).band ∧ (getChan s ch).retrainReq = true ∧ chanIdle s ch = true ∨
          bandDue s ch ≠ (getChan s ch).band ∧ bandTurn s ch = true) →
        ∃ u, exec (.channelRetrain ch ⟨us, fails⟩) s = .next u ∧ (getChan u ch).retraining = true ∧ (getChan u ch).band = bandDue s ch ∧
          (getChan u ch).pause = some (s.nowNs + us * 1000, us)) ∧
      (∀ u, u = endPause s ch us → (getChan u ch).retraining = false ∧ (getChan u ch).pause = none ∧ (getChan u ch).retrainReq = false ∧
        (getChan u ch).lastUs = us ∧ (getChan u ch).trainCount = min 0xFFFF ((getChan s ch).trainCount + 1) ∧
        (getChan u ch).band = (getChan s ch).band ∧ (getChan s ch).band ∈ (getChan u ch).timing ∧
        (∀ x ∈ (getChan u ch).vols, x.2.lastZqNs = s.nowNs) ∧ bit (getChan u ch).evt 0 = true) ∧
      (Writable s p 0 → ch < 128 →
        exec (.retrain p ch) s = .next (modChan (woken s p 3) ch fun c => { c with retrainReq := true }) ∧
        exec (.cntClrFch p ch) s = .next (modChan (woken s p 3) ch fun c => { c with cnts := [] })))

/-- The next wordline of a zone that can be folded is folded (R193), where no zone of its quadrants that could be folded comes before
it. Relocations take their target from the relocation reserve of their source's channel (R197): the first that is queued for a quadrant
and can start, and the replacement of an interrupted block of a zone (R269). A zone's partial row is staged after 50 ms without a write
(R116). -/
def Obligations.DataMoves : Prop :=
  (∀ (s : State) (t z : Nat), running s = true → s.rst.pwr ≤ 1 → foldReady s t z = true → (getZone s t z).hint ≠ 1 →
      (∀ e ∈ s.zones, e.1 ≠ zkey t z → foldReady s (e.1 / 4194304) (e.1 % 4194304) = false) →
      ∃ u, exec (.foldGroupStart t z (getZone s t z).foldNext) s = .next u ∧
        getZone u t z = { getZone s t z with foldNext := (getZone s t z).foldNext + 1 } ∧
        (getFold u s.media.idCtr).tenant = t ∧ (getFold u s.media.idCtr).zone = z ∧
        (getFold u s.media.idCtr).wl = (getZone s t z).foldNext ∧ u.cmds = s.cmds) ∧
  (∀ (s : State), running s = true → s.rst.pwr ≤ 1 →
      (∀ q id x b, quadOut s q = false → (∀ e ∈ tenants s, cleanBlocks (tenD s e.1) ≤ convFree s e.1 * 16) →
        (sortBy relFirst (s.media.relocs.filter fun e => relQuad s e.2 == q && relFree s e.2)).head? = some (id, x) →
        (∀ e ∈ s.media.blks, e.2.inUse = true → chQuad (blkCh e.1) = q → e.2.retireWhy = 0 ∧ blkLun e.1 ∉ s.media.deadLuns) →
        getReloc s id = x → (getBlk s x.src).inUse = true → x.ext = none → (∀ e ∈ s.media.convs, e.1 ≠ x.src) → relTarget s x.src = some b →
        ∃ u, exec (.relocationStart q) s = .next u ∧ (getBlk u b).inUse = true ∧
          (getBlk u b).role = some (if (getBlk s x.src).oneBit then .undercoat else .pool)) ∧
      (∀ l b c, lunOk s l = true → blkLun b = l → (getBlk s b).interrupted = true → (memberAt s b).isSome = true →
        relocating s b = false → (getBlk s b).inUse = true → (getBlk s b).oneBit = false → s.media.relocs = [] → holdsLive s b = true →
        (∀ e ∈ s.media.convs, e.1 ≠ b) → (getLun s l).op = none → relTarget s b = some c →
        ∃ u, exec (.interruptedBlockRepair l b) s = .next u ∧ (getBlk u c).inUse = true ∧ (getBlk u c).role = some .pool) ∧
      (∀ t z, (∃ x, getTen s t = some x) → (getZone s t z).st = .opened → (getZone s t z).lastWriteNs + 50000000 ≤ s.nowNs →
        exec (.partialRowStage t z) s = .next (stagePartial s t z)))

/-- Patrol and calibration (R185, R187, R191, R199): a patrol visit queues the block's sample pages as reads of class BG and is counted; a
calibration read is queued as one read of class BG, and its end moves each level of the entry that it started from a quarter of the way to its
measured optimum, and asks for the block's relocation where it took tier 2 or 3. Health is summed up once a second and saved (R208), and
the threshold tables once an hour (R184). -/
def Obligations.HealthIsWatched : Prop :=
  (∀ (s : State) (l b page tier : Nat) (ms : List Int),
      (lunRuns s l = true → s.rst.actState = 0 → blkLun b = l → holdsLive s b = true → (getBlk s b).eraseIntent = false →
        lunIdle (getLun s l) = true →
        exec (.patrolVisit l b) s = .next ((patrolPages s b).foldl (fun s p =>
          (queueRd s .patrol 3 0 b p.1 p.2 (pageSecs s b p.1) false).1)
            (mcnt (modBlk s b fun f => { f with patrolledNs := s.nowNs }) 20 1))) ∧
      (lunRuns s l = true → s.rst.actState = 0 → blkLun b = l → holdsLive s b = true → (getBlk s b).eraseIntent = false →
        (if (getBlk s b).oneBit then page < (getBlk s b).pages else page / 4 < (getBlk s b).fine) → lunIdle (getLun s l) = true →
        ∃ u r, exec (.calibrationRead l b page ⟨ms, tier⟩) s = .next u ∧ Only [.media] s u ∧ (getLun u l).fgReads = 0 ∧
          (getLun u l).rq = [r] ∧ r.why = .calib ∧ r.cls = 3 ∧ r.blk = b ∧ r.page = page) ∧
      (∀ r key, collects s l = true → runningRd (getLun s l) = some r → r.why = .calib → r.blk = b → r.page = page → r.key = some key →
        ladderOn s key = false →
        ∃ u, exec (.calibrationRead l b page ⟨ms, tier⟩) s = .next u ∧ Only [.media, .hlt, .freeCtr, .rst] s u ∧
          Tab.get [] u.media.tables key =
            ((List.range (tableEntry s key (getBlk s b).oneBit).length).map fun i =>
              match ms[i]? with
              | some m => refine (nth 0 (tableEntry s key (getBlk s b).oneBit) i) m
              | none => nth 0 (tableEntry s key (getBlk s b).oneBit) i) ∧
          (2 ≤ tier → holdsLive s b = true → ∃ e ∈ u.media.relocs, e.2.src = b))) ∧
  (∀ (s : State) (mw : Nat), running s = true →
      (s.savedMs + 1000 ≤ opMs s →
        ∃ u, exec (.healthSummary mw) s = .next u ∧ u.hltSaved = u.hlt ∧ u.savedMs = opMs s ∧ u.hlt.power = mw % 262144 ∧
          u.cmds = s.cmds ∧ u.zones = s.zones) ∧
      (s.media.tableMs + 3600000 ≤ opMs s →
        exec .thresholdTableSave s = .next { s with
          tablesSaved := s.media.tables, media := { s.media with tableMs := opMs s } }))

/-- A selector register takes a snapshot of what it selects, in the writing port's own window (R34): HLT_TSEL, HLT_TEL_SNAP, BPM_TSEL,
ADM_TWIN_SEL, CIP_TSEL and MEP_LOG_SEL. CLR clears the selected tenant's counters after the snapshot. Commands of PF0's control
registers: CNT_CLR clears its block's counters and nothing else, LOG_CLR empties the memory error log (R245), PLAIN_KEK_CLOSE ends
plain loads (R280), and BPM_TEST reports the checks of R223 on the test pointer without touching the pool (R225). -/
def Obligations.BlockRegistersAct : Prop :=
  (∀ (s : State) (p : Port) (v : Word), Writable s p 0 →
      (fld v 10 6 = 0 → fld v 18 13 = 0 →
        (∃ u, exec (.hltTsel p v) s = .next u ∧ Only [portPart p, .tenants] (woken s p 3) u ∧ (getPort u p).win =
            { (getPort s p).win with hltSel := v.toNat % 2147483648, hltSnap := (List.range 20).map fun k =>
                if (getTen s (fld v 0 10)).isSome then Tab.get 0 (getCls s (fld v 0 10) (clsOfNat (fld v 16 2))).rcnts k else 0 } ∧
          (flag v 31 = false → u.tenants = s.tenants) ∧ (flag v 31 = true → (getCls u (fld v 0 10) (clsOfNat (fld v 16 2))).rcnts = [])) ∧
        (∃ u, exec (.admTwinSel p v) s = .next u ∧ Only [portPart p, .tenants] (woken s p 3) u ∧ (getPort u p).win =
            { (getPort s p).win with admSel := mk [(0, 10, fld v 0 10), (16, 2, fld v 16 2)], admSnap := admWindow s (fld v 0 10) (clsOfNat (fld v 16 2)) } ∧
          (flag v 31 = false → u.tenants = s.tenants) ∧ (flag v 31 = true → Tab.get 0 (getCls u (fld v 0 10) (clsOfNat (fld v 16 2))).cnts 12 = 0))) ∧
      (fld v 10 21 = 0 →
        (∃ u, exec (.bpmTsel p v) s = .next u ∧ Only [portPart p, .tenants] (woken s p 3) u ∧
          (getPort u p).win = { (getPort s p).win with bpmSel := fld v 0 10, bpmSnap := bpmWindow s (fld v 0 10) } ∧
          (flag v 31 = false → u.tenants = s.tenants) ∧
          (flag v 31 = true → ∀ x, getTen s (fld v 0 10) = some x → getTen u (fld v 0 10) = some { x with qhold := 0, dphold := 0 })) ∧
        (∃ u, exec (.cipTsel p v) s = .next u ∧ Only [portPart p, .cip] (woken s p 3) u ∧
          (getPort u p).win = { (getPort s p).win with cipSel := fld v 0 10, cipSnap := cipWindow s (fld v 0 10) } ∧
          (flag v 31 = false → u.cip = s.cip) ∧
          (flag v 31 = true → ∀ k, k < 5 → Tab.get 0 u.cip.tcnts (fld v 0 10 * 8 + k) = 0))) ∧
      (fld v 6 26 = 0 → exec (.mepLogSel p v) s = .next (modPort (woken s p 3) p fun q =>
        { q with win := { q.win with mepSel := fld v 0 6, mepSnap := logWords s.mep (fld v 0 6) } })) ∧
      (fld v 1 31 = 0 → flag v 0 = true → exec (.hltTelSnap p v) s = .next (modPort (woken s p 3) p fun q =>
        { q with win := { q.win with telSnap := (List.range 12).map (telCount s) } }))) ∧
  (∀ (s : State) (p : Port), Writable s p 0 →
      (∀ w, w = woken s p 3 →
        exec (.cntClrBpm p) s = .next { w with bpm := { w.bpm with misses := 0, rej := [], empty := [], tie := [] } } ∧
        exec (.cntClrMep p) s = .next { w with mep := { w.mep with ce := [], ue := [], psn := [], ctxLost := 0 } } ∧
        exec (.logClr p) s = .next { w with mep := { w.mep with log := [], logNext := 0, logLost := 0 } } ∧
        exec (.cntClrThm p) s = .next { w with thm := { w.thm with cnts := [] } } ∧
        exec (.cntClrCip p) s = .next { w with cip := { w.cip with cnts := [] } } ∧
        exec (.plainKekClose p) s = .next { w with cip := { w.cip with plainAllow := false } }) ∧
      (∃ u, exec (.bpmTest p) s = .next u ∧ Only [.bpm] (woken s p 3) u ∧ u.bpm = { s.bpm with testDone := true, testResult := u.bpm.testResult } ∧
        (∀ ptr, ptr = s.bpm.testLo + p32 * s.bpm.testHi →
          (2 ^ 36 ≤ ptr → u.bpm.testResult = 2) ∧ (ptr < 2 ^ 36 → ptr % 4096 ≠ 0 → u.bpm.testResult = 3) ∧
          (ptr < 2 ^ 36 → ptr % 4096 = 0 → Tab.get 0 s.bpm.alloc (ptr / 4096) = 0 → u.bpm.testResult = 4) ∧
          (ptr < 2 ^ 36 → ptr % 4096 = 0 → Tab.get 0 s.bpm.alloc (ptr / 4096) ≠ 0 → (∀ e ∈ s.bpm.withdrawn, e.1 ≠ ptr / 4096) →
            u.bpm.testResult = 1))))

/-- Register accesses of BAR0 (R34, R37): an aligned 32-bit write stores, a 64-bit write stores both words, any other size or alignment
is completed and discarded, a write that no chapter maps is the undefined case of R4, and a read of a read-to-clear register returns
its value and clears it; a read of another register returns its value, one of another size or alignment 0, and changes nothing else (log 52).
A memory address reaches the function whose aperture holds it (R36), and configuration space reads as R31 gives it. -/
def Obligations.RegistersAreAccessed : Prop :=
  ∀ (s : State) (p : Port) (fn k off size : Nat) (v : Word64),
    (Writable s p fn → fn ≠ 0 → k < 16 → (getRing s p fn k).en = false → (v.setWidth 32).toNat &&& 0xFFF = 0 →
      exec (.registerWrite p fn .bar (0x800 + 16 * k) 4 v) s =
        .next (modRing (woken s p 3) p fn k fun r => { r with baseLo := (v.setWidth 32).toNat })) ∧
    (Writable s p 0 → ∃ u, exec (.registerWrite p 0 .bar 0x60500 8 v) s = .next u ∧ Only [portPart p, .rst, .bpm] s u ∧
      u.bpm = { s.bpm with testLo := (v.setWidth 32).toNat, testHi := ((v >>> 32).setWidth 32).toNat }) ∧
    (Reaches s p fn → (fn = 0 ∧ off < 16777216 ∨ 1024 ≤ off ∧ off < 65536) → (size = 4 → off % 4 ≠ 0) → (size = 8 → off % 8 ≠ 0) →
      exec (.registerWrite p fn .bar off size v) s = .next (woken s p 3)) ∧
    (Writable s p fn → fn ≠ 0 → 1024 ≤ off → off < 65536 → off % 4 = 0 → vfRow p fn off (v.setWidth 32) = none → rsvOf fn off = none →
      exec (.registerWrite p fn .bar off 4 v) s = .fault (.unmappedWrite p fn off)) ∧
    (Reaches s p fn → isRc fn off = true →
      ∃ u, exec (.rcRegisterRead p fn ⟨.bar, off, 4⟩) s = .next u ∧ u.out = s.out ++ [.value p (BitVec.ofNat 32 (regVal s p fn off))] ∧
        regVal u p fn off = 0 ∧ u.cmds = s.cmds ∧ u.tenants = s.tenants) ∧
    (Reaches s p fn → (fn = 0 ∧ off < 16777216 ∨ fn ≠ 0 ∧ off < 65536) → isRc fn off = false → isLock fn off = false →
      (fn = 0 → off ≠ 0x4007C) → off % 4 = 0 →
      exec (.rcRegisterRead p fn ⟨.bar, off, 4⟩) s = .next (emit (woken s p 3)
        (.value p (BitVec.ofNat 32 (regVal (woken s p 3) p fn off))))) ∧
    (Reaches s p fn → (fn = 0 ∧ off < 16777216 ∨ fn ≠ 0 ∧ off < 65536) → (size = 4 → off % 4 ≠ 0) → (size = 8 → off % 8 ≠ 0) →
      exec (.rcRegisterRead p fn ⟨.bar, off, size⟩) s = .next (emit (woken s p 3) (.value p 0))) ∧
    (∀ f o, memTarget s p k = some (f, o) →
      exec (.registerWrite p fn .mem k size v) s = exec (.registerWrite p f .bar o size v) s ∧
      exec (.rcRegisterRead p fn ⟨.mem, k, size⟩) s = exec (.rcRegisterRead p f ⟨.bar, o, size⟩) s) ∧
    (CfgReaches s p fn → exec (.rcRegisterRead p fn ⟨.cfg, off, size⟩) s = .next (emit (woken s p 3)
        (.value p (BitVec.ofNat 32 (cfgVal (woken s p 3) p fn off)))) ∧
      cfgVal s p fn 0 = (if fn = 0 then 0x81281F4C else 0xFFFFFFFF) ∧ cfgVal s p fn 8 = 0x01800010)

/-- The head cache of the free stack (R213) moves whole lines of 16 indices, and no index is lost. Charges that were refused are
presented again (R222): a CIPHER charge after 1 µs, a fold's or a relocation's after 10 µs. A refused one waits again; a granted one goes on:
the sector to its command, the fold group with its charge, the relocation with its next wordline. A quadrant under reset presents none
(R226). -/
def Obligations.PoolRetries : Prop :=
  ∀ (s : State) (n q : Nat) (tie : Bool), s.bpm.ready = true →
    (6144 < s.bpm.head → ∃ u m, exec .bpmSpill s = .next u ∧ Only [.bpm] s u ∧
      u.bpm = { s.bpm with head := s.bpm.head - 16 * m, stack := s.bpm.stack + 16 * m } ∧ 16 * m ≤ s.bpm.head ∧
      4080 < u.bpm.head ∧ u.bpm.head ≤ 4096) ∧
    (s.bpm.head < 2048 → 4096 ≤ s.bpm.stack → ∃ u m, exec .bpmRefill s = .next u ∧ Only [.bpm] s u ∧
      u.bpm = { s.bpm with head := s.bpm.head + 16 * m, stack := s.bpm.stack - 16 * m } ∧ 16 * m ≤ s.bpm.stack ∧
      4096 ≤ u.bpm.head ∧ u.bpm.head < 4112) ∧
    (s.bpm.head < 2048 → s.bpm.stack + s.bpm.head ≤ 4096 →
      exec .bpmRefill s = .next { s with bpm := { s.bpm with head := s.bpm.head + s.bpm.stack, stack := 0 } }) ∧
    (∀ e d, s.bpm.retries.find? (fun e => e.1 == kCipher && e.2.1 == n) = some e → e.2.2 + 1000 ≤ s.nowNs → getDeep s n = some d →
      (chargeOk s.bpm kCipher 1 = false → ∃ u, exec (.cipherChargeRetry ⟨n, tie⟩) s = .next u ∧ Only [.bpm] s u ∧
        u.bpm.retries = s.bpm.retries.erase e ++ [(kCipher, n, s.nowNs)] ∧ u.bpm.charges = s.bpm.charges) ∧
      (∀ t seq sec rest, chargeOk s.bpm kCipher 1 = true → d.rd.why = .cmd t seq → d.secs = sec :: rest →
        exec (.cipherChargeRetry ⟨n, tie⟩) s = .next (cmdSec
          (useCipher (dropDeep { s with bpm := { s.bpm with retries := s.bpm.retries.erase e } } n)) t seq d.rd sec d.left true d.bad))) ∧
    (∀ e cls, s.bpm.retries.find? (fun e => e.1 == kFold + cls && e.2.1 == n) = some e → e.2.2 + 10000 ≤ s.nowNs → quadOut s q = false →
      (cls = 0 → q = chQuad (((getZone s (getFold s n).tenant (getFold s n).zone).members.head?.map Member.ch).getD 0) →
        (∃ r ∈ s.media.folds, r.1 = n) → (getFold s n).waiting = true →
        ∀ k, k = (if (getFold s n).vers.isEmpty then 0 else foldNeed s (getFold s n)) →
        (chargeOk s.bpm kFold k = false → ∃ u, exec (.backOffRetry 0 q ⟨n, tie⟩) s = .next u ∧ Only [.bpm, .media] s u ∧
          u.bpm.retries = s.bpm.retries.erase e ++ [(kFold, n, s.nowNs)] ∧ u.bpm.charges = s.bpm.charges ∧ getFold u n = getFold s n ∧
          Tab.get 0 u.bpm.backoff 0 = satAdd 0xFFFFFFFF (Tab.get 0 s.bpm.backoff 0) 1) ∧
        (chargeOk s.bpm kFold k = true → ∃ u, exec (.backOffRetry 0 q ⟨n, tie⟩) s = .next u ∧
          u.bpm.retries = s.bpm.retries.erase e ∧ (getFold u n).waiting = false ∧
          Tab.get 0 u.bpm.charges kFold = Tab.get 0 s.bpm.charges kFold + k)) ∧
      (cls = 1 → q = relQuad s (getReloc s n) → (∃ r ∈ s.media.relocs, r.1 = n) → (getReloc s n).waiting = true →
        (getReloc s n).next < (getReloc s n).count → (getReloc s n).tgt.isSome = true → (getReloc s n).next ∉ (getReloc s n).kept →
        (chargeOk s.bpm kReloc 64 = false → ∃ u, exec (.backOffRetry 1 q ⟨n, tie⟩) s = .next u ∧ Only [.bpm, .media] s u ∧
          u.bpm.retries = s.bpm.retries.erase e ++ [(kReloc, n, s.nowNs)] ∧ u.bpm.charges = s.bpm.charges ∧
          Tab.get 0 u.bpm.backoff 1 = satAdd 0xFFFFFFFF (Tab.get 0 s.bpm.backoff 1) 1) ∧
        (chargeOk s.bpm kReloc 64 = true → ∃ u, exec (.backOffRetry 1 q ⟨n, tie⟩) s = .next u ∧ (getReloc u n).waiting = false))) ∧
    (∀ cls, quadOut s q = true → exec (.backOffRetry cls q ⟨n, tie⟩) s = .next s)

/-- Skim engines and corrections (R238, R240, R241): an on-die engine reads its next word; a correction is counted, logged and its
write-back is due; an uncorrectable error is counted and sets its event bit. A write-back that no later write replaced is done, and
counts for its engine; a merge-buffer entry leaves after 1 µs without a write (R231). An event whose condition does not hold changes
nothing (log 2, the model's choice). -/
def Obligations.MemoryIsScrubbed : Prop :=
  ∀ (s : State) (e m w n : Nat),
    (2 ≤ e → e < 7 → skimRuns s e = true → sramPlace (skimMems e) (getSkim s e).pos = some (m, w) → s.mep.logHold = false →
      (∃ u, exec (.skimRead e .clean) s = .next u ∧ Only [.mep] s u ∧ u.mep = { s.mep with skims := u.mep.skims } ∧
        ((getSkim s e).pos + 1 < sumBy Prod.snd (skimMems e) → (getSkim u e).pos = (getSkim s e).pos + 1) ∧
        (sumBy Prod.snd (skimMems e) ≤ (getSkim s e).pos + 1 → (getSkim u e).pos = 0 ∧ (getSkim u e).laps = satAdd 0xFFFFFFFF (getSkim s e).laps 1)) ∧
      (∃ u, exec (.skimRead e (.corrected n)) s = .next u ∧ Only [.mep, .freeCtr] s u ∧
        Tab.get 0 u.mep.ce m = satAdd 0xFFFFFFFF (Tab.get 0 s.mep.ce m) 1 ∧ (m, w, e + 1) ∈ u.mep.pendFix ∧
        (∃ x, Tab.get none u.mep.log s.mep.logNext = some x ∧ x.mem = m ∧ x.kind = 1 ∧ x.source = 2 ∧ x.addr = w ∧ x.pos = n)) ∧
      (∃ u, exec (.skimRead e .uncorrectable) s = .next u ∧ Tab.get 0 u.mep.ue m = satAdd 0xFFFFFFFF (Tab.get 0 s.mep.ue m) 1 ∧
        bit u.mep.evt 1 = true ∧ u.mep.ce = s.mep.ce)) ∧
    (s.mep.flipArmed = none → 2 ≤ m → w ≠ testAddr m 0 → s.mep.pendFix = [(m, w, e + 1)] →
      exec (.correctedWriteBack m w) s = .next (modSkim { s with mep := { s.mep with pendFix := [] } } e fun x =>
        { x with fixed := satAdd 0xFFFFFFFF x.fixed 1 })) ∧
    (∀ x, s.mep.merges = [x] → s.mep.flipArmed = none →
      (s.nowNs < x.sinceNs + 1000 → exec (.mergeEntryTimeout x.stack x.line false) s = .next s) ∧
      (x.sinceNs + 1000 ≤ s.nowNs →
        exec (.mergeEntryTimeout x.stack x.line false) s = .next { s with mep := { s.mep with merges := [] } } ∧
        ∃ u, exec (.mergeEntryTimeout x.stack x.line true) s = .next u ∧ (regionOf x.line ≠ 2 → u.mep.merges = []) ∧
          Tab.get 0 u.mep.psn x.stack = satAdd 0xFFFFFFFF (Tab.get 0 s.mep.psn x.stack) 1 ∧ bit u.mep.evt 1 = true))

/-- The memories over time: HBM refresh follows the stack's temperature (R237), a lap over its limit is reported once (R239), and the
corrections of an hour are compared with their threshold (R240). -/
def Obligations.MemoriesAreWatched : Prop :=
  ∀ (s : State) (k : Nat), s.ckm.stopped = false →
    (k < 2 → s.bpm.ready = true → s.rst.pwr < 2 →
      ∃ u, exec (.hbmRefresh k) s = .next u ∧ Only [.mep] s u ∧ Tab.get 0 u.mep.refreshNs k = s.nowNs ∧
        Tab.get 0 u.mep.temps k = dieTemp s (5 + k) / 4 ∧
        (Tab.get 0 s.mep.bands k < refiBand (dieTemp s (5 + k) / 4) → Tab.get 0 u.mep.bands k = refiBand (dieTemp s (5 + k) / 4)) ∧
        (∀ j, j ≠ k → Tab.get 0 u.mep.bands j = Tab.get 0 s.mep.bands j ∧ Tab.get 0 u.mep.temps j = Tab.get 0 s.mep.temps j)) ∧
    (k < 7 → (getSkim s k).active = true → (getSkim s k).slow = false → lapLimit s k < lapNs s (getSkim s k) →
      ∃ u, exec (.skimSlow k) s = .next u ∧ Only [.mep, .evr, .pa, .pb, .out] s u ∧
        getSkim u k = { getSkim s k with slow := true } ∧ bit u.mep.evt 4 = true) ∧
    (k < 16 → Tab.get 0 s.mep.hourNo k < (s.nowNs - s.boot.startNs) / 3600000000000 →
      ∃ u, exec (.ceRate k) s = .next u ∧ Only [.mep, .evr, .pa, .pb, .out] s u ∧
        Tab.get 0 u.mep.lastHour k = min 0xFFFF (Tab.get 0 s.mep.hourCe k) ∧ Tab.get 0 u.mep.hourCe k = 0 ∧
        (0 < Tab.get 4096 s.mep.thresh k → Tab.get 4096 s.mep.thresh k ≤ Tab.get 0 s.mep.hourCe k → bit u.mep.evt 0 = true) ∧
        (Tab.get 0 s.mep.hourCe k < Tab.get 4096 s.mep.thresh k → u.mep.evt = s.mep.evt))

/-- Injection and test accesses (R246, R247): ARM takes the injection registers as they stand; a test write stores the test data in the
line it names; a test read of a line without errors returns what was written, and one with a single symbol in error returns the
corrected data and counts a correction. -/
def Obligations.TestAccessesReadBack : Prop :=
  ∀ (s : State) (p : Port) (v : Word), Writable s p 0 →
    (v.toNat &&& 0x1FE0FFF0 = 0 → flag v 29 = true →
      ∃ u, exec (.mepFlipArm p v) s = .next u ∧ Only [.mep] (woken s p 3) u ∧ u.mep = { s.mep with
        flipMem := fld v 16 4, flipGroup := fld v 0 4, flipAddrMatch := flag v 20, flipFired := false, flipArmed := some { mem := fld v 16 4, grp := fld v 0 4, amatch := flag v 20, addr := s.mep.flipAddr, dlo := s.mep.flipDlo, dhi := s.mep.flipDhi, chk := s.mep.flipChk, amask := s.mep.flipAmask } }) ∧
    (v.toNat &&& 0x7FF0FFFC = 0 → fld v 0 2 = 1 → fld v 16 4 < 2 → s.mep.flipArmed = none →
      ∃ u, exec (.mepTestWrite p v) s = .next u ∧ Only [.mep] (woken s p 3) u ∧ u.mep.testDone = true ∧
        getLine u (fld v 16 4) s.mep.testLine = { data := s.mep.testData, comp := s.mep.testComp }) ∧
    (v.toNat &&& 0x7FF0FFFC = 0 → fld v 0 2 = 2 → fld v 16 4 < 2 →
      (badSymbols (getLine s (fld v 16 4) s.mep.testLine) = [] →
        ∃ u, exec (.mepTestRead p v) s = .next u ∧ Only [.mep, .freeCtr] (woken s p 3) u ∧ u.mep.testKind = 0 ∧
          u.mep.testData = (getLine s (fld v 16 4) s.mep.testLine).data ∧ u.mep.testComp = (getLine s (fld v 16 4) s.mep.testLine).comp ∧
          u.mep.ce = s.mep.ce ∧ u.mep.lines = s.mep.lines) ∧
      (∀ b, badSymbols (getLine s (fld v 16 4) s.mep.testLine) = [b] → b < 72 → s.mep.logHold = false →
        ∃ u, exec (.mepTestRead p v) s = .next u ∧ Only [.mep, .freeCtr] (woken s p 3) u ∧ u.mep.testKind = 1 ∧ u.mep.testPos = b ∧
          u.mep.testData = (getLine s (fld v 16 4) s.mep.testLine).data ∧
          Tab.get 0 u.mep.ce (fld v 16 4) = satAdd 0xFFFFFFFF (Tab.get 0 s.mep.ce (fld v 16 4)) 1))

/-- A thermal control period (R364, R369, R371, R374): the T_CTL of the period before sets the shutter by the law of R370, to the cycle
for admission too; WARN follows its threshold; at the shutdown threshold THERMTRIP_N goes low, SHUT latches and new commands are
refused. -/
def Obligations.TheShutterFollowsTheLaw : Prop :=
  ∀ (s : State) (conv : List (Option Int)), s.ckm.stopped = false → s.pins.porHeld = false → s.boot.ready = true →
    ∃ u, exec (.thermalControlPeriod conv) s = .next u ∧ u.thm.tPub = s.thm.tctl ∧
      (u.thm.shutter, u.thm.tSet) = shutterStep s.thm.shutter s.thm.tSet s.thm.tctl (4 * ((nth 100 s.thm.tNext 1 : Nat) : Int)) (4 * ((nth 110 s.thm.tNext 2 : Nat) : Int)) ∧
      u.adm.shutter = u.thm.shutter ∧
      (s.thm.warn = false → s.thm.warnNs = 0 → 4 * ((nth 95 s.thm.tNext 0 : Nat) : Int) ≤ s.thm.tctl → u.thm.warn = true ∧ bit u.thm.evt 0 = true) ∧
      (s.thm.latch = false → 4 * ((nth 118 s.thm.tNext 3 : Nat) : Int) ≤ s.thm.tctl →
        u.thm.shut = true ∧ u.thm.latch = true ∧ u.pins.thermtripN = false ∧ u.adm.shutdown = true) ∧
      (s.thm.tctl < 4 * ((nth 118 s.thm.tNext 3 : Nat) : Int) → u.thm.shut = s.thm.shut ∧ u.pins = s.pins)

/-- The other thermal events (R365, R367, R369, R374): a conversion that does not end breaks its sensor; a broken sensor can be
excluded while its die keeps a valid one; a flag whose dwell has ended changes; 1 ms after a shutdown begins the flush starts with
power present. An event whose condition does not hold changes nothing (log 2, the model's choice). -/
def Obligations.ThermalEvents : Prop :=
  ∀ (s : State) (p : Port) (k : Nat) (v : Word), s.ckm.stopped = false → s.pins.porHeld = false →
    (k < 22 → (getSens s k).broken = false →
      ∃ u, exec (.sensorTimeout k) s = .next u ∧ (getSens u k).broken = true ∧ (getSens u k).reason = 2 ∧ bit u.thm.evt 4 = true ∧
        Tab.get 0 u.thm.cnts 3 = Tab.get 0 s.thm.cnts 3 + 1 ∧ ∀ j, j ≠ k → getSens u j = getSens s j) ∧
    (Writable s p 0 → k < 22 → v.toNat = 2 ^ k → (getSens s k).broken = true →
      (∃ j, j < 22 ∧ j ≠ k ∧ dieOf j = dieOf k ∧ (getSens s j).broken = false ∧ (getSens s j).excl = false) →
      ∃ u, exec (.sensorExclude p v) s = .next u ∧ Only [.thm] (woken s p 3) u ∧ getSens u k = { getSens s k with excl := true } ∧
        ∀ j, j ≠ k → getSens u j = getSens s j) ∧
    (s.thm.warn = true → s.thm.tPub < 4 * (s.thm.tWarn : Int) - 12 → s.thm.warnNs + 10000000 ≤ s.nowNs →
      ∃ u, exec (.flagDwellExpiry 0) s = .next u ∧ u.thm.warn = false ∧ u.thm.warnNs = s.nowNs ∧ u.thm.full = s.thm.full ∧
        u.thm.throttle = s.thm.throttle ∧ u.thm.shutter = s.thm.shutter) ∧
    (s.thm.warn = true → s.nowNs < s.thm.warnNs + 10000000 → 0 < s.thm.warnNs → exec (.flagDwellExpiry 0) s = .next s) ∧
    (s.thm.phase = 1 → s.plp.phase = 0 → s.thm.startNs + 1000000 ≤ s.nowNs →
      ∃ u, exec (.shutdownDrainEnd []) s = .next u ∧ u.plp.phase = 1 ∧ u.plp.why = 1 ∧ u.thm.phase = 2 ∧ u.adm.stop = true ∧
        u.adm.casStopped = true ∧ u.adm.postStop = true ∧ u.cmds = s.cmds ∧ u.zones = s.zones ∧ u.vers = s.vers)

/-- Power loss (R259, R260, R262, R264): PWRFAIL_N starts the flush, which stops admission, capture and posting; its end saves the zone
table, the health values and the threshold tables, leaves FLUSH_END durable and every WP_N low; 10 ms of PWRFAIL_N high then warm
resets with cause 4. -/
def Obligations.PowerLossFlushes : Prop :=
  ∀ (s : State), s.ckm.stopped = false →
    (s.plp.pwrfail = false → s.pins.porHeld = false → s.boot.ready = true → s.plp.phase = 0 →
      ∃ u, exec .pwrfailAssert s = .next u ∧ Only [.plp, .adm, .bpm, .mep, .rst, .media] s u ∧ u.plp.phase = 1 ∧ u.plp.why = 0 ∧ u.plp.pwrfail = true ∧
        u.plp.dAtFlush = dirtyMib s ∧ u.adm.stop = true ∧ u.adm.casStopped = true ∧ u.adm.postStop = true ∧ u.mep.merges = [] ∧
        u.rst.pwr = 0 ∧ u.rst.actState = 0 ∧ u.media.deeps = [] ∧ u.media.blks = s.media.blks ∧ u.media.chans = s.media.chans) ∧
    (s.plp.phase = 1 → s.plp.cut = false →
      exec (.flushDmaCutoff []) s = .next { s with plp := { s.plp with cut := true } }) ∧
    (s.plp.phase = 1 → s.plp.why = 0 → s.plp.cut = true →
      ∃ u, exec .flushEnd s = .next u ∧ u.plp.phase = 2 ∧ u.plp.last = 1 ∧ u.plp.lastMib = s.plp.dAtFlush ∧ u.flushEnd = true ∧
        u.plp.flushes = satAdd 0xFFFF s.plp.flushes 1 ∧ u.zones = s.zones ∧ u.zonesSaved = s.zones ∧ u.hltSaved = { s.hlt with telLife := u.hltSaved.telLife } ∧
        u.tablesSaved = s.media.tables ∧ (∀ e ∈ u.media.chans, e.2.wp = true) ∧ u.cmds = s.cmds ∧
        (∀ v, getVer u v = { getVer s v with emerg := (getVer u v).emerg })) ∧
    (s.plp.phase = 2 → s.thm.latch = false → s.plp.pwrfail = true →
      ∃ u, exec .pwrfailHighTimeout s = .next u ∧ u.plp.phase = 0 ∧ u.plp.pwrfail = false ∧ u.rst.cause = 4 ∧ u.boot.phase = 1 ∧
        u.boot.ready = false ∧ u.rst.warmCount = satAdd 0xFFFF s.rst.warmCount 1 ∧ u.cmds = [] ∧ u.fuse = s.fuse)

/-- The journal (R265 to R267): a page programmed with pass status makes the staged records durable, and with them the ZONE_RESETs and
ZONE_FINISHes that waited complete; where no retired block's place waits for its record, nothing else changes. A failed page leaves
everything staged. A CHECKPOINT is a record too; a write-back leaves fewer zone records to write. -/
def Obligations.JournalRecordsBecomeDurable : Prop :=
  ∀ (s : State) (c : Cmd), s.boot.ready = true → s.ckm.stopped = false → paused s = false →
    (0 < s.plp.jRecs → s.cmds = [c] → c.journal = true → c.ph = .exec →
      ∃ u, exec (.journalPageProgram true) s = .next u ∧
        u.plp = { s.plp with jRecs := 0, jSeq := s.plp.jSeq + 1 } ∧ Completes u c.tenant c.seq 0 c.result ∧
        ((∀ e ∈ s.media.waitRoles, s.plp.jSeq + 1 < e.2.2) → Only (.plp :: endParts c) s u) ∧
        ∀ e ∈ u.media.waitRoles, e ∈ s.media.waitRoles ∧ s.plp.jSeq + 1 < e.2.2 ∨ e.2.2 = 0) ∧
    exec (.journalPageProgram false) s = .next s ∧
    (s.plp.phase = 0 → ∃ u, exec .checkpoint s = .next u ∧ Only [.plp] s u ∧
      u.plp = { s.plp with ckptSeq := s.plp.jSeq, jRecs := s.plp.jRecs + 1, lastCkptMs := opMs s }) ∧
    (∀ n, s.plp.phase = 0 → (dirtyLines s).length ≤ n → Tab.wf {} s.zones = true → Tab.wf {} s.zonesSaved = true →
      ∃ u, exec (.zoneTableWriteback n) s = .next u ∧ Only [.zonesSaved] s u ∧ u.zonesSaved = s.zones)

/-- KEY_LOAD (R277): a check that fails, or a blob that does not unwrap, gives its result and changes no slot. A key that unwraps is taken
by its slot, with its KCV, unless the target is a tenant that holds data under another key; the key the slot already holds changes only
KEY_ID and PERSIST. The reply of a load that is persisted follows its journal record (log 139, DEDUCED). -/
def Obligations.KeysAreLoaded : Prop :=
  ∀ (s : State) (b : Box) (f : Frame) (d : ReqData) (l : List Byte),
    AtRequest s b f → isOp 0x86 f = true → DataAt s b f d l → kEvict l = false →
    (∀ e, keyCheck s b f l = some e → ∃ u, exec (.keyLoad b d) s = .next u ∧ Only [.mbxs] s u ∧ Replies s u b f e [] []) ∧
    (keyCheck s b f l = none →
      (∀ e, unwrapBlob s l = .error e → ∃ u, exec (.keyLoad b d) s = .next u ∧ Replies s u b f e [] [] ∧ u.cip.tslots = s.cip.tslots ∧
        u.cip.dslots = s.cip.dslots) ∧
      (∀ key, unwrapBlob s l = .ok key →
        (kWrap l = 0 → kTenant l = false ∧ s.cip.plainAllow = true ∧ key = (kBlob l).take 32) ∧
        (kWrap l ≠ 0 → (dslot s (kWrap l)).state = 1 ∧ kwUnwrap (dslot s (kWrap l)).key (kBlob l) = some key) ∧
        (kTenant l = true → holdsData s (kTarget l) = true → (tslot s (kTarget l)).loads ≠ 0 → (tslot s (kTarget l)).kcv ≠ leNat (kcvOf key) →
          ∃ u, exec (.keyLoad b d) s = .next u ∧ Only [.mbxs] s u ∧ Replies s u b f 7 [] []) ∧
        (kTenant l = true → (holdsData s (kTarget l) = false ∨ (tslot s (kTarget l)).loads = 0 ∨ (tslot s (kTarget l)).kcv = leNat (kcvOf key)) →
          ∃ u, exec (.keyLoad b d) s = .next u ∧ Replies s u b f 0 [] [] ∧ u.cip.dslots = s.cip.dslots ∧
            (∀ t, t ≠ kTarget l → tslot u t = tslot s t) ∧
            ((tslot s (kTarget l)).state = 1 → (tslot s (kTarget l)).key = key →
              tslot u (kTarget l) = { tslot s (kTarget l) with keyId := kId l, persist := bit (kFlags l) 0 }) ∧
            (((tslot s (kTarget l)).state ≠ 1 ∨ (tslot s (kTarget l)).key ≠ key) → tslot u (kTarget l) =
              { state := 1, persist := bit (kFlags l) 0, plain := kWrap l == 0, key := key, keyId := kId l, kcv := leNat (kcvOf key)
                loads := satAdd 0xFFFF (tslot s (kTarget l)).loads 1, byPf0 := isPf0Box b }) ∧
            (bit (kFlags l) 0 = true → ∀ r, (getMbx u b).held = some r → r.after = some s.plp.jSeq) ∧
            ((∀ c ∈ s.cmds, c.tenant = kTarget l → c.keyWait = []) → Only [.mbxs, .cip, .plp] s u ∧
              u.plp = { s.plp with jRecs := s.plp.jRecs + b2n (bit (kFlags l) 0) })) ∧
        (kTenant l = false →
          ∃ u, exec (.keyLoad b d) s = .next u ∧ Only [.mbxs, .cip, .plp] s u ∧ Replies s u b f 0 [] [] ∧ u.cip.tslots = s.cip.tslots ∧
            u.plp = { s.plp with jRecs := s.plp.jRecs + 1 } ∧ (∀ r, (getMbx u b).held = some r → r.after = some s.plp.jSeq) ∧
            (∀ j, j ≠ kTarget l - 0x400 → dslot u j = dslot s j) ∧
            ((dslot s (kTarget l - 0x400)).state = 1 → (dslot s (kTarget l - 0x400)).key = key →
              dslot u (kTarget l - 0x400) = { dslot s (kTarget l - 0x400) with keyId := kId l, persist := true }) ∧
            (((dslot s (kTarget l - 0x400)).state ≠ 1 ∨ (dslot s (kTarget l - 0x400)).key ≠ key) → dslot u (kTarget l - 0x400) =
              { state := 1, persist := true, plain := kWrap l == 0, key := key, keyId := kId l, kcv := leNat (kcvOf key)
                loads := satAdd 0xFFFF (dslot s (kTarget l - 0x400)).loads 1, byPf0 := isPf0Box b }))))

/-- Eviction and SANITIZE (R278, R290): an eviction closes the slot at once, and its reply comes when the record is durable and no
command needs the key; an empty slot needs no wait. SANITIZE closes the slots of the tenants it affects, advances their instance numbers
and empties their zones; its reply names its kind when every effect has taken place, and then the slots are empty. -/
def Obligations.KeysAreErased : Prop :=
  ∀ (s : State) (b : Box) (f : Frame) (d : ReqData) (l : List Byte) (t j : Nat) (b' : Box),
    (AtRequest s b f → isOp 0x86 f = true → DataAt s b f d l → kEvict l = true →
      (∀ e, keyCheck s b f l = some e → ∃ u, exec (.keyEvict b d) s = .next u ∧ Only [.mbxs] s u ∧ Replies s u b f e [] []) ∧
      (keyCheck s b f l = none → ∀ k, k = (if kTenant l then tslot s (kTarget l) else dslot s (kTarget l - 0x400)) →
        ((k.state = 0 ∨ kTenant l = true ∧ k.state = 3) →
          ∃ u, exec (.keyEvict b d) s = .next u ∧ Only [.mbxs] s u ∧ Replies s u b f 0 [] []) ∧
        (k.state ≠ 0 → (kTenant l = false ∨ k.state ≠ 3) →
          ∃ u, exec (.keyEvict b d) s = .next u ∧ (getMbx u b).busy = true ∧ u.plp = { s.plp with jRecs := s.plp.jRecs + 1 } ∧
            u.cip.evicting = s.cip.evicting ++ [(kTarget l, s.plp.jSeq, b)] ∧ u.cmds = s.cmds ∧ u.vers = s.vers ∧ u.zones = s.zones ∧
            (kTenant l = true → u.cip.dslots = s.cip.dslots ∧ (∀ i, i ≠ kTarget l → tslot u i = tslot s i) ∧
              tslot u (kTarget l) = if k.state = 2 then { k with persist := false } else { k with state := 3 }) ∧
            (kTenant l = false → u.cip.tslots = s.cip.tslots ∧ dslot u (kTarget l - 0x400) = emptySlot k ∧
              ∀ i, i ≠ kTarget l - 0x400 → dslot u i = dslot s i)))) ∧
    (s.cip.evicting.find? (fun e => e.2.2 == b) = some (t, j, b') → j < s.plp.jSeq → serving s b = true → (0x400 ≤ t ∨ keyIdle s t = true) →
      (getMbx s b).backlog.head? = some f →
      ∃ u, exec (.keyEvictReply b) s = .next u ∧ Only [.cip, .mbxs] s u ∧ Replies s u b f 0 [] [] ∧
        u.cip.evicting = s.cip.evicting.filter (fun e => e.2.2 != b) ∧ u.cip.dslots = s.cip.dslots ∧
        (∀ i, i ≠ t ∨ 0x400 ≤ t → tslot u i = tslot s i) ∧
        (t < 0x400 → (tslot u t).key = [] ∧ (∀ k ∈ u.cip.cache, k.1 % 1024 ≠ t) ∧
          (cipherWork s t = false → tslot u t = emptySlot (tslot s t)))) ∧
    (AtRequest s b f → isOp 0x8B f = true →
      (∀ e, sanRefused s (fArg f.bytes 0) (fArg f.bytes 1) (fTarget f.bytes) = some e →
        ∃ u, exec (.sanitize b) s = .next u ∧ Only [.mbxs] s u ∧ Replies s u b f e [] []) ∧
      (sanRefused s (fArg f.bytes 0) (fArg f.bytes 1) (fTarget f.bytes) = none →
        ∀ k, k = (if fArg f.bytes 0 = 1 ∧ instOf s (fTarget f.bytes) = 0x3FFFFF then 2 else fArg f.bytes 0) →
        ∃ u x, exec (.sanitize b) s = .next u ∧ u.cip.san = some x ∧ x.kind = k ∧ x.box = some b ∧ x.jno = s.plp.jSeq ∧
          u.cip.sanKind = k ∧ u.cip.sanTenant = (if k ≤ 2 then fTarget f.bytes else 0) ∧ (getMbx u b).busy = true ∧
          (3 ≤ k → u.cip.plainAllow = true ∧ ∀ i, 1 ≤ i → i ≤ 4 → (dslot u i).state = 0 ∧ (dslot u i).key = []) ∧
          ∀ i ∈ sanTenants s k (fTarget f.bytes),
            (tslot u i).state = (if (tslot s i).state = 1 then 3 else (tslot s i).state) ∧ (tslot u i).persist = false ∧
            (instOf s i < 0x3FFFFF → instOf s i < instOf u i) ∧
            (k ≤ 2 → instOf s i < 0x3FFFFF → instOf u i = instOf s i + 1) ∧
            ∀ z, z < (tenD s i).nz →
              (getZone u i z).st = .empty ∧ (getZone u i z).wp = 0 ∧ (getZone u i z).epoch = 0 ∧ (getZone u i z).members = [] ∧
              (k ≤ 2 → (getZone u i z).gen = ((getZone s i z).gen + 1) % p32))) ∧
    (∀ x, s.cip.san = some x → x.box = some b → x.jno < s.plp.jSeq → serving s b = true → x.left.all (wiped s) = true →
      (sanTenants s x.kind x.tenant).all (keyIdle s) = true → (x.kind ≠ 4 ∨ s.bpm.alloc = []) → (getMbx s b).backlog.head? = some f →
      ∃ u, exec (.sanitizeDone b) s = .next u ∧ u.cip.san = none ∧ bit u.cip.evt 7 = true ∧ Replies s u b f 0 [x.kind] [] ∧
        u.zones = s.zones ∧ u.cmds = s.cmds ∧ u.vers = s.vers ∧
        ∀ i ∈ sanTenants s x.kind x.tenant, (tslot u i).key = [] ∧ (∀ k ∈ u.cip.cache, k.1 % 1024 ≠ i) ∧
          (cipherWork s i = false → (tslot u i).state = 0))

/-- Mailbox queues (R295, R296): a doorbell takes the window to the tail of the request queue, or counts a drop when that is full; the
XV8 takes the head into the backlog, unless a shutdown or a warm reset has begun; a generated reply goes to the tail of the reply queue, its
data first, once what it reports is durable (log 139, DEDUCED); a pop removes the head. -/
def Obligations.FramesMoveInOrder : Prop :=
  ∀ (s : State) (p : Port) (b : Box) (v : Word),
    (OwnsBox s p b → v.toNat = 1 →
      ((getMbx s b).reqQ.length < 16 → ∃ u f, exec (.mbxDoorbell p b v) s = .next u ∧ Only [.mbxs] (woken s (boxPath p b).1 2) u ∧
        getMbx u b = { getMbx s b with reqQ := (getMbx s b).reqQ ++ [f] } ∧ f.bytes = padTo 64 (getMbx s b).req ∧ f.data = []) ∧
      (16 ≤ (getMbx s b).reqQ.length → ∃ u, exec (.mbxDoorbell p b v) s = .next u ∧ (getMbx u b).reqQ = (getMbx s b).reqQ ∧
        (getMbx u b).drops = satAdd 0xFFFF (getMbx s b).drops 1 ∧ bit (getMbx u b).ist 2 = true) ∧
      (∀ f t, (getMbx s b).rspQ = f :: t → f.resets = false → ∃ u, exec (.mbxPop p b v) s = .next u ∧
        Only [.mbxs] (woken s (boxPath p b).1 3) u ∧ getMbx u b = { getMbx s b with rspQ := t }) ∧
      ((getMbx s b).rspQ = [] → exec (.mbxPop p b v) s = .next (woken s (boxPath p b).1 3))) ∧
    (∀ f t, (getMbx s b).reqQ = f :: t → serving s b = true → backlogCount (getMbx s b) < 16 →
      s.adm.shutdown = false →
      ∃ u g, exec (.mbxTakeRequest b) s = .next u ∧ Only [.mbxs, .takeNo, .pa, .pb, .out] s u ∧ (getMbx u b).reqQ = t ∧
        (getMbx u b).backlog = (getMbx s b).backlog ++ [g] ∧ g = { f with no := s.takeNo, duringSan := s.cip.san.isSome } ∧
        u.takeNo = s.takeNo + 1 ∧ bit (getMbx u b).ist 1 = true) ∧
    (s.adm.shutdown = true → exec (.mbxTakeRequest b) s = .next s) ∧
    (∀ f, (getMbx s b).held = some f → notDurable s f = true → exec (.mbxReplyPost b) s = .next s) ∧
    (∀ f, (getMbx s b).held = some f → f.resets = false → (getMbx s b).rspQ.length < 16 → notDurable s f = false →
      (s.boot.ready = true ∨ s.boot.stopped = true) →
      (f.agent = 3 ∨ f.data = [] ∨ canWrite s (boxPath (agentPort f.agent) b).1 (boxPath (agentPort f.agent) b).2 = true) →
      ∃ u, exec (.mbxReplyPost b) s = .next u ∧ Only [.mbxs, .pa, .pb, .out] s u ∧ (getMbx u b).held = none ∧
        (getMbx u b).rspQ = (getMbx s b).rspQ ++ [f] ∧ bit (getMbx u b).ist 0 = true ∧
        (f.agent ≠ 3 → f.data ≠ [] →
          .bytes (boxPath (agentPort f.agent) b).1 (boxPath (agentPort f.agent) b).2 f.raddr f.data
            (getFn s (boxPath (agentPort f.agent) b).1 (boxPath (agentPort f.agent) b).2).relaxed ∈ u.out))

/-- Locks (R298, R300): a read of a free MBX_LOCKn returns 0 and makes the reader the owner, any other returns the owner; only the
owner's own number releases; MBX_BREAK with its key frees the lock, empties the queues and discards the replies of work under way. -/
def Obligations.LocksAreTakenAndLeft : Prop :=
  ∀ (s : State) (p : Port) (n : Nat) (v : Word),
    (Reaches s p 0 → ∃ u, exec (.mbxLockRead p n) s = .next u ∧
      Only [.mbxs, .out] (woken s p 3) u ∧ u.out = s.out ++ [.value p (BitVec.ofNat 32 (getMbx s (.pf0 n)).owner)] ∧
      getMbx u (.pf0 n) = { getMbx s (.pf0 n) with
        owner := if (getMbx s (.pf0 n)).owner = 0 then agentOf p else (getMbx s (.pf0 n)).owner }) ∧
    (Writable s p 0 → v.toNat < 8 → ∃ u, exec (.mbxLockRelease p n v) s = .next u ∧ Only [.mbxs] (woken s p 3) u ∧
      getMbx u (.pf0 n) = { getMbx s (.pf0 n) with
        owner := if (getMbx s (.pf0 n)).owner = agentOf p ∧ v.toNat = agentOf p then 0 else (getMbx s (.pf0 n)).owner }) ∧
    (Writable s p 0 → n < 8 → v.toNat = 0x5A000000 + n → 1 ≤ (getMbx s (.pf0 n)).owner → (getMbx s (.pf0 n)).owner ≤ 3 →
      (∀ f, (getMbx s (.pf0 n)).held = some f → f.resets = false) →
      ∃ u, exec (.mbxBreak p v) s = .next u ∧ Only [portPart p, .rst, .pa, .pb, .out, .mbxs, .evr] s u ∧ (getMbx u (.pf0 n)).owner = 0 ∧
        (getMbx u (.pf0 n)).reqQ = [] ∧ (getMbx u (.pf0 n)).rspQ = [] ∧ (getMbx u (.pf0 n)).held = none ∧
        (getMbx u (.pf0 n)).backlog = (getMbx s (.pf0 n)).backlog.map fun f => { f with mute := true })

/-- The commands that run a mailbox's oldest request of one opcode (Table 13.6), where it takes no data: a request that fails a check common
to every opcode gives that result (R305); IDENTIFY, GET_LOG, GET_CONFIG, HEALTH and EVREC_PERSIST reply with what they report, an unknown log
page with result 1, and EVREC_PERSIST waits while a clear of the log runs. -/
def Obligations.QueriesReply : Prop :=
  ∀ (s : State) (b : Box) (f : Frame),
    (∀ e c, nextReq s b = some f → reqError s b f = some e →
      (c = .identify b ∧ fOp f.bytes = 0x80 ∨ c = .getLog b ∧ fOp f.bytes = 0x81 ∨ c = .getConfig b ∧ fOp f.bytes = 0x83 ∨
        c = .health b ∧ fOp f.bytes = 0x89 ∨ c = .evrecPersist b ∧ fOp f.bytes = 0x8D ∨
        c = .mbxInvalidOpcode b ∧ knownOp (fOp f.bytes) = false ∧ e = 0xF0) →
      ∃ u, exec c s = .next u ∧ Only [.mbxs] s u ∧ Replies s u b f e [] []) ∧
    (AtRequest s b f →
      (fOp f.bytes = 0x80 → ∃ u, exec (.identify b) s = .next u ∧ Only [.mbxs] s u ∧
        Replies s u b f 0 [] (if fArg f.bytes 0 = 0 then identifyDevice s else if fArg f.bytes 0 = 1 then identifyTenant s (reqTenant b f)
          else identifyQual s)) ∧
      (fOp f.bytes = 0x81 → fArg f.bytes 0 ≠ 0x11 →
        (∀ d, logPage s (fArg f.bytes 0) (reqTenant b f) (fArg f.bytes 1) = some d →
          ∃ u, exec (.getLog b) s = .next u ∧ Only [.mbxs] s u ∧ Replies s u b f 0 [d.length] d) ∧
        (logPage s (fArg f.bytes 0) (reqTenant b f) (fArg f.bytes 1) = none →
          ∃ u, exec (.getLog b) s = .next u ∧ Only [.mbxs] s u ∧ Replies s u b f 1 [] [])) ∧
      (fOp f.bytes = 0x81 → fArg f.bytes 0 = 0x11 → ∀ x l, eventPage s.evr (fArg f.bytes 1 == 1) (fArg f.bytes 2) (room f / 32) = x :: l →
        ∃ u y, exec (.getLog b) s = .next u ∧ Only [.mbxs] s u ∧ (x :: l).getLast? = some y ∧
          Replies s u b f 0 [((x :: l).flatMap fun r => recBytes r.2).length, x.1, (y.1 + 1) % p32] ((x :: l).flatMap fun r => recBytes r.2)) ∧
      (fOp f.bytes = 0x83 → fTarget f.bytes ≠ 0xFFFFFFFF →
        ∃ u, exec (.getConfig b) s = .next u ∧ Only [.mbxs] s u ∧ Replies s u b f 0 []
          (imageOf (fieldBytes 1 (fTarget f.bytes) ++ tenIds.flatMap fun i => fieldBytes i (tenGet s (fTarget f.bytes) i)))) ∧
      (fOp f.bytes = 0x83 → fTarget f.bytes = 0xFFFFFFFF →
        ∃ u, exec (.getConfig b) s = .next u ∧ Only [.mbxs] s u ∧ Replies s u b f 0 []
          (imageOf (devIds.flatMap fun i => fieldBytes i (devGet s i)))) ∧
      (fOp f.bytes = 0x89 → ∃ u, exec (.health b) s = .next u ∧ Only [.mbxs] s u ∧ Replies s u b f 0
        [hltSummary s, spareMin s, wearWord s false, wearWord s true, thmTmax s, dirtyMib s, idtStatus s, plpStat s] []) ∧
      (fOp f.bytes = 0x8D → logClearing s.evr = true → exec (.evrecPersist b) s = .next s) ∧
      (fOp f.bytes = 0x8D → logClearing s.evr = false → s.hlt.known = true → 0 < s.evr.waiting.length → s.evr.waiting.length ≤ 8192 →
        ∃ u n x, exec (.evrecPersist b) s = .next u ∧ Only [.mbxs, .evr] s u ∧ u.evr.waiting = [] ∧ u.evr.log.getLast? = some (n, x) ∧
          s.evr.waiting.getLast? = some x ∧ Replies s u b f 0 [x.num % 65536, x.time % p32] []))

/-- Requests that change the device (R312, R313, R316 to R322, R340, R368): a configuration image, a tenant's creation and deletion,
the die thresholds, and a quadrant reset. The reply of what is persisted follows its journal record (log 139, DEDUCED). -/
def Obligations.RequestsConfigure : Prop :=
  ∀ (s : State) (b : Box) (f : Frame) (d : ReqData) (l : List Byte), AtRequest s b f →
    (fOp f.bytes = 0x82 → DataAt s b f d l →
      (parseImage l = none → ∃ u, exec (.setConfig b d) s = .next u ∧ Only [.mbxs] s u ∧ Replies s u b f 7 [] []) ∧
      (∀ v, parseImage l = some ([{ id := 0x105, len := 4, val := v }], 0) → 1 ≤ v → v ≤ 60000 → dirtyBytes s ≤ s.plp.dmaxMib * 1048576 →
        ∃ u, exec (.setConfig b d) s = .next u ∧ Only [.mbxs, .adm, .plp, .cfgReport, .cfgOpen] s u ∧
          u.adm = { s.adm with ucHoldMaxMs := v } ∧ u.cfgReport = [] ∧ u.plp.jRecs = s.plp.jRecs + 1 ∧
          u.cfgOpen = some (cfgNow s s.plp.jSeq) ∧ (∀ r, (getMbx u b).held = some r → r.after = some s.plp.jSeq) ∧ Replies s u b f 0 [1, 0, 0] [])) ∧
    (fOp f.bytes = 0x84 → DataAt s b f d l →
      ((getTen s (fTarget f.bytes)).isSome = true → ∃ u, exec (.tenantCreate b d) s = .next u ∧ Only [.mbxs] s u ∧ Replies s u b f 1 [] []) ∧
      (∀ nz, parseImage l = some ([{ id := 0x203, len := 4, val := nz }], 0) → 1 ≤ nz → nz ≤ 1024 → Tab.wf none s.tenants = true → tenants s = [] →
        (newTenant.w + parityN newTenant) * nz ≤ zonePool s → instOf s (fTarget f.bytes) < 0x3FFFFF →
        ∃ u x, exec (.tenantCreate b d) s = .next u ∧ getTen u (fTarget f.bytes) = some x ∧ x.nz = nz ∧ x.nextAccept = 0 ∧
          instOf u (fTarget f.bytes) = instOf s (fTarget f.bytes) + 1 ∧ (tslot u (fTarget f.bytes)).state = 0 ∧
          (∀ z, z < 4194304 → getZone u (fTarget f.bytes) z = {}) ∧ u.cfgOpen = some (cfgNow s s.plp.jSeq) ∧
          Replies s u b f 0 [instOf s (fTarget f.bytes) + 1, 1, 0, zoneSize x] [])) ∧
    (fOp f.bytes = 0x85 →
      ((∃ c ∈ s.cmds, c.tenant = fTarget f.bytes) → ∃ u, exec (.tenantDelete b) s = .next u ∧ Only [.mbxs] s u ∧ Replies s u b f 1 [] []) ∧
      ((∀ c ∈ s.cmds, c.tenant ≠ fTarget f.bytes) → ∃ u, exec (.tenantDelete b) s = .next u ∧ getTen u (fTarget f.bytes) = none ∧
        (tslot u (fTarget f.bytes)).state = 0 ∧ instOf u (fTarget f.bytes) = instOf s (fTarget f.bytes) ∧
        (∀ z, z < 4194304 → getZone u (fTarget f.bytes) z = {}) ∧ (∀ n, n < 8 → b = .pf0 n → Replies s u b f 0 [] []))) ∧
    (fOp f.bytes = 0x8A → (fArg f.bytes 0 = 0xF ∨ fArg f.bytes 0 = 0x10F) →
      (∀ a c e g, clampTo (thrRange 0) (bits (fArg f.bytes 1) 0 8) = a → clampTo (thrRange 1) (bits (fArg f.bytes 1) 8 8) = c →
        clampTo (thrRange 2) (bits (fArg f.bytes 1) 16 8) = e → clampTo (thrRange 3) (bits (fArg f.bytes 1) 24 8) = g →
        (a ≤ c → c + 4 ≤ e → e + 3 ≤ g → ∃ u, exec (.thermalSet b) s = .next u ∧ Only [.mbxs, .thm, .plp, .cfgOpen] s u ∧
          u.thm.tNext = [a, c, e, g] ∧
          (fArg f.bytes 0 = 0xF → Only [.mbxs, .thm] s u ∧ u.thm = { s.thm with tNext := [a, c, e, g] }) ∧
          (fArg f.bytes 0 = 0x10F → u.thm = { s.thm with tNext := [a, c, e, g], tConf := [a, c, e, g] } ∧
            u.plp = { s.plp with jRecs := s.plp.jRecs + 1 } ∧ u.cfgOpen = some (cfgNow s s.plp.jSeq)) ∧
          Replies s u b f 0 [threshWord [a, c, e, g], maskOf 4 fun i =>
            nth 0 [a, c, e, g] i != bits (fArg f.bytes 1) (8 * i) 8] []) ∧
        (¬(a ≤ c ∧ c + 4 ≤ e ∧ e + 3 ≤ g) → ∃ u, exec (.thermalSet b) s = .next u ∧ Only [.mbxs] s u ∧ Replies s u b f 1 [] []))) ∧
    (fOp f.bytes = 0x8C →
      (3 < fArg f.bytes 0 → ∃ u, exec (.quadrantReset b) s = .next u ∧ Only [.mbxs] s u ∧ Replies s u b f 1 [] []) ∧
      (fArg f.bytes 0 ≤ 3 →
        ∃ u, exec (.quadrantReset b) s = .next u ∧ Only [.mbxs, .rst] s u ∧ Tab.get 0 u.rst.qState (fArg f.bytes 0) = 1 ∧
          Tab.get 0 u.rst.qPhase (fArg f.bytes 0) =
            (if Tab.get 0 s.rst.qState (fArg f.bytes 0) = 1 then Tab.get 0 s.rst.qPhase (fArg f.bytes 0) else 7) ∧ u.rst.qWait = s.rst.qWait ++ [(fArg f.bytes 0, b, s.nowNs)] ∧
          (getMbx u b).busy = true ∧ (getMbx u b).backlog = (getMbx s b).backlog))

/-- Quadrant resets (R340 to R342): one that D allows begins and limits D_max; it ends with its quadrant in service or failed, is
counted, and answers the request that asked for it; its link has its spares back but for failed lanes that do not pass training. -/
def Obligations.QuadrantResetsEnd : Prop :=
  ∀ (s : State) (q us bad : Nat) (b : Box) (f : Frame) (ns : Nat), q < 4 →
    (running s = true → Tab.get 0 s.rst.qState q = 1 → Tab.get 0 s.rst.qPhase q = 7 → fitsWithout s q = true →
      ∃ u, exec (.quadrantResetBegin q) s = .next u ∧ Tab.get 0 u.rst.qState q = 1 ∧ Tab.get 0 u.rst.qPhase q = 1 ∧ u.plp.qrLimit = true ∧
        u.rst.qWait = s.rst.qWait ∧ u.cmds = s.cmds ∧ u.vers = s.vers) ∧
    (quadRuns s q = true → s.rst.qWait = [(q, b, ns)] → (getMbx s b).backlog.head? = some f →
      (∃ u, exec (.quadrantResetDone q ⟨us, bad⟩) s = .next u ∧ Tab.get 0 u.rst.qState q = 0 ∧ Tab.get 0 u.rst.qPhase q = 0 ∧
        Tab.get 0 u.rst.qResets q = satAdd 0xFFFF (Tab.get 0 s.rst.qResets q) 1 ∧ Tab.get 0 u.rst.qLastUs q = min 0xFFFF us ∧
        Tab.get 0 u.media.links q = min bad (Tab.get 0 s.media.links q) ∧ u.rst.qWait = [] ∧ u.cmds = s.cmds ∧ Replies s u b f 0 [us] []) ∧
      (s.cmds = [] → ∃ u, exec (.quadrantResetFail q us) s = .next u ∧ Tab.get 0 u.rst.qState q = 2 ∧
        Tab.get 0 u.rst.qResets q = satAdd 0xFFFF (Tab.get 0 s.rst.qResets q) 1 ∧ u.rst.qWait = [] ∧ Replies s u b f 2 [us] []))

/-- Firmware images (R358, R359, R363): a first chunk starts a staging, the next one extends it, the last one is verified and then
written or discarded, and the write ends with the image in its slot or with a device error. BOOT_RD_CTL.GO reads 64 bytes of a slot. -/
def Obligations.ImagesAreStaged : Prop :=
  ∀ (s : State) (b : Box) (f : Frame) (d : ReqData) (l : List Byte) (p : Port),
    (AtRequest s b f → fOp f.bytes = 0x87 → DataAt s b f d l → s.boot.ready = true → s.boot.stopped = false →
      (fArg f.bytes 0 = 1 → fArg f.bytes 1 = 0 → s.boot.stState = 0 → l.length ≤ imageMax →
        ∃ u, exec (.fwStage b d) s = .next u ∧ Only [.mbxs, .boot] s u ∧ u.boot = { s.boot with
            stState := 1, stAgent := f.agent, stTarget := 1 - s.boot.slot, stBytes := l.length, stData := l, stBox := none } ∧
          Replies s u b f 0 [l.length] []) ∧
      (fArg f.bytes 0 = 0 → s.boot.stState = 1 → s.boot.stAgent = f.agent → fArg f.bytes 1 = s.boot.stBytes →
        s.boot.stBytes + l.length ≤ imageMax →
        ∃ u, exec (.fwStage b d) s = .next u ∧ Only [.mbxs, .boot] s u ∧
          u.boot = { s.boot with stBytes := s.boot.stBytes + l.length, stData := s.boot.stData ++ l } ∧
          Replies s u b f 0 [s.boot.stBytes + l.length] []) ∧
      (fArg f.bytes 0 = 0 → s.boot.stState = 1 → s.boot.stAgent = f.agent → fArg f.bytes 1 ≠ s.boot.stBytes →
        ∃ u, exec (.fwStage b d) s = .next u ∧ Only [.mbxs] s u ∧ Replies s u b f 1 [] []) ∧
      (∀ v, fArg f.bytes 0 = 2 → s.boot.stState = 1 → s.boot.stAgent = f.agent → fArg f.bytes 1 = s.boot.stBytes →
        s.boot.stBytes + l.length ≤ imageMax →
        verifyStage { s with boot := { s.boot with stBytes := s.boot.stBytes + l.length, stData := s.boot.stData ++ l } } = v →
        ∃ u, exec (.fwStageLast b d) s = .next u ∧ Only [.mbxs, .boot] s u ∧
          (v ≠ 0 → u.boot.stState = 0 ∧ u.boot.stData = [] ∧ Replies s u b f v [] []) ∧
          (v = 0 → u.boot.stState = 2 ∧ u.boot.stData = s.boot.stData ++ l ∧ (getMbx u b).busy = true ∧
            (getDev u.boot s.boot.stTarget).busy = true ∧ (trailerSeq u.boot s.boot.stTarget) = none))) ∧
    (∀ x, s.boot.stBox = some (b, x) → s.boot.stState = 2 → flushing s = false → s.ckm.stopped = false →
      (getMbx s b).backlog.head? = some f →
      ((getDev s.boot s.boot.stTarget).present = true →
        ∃ u, exec (.bootFlashWriteDone false) s = .next u ∧ Only [.mbxs, .boot] s u ∧ u.boot.stState = 3 ∧
          (getDev u.boot s.boot.stTarget).busy = false ∧ (getDev u.boot s.boot.stTarget).prot = [] ∧
          getDev u.boot (1 - s.boot.stTarget) = getDev s.boot (1 - s.boot.stTarget) ∧ Replies s u b f 0 [s.boot.stBytes] []) ∧
      (∃ u, exec (.bootFlashWriteDone true) s = .next u ∧ u.boot.stState = 0 ∧ (getDev u.boot s.boot.stTarget).busy = false ∧
        Replies s u b f 5 [] [])) ∧
    (Writable s p 0 → (getDev s.boot s.boot.rdDev).busy = false → (getDev s.boot s.boot.rdDev).present = true →
      ∃ u, exec (.bootFlashRead p) s = .next u ∧ Only [.boot] (woken s p 3) u ∧ u.boot = { s.boot with
        rdDone := true, rdErr := 0, rdData := devBytes (getDev s.boot s.boot.rdDev) s.boot.rdAddr 64 })

/-- Activation (R343, R345, R360 to R362): mode 0 begins a live activation, which ends with the new version or with the old one, and what waited for it goes on; modes
1 and 2 name the staged slot for the next boot, mode 2 with a device warm reset that starts 10 ms after its reply at the latest. -/
def Obligations.ImagesAreActivated : Prop :=
  ∀ (s : State) (b : Box) (f : Frame) (ms : Nat),
    (AtRequest s b f → fOp f.bytes = 0x88 →
      (fArg f.bytes 0 = 0 → s.boot.stopped = false → s.boot.stState = 3 → liveOk s = true →
        ∃ u, exec (.fwActivateLive b) s = .next u ∧ Only [.mbxs, .rst, .pa, .pb, .out] s u ∧ u.rst = { s.rst with actState := 1, actBox := some (b, 0) } ∧
          (getMbx u b).busy = true) ∧
      (s.boot.stState = 3 → (fArg f.bytes 0 = 1 → ∃ u, exec (.fwActivateNextReset b) s = .next u ∧ Only [.mbxs, .boot] s u ∧
          u.boot = { s.boot with next := s.boot.stTarget } ∧ Replies s u b f 0 [stField s 8 4] []) ∧
        (fArg f.bytes 0 = 2 → f.mute = false → ∃ u r, exec (.fwActivateWarmReset b) s = .next u ∧ Only [.mbxs, .boot] s u ∧
          u.boot = { s.boot with next := s.boot.stTarget } ∧ (getMbx u b).held = some r ∧ r.resets = true ∧
          r.bytes = replyBytes f.bytes 0 [stField s 8 4] 0 0 f.agent)) ∧
      (s.boot.stState ≠ 3 → fArg f.bytes 0 = 1 →
        ∃ u, exec (.fwActivateNextReset b) s = .next u ∧ Only [.mbxs] s u ∧ Replies s u b f 6 [] [])) ∧
    (s.rst.warmPhase = 1 → flushing s = false → s.rst.warmNs + 10000000 ≤ s.nowNs → s.boot.ready = true →
      ∃ u, exec .fwActivateResetTimeout s = .next u ∧ Only [.rst, .adm] s u ∧ u.rst.warmPhase = 2 ∧ u.rst.nextCause = 3 ∧
        u.adm.shutdown = true) ∧
    (s.rst.actState ≠ 0 → flushing s = false → s.ckm.stopped = false → s.rst.actBox = some (b, 0) → (getMbx s b).backlog.head? = some f →
      (∃ u, exec (.liveActivationDone ms) s = .next u ∧ u.boot.fwVer = stField s 8 4 ∧
        u.boot.slot = s.boot.stTarget ∧ u.boot.next = s.boot.stTarget ∧ u.rst.actState = 0 ∧ u.rst.actResult = 1 ∧ u.rst.actMs = min 0xFFFF ms ∧
        ((∀ c ∈ s.cmds, c.ph ≠ .fwWait) → Only [.mbxs, .rst, .boot, .pa, .pb, .out] s u ∧ Replies s u b f 0 [stField s 8 4] [])) ∧
      (∃ u, exec (.liveActivationRevert ms) s = .next u ∧ u.rst.actState = 0 ∧ u.rst.actResult = 2 ∧ u.boot = s.boot ∧
        ((∀ c ∈ s.cmds, c.ph ≠ .fwWait) → Only [.mbxs, .rst, .evr, .pa, .pb, .out, .freeCtr] s u ∧ Replies s u b f 8 [s.boot.fwVer] [])))

/-- MCTP control messages (R307) are answered, after the wake that an SMBus transaction causes: an EID from 1 to 254 is assigned; the
EID, UUID, versions, message types and vendor are reported. The bodies of these answers follow DSP0236 (log 60, the model's). The MCTP
bridge works for agent 3 (R308, R309): it takes and leaves PF0 locks, queues requests and fetches replies of mailboxes whose lock agent
3 owns, reads MBX_STATn and breaks locks; a mailbox number above 7 is answered with STATUS 4. -/
def Obligations.TheEndpointAnswers : Prop :=
  (∀ (s : State) (op eid ty sel : Byte), s.pins.porHeld = false → s.ckm.stopped = false →
      (op.toNat % 4 < 2 → 1 ≤ eid.toNat → eid.toNat ≤ 254 → exec (.setEndpointId op eid) s = .next (emit { wake s 8 with mctp := { (wake s 8).mctp with eid := eid.toNat } }
          (.mctp [0#8, 0#8, 1#8, 0#8, 0#8, eid, 0#8]))) ∧
      (2 ≤ op.toNat % 4 ∨ eid.toNat = 0 ∨ eid.toNat = 255 → exec (.setEndpointId op eid) s = .next (emit (wake s 8) (.mctp [0#8, 0#8, 1#8, 2#8]))) ∧
      exec .getEndpointId s = .next (emit (wake s 8) (.mctp ([0#8, 0#8, 2#8, 0#8] ++ leBytes 1 s.mctp.eid ++ [0#8, 0#8]))) ∧
      exec .getEndpointUuid s = .next (emit (wake s 8) (.mctp ([0#8, 0#8, 3#8, 0#8] ++ padTo 16 Config.uuid))) ∧
      (ty = 0x00#8 ∨ ty = 0x7E#8 ∨ ty = 0xFF#8 → exec (.getMctpVersionSupport ty) s = .next (emit (wake s 8) (.mctp ([0#8, 0#8, 4#8, 0#8] ++
        leBytes 1 ((Config.mctpVersions ty.toNat).length / 4) ++ Config.mctpVersions ty.toNat)))) ∧
      (ty ≠ 0x00#8 → ty ≠ 0x7E#8 → ty ≠ 0xFF#8 → exec (.getMctpVersionSupport ty) s = .next (emit (wake s 8) (.mctp [0#8, 0#8, 4#8, 0x80#8]))) ∧
      exec .getMessageTypeSupport s = .next (emit (wake s 8) (.mctp [0#8, 0#8, 5#8, 0#8, 1#8, 0x7E#8])) ∧
      (sel = 0#8 → exec (.getVendorDefinedMessageSupport sel) s = .next (emit (wake s 8) (.mctp ([0#8, 0#8, 6#8, 0#8, 0xFF#8, 0#8, 0x1F#8, 0x4C#8] ++
        padTo 2 Config.mctpCommandSet)))) ∧
      (sel ≠ 0#8 → exec (.getVendorDefinedMessageSupport sel) s = .next (emit (wake s 8) (.mctp [0#8, 0#8, 6#8, 2#8])))) ∧
  (∀ (s : State) (n : Nat) (fr dt : List Byte), s.pins.porHeld = false → s.ckm.stopped = false → s.mctp.eid ≠ 0 →
      (n ≤ 7 → ∃ u, exec (.mctpLock n) s = .next u ∧ Only [.rst, .mbxs, .out] s u ∧
        (getMbx u (.pf0 n)).owner = (if (getMbx s (.pf0 n)).owner = 0 then 3 else (getMbx s (.pf0 n)).owner) ∧
        u.out = s.out ++ [.mctp ([0x7E#8, 0x1F#8, 0x4C#8, 1#8] ++ leBytes 1 n ++ [0#8, 0#8, 0#8] ++ leBytes 1 (getMbx s (.pf0 n)).owner)]) ∧
      (7 < n → ∃ u, exec (.mctpLock n) s = .next u ∧ Only [.rst, .out] s u ∧
        u.out = s.out ++ [.mctp ([0x7E#8, 0x1F#8, 0x4C#8, 1#8] ++ leBytes 1 n ++ [4#8, 0#8, 0#8])]) ∧
      (n ≤ 7 → flushing s = false → (getMbx s (.pf0 n)).owner = 3 →
        (∃ u, exec (.mctpRelease n) s = .next u ∧ Only [.rst, .mbxs, .out] s u ∧ getMbx u (.pf0 n) = { getMbx s (.pf0 n) with owner := 0 }) ∧
        (dt.length ≤ 4096 → (getMbx s (.pf0 n)).reqQ.length < 16 →
          ∃ u, exec (.mctpSend n fr dt) s = .next u ∧ Only [.rst, .mbxs, .out] s u ∧ (getMbx u (.pf0 n)).reqQ = (getMbx s (.pf0 n)).reqQ ++
              [{ bytes := padTo 64 fr, data := dt, agent := 3 }] ∧
            u.out = s.out ++ [.mctp ([0x7E#8, 0x1F#8, 0x4C#8, 3#8] ++ leBytes 1 n ++ [0#8, 0#8, 0#8])]) ∧
        (dt.length ≤ 4096 → 16 ≤ (getMbx s (.pf0 n)).reqQ.length →
          ∃ u, exec (.mctpSend n fr dt) s = .next u ∧ Only [.rst, .out] s u ∧
            u.out = s.out ++ [.mctp ([0x7E#8, 0x1F#8, 0x4C#8, 3#8] ++ leBytes 1 n ++ [2#8, 0#8, 0#8])]) ∧
        (∀ f t, (getMbx s (.pf0 n)).rspQ = f :: t → f.resets = false →
          ∃ u, exec (.mctpFetch n) s = .next u ∧ Only [.rst, .mbxs, .out] s u ∧ (getMbx u (.pf0 n)).rspQ = t ∧
            u.out = s.out ++ [.mctp ([0x7E#8, 0x1F#8, 0x4C#8, 4#8] ++ leBytes 1 n ++ [0#8] ++ beBytes 2 f.data.length ++ (f.bytes ++ f.data))])) ∧
      (n ≤ 7 → ∃ u, exec (.mctpStatus n) s = .next u ∧ Only [.rst, .out] s u ∧
        u.out = s.out ++ [.mctp ([0x7E#8, 0x1F#8, 0x4C#8, 5#8] ++ leBytes 1 n ++ [0#8, 0#8, 0#8] ++ leBytes 4 (readMbx s (.pf0 n) 0x48))]) ∧
      (n ≤ 7 → flushing s = false → 1 ≤ (getMbx s (.pf0 n)).owner → (getMbx s (.pf0 n)).owner ≤ 3 →
        ∃ u, exec (.mctpBreak n) s = .next u ∧ (getMbx u (.pf0 n)).owner = 0 ∧ (getMbx u (.pf0 n)).reqQ = [] ∧ (getMbx u (.pf0 n)).rspQ = [] ∧
          (getMbx u (.pf0 n)).held = none) ∧
      (alertOn s = true → exec .smbusAlertResponse s = .next (emit s (.smbus (BitVec.ofNat 8 s.mctp.addr)))) ∧
      (alertOn s = false → exec .smbusAlertResponse s = .next s))

/-- References and PLLs (R325, R326, R328 to R331): a missing Selected reference is deselected and counted; the fourth comparison in
window selects a reference, REFCLKA first as core source; a window out of tolerance starts the counts again; edges that return are
judged; a boot goes on with one reference; a core PLL's fault resets the device, with cause 6; with both references lost every clock
stops. -/
def Obligations.ReferencesAreJudged : Prop :=
  ∀ (s : State) (r : Port) (n m : Nat), s.pins.porHeld = false →
    (s.ckm.stopped = false → (refOf s r.other).st ≠ 0 →
      ((refOf s r).st = 2 → ∃ u, exec (.refclkMissing r) s = .next u ∧ (refOf u r).st = 0 ∧
        (refOf u r).desel = satAdd 0xFFFF (refOf s r).desel 1 ∧ bit u.ckm.evt r.num = true ∧ (getPort u r).linkUp = false ∧
        refOf u r.other = refOf s r.other) ∧
      ((refOf s r).st ≠ 2 → exec (.refclkMissing r) s = .next (modRef s r fun x => { x with st := 0, goodCmps := 0 }))) ∧
    (s.ckm.stopped = false → (refOf s .a).st = 1 → (refOf s .b).st = 1 →
      (inWindow s.ckm.tolPpm n = true → inWindow s.ckm.tolPpm m = true → (refOf s .a).goodCmps = 3 → (refOf s .b).goodCmps = 3 →
        s.ckm.plls = [] → ∃ u, exec (.refclkComparison n m true true) s = .next u ∧ (refOf u .a).st = 2 ∧ (refOf u .b).st = 2 ∧
          u.ckm.coreSrc = false ∧ (refOf u .a).cmp = min 0x1FFFF n ∧ (refOf u .b).cmp = min 0x1FFFF m ∧
          bit u.ckm.evt 2 = true ∧ bit u.ckm.evt 3 = true) ∧
      (inWindow s.ckm.tolPpm n = false → ∃ u, exec (.refclkComparison n m true true) s = .next u ∧ Only [.ckm] s u ∧
        (refOf u .a).st = 1 ∧ (refOf u .b).st = 1 ∧ (refOf u .a).goodCmps = 0 ∧ (refOf u .b).goodCmps = 0)) ∧
    ((refOf s r).st = 0 → exec (.refclkEdgesReturn r) s = .next (modRef s r fun x => { x with st := 1, goodCmps := 0, sinceNs := s.nowNs })) ∧
    (s.ckm.stopped = false → s.boot.ready = false → s.boot.phase = 2 → s.ckm.plls = [] → (refOf s r).st = 1 → (refOf s r.other).st = 0 →
      (refOf s r).sinceNs + 100000000 ≤ s.nowNs → ∃ u, exec .singleReferenceBoot s = .next u ∧ clocksUp u = true ∧
        u.ckm.unmonitored = true ∧ u.ckm.coreSrc = (r == .b) ∧ bit u.ckm.evt 6 = true) ∧
    (s.ckm.stopped = false → n = 0 ∨ n = 9 ∨ n = 10 → (Tab.get {} s.ckm.plls n).on = true →
      ∃ u, exec (.pllFault n []) s = .next u ∧ u.rst.cause = 6 ∧ u.boot.phase = 1 ∧ u.boot.ready = false ∧ u.cmds = [] ∧ u.fuse = s.fuse) ∧
    (s.ckm.stopped = false → ∃ u, exec .bothReferencesLost s = .next u ∧ u.ckm.stopped = true ∧ (refOf u .a).st = 0 ∧ (refOf u .b).st = 0 ∧
      u.ckm.plls = [] ∧ u.boot.ready = false ∧ u.cmds = [] ∧ u.fuse = s.fuse)

/-- Clock gates (R334): a node turned on has its clock and those of its parents; one that is turned off has none, unless a child runs
(reason 1), it is in use (reason 2) or there is no such node (reason 3). -/
def Obligations.GatesFollowRequests : Prop :=
  ∀ (s : State) (p : Port) (v : Word), Writable s p 0 → v.toNat &&& 0xFFFFFEE0 = 0 →
    (flag v 8 = true → fld v 0 5 ≤ 21 → ∃ u, exec (.clockGateOn p v) s = .next u ∧ Only [portPart p, .rst, .ckm] s u ∧
      bit u.ckm.gEn (fld v 0 5) = true ∧ bit u.ckm.gHostOff (fld v 0 5) = false ∧ u.ckm.gRefused = s.ckm.gRefused ∧ u.ckm.gLast = fld v 0 5 ∧
      ∀ q, gateParent (fld v 0 5) = some q → bit u.ckm.gEn q = true) ∧
    (flag v 8 = false →
      (21 < fld v 0 5 → ∃ u, exec (.clockGateOff p v) s = .next u ∧ u.ckm = { s.ckm with
        gLast := fld v 0 5, gDone := true, gRefused := true, gReason := 3 }) ∧
      (fld v 0 5 ≤ 21 → bit s.ckm.gEn (fld v 0 5) = true →
        ((∃ m, m < 22 ∧ gateParent m = some (fld v 0 5) ∧ bit s.ckm.gEn m = true) → ∃ u, exec (.clockGateOff p v) s = .next u ∧
          u.ckm = { s.ckm with gLast := fld v 0 5, gDone := true, gRefused := true, gReason := 1 }) ∧
        ((∀ m, m < 22 → gateParent m = some (fld v 0 5) → bit s.ckm.gEn m = false) →
          (gateInUse (woken s p 3) (fld v 0 5) = true → ∃ u, exec (.clockGateOff p v) s = .next u ∧
            u.ckm = { s.ckm with gLast := fld v 0 5, gDone := true, gRefused := true, gReason := 2 }) ∧
          (gateInUse (woken s p 3) (fld v 0 5) = false → ∃ u, exec (.clockGateOff p v) s = .next u ∧ Only [portPart p, .rst, .ckm] s u ∧
            bit u.ckm.gEn (fld v 0 5) = false ∧ bit u.ckm.gHostOff (fld v 0 5) = true ∧
            ∀ m, m < 22 → m ≠ fld v 0 5 → bit u.ckm.gEn m = bit s.ckm.gEn m))))

/-- Power states (R336, R337, Table 14.6): an idle device goes down one state at a time; a wake that is complete is back in P0 with its
cause and is counted. -/
def Obligations.PowerStatesFollow : Prop :=
  ∀ (s : State) (q us : Nat) (p : Port) (v : Word),
    (running s = true → q < 4 → 1 ≤ s.rst.maxState → s.rst.pwr ≤ 1 → quadIdle s q = true →
      max s.rst.idleNs (Tab.get 0 s.rst.qIdleNs q) + max 1 s.rst.p1Us * 1000 ≤ s.nowNs →
      ∃ u, exec (.p1Entry q) s = .next u ∧ Only [.rst] s u ∧ u.rst.pwr = 1 ∧ bit u.rst.qGated q = true) ∧
    (running s = true → 2 ≤ s.rst.maxState → s.rst.pwr = 1 → p2Idle s = true → s.rst.idleNs + max 1 s.rst.p2Ms * 1000000 ≤ s.nowNs →
      ∃ u, exec .p2Entry s = .next u ∧ Only [.rst, .mep] s u ∧ u.rst.pwr = 2 ∧ u.mep.merges = []) ∧
    (running s = true → 3 ≤ s.rst.maxState → s.rst.pwr = 2 → s.rst.waking = false → dirtyBytes s = 0 →
      ((getPort s .a).linkUp = false ∨ (getPort s .a).inL1 = true) → ((getPort s .b).linkUp = false ∨ (getPort s .b).inL1 = true) →
      s.rst.idleNs + max 1 s.rst.p3S * 1000000000 ≤ s.nowNs →
      ∃ u, exec .p3Entry s = .next u ∧ Only [.rst, .plp, .evr, .zonesSaved, .hltSaved, .savedMs, .tablesSaved] s u ∧ u.rst.pwr = 3 ∧
        u.zonesSaved = s.zones ∧ u.hltSaved = s.hlt ∧ u.tablesSaved = s.media.tables ∧ u.plp.jRecs = 0) ∧
    (2 ≤ s.rst.pwr → (s.rst.waking = true ∨ q = 7 ∨ q = 8) → ∃ u, exec (.wakeComplete q us) s = .next u ∧ Only [.rst, .ckm] s u ∧ u.rst.pwr = 0 ∧
      u.rst.waking = false ∧ u.rst.wakeCause = (if s.rst.waking then s.rst.wakeCause else q) ∧ u.rst.lastWakeUs = min 0xFFFF us ∧
      (∀ n, 1 ≤ n → n ≤ 10 → Tab.get {} u.ckm.plls n = { Tab.get {} s.ckm.plls n with
        relocks := if (Tab.get {} s.ckm.plls n).on then satAdd 255 (Tab.get {} s.ckm.plls n).relocks 1 else (Tab.get {} s.ckm.plls n).relocks }) ∧
      (∀ n, 10 < n → Tab.get {} u.ckm.plls n = Tab.get {} s.ckm.plls n) ∧
      (s.rst.pwr = 2 → u.rst.wakesP2 = satAdd 0xFFFF s.rst.wakesP2 1 ∧ u.rst.wakesP3 = s.rst.wakesP3) ∧
      (s.rst.pwr = 3 → u.rst.wakesP3 = satAdd 0xFFFF s.rst.wakesP3 1 ∧ u.rst.wakesP2 = s.rst.wakesP2)) ∧
    (Writable s p 0 → v.toNat < 4 → ∃ u, exec (.maxState p v) s = .next u ∧ Only [portPart p, .rst] s u ∧ u.rst.maxState = v.toNat ∧
      (s.rst.pwr = 0 → u.rst = { s.rst with idleNs := s.nowNs, maxState := v.toNat }))

/-- Device warm reset (R338, R339, R375): RST_CTL.WARM with its key refuses new commands, the flush follows when nothing granted is
left or RST_QUIESCE.MS has passed, and the flush's end restarts the boot; with nothing to flush, in a boot or stopped by a thermal shutdown
whose latch can be released, it restarts the boot at once. Without its key, or held off by a thermal latch, it does nothing of this. A rail below its minimum, or a high TEST_EN, holds the device in power-on reset (R338, R398, R403): commands,
mailboxes, buffers and links are gone; what the system area, the fuses and the boot flash hold stays. -/
def Obligations.ResetsRestart : Prop :=
  (∀ (s : State) (p : Port) (v : Word),
      (Reaches s p 0 → v.toNat = 0xA5000001 → s.rst.warmPhase = 0 → s.thm.latch = false → flushing s = false → s.boot.ready = true →
        ∃ u, exec (.warm p v) s = .next u ∧ Only [portPart p, .rst, .adm] s u ∧ u.rst.warmPhase = 2 ∧ u.rst.nextCause = 2 ∧ u.adm = { s.adm with shutdown := true }) ∧
      (Reaches s p 0 → v.toNat = 1 → exec (.warm p v) s = .next (woken s p 3)) ∧
      (Reaches s p 0 → v.toNat = 0xA5000001 → s.rst.warmPhase = 0 →
        (s.thm.latch = false ∧ flushing s = false ∧ s.boot.ready = false ∨ s.thm.latch = true ∧ s.thm.phase = 3 ∧ latchFree s = true) →
        ∃ u, exec (.warm p v) s = .next u ∧ u.rst.cause = 2 ∧ u.rst.warmCount = satAdd 0xFFFF s.rst.warmCount 1 ∧ u.boot.phase = 1 ∧
          u.boot.ready = false ∧ u.boot.stopped = false ∧ u.cmds = [] ∧ u.fuse = s.fuse ∧ u.pins.thermtripN = true ∧ u.thm.latch = false) ∧
      (Reaches s p 0 → v.toNat = 0xA5000001 → s.rst.warmPhase = 0 → s.thm.latch = true → (s.thm.phase ≠ 3 ∨ latchFree s = false) →
        ∃ u, exec (.warm p v) s = .next u ∧ bit u.thm.evt 6 = true ∧ u.rst.warmPhase = 0 ∧ u.boot = s.boot) ∧
      (s.rst.warmPhase = 2 → s.plp.phase = 0 →
        ((∀ c ∈ s.cmds, c.granted = false) ∨ s.rst.warmNs + min 10000 s.rst.quiesceMs * 1000000 ≤ s.nowNs) →
        ∃ u, exec (.quiesceTimeout []) s = .next u ∧ u.rst.warmPhase = 3 ∧ u.plp.phase = 1 ∧ u.plp.why = 2 ∧ u.adm.stop = true ∧ u.cmds = s.cmds) ∧
      (s.plp.phase = 1 → s.plp.why = 2 →
        ∃ u, exec .flushEnd s = .next u ∧ u.rst.cause = s.rst.nextCause ∧ u.rst.warmCount = satAdd 0xFFFF s.rst.warmCount 1 ∧ u.boot.phase = 1 ∧
          u.boot.ready = false ∧ u.cmds = [] ∧ (getPort u .a).linkUp = false ∧ (getPort u .b).linkUp = false ∧ u.fuse = s.fuse ∧
          u.boot.dev0.mem = s.boot.dev0.mem ∧ u.boot.dev1.mem = s.boot.dev1.mem ∧ u.pending = s.pending ∧ u.nowNs = s.nowNs)) ∧
  (∀ (s : State) (rail : Nat), s.pins.porHeld = false →
      (rail ≤ 11 → ∃ u, exec (.railUndervoltage rail) s = .next u ∧ u.pins.porHeld = true ∧ bit u.pins.railBad rail = true ∧ u.cmds = [] ∧
        u.boot.ready = false ∧ u.fuse = s.fuse ∧ u.zonesSaved = s.zonesSaved ∧ u.boot.dev0.mem = s.boot.dev0.mem ∧
        u.boot.dev1.mem = s.boot.dev1.mem ∧ u.formatted = s.formatted ∧ (getPort u .a).linkUp = false ∧ (getPort u .b).linkUp = false ∧
        u.mbxs = [] ∧ u.bpm.alloc = [] ∧ (∀ v, (getVer u v).hbm = false)) ∧
      (∃ u, exec .testEnAssert s = .next u ∧ u.pins.porHeld = true ∧ u.pins.testEn = true ∧ u.cmds = [] ∧ u.fuse = s.fuse ∧
        u.zonesSaved = s.zonesSaved))

/-- The boot (R250, R351 to R356): power-on starts phase 1; phases follow when what they need is there; a candidate that fails falls
back to the other slot or stops the boot; READY releases the locks; the fuses then follow the running image, and are only ever set. An
event whose condition does not hold changes nothing (log 2, the model's choice). -/
def Obligations.TheBootProceeds : Prop :=
  ∀ (s : State) (us code d : Nat),
    (s.pins.porHeld = true → ∃ u, exec .powerOn s = .next u ∧ Only [.pins, .tap, .rst, .boot] s u ∧ u.pins.porHeld = false ∧ u.rst.cause = 1 ∧
      u.boot.phase = 1) ∧
    (s.plp.phase = 3 → exec .bootPwrfailRelease s = .next { s with plp := { s.plp with phase := 0, pwrfail := false } }) ∧
    (booting s = true → s.boot.phase = 1 → ∃ u, exec (.bootPhaseDone us .done) s = .next u ∧ Only [.boot, .cip] s u ∧ u.boot.phase = 2 ∧
      u.cip = { s.cip with hukOk := true } ∧
      Tab.get 0 u.boot.times 1 = satAdd 0xFFFFFFFF (Tab.get 0 s.boot.times 1) us) ∧
    (∀ bad huk, booting s = true → s.boot.phase = 1 → ∃ u, exec (.bootPhaseDone us (.fuses bad huk)) s = .next u ∧ Only [.boot, .cip] s u ∧
      u.boot.phase = 2 ∧ u.boot.code = 0x11 ∧ u.boot.badKeys = bad % 16 ∧ u.cip = { s.cip with hukOk := huk }) ∧
    (booting s = true → s.boot.phase = 2 → clocksUp s = true → s.plp.pwrfail = false →
      ∃ u, exec (.bootPhaseDone us .done) s = .next u ∧ Only [.boot] s u ∧ u.boot.phase = 3) ∧
    (booting s = true → s.boot.phase = 2 → clocksUp s = false → exec (.bootPhaseDone us .done) s = .next s) ∧
    (booting s = true → s.boot.phase = 6 → ∃ u, exec (.bootPhaseDone us .done) s = .next u ∧ Only [.boot, .bpm] s u ∧ u.boot.phase = 7 ∧
      u.bpm.ready = true ∧ u.bpm.head + u.bpm.stack = 16777216 ∧ u.bpm.alloc = []) ∧
    (booting s = true → candidateSlot s = some d → canFail s d code = true → code ≠ 0x33 →
      ∃ u, exec (.bootCandidateFail code) s = .next u ∧ u.boot.tried = s.boot.tried ++ [d] ∧ u.boot.lastFail = code ∧ u.boot.fellBack = true ∧ u.boot.fwVer = 0 ∧
        (Tab.get {} u.boot.slots d).result = code ∧ bit u.boot.evt 1 = true ∧
        (candidateSlot u = none → u.boot.stopped = true ∧ u.boot.code = 0x53) ∧
        (∀ e, candidateSlot u = some e → u.boot.phase = 3 ∧ u.boot.stopped = false)) ∧
    (booting s = true → s.boot.phase = 9 → s.heldCommits = [] →
      ∃ u, exec .bootReady s = .next u ∧ u.boot.ready = true ∧ u.boot.code = 0x90 ∧ u.boot.next = s.boot.slot ∧
        (∀ n, n < 8 → (getMbx u (.pf0 n)).owner = 0) ∧ u.cmds = s.cmds ∧ u.zones = s.zones) ∧
    (s.boot.ready = true → s.ckm.stopped = false → s.pins.porHeld = false →
      ∃ u, exec .fuseUpdate s = .next u ∧ Only [.fuse, .boot, .evr, .pa, .pb, .out] s u ∧ u.fuse = { s.fuse with
          svn := max s.fuse.svn s.boot.svnPend, keyRevoked := s.fuse.keyRevoked ||| s.boot.revokePend } ∧
        (s.fuse.svn < s.boot.svnPend → bit u.boot.evt 2 = true))

/-- The persisted log and the frozen ring (R386 to R388, R392, R393): waiting records are persisted in order, whichever pages fail; REPEAT records tell of
suppressed ones; a frozen ring stays as it is until FREEZE is 0 again; CLR needs FREEZE and ends with its record. Fetches of event
records (R389): a write of EVR_CURSOR starts one, its end shows the record of that number, zeros with result 2, the bytes as stored with
result 3 where their CRC fails, or result 4 where the log page cannot be read, and a read of EVR_DATA7 with AUTOINC moves on to the next. That
a clear waits while the system area is not known is the model's reading (log 142, DEDUCED). -/
def Obligations.RecordsAreKept : Prop :=
  (∀ (s : State) (p : Port) (v : Word),
      (s.hlt.known = true → 0 < s.evr.waiting.length → s.evr.waiting.length ≤ 8192 → s.evr.lastPersistMs + 1000 ≤ opMs s →
        logClearing s.evr = false → s.ckm.stopped = false → paused s = false →
        ∃ u x n, exec .eventPersistWrite s = .next u ∧ Only [.evr, .freeCtr] s u ∧ u.evr.waiting = [] ∧ s.evr.waiting.getLast? = some x ∧
          u.evr.log.getLast? = some (n, x) ∧ u.evr.ring = s.evr.ring ∧ u.evr.lastPersistMs = opMs s) ∧
      (∀ e, s.evr.excess = [e] → opMs s / 1000 ≠ s.evr.sec → s.evr.frozen = false →
        ∃ u, exec .repeat s = .next u ∧ Only [.evr, .pa, .pb, .out] s u ∧ u.evr.excess = [] ∧ Recorded s u 1 0 0x0003 (leBytes 2 e.1 ++ leBytes 2 (e.1 / 65536) ++ leBytes 4 e.2)) ∧
      (Writable s p 0 → v.toNat &&& 0xFFFFFEF8 = 0 →
        (flag v 0 = true → flag v 2 = false → ∃ u, exec (.freeze p v) s = .next u ∧ Only [portPart p, .evr] (woken s p 3) u ∧
          u.evr = { s.evr with frozen := true } ∧ (getPort u p).win.evrSrc = flag v 8 ∧ (getPort u p).win.evrAuto = flag v 1) ∧
        (flag v 0 = false → flag v 2 = false → s.evr.frozen = true → s.evr.holdDropped = 0 →
          ∃ u, exec (.unfreeze p v) s = .next u ∧ Only [portPart p, .evr] (woken s p 3) u ∧ u.evr.frozen = false ∧ u.evr.hold = [] ∧
            (∀ r ∈ s.evr.hold, r ∈ u.evr.ring) ∧ u.evr.evNext = s.evr.evNext) ∧
        (flag v 0 = true → flag v 2 = true → s.evr.frozen = false → ∃ u, exec (.clr p v) s = .next u ∧ u.evr = { s.evr with frozen := true, stDenied := true }) ∧
        (flag v 0 = true → flag v 2 = true → s.evr.frozen = true → s.evr.clearing = none →
          ∃ u, exec (.clr p v) s = .next u ∧ u.evr = { s.evr with clearing := some (flag v 8, p.num + 1) })) ∧
      (∀ a, s.evr.clearing = some (true, a) → s.hlt.known = true → ∃ u, exec .evrClearDone s = .next u ∧ Only [.evr, .pa, .pb, .out] s u ∧
        u.evr.log = [] ∧ u.evr.logFirst = s.evr.logNext ∧ u.evr.clearing = none ∧
        (Recordable s 0 0x0004 → Recorded s u 2 0 0x0004 (leBytes 1 a ++ leBytes 1 1 ++ leBytes 2 0 ++ leBytes 4 s.evr.logNext))) ∧
      (∀ a, s.evr.clearing = some (false, a) → s.hlt.known = true → s.evr.frozen = true → ∃ u, exec .evrClearDone s = .next u ∧
        Only [.evr, .pa, .pb, .out] s u ∧ u.evr.ring = [] ∧ u.evr.first = s.evr.next ∧ u.evr.clearing = none) ∧
      (s.hlt.known = false → exec .evrClearDone s = .next s)) ∧
  (∀ (s : State) (p : Port) (v : Word),
      (Writable s p 0 → exec (.evrCursor p v) s = .next (modPort (woken s p 3) p fun q =>
        { q with win := { q.win with evrCursor := v.toNat % p32, evrDone := false, evrBusy := true } })) ∧
      ((getPort s p).win.evrBusy = true → (getPort s p).win.evrSrc = false →
        (∀ r, s.evr.ring.find? (fun x => x.num == (getPort s p).win.evrCursor) = some r →
          exec (.evrFetchDone ⟨p, .intact⟩) s = .next (modPort s p fun q =>
            { q with win := { q.win with evrBusy := false, evrDone := true, evrResult := 1, evrData := recBytes r } })) ∧
        ((∀ r ∈ s.evr.ring, r.num ≠ (getPort s p).win.evrCursor) → ∀ x,
          exec (.evrFetchDone ⟨p, x⟩) s = .next (modPort s p fun q =>
            { q with win := { q.win with evrBusy := false, evrDone := true, evrResult := 2, evrData := List.replicate 32 0#8 } }))) ∧
      (∀ r, (getPort s p).win.evrBusy = true → fetchRec s.evr (getPort s p).win.evrSrc (getPort s p).win.evrCursor = some r →
        (∀ l, leBytes 4 (crc32c (l.take 28)).toNat ≠ l.drop 28 → exec (.evrFetchDone ⟨p, .stored l⟩) s = .next (modPort s p fun q =>
          { q with win := { q.win with evrBusy := false, evrDone := true, evrResult := 3, evrData := l } })) ∧
        ((getPort s p).win.evrSrc = true → ∃ u, exec (.evrFetchDone ⟨p, .pageLost⟩) s = .next u ∧ Only [portPart p, .evr, .freeCtr] s u ∧
          (getPort u p).win.evrResult = 4 ∧ (getPort u p).win.evrDone = true ∧ (getPort u p).win.evrBusy = false ∧
          pageOf s.evr (getPort s p).win.evrCursor ∈ u.evr.badPages ∧ u.evr.log = s.evr.log ∧ u.evr.ring = s.evr.ring)) ∧
      (Reaches s p 0 → ∃ u, exec (.evrData7Read p) s = .next u ∧ Only [portPart p, .out] (woken s p 3) u ∧
        u.out = s.out ++ [.value p (BitVec.ofNat 32 (leAt (getPort s p).win.evrData 28 4))] ∧
        ((getPort s p).win.evrAuto = true → (getPort u p).win = { (getPort s p).win with
          evrCursor := ((getPort s p).win.evrCursor + 1) % p32, evrDone := false, evrBusy := true }) ∧
        ((getPort s p).win.evrAuto = false → (getPort u p).win = (getPort s p).win)))

/-- The test access port (R400, Table 18.6): each instruction selects its register; outputs float or hold only while TEST_EN is high.
-/
def Obligations.TheTapSelects : Prop :=
  ∀ (s : State) (cells : List Bool) (op : Byte),
    (∃ u, exec .tapReset s = .next u ∧ Only [.tap] s u ∧ u.tap.instr = 0x01 ∧ u.tap.floating = false ∧ u.tap.holding = false) ∧
    (∃ u, exec .idcode s = .next u ∧ Only [.tap, .out] s u ∧ u.tap.instr = 0x01 ∧ u.out = s.out ++ [.jtag ((List.range 32).map (bit 0x18128A8F))]) ∧
    (∃ u, exec (.samplePreload cells) s = .next u ∧ Only [.tap, .out] s u ∧ u.tap.instr = 0x02 ∧ u.tap.boundary = cells ∧ u.out = s.out ++ [.jtag cells]) ∧
    (∃ u, exec .extest s = .next u ∧ Only [.tap] s u ∧ u.tap.instr = 0x03 ∧ u.tap.holding = s.pins.testEn ∧
      u.tap.shift = (if s.pins.testEn then s.tap.boundary else [false])) ∧
    (∃ u, exec .highz s = .next u ∧ Only [.tap] s u ∧ u.tap.instr = 0x04 ∧ u.tap.floating = s.pins.testEn ∧ u.tap.holding = false ∧ u.tap.shift = [false]) ∧
    (∃ u, exec .clamp s = .next u ∧ Only [.tap] s u ∧ u.tap.instr = 0x05 ∧ u.tap.holding = s.pins.testEn ∧ u.tap.floating = false ∧ u.tap.shift = [false]) ∧
    (¬(1 ≤ op.toNat ∧ op.toNat ≤ 5) → ∃ u, exec (.bypass op) s = .next u ∧ Only [.tap] s u ∧ u.tap.instr = op.toNat ∧ u.tap.floating = false ∧
      u.tap.holding = false ∧ u.tap.shift = [false])

/-- The registers whose Reset column gives a value hold it in State.reset: the ring, mailbox, power, reset, clock-gate,
memory-protection, shutter, health and boot registers. -/
def Obligations.ResetValues : Prop :=
  State.reset.pending = [] ∧ State.reset.cmds = [] ∧ State.reset.out = [] ∧
    (∀ p, (getPort State.reset p).linkUp = false ∧ (getPort State.reset p).vfEn = false ∧ (getPort State.reset p).numVfs = 0) ∧
    (∀ p fn n, (getRing State.reset p fn n).en = false ∧ (getCas State.reset p fn).taken = 0 ∧ (getCas State.reset p fn).valid = []) ∧
    (∀ n, (getMbx State.reset (.pf0 n)).owner = 4) ∧
    State.reset.rst.maxState = 2 ∧ State.reset.rst.p2Ms = 20 ∧ State.reset.rst.p1Us = 50 ∧ State.reset.rst.p3S = 600 ∧
    State.reset.rst.quiesceMs = 100 ∧ State.reset.ckm.gEn = 0x3FFFFF ∧ State.reset.ckm.gHostOff = 0 ∧
    State.reset.mep.skimEn = 0x7F ∧ State.reset.mep.limHbmS = 60 ∧ State.reset.mep.limSramMs = 1000 ∧
    (∀ m, Tab.get 4096 State.reset.mep.thresh m = 4096) ∧ State.reset.adm.shutter = 64 ∧ State.reset.thm.shutter = 64 ∧
    State.reset.hlt.wearHighPct = 90 ∧ State.reset.hlt.spareLowPct = 10 ∧ State.reset.boot.slot = 3 ∧ State.reset.boot.next = 0 ∧
    State.reset.boot.ready = false ∧ State.reset.evr.ring = [] ∧ State.reset.evr.frozen = false

/-- The fuses (R349, R356): their bits are only ever set, and only by the fuse update of R356. Whatever a step does, the anti-rollback
counter does not fall, no revocation is undone, the programmed key slots and the serial number stay, and a step that changes the fuses
at all ran FUSE_UPDATE after READY. -/
def Obligations.FusesOnlyRise : Prop :=
  ∀ s t : State, step s = .next t →
    s.fuse.svn ≤ t.fuse.svn ∧ (∀ k, bit s.fuse.keyRevoked k = true → bit t.fuse.keyRevoked k = true) ∧
      t.fuse.keyPresent = s.fuse.keyPresent ∧ t.fuse.serial = s.fuse.serial ∧
      (t.fuse ≠ s.fuse → s.boot.ready = true ∧ ∃ rest, s.pending = .fuseUpdate :: rest)

/-- An image of fields (R316) that GET_CONFIG builds is read back field for field by the parser of SET_CONFIG, with nothing cut off. -/
def Obligations.ImagesReadBack : Prop :=
  ∀ l : List (Nat × Nat), (∀ e ∈ l, e.1 < 65536 ∧ e.2 < 4294967296) → 16 + 8 * l.length < 4294967296 →
    parseImage (imageOf (l.flatMap fun e => fieldBytes e.1 e.2)) = some (l.map fun e => { id := e.1, len := 4, val := e.2 }, 0)
end

