-- ==== Sys2Proof/Laws/Tab.lean ====
section
/-! SUPPORT. Laws of the sparse tables: what a table reads as after it is written, and that every table operation keeps the canonical
form. -/

namespace Sys2Proof.Machine

variable {α : Type}

@[simp] theorem Tab.get_nil (d : α) (k : Nat) : Tab.get d [] k = d := rfl

/-- A table whose keys all lie above `k` does not list `k`. -/
theorem Tab.get_above (d : α) (t : Tab α) (k : Nat) (h : Tab.above k t = true) : Tab.get d t k = d := by
  induction t with
  | nil => rfl
  | cons e t ih =>
    obtain ⟨j, v⟩ := e
    simp only [Tab.above, List.all_cons, Bool.and_eq_true, decide_eq_true_eq] at h
    simp only [Tab.get]
    rw [if_neg (by omega)]
    exact ih h.2

@[simp] theorem Tab.get_del_self (d : α) (t : Tab α) (k : Nat) : Tab.get d (Tab.del t k) k = d := by
  induction t with
  | nil => rfl
  | cons e t ih =>
    obtain ⟨j, v⟩ := e
    simp only [Tab.del]
    split
    · exact ih
    · simp only [Tab.get]; rw [if_neg (by assumption)]; exact ih

theorem Tab.get_del_ne (d : α) (t : Tab α) (k j : Nat) (h : j ≠ k) : Tab.get d (Tab.del t k) j = Tab.get d t j := by
  induction t with
  | nil => rfl
  | cons e t ih =>
    obtain ⟨i, v⟩ := e
    simp only [Tab.del]
    split
    · subst_vars; simp only [Tab.get]; rw [if_neg (Ne.symm h)]; exact ih
    · simp only [Tab.get, ih]

theorem Tab.get_ins_self (d : α) (t : Tab α) (k : Nat) (v : α) (hk : ∀ e ∈ t, e.1 ≠ k) :
    Tab.get d (Tab.ins t k v) k = v := by
  induction t with
  | nil => simp [Tab.ins, Tab.get]
  | cons e t ih =>
    obtain ⟨j, w⟩ := e
    have hj : j ≠ k := hk (j, w) (by simp)
    simp only [Tab.ins]
    split
    · simp [Tab.get]
    · simp only [Tab.get]; rw [if_neg hj]; exact ih fun e he => hk e (by simp [he])

theorem Tab.get_ins_ne (d : α) (t : Tab α) (k j : Nat) (v : α) (h : j ≠ k) : Tab.get d (Tab.ins t k v) j = Tab.get d t j := by
  induction t with
  | nil => simp [Tab.ins, Tab.get, Ne.symm h]
  | cons e t ih =>
    obtain ⟨i, w⟩ := e
    simp only [Tab.ins]
    split
    · simp only [Tab.get]; rw [if_neg (Ne.symm h)]
    · simp only [Tab.get, ih]

theorem Tab.del_not_mem (t : Tab α) (k : Nat) : ∀ e ∈ Tab.del t k, e.1 ≠ k := by
  induction t with
  | nil => simp [Tab.del]
  | cons e t ih =>
    obtain ⟨j, v⟩ := e
    simp only [Tab.del]
    split
    · exact ih
    · intro e he
      simp only [List.mem_cons] at he
      rcases he with rfl | he
      · assumption
      · exact ih e he

/-- Read after write, same key. -/
@[simp] theorem Tab.get_set_self [DecidableEq α] (d : α) (t : Tab α) (k : Nat) (v : α) : Tab.get d (Tab.set d t k v) k = v := by
  simp only [Tab.set]
  split
  · subst_vars; exact Tab.get_del_self v t k
  · exact Tab.get_ins_self d _ k v (Tab.del_not_mem t k)

/-- Read after write, another key. -/
theorem Tab.get_set_ne [DecidableEq α] (d : α) (t : Tab α) (k j : Nat) (v : α) (h : j ≠ k) :
    Tab.get d (Tab.set d t k v) j = Tab.get d t j := by
  simp only [Tab.set]
  split
  · exact Tab.get_del_ne d t k j h
  · rw [Tab.get_ins_ne d _ k j v h, Tab.get_del_ne d t k j h]

@[simp] theorem Tab.get_upd_self [DecidableEq α] (d : α) (t : Tab α) (k : Nat) (f : α → α) :
    Tab.get d (Tab.upd d t k f) k = f (Tab.get d t k) := by simp [Tab.upd]

theorem Tab.get_upd_ne [DecidableEq α] (d : α) (t : Tab α) (k j : Nat) (f : α → α) (h : j ≠ k) :
    Tab.get d (Tab.upd d t k f) j = Tab.get d t j := by simp [Tab.upd, Tab.get_set_ne d t k j _ h]

theorem Tab.above_mono (t : Tab α) (j k : Nat) (h : j ≤ k) (a : Tab.above k t = true) : Tab.above j t = true := by
  simp only [Tab.above, List.all_eq_true, decide_eq_true_eq] at *
  intro e he
  have := a e he
  omega

theorem Tab.above_del (t : Tab α) (j k : Nat) (a : Tab.above j t = true) : Tab.above j (Tab.del t k) = true := by
  induction t with
  | nil => rfl
  | cons e t ih =>
    obtain ⟨i, v⟩ := e
    simp only [Tab.above, List.all_cons, Bool.and_eq_true, decide_eq_true_eq] at a
    simp only [Tab.del]
    split
    · exact ih a.2
    · simp only [Tab.above, List.all_cons, Bool.and_eq_true, decide_eq_true_eq]; exact ⟨a.1, ih a.2⟩

theorem Tab.above_ins (t : Tab α) (j k : Nat) (v : α) (h : j < k) (a : Tab.above j t = true) : Tab.above j (Tab.ins t k v) = true := by
  induction t with
  | nil => simp [Tab.ins, Tab.above, h]
  | cons e t ih =>
    obtain ⟨i, w⟩ := e
    simp only [Tab.above, List.all_cons, Bool.and_eq_true, decide_eq_true_eq] at a
    simp only [Tab.ins]
    split
    · simp only [Tab.above, List.all_cons, Bool.and_eq_true, decide_eq_true_eq]; exact ⟨h, a.1, a.2⟩
    · simp only [Tab.above, List.all_cons, Bool.and_eq_true, decide_eq_true_eq]; exact ⟨a.1, ih a.2⟩

/-- Unlisting a key keeps the canonical form. -/
theorem Tab.wf_del [DecidableEq α] (d : α) (t : Tab α) (k : Nat) (h : Tab.wf d t = true) : Tab.wf d (Tab.del t k) = true := by
  induction t with
  | nil => rfl
  | cons e t ih =>
    obtain ⟨j, v⟩ := e
    simp only [Tab.wf, Bool.and_eq_true, decide_eq_true_eq] at h
    simp only [Tab.del]
    split
    · exact ih h.2
    · simp only [Tab.wf, Bool.and_eq_true, decide_eq_true_eq]; exact ⟨⟨h.1.1, Tab.above_del t j k h.1.2⟩, ih h.2⟩

theorem Tab.wf_ins [DecidableEq α] (d : α) (t : Tab α) (k : Nat) (v : α) (hv : v ≠ d) (h : Tab.wf d t = true)
    (hk : ∀ e ∈ t, e.1 ≠ k) : Tab.wf d (Tab.ins t k v) = true := by
  induction t with
  | nil => simp [Tab.ins, Tab.wf, hv, Tab.above]
  | cons e t ih =>
    obtain ⟨j, w⟩ := e
    simp only [Tab.wf, Bool.and_eq_true, decide_eq_true_eq] at h
    have hj : j ≠ k := hk (j, w) (by simp)
    simp only [Tab.ins]
    split
    · rename_i hlt
      simp only [Tab.wf, Bool.and_eq_true, decide_eq_true_eq, Tab.above, List.all_cons]
      exact ⟨⟨hv, hlt, Tab.above_mono t k j (by omega) h.1.2⟩, h⟩
    · simp only [Tab.wf, Bool.and_eq_true, decide_eq_true_eq]
      exact ⟨⟨h.1.1, Tab.above_ins t j k v (by omega) h.1.2⟩, ih h.2 fun e he => hk e (by simp [he])⟩

/-- A write keeps the canonical form. -/
theorem Tab.wf_set [DecidableEq α] (d : α) (t : Tab α) (k : Nat) (v : α) (h : Tab.wf d t = true) : Tab.wf d (Tab.set d t k v) = true := by
  simp only [Tab.set]
  split
  · exact Tab.wf_del d t k h
  · rename_i hv; exact Tab.wf_ins d _ k v hv (Tab.wf_del d t k h) (Tab.del_not_mem t k)

theorem Tab.wf_upd [DecidableEq α] (d : α) (t : Tab α) (k : Nat) (f : α → α) (h : Tab.wf d t = true) :
    Tab.wf d (Tab.upd d t k f) = true := Tab.wf_set d t k _ h

theorem Tab.above_mapv [DecidableEq α] (d : α) (f : Nat → α → α) (t : Tab α) (k : Nat) (a : Tab.above k t = true) :
    Tab.above k (Tab.mapv d f t) = true := by
  induction t with
  | nil => rfl
  | cons e t ih =>
    obtain ⟨i, v⟩ := e
    simp only [Tab.above, List.all_cons, Bool.and_eq_true, decide_eq_true_eq] at a
    simp only [Tab.mapv]
    split
    · exact ih a.2
    · simp only [Tab.above, List.all_cons, Bool.and_eq_true, decide_eq_true_eq]; exact ⟨a.1, ih a.2⟩

/-- Rewriting every listed value keeps the canonical form. -/
theorem Tab.wf_mapv [DecidableEq α] (d : α) (f : Nat → α → α) (t : Tab α) (h : Tab.wf d t = true) : Tab.wf d (Tab.mapv d f t) = true := by
  induction t with
  | nil => rfl
  | cons e t ih =>
    obtain ⟨j, v⟩ := e
    simp only [Tab.wf, Bool.and_eq_true, decide_eq_true_eq] at h
    simp only [Tab.mapv]
    split
    · exact ih h.2
    · rename_i hv
      simp only [Tab.wf, Bool.and_eq_true, decide_eq_true_eq]; exact ⟨⟨hv, Tab.above_mapv d f t j h.1.2⟩, ih h.2⟩

/-- A counter of a table of counters rises by what is added. -/
@[simp] theorem get_bump_self (t : Tab Nat) (k n : Nat) : Tab.get 0 (bump t k n) k = Tab.get 0 t k + n := by simp [bump]

theorem get_bump_ne (t : Tab Nat) (k j n : Nat) (h : j ≠ k) : Tab.get 0 (bump t k n) j = Tab.get 0 t j :=
  Tab.get_upd_ne 0 t k j _ h

end Sys2Proof.Machine
end

