-- ==== Sys2Proof/Laws/State.lean ====
section
/-! SUPPORT. Laws of the updates of State: what each leaves as it was, one lemma for each field, and what it reads back as. -/

namespace Sys2Proof.Machine

@[simp] theorem emit_pa (s : State) (o : Out) : (emit s o).pa = s.pa := rfl
@[simp] theorem emit_pb (s : State) (o : Out) : (emit s o).pb = s.pb := rfl
@[simp] theorem emit_cmds (s : State) (o : Out) : (emit s o).cmds = s.cmds := rfl
@[simp] theorem emit_genCtr (s : State) (o : Out) : (emit s o).genCtr = s.genCtr := rfl
@[simp] theorem emit_tenants (s : State) (o : Out) : (emit s o).tenants = s.tenants := rfl
@[simp] theorem emit_zones (s : State) (o : Out) : (emit s o).zones = s.zones := rfl
@[simp] theorem emit_zonesSaved (s : State) (o : Out) : (emit s o).zonesSaved = s.zonesSaved := rfl
@[simp] theorem emit_vers (s : State) (o : Out) : (emit s o).vers = s.vers := rfl
@[simp] theorem emit_verCtr (s : State) (o : Out) : (emit s o).verCtr = s.verCtr := rfl
@[simp] theorem emit_adm (s : State) (o : Out) : (emit s o).adm = s.adm := rfl
@[simp] theorem emit_portEvt (s : State) (o : Out) : (emit s o).portEvt = s.portEvt := rfl
@[simp] theorem emit_ssid (s : State) (o : Out) : (emit s o).ssid = s.ssid := rfl
@[simp] theorem emit_svid (s : State) (o : Out) : (emit s o).svid = s.svid := rfl
@[simp] theorem emit_fuse (s : State) (o : Out) : (emit s o).fuse = s.fuse := rfl
@[simp] theorem emit_media (s : State) (o : Out) : (emit s o).media = s.media := rfl
@[simp] theorem emit_bpm (s : State) (o : Out) : (emit s o).bpm = s.bpm := rfl
@[simp] theorem emit_evr (s : State) (o : Out) : (emit s o).evr = s.evr := rfl
@[simp] theorem emit_mep (s : State) (o : Out) : (emit s o).mep = s.mep := rfl
@[simp] theorem emit_plp (s : State) (o : Out) : (emit s o).plp = s.plp := rfl
@[simp] theorem emit_cip (s : State) (o : Out) : (emit s o).cip = s.cip := rfl
@[simp] theorem emit_mbxs (s : State) (o : Out) : (emit s o).mbxs = s.mbxs := rfl
@[simp] theorem emit_takeNo (s : State) (o : Out) : (emit s o).takeNo = s.takeNo := rfl
@[simp] theorem emit_mctp (s : State) (o : Out) : (emit s o).mctp = s.mctp := rfl
@[simp] theorem emit_ckm (s : State) (o : Out) : (emit s o).ckm = s.ckm := rfl
@[simp] theorem emit_rst (s : State) (o : Out) : (emit s o).rst = s.rst := rfl
@[simp] theorem emit_boot (s : State) (o : Out) : (emit s o).boot = s.boot := rfl
@[simp] theorem emit_thm (s : State) (o : Out) : (emit s o).thm = s.thm := rfl
@[simp] theorem emit_hlt (s : State) (o : Out) : (emit s o).hlt = s.hlt := rfl
@[simp] theorem emit_hltSaved (s : State) (o : Out) : (emit s o).hltSaved = s.hltSaved := rfl
@[simp] theorem emit_savedMs (s : State) (o : Out) : (emit s o).savedMs = s.savedMs := rfl
@[simp] theorem emit_tablesSaved (s : State) (o : Out) : (emit s o).tablesSaved = s.tablesSaved := rfl
@[simp] theorem emit_heldCommits (s : State) (o : Out) : (emit s o).heldCommits = s.heldCommits := rfl
@[simp] theorem emit_heldOut (s : State) (o : Out) : (emit s o).heldOut = s.heldOut := rfl
@[simp] theorem emit_tap (s : State) (o : Out) : (emit s o).tap = s.tap := rfl
@[simp] theorem emit_pins (s : State) (o : Out) : (emit s o).pins = s.pins := rfl
@[simp] theorem emit_formatted (s : State) (o : Out) : (emit s o).formatted = s.formatted := rfl
@[simp] theorem emit_flushEnd (s : State) (o : Out) : (emit s o).flushEnd = s.flushEnd := rfl
@[simp] theorem emit_postNs (s : State) (o : Out) : (emit s o).postNs = s.postNs := rfl
@[simp] theorem emit_cfgReport (s : State) (o : Out) : (emit s o).cfgReport = s.cfgReport := rfl
@[simp] theorem emit_cfgOpen (s : State) (o : Out) : (emit s o).cfgOpen = s.cfgOpen := rfl
@[simp] theorem emit_cfgSsid (s : State) (o : Out) : (emit s o).cfgSsid = s.cfgSsid := rfl
@[simp] theorem emit_cfgSvid (s : State) (o : Out) : (emit s o).cfgSvid = s.cfgSvid := rfl
@[simp] theorem emit_nowNs (s : State) (o : Out) : (emit s o).nowNs = s.nowNs := rfl
@[simp] theorem emit_freeCtr (s : State) (o : Out) : (emit s o).freeCtr = s.freeCtr := rfl
@[simp] theorem emit_pending (s : State) (o : Out) : (emit s o).pending = s.pending := rfl

@[simp] theorem modPort_cmds (s : State) (p : Port) (f : PortSt → PortSt) : (modPort s p f).cmds = s.cmds := by cases p <;> rfl
@[simp] theorem modPort_genCtr (s : State) (p : Port) (f : PortSt → PortSt) : (modPort s p f).genCtr = s.genCtr := by cases p <;> rfl
@[simp] theorem modPort_tenants (s : State) (p : Port) (f : PortSt → PortSt) : (modPort s p f).tenants = s.tenants := by cases p <;> rfl
@[simp] theorem modPort_zones (s : State) (p : Port) (f : PortSt → PortSt) : (modPort s p f).zones = s.zones := by cases p <;> rfl
@[simp] theorem modPort_zonesSaved (s : State) (p : Port) (f : PortSt → PortSt) : (modPort s p f).zonesSaved = s.zonesSaved := by cases p <;> rfl
@[simp] theorem modPort_vers (s : State) (p : Port) (f : PortSt → PortSt) : (modPort s p f).vers = s.vers := by cases p <;> rfl
@[simp] theorem modPort_verCtr (s : State) (p : Port) (f : PortSt → PortSt) : (modPort s p f).verCtr = s.verCtr := by cases p <;> rfl
@[simp] theorem modPort_adm (s : State) (p : Port) (f : PortSt → PortSt) : (modPort s p f).adm = s.adm := by cases p <;> rfl
@[simp] theorem modPort_portEvt (s : State) (p : Port) (f : PortSt → PortSt) : (modPort s p f).portEvt = s.portEvt := by cases p <;> rfl
@[simp] theorem modPort_ssid (s : State) (p : Port) (f : PortSt → PortSt) : (modPort s p f).ssid = s.ssid := by cases p <;> rfl
@[simp] theorem modPort_svid (s : State) (p : Port) (f : PortSt → PortSt) : (modPort s p f).svid = s.svid := by cases p <;> rfl
@[simp] theorem modPort_fuse (s : State) (p : Port) (f : PortSt → PortSt) : (modPort s p f).fuse = s.fuse := by cases p <;> rfl
@[simp] theorem modPort_media (s : State) (p : Port) (f : PortSt → PortSt) : (modPort s p f).media = s.media := by cases p <;> rfl
@[simp] theorem modPort_bpm (s : State) (p : Port) (f : PortSt → PortSt) : (modPort s p f).bpm = s.bpm := by cases p <;> rfl
@[simp] theorem modPort_evr (s : State) (p : Port) (f : PortSt → PortSt) : (modPort s p f).evr = s.evr := by cases p <;> rfl
@[simp] theorem modPort_mep (s : State) (p : Port) (f : PortSt → PortSt) : (modPort s p f).mep = s.mep := by cases p <;> rfl
@[simp] theorem modPort_plp (s : State) (p : Port) (f : PortSt → PortSt) : (modPort s p f).plp = s.plp := by cases p <;> rfl
@[simp] theorem modPort_cip (s : State) (p : Port) (f : PortSt → PortSt) : (modPort s p f).cip = s.cip := by cases p <;> rfl
@[simp] theorem modPort_mbxs (s : State) (p : Port) (f : PortSt → PortSt) : (modPort s p f).mbxs = s.mbxs := by cases p <;> rfl
@[simp] theorem modPort_takeNo (s : State) (p : Port) (f : PortSt → PortSt) : (modPort s p f).takeNo = s.takeNo := by cases p <;> rfl
@[simp] theorem modPort_mctp (s : State) (p : Port) (f : PortSt → PortSt) : (modPort s p f).mctp = s.mctp := by cases p <;> rfl
@[simp] theorem modPort_ckm (s : State) (p : Port) (f : PortSt → PortSt) : (modPort s p f).ckm = s.ckm := by cases p <;> rfl
@[simp] theorem modPort_rst (s : State) (p : Port) (f : PortSt → PortSt) : (modPort s p f).rst = s.rst := by cases p <;> rfl
@[simp] theorem modPort_boot (s : State) (p : Port) (f : PortSt → PortSt) : (modPort s p f).boot = s.boot := by cases p <;> rfl
@[simp] theorem modPort_thm (s : State) (p : Port) (f : PortSt → PortSt) : (modPort s p f).thm = s.thm := by cases p <;> rfl
@[simp] theorem modPort_hlt (s : State) (p : Port) (f : PortSt → PortSt) : (modPort s p f).hlt = s.hlt := by cases p <;> rfl
@[simp] theorem modPort_hltSaved (s : State) (p : Port) (f : PortSt → PortSt) : (modPort s p f).hltSaved = s.hltSaved := by cases p <;> rfl
@[simp] theorem modPort_savedMs (s : State) (p : Port) (f : PortSt → PortSt) : (modPort s p f).savedMs = s.savedMs := by cases p <;> rfl
@[simp] theorem modPort_tablesSaved (s : State) (p : Port) (f : PortSt → PortSt) : (modPort s p f).tablesSaved = s.tablesSaved := by cases p <;> rfl
@[simp] theorem modPort_heldCommits (s : State) (p : Port) (f : PortSt → PortSt) : (modPort s p f).heldCommits = s.heldCommits := by cases p <;> rfl
@[simp] theorem modPort_heldOut (s : State) (p : Port) (f : PortSt → PortSt) : (modPort s p f).heldOut = s.heldOut := by cases p <;> rfl
@[simp] theorem modPort_tap (s : State) (p : Port) (f : PortSt → PortSt) : (modPort s p f).tap = s.tap := by cases p <;> rfl
@[simp] theorem modPort_pins (s : State) (p : Port) (f : PortSt → PortSt) : (modPort s p f).pins = s.pins := by cases p <;> rfl
@[simp] theorem modPort_formatted (s : State) (p : Port) (f : PortSt → PortSt) : (modPort s p f).formatted = s.formatted := by cases p <;> rfl
@[simp] theorem modPort_flushEnd (s : State) (p : Port) (f : PortSt → PortSt) : (modPort s p f).flushEnd = s.flushEnd := by cases p <;> rfl
@[simp] theorem modPort_postNs (s : State) (p : Port) (f : PortSt → PortSt) : (modPort s p f).postNs = s.postNs := by cases p <;> rfl
@[simp] theorem modPort_cfgReport (s : State) (p : Port) (f : PortSt → PortSt) : (modPort s p f).cfgReport = s.cfgReport := by cases p <;> rfl
@[simp] theorem modPort_cfgOpen (s : State) (p : Port) (f : PortSt → PortSt) : (modPort s p f).cfgOpen = s.cfgOpen := by cases p <;> rfl
@[simp] theorem modPort_cfgSsid (s : State) (p : Port) (f : PortSt → PortSt) : (modPort s p f).cfgSsid = s.cfgSsid := by cases p <;> rfl
@[simp] theorem modPort_cfgSvid (s : State) (p : Port) (f : PortSt → PortSt) : (modPort s p f).cfgSvid = s.cfgSvid := by cases p <;> rfl
@[simp] theorem modPort_nowNs (s : State) (p : Port) (f : PortSt → PortSt) : (modPort s p f).nowNs = s.nowNs := by cases p <;> rfl
@[simp] theorem modPort_freeCtr (s : State) (p : Port) (f : PortSt → PortSt) : (modPort s p f).freeCtr = s.freeCtr := by cases p <;> rfl
@[simp] theorem modPort_pending (s : State) (p : Port) (f : PortSt → PortSt) : (modPort s p f).pending = s.pending := by cases p <;> rfl
@[simp] theorem modPort_out (s : State) (p : Port) (f : PortSt → PortSt) : (modPort s p f).out = s.out := by cases p <;> rfl

@[simp] theorem modFn_cmds (s : State) (p : Port) (fn : Nat) (f : Fn → Fn) : (modFn s p fn f).cmds = s.cmds := modPort_cmds _ _ _
@[simp] theorem modFn_genCtr (s : State) (p : Port) (fn : Nat) (f : Fn → Fn) : (modFn s p fn f).genCtr = s.genCtr := modPort_genCtr _ _ _
@[simp] theorem modFn_tenants (s : State) (p : Port) (fn : Nat) (f : Fn → Fn) : (modFn s p fn f).tenants = s.tenants := modPort_tenants _ _ _
@[simp] theorem modFn_zones (s : State) (p : Port) (fn : Nat) (f : Fn → Fn) : (modFn s p fn f).zones = s.zones := modPort_zones _ _ _
@[simp] theorem modFn_zonesSaved (s : State) (p : Port) (fn : Nat) (f : Fn → Fn) : (modFn s p fn f).zonesSaved = s.zonesSaved := modPort_zonesSaved _ _ _
@[simp] theorem modFn_vers (s : State) (p : Port) (fn : Nat) (f : Fn → Fn) : (modFn s p fn f).vers = s.vers := modPort_vers _ _ _
@[simp] theorem modFn_verCtr (s : State) (p : Port) (fn : Nat) (f : Fn → Fn) : (modFn s p fn f).verCtr = s.verCtr := modPort_verCtr _ _ _
@[simp] theorem modFn_adm (s : State) (p : Port) (fn : Nat) (f : Fn → Fn) : (modFn s p fn f).adm = s.adm := modPort_adm _ _ _
@[simp] theorem modFn_portEvt (s : State) (p : Port) (fn : Nat) (f : Fn → Fn) : (modFn s p fn f).portEvt = s.portEvt := modPort_portEvt _ _ _
@[simp] theorem modFn_ssid (s : State) (p : Port) (fn : Nat) (f : Fn → Fn) : (modFn s p fn f).ssid = s.ssid := modPort_ssid _ _ _
@[simp] theorem modFn_svid (s : State) (p : Port) (fn : Nat) (f : Fn → Fn) : (modFn s p fn f).svid = s.svid := modPort_svid _ _ _
@[simp] theorem modFn_fuse (s : State) (p : Port) (fn : Nat) (f : Fn → Fn) : (modFn s p fn f).fuse = s.fuse := modPort_fuse _ _ _
@[simp] theorem modFn_media (s : State) (p : Port) (fn : Nat) (f : Fn → Fn) : (modFn s p fn f).media = s.media := modPort_media _ _ _
@[simp] theorem modFn_bpm (s : State) (p : Port) (fn : Nat) (f : Fn → Fn) : (modFn s p fn f).bpm = s.bpm := modPort_bpm _ _ _
@[simp] theorem modFn_evr (s : State) (p : Port) (fn : Nat) (f : Fn → Fn) : (modFn s p fn f).evr = s.evr := modPort_evr _ _ _
@[simp] theorem modFn_mep (s : State) (p : Port) (fn : Nat) (f : Fn → Fn) : (modFn s p fn f).mep = s.mep := modPort_mep _ _ _
@[simp] theorem modFn_plp (s : State) (p : Port) (fn : Nat) (f : Fn → Fn) : (modFn s p fn f).plp = s.plp := modPort_plp _ _ _
@[simp] theorem modFn_cip (s : State) (p : Port) (fn : Nat) (f : Fn → Fn) : (modFn s p fn f).cip = s.cip := modPort_cip _ _ _
@[simp] theorem modFn_mbxs (s : State) (p : Port) (fn : Nat) (f : Fn → Fn) : (modFn s p fn f).mbxs = s.mbxs := modPort_mbxs _ _ _
@[simp] theorem modFn_takeNo (s : State) (p : Port) (fn : Nat) (f : Fn → Fn) : (modFn s p fn f).takeNo = s.takeNo := modPort_takeNo _ _ _
@[simp] theorem modFn_mctp (s : State) (p : Port) (fn : Nat) (f : Fn → Fn) : (modFn s p fn f).mctp = s.mctp := modPort_mctp _ _ _
@[simp] theorem modFn_ckm (s : State) (p : Port) (fn : Nat) (f : Fn → Fn) : (modFn s p fn f).ckm = s.ckm := modPort_ckm _ _ _
@[simp] theorem modFn_rst (s : State) (p : Port) (fn : Nat) (f : Fn → Fn) : (modFn s p fn f).rst = s.rst := modPort_rst _ _ _
@[simp] theorem modFn_boot (s : State) (p : Port) (fn : Nat) (f : Fn → Fn) : (modFn s p fn f).boot = s.boot := modPort_boot _ _ _
@[simp] theorem modFn_thm (s : State) (p : Port) (fn : Nat) (f : Fn → Fn) : (modFn s p fn f).thm = s.thm := modPort_thm _ _ _
@[simp] theorem modFn_hlt (s : State) (p : Port) (fn : Nat) (f : Fn → Fn) : (modFn s p fn f).hlt = s.hlt := modPort_hlt _ _ _
@[simp] theorem modFn_hltSaved (s : State) (p : Port) (fn : Nat) (f : Fn → Fn) : (modFn s p fn f).hltSaved = s.hltSaved := modPort_hltSaved _ _ _
@[simp] theorem modFn_savedMs (s : State) (p : Port) (fn : Nat) (f : Fn → Fn) : (modFn s p fn f).savedMs = s.savedMs := modPort_savedMs _ _ _
@[simp] theorem modFn_tablesSaved (s : State) (p : Port) (fn : Nat) (f : Fn → Fn) : (modFn s p fn f).tablesSaved = s.tablesSaved := modPort_tablesSaved _ _ _
@[simp] theorem modFn_heldCommits (s : State) (p : Port) (fn : Nat) (f : Fn → Fn) : (modFn s p fn f).heldCommits = s.heldCommits := modPort_heldCommits _ _ _
@[simp] theorem modFn_heldOut (s : State) (p : Port) (fn : Nat) (f : Fn → Fn) : (modFn s p fn f).heldOut = s.heldOut := modPort_heldOut _ _ _
@[simp] theorem modFn_tap (s : State) (p : Port) (fn : Nat) (f : Fn → Fn) : (modFn s p fn f).tap = s.tap := modPort_tap _ _ _
@[simp] theorem modFn_pins (s : State) (p : Port) (fn : Nat) (f : Fn → Fn) : (modFn s p fn f).pins = s.pins := modPort_pins _ _ _
@[simp] theorem modFn_formatted (s : State) (p : Port) (fn : Nat) (f : Fn → Fn) : (modFn s p fn f).formatted = s.formatted := modPort_formatted _ _ _
@[simp] theorem modFn_flushEnd (s : State) (p : Port) (fn : Nat) (f : Fn → Fn) : (modFn s p fn f).flushEnd = s.flushEnd := modPort_flushEnd _ _ _
@[simp] theorem modFn_postNs (s : State) (p : Port) (fn : Nat) (f : Fn → Fn) : (modFn s p fn f).postNs = s.postNs := modPort_postNs _ _ _
@[simp] theorem modFn_cfgReport (s : State) (p : Port) (fn : Nat) (f : Fn → Fn) : (modFn s p fn f).cfgReport = s.cfgReport := modPort_cfgReport _ _ _
@[simp] theorem modFn_cfgOpen (s : State) (p : Port) (fn : Nat) (f : Fn → Fn) : (modFn s p fn f).cfgOpen = s.cfgOpen := modPort_cfgOpen _ _ _
@[simp] theorem modFn_cfgSsid (s : State) (p : Port) (fn : Nat) (f : Fn → Fn) : (modFn s p fn f).cfgSsid = s.cfgSsid := modPort_cfgSsid _ _ _
@[simp] theorem modFn_cfgSvid (s : State) (p : Port) (fn : Nat) (f : Fn → Fn) : (modFn s p fn f).cfgSvid = s.cfgSvid := modPort_cfgSvid _ _ _
@[simp] theorem modFn_nowNs (s : State) (p : Port) (fn : Nat) (f : Fn → Fn) : (modFn s p fn f).nowNs = s.nowNs := modPort_nowNs _ _ _
@[simp] theorem modFn_freeCtr (s : State) (p : Port) (fn : Nat) (f : Fn → Fn) : (modFn s p fn f).freeCtr = s.freeCtr := modPort_freeCtr _ _ _
@[simp] theorem modFn_pending (s : State) (p : Port) (fn : Nat) (f : Fn → Fn) : (modFn s p fn f).pending = s.pending := modPort_pending _ _ _
@[simp] theorem modFn_out (s : State) (p : Port) (fn : Nat) (f : Fn → Fn) : (modFn s p fn f).out = s.out := modPort_out _ _ _

@[simp] theorem modCas_cmds (s : State) (p : Port) (fn : Nat) (f : Casement → Casement) : (modCas s p fn f).cmds = s.cmds := modFn_cmds _ _ _ _
@[simp] theorem modCas_genCtr (s : State) (p : Port) (fn : Nat) (f : Casement → Casement) : (modCas s p fn f).genCtr = s.genCtr := modFn_genCtr _ _ _ _
@[simp] theorem modCas_tenants (s : State) (p : Port) (fn : Nat) (f : Casement → Casement) : (modCas s p fn f).tenants = s.tenants := modFn_tenants _ _ _ _
@[simp] theorem modCas_zones (s : State) (p : Port) (fn : Nat) (f : Casement → Casement) : (modCas s p fn f).zones = s.zones := modFn_zones _ _ _ _
@[simp] theorem modCas_zonesSaved (s : State) (p : Port) (fn : Nat) (f : Casement → Casement) : (modCas s p fn f).zonesSaved = s.zonesSaved := modFn_zonesSaved _ _ _ _
@[simp] theorem modCas_vers (s : State) (p : Port) (fn : Nat) (f : Casement → Casement) : (modCas s p fn f).vers = s.vers := modFn_vers _ _ _ _
@[simp] theorem modCas_verCtr (s : State) (p : Port) (fn : Nat) (f : Casement → Casement) : (modCas s p fn f).verCtr = s.verCtr := modFn_verCtr _ _ _ _
@[simp] theorem modCas_adm (s : State) (p : Port) (fn : Nat) (f : Casement → Casement) : (modCas s p fn f).adm = s.adm := modFn_adm _ _ _ _
@[simp] theorem modCas_portEvt (s : State) (p : Port) (fn : Nat) (f : Casement → Casement) : (modCas s p fn f).portEvt = s.portEvt := modFn_portEvt _ _ _ _
@[simp] theorem modCas_ssid (s : State) (p : Port) (fn : Nat) (f : Casement → Casement) : (modCas s p fn f).ssid = s.ssid := modFn_ssid _ _ _ _
@[simp] theorem modCas_svid (s : State) (p : Port) (fn : Nat) (f : Casement → Casement) : (modCas s p fn f).svid = s.svid := modFn_svid _ _ _ _
@[simp] theorem modCas_fuse (s : State) (p : Port) (fn : Nat) (f : Casement → Casement) : (modCas s p fn f).fuse = s.fuse := modFn_fuse _ _ _ _
@[simp] theorem modCas_media (s : State) (p : Port) (fn : Nat) (f : Casement → Casement) : (modCas s p fn f).media = s.media := modFn_media _ _ _ _
@[simp] theorem modCas_bpm (s : State) (p : Port) (fn : Nat) (f : Casement → Casement) : (modCas s p fn f).bpm = s.bpm := modFn_bpm _ _ _ _
@[simp] theorem modCas_evr (s : State) (p : Port) (fn : Nat) (f : Casement → Casement) : (modCas s p fn f).evr = s.evr := modFn_evr _ _ _ _
@[simp] theorem modCas_mep (s : State) (p : Port) (fn : Nat) (f : Casement → Casement) : (modCas s p fn f).mep = s.mep := modFn_mep _ _ _ _
@[simp] theorem modCas_plp (s : State) (p : Port) (fn : Nat) (f : Casement → Casement) : (modCas s p fn f).plp = s.plp := modFn_plp _ _ _ _
@[simp] theorem modCas_cip (s : State) (p : Port) (fn : Nat) (f : Casement → Casement) : (modCas s p fn f).cip = s.cip := modFn_cip _ _ _ _
@[simp] theorem modCas_mbxs (s : State) (p : Port) (fn : Nat) (f : Casement → Casement) : (modCas s p fn f).mbxs = s.mbxs := modFn_mbxs _ _ _ _
@[simp] theorem modCas_takeNo (s : State) (p : Port) (fn : Nat) (f : Casement → Casement) : (modCas s p fn f).takeNo = s.takeNo := modFn_takeNo _ _ _ _
@[simp] theorem modCas_mctp (s : State) (p : Port) (fn : Nat) (f : Casement → Casement) : (modCas s p fn f).mctp = s.mctp := modFn_mctp _ _ _ _
@[simp] theorem modCas_ckm (s : State) (p : Port) (fn : Nat) (f : Casement → Casement) : (modCas s p fn f).ckm = s.ckm := modFn_ckm _ _ _ _
@[simp] theorem modCas_rst (s : State) (p : Port) (fn : Nat) (f : Casement → Casement) : (modCas s p fn f).rst = s.rst := modFn_rst _ _ _ _
@[simp] theorem modCas_boot (s : State) (p : Port) (fn : Nat) (f : Casement → Casement) : (modCas s p fn f).boot = s.boot := modFn_boot _ _ _ _
@[simp] theorem modCas_thm (s : State) (p : Port) (fn : Nat) (f : Casement → Casement) : (modCas s p fn f).thm = s.thm := modFn_thm _ _ _ _
@[simp] theorem modCas_hlt (s : State) (p : Port) (fn : Nat) (f : Casement → Casement) : (modCas s p fn f).hlt = s.hlt := modFn_hlt _ _ _ _
@[simp] theorem modCas_hltSaved (s : State) (p : Port) (fn : Nat) (f : Casement → Casement) : (modCas s p fn f).hltSaved = s.hltSaved := modFn_hltSaved _ _ _ _
@[simp] theorem modCas_savedMs (s : State) (p : Port) (fn : Nat) (f : Casement → Casement) : (modCas s p fn f).savedMs = s.savedMs := modFn_savedMs _ _ _ _
@[simp] theorem modCas_tablesSaved (s : State) (p : Port) (fn : Nat) (f : Casement → Casement) : (modCas s p fn f).tablesSaved = s.tablesSaved := modFn_tablesSaved _ _ _ _
@[simp] theorem modCas_heldCommits (s : State) (p : Port) (fn : Nat) (f : Casement → Casement) : (modCas s p fn f).heldCommits = s.heldCommits := modFn_heldCommits _ _ _ _
@[simp] theorem modCas_heldOut (s : State) (p : Port) (fn : Nat) (f : Casement → Casement) : (modCas s p fn f).heldOut = s.heldOut := modFn_heldOut _ _ _ _
@[simp] theorem modCas_tap (s : State) (p : Port) (fn : Nat) (f : Casement → Casement) : (modCas s p fn f).tap = s.tap := modFn_tap _ _ _ _
@[simp] theorem modCas_pins (s : State) (p : Port) (fn : Nat) (f : Casement → Casement) : (modCas s p fn f).pins = s.pins := modFn_pins _ _ _ _
@[simp] theorem modCas_formatted (s : State) (p : Port) (fn : Nat) (f : Casement → Casement) : (modCas s p fn f).formatted = s.formatted := modFn_formatted _ _ _ _
@[simp] theorem modCas_flushEnd (s : State) (p : Port) (fn : Nat) (f : Casement → Casement) : (modCas s p fn f).flushEnd = s.flushEnd := modFn_flushEnd _ _ _ _
@[simp] theorem modCas_postNs (s : State) (p : Port) (fn : Nat) (f : Casement → Casement) : (modCas s p fn f).postNs = s.postNs := modFn_postNs _ _ _ _
@[simp] theorem modCas_cfgReport (s : State) (p : Port) (fn : Nat) (f : Casement → Casement) : (modCas s p fn f).cfgReport = s.cfgReport := modFn_cfgReport _ _ _ _
@[simp] theorem modCas_cfgOpen (s : State) (p : Port) (fn : Nat) (f : Casement → Casement) : (modCas s p fn f).cfgOpen = s.cfgOpen := modFn_cfgOpen _ _ _ _
@[simp] theorem modCas_cfgSsid (s : State) (p : Port) (fn : Nat) (f : Casement → Casement) : (modCas s p fn f).cfgSsid = s.cfgSsid := modFn_cfgSsid _ _ _ _
@[simp] theorem modCas_cfgSvid (s : State) (p : Port) (fn : Nat) (f : Casement → Casement) : (modCas s p fn f).cfgSvid = s.cfgSvid := modFn_cfgSvid _ _ _ _
@[simp] theorem modCas_nowNs (s : State) (p : Port) (fn : Nat) (f : Casement → Casement) : (modCas s p fn f).nowNs = s.nowNs := modFn_nowNs _ _ _ _
@[simp] theorem modCas_freeCtr (s : State) (p : Port) (fn : Nat) (f : Casement → Casement) : (modCas s p fn f).freeCtr = s.freeCtr := modFn_freeCtr _ _ _ _
@[simp] theorem modCas_pending (s : State) (p : Port) (fn : Nat) (f : Casement → Casement) : (modCas s p fn f).pending = s.pending := modFn_pending _ _ _ _
@[simp] theorem modCas_out (s : State) (p : Port) (fn : Nat) (f : Casement → Casement) : (modCas s p fn f).out = s.out := modFn_out _ _ _ _

@[simp] theorem modRing_cmds (s : State) (p : Port) (fn n : Nat) (f : Ring → Ring) : (modRing s p fn n f).cmds = s.cmds := modCas_cmds _ _ _ _
@[simp] theorem modRing_genCtr (s : State) (p : Port) (fn n : Nat) (f : Ring → Ring) : (modRing s p fn n f).genCtr = s.genCtr := modCas_genCtr _ _ _ _
@[simp] theorem modRing_tenants (s : State) (p : Port) (fn n : Nat) (f : Ring → Ring) : (modRing s p fn n f).tenants = s.tenants := modCas_tenants _ _ _ _
@[simp] theorem modRing_zones (s : State) (p : Port) (fn n : Nat) (f : Ring → Ring) : (modRing s p fn n f).zones = s.zones := modCas_zones _ _ _ _
@[simp] theorem modRing_zonesSaved (s : State) (p : Port) (fn n : Nat) (f : Ring → Ring) : (modRing s p fn n f).zonesSaved = s.zonesSaved := modCas_zonesSaved _ _ _ _
@[simp] theorem modRing_vers (s : State) (p : Port) (fn n : Nat) (f : Ring → Ring) : (modRing s p fn n f).vers = s.vers := modCas_vers _ _ _ _
@[simp] theorem modRing_verCtr (s : State) (p : Port) (fn n : Nat) (f : Ring → Ring) : (modRing s p fn n f).verCtr = s.verCtr := modCas_verCtr _ _ _ _
@[simp] theorem modRing_adm (s : State) (p : Port) (fn n : Nat) (f : Ring → Ring) : (modRing s p fn n f).adm = s.adm := modCas_adm _ _ _ _
@[simp] theorem modRing_portEvt (s : State) (p : Port) (fn n : Nat) (f : Ring → Ring) : (modRing s p fn n f).portEvt = s.portEvt := modCas_portEvt _ _ _ _
@[simp] theorem modRing_ssid (s : State) (p : Port) (fn n : Nat) (f : Ring → Ring) : (modRing s p fn n f).ssid = s.ssid := modCas_ssid _ _ _ _
@[simp] theorem modRing_svid (s : State) (p : Port) (fn n : Nat) (f : Ring → Ring) : (modRing s p fn n f).svid = s.svid := modCas_svid _ _ _ _
@[simp] theorem modRing_fuse (s : State) (p : Port) (fn n : Nat) (f : Ring → Ring) : (modRing s p fn n f).fuse = s.fuse := modCas_fuse _ _ _ _
@[simp] theorem modRing_media (s : State) (p : Port) (fn n : Nat) (f : Ring → Ring) : (modRing s p fn n f).media = s.media := modCas_media _ _ _ _
@[simp] theorem modRing_bpm (s : State) (p : Port) (fn n : Nat) (f : Ring → Ring) : (modRing s p fn n f).bpm = s.bpm := modCas_bpm _ _ _ _
@[simp] theorem modRing_evr (s : State) (p : Port) (fn n : Nat) (f : Ring → Ring) : (modRing s p fn n f).evr = s.evr := modCas_evr _ _ _ _
@[simp] theorem modRing_mep (s : State) (p : Port) (fn n : Nat) (f : Ring → Ring) : (modRing s p fn n f).mep = s.mep := modCas_mep _ _ _ _
@[simp] theorem modRing_plp (s : State) (p : Port) (fn n : Nat) (f : Ring → Ring) : (modRing s p fn n f).plp = s.plp := modCas_plp _ _ _ _
@[simp] theorem modRing_cip (s : State) (p : Port) (fn n : Nat) (f : Ring → Ring) : (modRing s p fn n f).cip = s.cip := modCas_cip _ _ _ _
@[simp] theorem modRing_mbxs (s : State) (p : Port) (fn n : Nat) (f : Ring → Ring) : (modRing s p fn n f).mbxs = s.mbxs := modCas_mbxs _ _ _ _
@[simp] theorem modRing_takeNo (s : State) (p : Port) (fn n : Nat) (f : Ring → Ring) : (modRing s p fn n f).takeNo = s.takeNo := modCas_takeNo _ _ _ _
@[simp] theorem modRing_mctp (s : State) (p : Port) (fn n : Nat) (f : Ring → Ring) : (modRing s p fn n f).mctp = s.mctp := modCas_mctp _ _ _ _
@[simp] theorem modRing_ckm (s : State) (p : Port) (fn n : Nat) (f : Ring → Ring) : (modRing s p fn n f).ckm = s.ckm := modCas_ckm _ _ _ _
@[simp] theorem modRing_rst (s : State) (p : Port) (fn n : Nat) (f : Ring → Ring) : (modRing s p fn n f).rst = s.rst := modCas_rst _ _ _ _
@[simp] theorem modRing_boot (s : State) (p : Port) (fn n : Nat) (f : Ring → Ring) : (modRing s p fn n f).boot = s.boot := modCas_boot _ _ _ _
@[simp] theorem modRing_thm (s : State) (p : Port) (fn n : Nat) (f : Ring → Ring) : (modRing s p fn n f).thm = s.thm := modCas_thm _ _ _ _
@[simp] theorem modRing_hlt (s : State) (p : Port) (fn n : Nat) (f : Ring → Ring) : (modRing s p fn n f).hlt = s.hlt := modCas_hlt _ _ _ _
@[simp] theorem modRing_hltSaved (s : State) (p : Port) (fn n : Nat) (f : Ring → Ring) : (modRing s p fn n f).hltSaved = s.hltSaved := modCas_hltSaved _ _ _ _
@[simp] theorem modRing_savedMs (s : State) (p : Port) (fn n : Nat) (f : Ring → Ring) : (modRing s p fn n f).savedMs = s.savedMs := modCas_savedMs _ _ _ _
@[simp] theorem modRing_tablesSaved (s : State) (p : Port) (fn n : Nat) (f : Ring → Ring) : (modRing s p fn n f).tablesSaved = s.tablesSaved := modCas_tablesSaved _ _ _ _
@[simp] theorem modRing_heldCommits (s : State) (p : Port) (fn n : Nat) (f : Ring → Ring) : (modRing s p fn n f).heldCommits = s.heldCommits := modCas_heldCommits _ _ _ _
@[simp] theorem modRing_heldOut (s : State) (p : Port) (fn n : Nat) (f : Ring → Ring) : (modRing s p fn n f).heldOut = s.heldOut := modCas_heldOut _ _ _ _
@[simp] theorem modRing_tap (s : State) (p : Port) (fn n : Nat) (f : Ring → Ring) : (modRing s p fn n f).tap = s.tap := modCas_tap _ _ _ _
@[simp] theorem modRing_pins (s : State) (p : Port) (fn n : Nat) (f : Ring → Ring) : (modRing s p fn n f).pins = s.pins := modCas_pins _ _ _ _
@[simp] theorem modRing_formatted (s : State) (p : Port) (fn n : Nat) (f : Ring → Ring) : (modRing s p fn n f).formatted = s.formatted := modCas_formatted _ _ _ _
@[simp] theorem modRing_flushEnd (s : State) (p : Port) (fn n : Nat) (f : Ring → Ring) : (modRing s p fn n f).flushEnd = s.flushEnd := modCas_flushEnd _ _ _ _
@[simp] theorem modRing_postNs (s : State) (p : Port) (fn n : Nat) (f : Ring → Ring) : (modRing s p fn n f).postNs = s.postNs := modCas_postNs _ _ _ _
@[simp] theorem modRing_cfgReport (s : State) (p : Port) (fn n : Nat) (f : Ring → Ring) : (modRing s p fn n f).cfgReport = s.cfgReport := modCas_cfgReport _ _ _ _
@[simp] theorem modRing_cfgOpen (s : State) (p : Port) (fn n : Nat) (f : Ring → Ring) : (modRing s p fn n f).cfgOpen = s.cfgOpen := modCas_cfgOpen _ _ _ _
@[simp] theorem modRing_cfgSsid (s : State) (p : Port) (fn n : Nat) (f : Ring → Ring) : (modRing s p fn n f).cfgSsid = s.cfgSsid := modCas_cfgSsid _ _ _ _
@[simp] theorem modRing_cfgSvid (s : State) (p : Port) (fn n : Nat) (f : Ring → Ring) : (modRing s p fn n f).cfgSvid = s.cfgSvid := modCas_cfgSvid _ _ _ _
@[simp] theorem modRing_nowNs (s : State) (p : Port) (fn n : Nat) (f : Ring → Ring) : (modRing s p fn n f).nowNs = s.nowNs := modCas_nowNs _ _ _ _
@[simp] theorem modRing_freeCtr (s : State) (p : Port) (fn n : Nat) (f : Ring → Ring) : (modRing s p fn n f).freeCtr = s.freeCtr := modCas_freeCtr _ _ _ _
@[simp] theorem modRing_pending (s : State) (p : Port) (fn n : Nat) (f : Ring → Ring) : (modRing s p fn n f).pending = s.pending := modCas_pending _ _ _ _
@[simp] theorem modRing_out (s : State) (p : Port) (fn n : Nat) (f : Ring → Ring) : (modRing s p fn n f).out = s.out := modCas_out _ _ _ _

@[simp] theorem modTen_pa (s : State) (t : Nat) (f : Tenant → Tenant) : (modTen s t f).pa = s.pa := rfl
@[simp] theorem modTen_pb (s : State) (t : Nat) (f : Tenant → Tenant) : (modTen s t f).pb = s.pb := rfl
@[simp] theorem modTen_cmds (s : State) (t : Nat) (f : Tenant → Tenant) : (modTen s t f).cmds = s.cmds := rfl
@[simp] theorem modTen_genCtr (s : State) (t : Nat) (f : Tenant → Tenant) : (modTen s t f).genCtr = s.genCtr := rfl
@[simp] theorem modTen_zones (s : State) (t : Nat) (f : Tenant → Tenant) : (modTen s t f).zones = s.zones := rfl
@[simp] theorem modTen_zonesSaved (s : State) (t : Nat) (f : Tenant → Tenant) : (modTen s t f).zonesSaved = s.zonesSaved := rfl
@[simp] theorem modTen_vers (s : State) (t : Nat) (f : Tenant → Tenant) : (modTen s t f).vers = s.vers := rfl
@[simp] theorem modTen_verCtr (s : State) (t : Nat) (f : Tenant → Tenant) : (modTen s t f).verCtr = s.verCtr := rfl
@[simp] theorem modTen_adm (s : State) (t : Nat) (f : Tenant → Tenant) : (modTen s t f).adm = s.adm := rfl
@[simp] theorem modTen_portEvt (s : State) (t : Nat) (f : Tenant → Tenant) : (modTen s t f).portEvt = s.portEvt := rfl
@[simp] theorem modTen_ssid (s : State) (t : Nat) (f : Tenant → Tenant) : (modTen s t f).ssid = s.ssid := rfl
@[simp] theorem modTen_svid (s : State) (t : Nat) (f : Tenant → Tenant) : (modTen s t f).svid = s.svid := rfl
@[simp] theorem modTen_fuse (s : State) (t : Nat) (f : Tenant → Tenant) : (modTen s t f).fuse = s.fuse := rfl
@[simp] theorem modTen_media (s : State) (t : Nat) (f : Tenant → Tenant) : (modTen s t f).media = s.media := rfl
@[simp] theorem modTen_bpm (s : State) (t : Nat) (f : Tenant → Tenant) : (modTen s t f).bpm = s.bpm := rfl
@[simp] theorem modTen_evr (s : State) (t : Nat) (f : Tenant → Tenant) : (modTen s t f).evr = s.evr := rfl
@[simp] theorem modTen_mep (s : State) (t : Nat) (f : Tenant → Tenant) : (modTen s t f).mep = s.mep := rfl
@[simp] theorem modTen_plp (s : State) (t : Nat) (f : Tenant → Tenant) : (modTen s t f).plp = s.plp := rfl
@[simp] theorem modTen_cip (s : State) (t : Nat) (f : Tenant → Tenant) : (modTen s t f).cip = s.cip := rfl
@[simp] theorem modTen_mbxs (s : State) (t : Nat) (f : Tenant → Tenant) : (modTen s t f).mbxs = s.mbxs := rfl
@[simp] theorem modTen_takeNo (s : State) (t : Nat) (f : Tenant → Tenant) : (modTen s t f).takeNo = s.takeNo := rfl
@[simp] theorem modTen_mctp (s : State) (t : Nat) (f : Tenant → Tenant) : (modTen s t f).mctp = s.mctp := rfl
@[simp] theorem modTen_ckm (s : State) (t : Nat) (f : Tenant → Tenant) : (modTen s t f).ckm = s.ckm := rfl
@[simp] theorem modTen_rst (s : State) (t : Nat) (f : Tenant → Tenant) : (modTen s t f).rst = s.rst := rfl
@[simp] theorem modTen_boot (s : State) (t : Nat) (f : Tenant → Tenant) : (modTen s t f).boot = s.boot := rfl
@[simp] theorem modTen_thm (s : State) (t : Nat) (f : Tenant → Tenant) : (modTen s t f).thm = s.thm := rfl
@[simp] theorem modTen_hlt (s : State) (t : Nat) (f : Tenant → Tenant) : (modTen s t f).hlt = s.hlt := rfl
@[simp] theorem modTen_hltSaved (s : State) (t : Nat) (f : Tenant → Tenant) : (modTen s t f).hltSaved = s.hltSaved := rfl
@[simp] theorem modTen_savedMs (s : State) (t : Nat) (f : Tenant → Tenant) : (modTen s t f).savedMs = s.savedMs := rfl
@[simp] theorem modTen_tablesSaved (s : State) (t : Nat) (f : Tenant → Tenant) : (modTen s t f).tablesSaved = s.tablesSaved := rfl
@[simp] theorem modTen_heldCommits (s : State) (t : Nat) (f : Tenant → Tenant) : (modTen s t f).heldCommits = s.heldCommits := rfl
@[simp] theorem modTen_heldOut (s : State) (t : Nat) (f : Tenant → Tenant) : (modTen s t f).heldOut = s.heldOut := rfl
@[simp] theorem modTen_tap (s : State) (t : Nat) (f : Tenant → Tenant) : (modTen s t f).tap = s.tap := rfl
@[simp] theorem modTen_pins (s : State) (t : Nat) (f : Tenant → Tenant) : (modTen s t f).pins = s.pins := rfl
@[simp] theorem modTen_formatted (s : State) (t : Nat) (f : Tenant → Tenant) : (modTen s t f).formatted = s.formatted := rfl
@[simp] theorem modTen_flushEnd (s : State) (t : Nat) (f : Tenant → Tenant) : (modTen s t f).flushEnd = s.flushEnd := rfl
@[simp] theorem modTen_postNs (s : State) (t : Nat) (f : Tenant → Tenant) : (modTen s t f).postNs = s.postNs := rfl
@[simp] theorem modTen_cfgReport (s : State) (t : Nat) (f : Tenant → Tenant) : (modTen s t f).cfgReport = s.cfgReport := rfl
@[simp] theorem modTen_cfgOpen (s : State) (t : Nat) (f : Tenant → Tenant) : (modTen s t f).cfgOpen = s.cfgOpen := rfl
@[simp] theorem modTen_cfgSsid (s : State) (t : Nat) (f : Tenant → Tenant) : (modTen s t f).cfgSsid = s.cfgSsid := rfl
@[simp] theorem modTen_cfgSvid (s : State) (t : Nat) (f : Tenant → Tenant) : (modTen s t f).cfgSvid = s.cfgSvid := rfl
@[simp] theorem modTen_nowNs (s : State) (t : Nat) (f : Tenant → Tenant) : (modTen s t f).nowNs = s.nowNs := rfl
@[simp] theorem modTen_freeCtr (s : State) (t : Nat) (f : Tenant → Tenant) : (modTen s t f).freeCtr = s.freeCtr := rfl
@[simp] theorem modTen_pending (s : State) (t : Nat) (f : Tenant → Tenant) : (modTen s t f).pending = s.pending := rfl
@[simp] theorem modTen_out (s : State) (t : Nat) (f : Tenant → Tenant) : (modTen s t f).out = s.out := rfl

@[simp] theorem modTCls_pa (s : State) (t : Nat) (c : Cls) (f : TCls → TCls) : (modTCls s t c f).pa = s.pa := rfl
@[simp] theorem modTCls_pb (s : State) (t : Nat) (c : Cls) (f : TCls → TCls) : (modTCls s t c f).pb = s.pb := rfl
@[simp] theorem modTCls_cmds (s : State) (t : Nat) (c : Cls) (f : TCls → TCls) : (modTCls s t c f).cmds = s.cmds := rfl
@[simp] theorem modTCls_genCtr (s : State) (t : Nat) (c : Cls) (f : TCls → TCls) : (modTCls s t c f).genCtr = s.genCtr := rfl
@[simp] theorem modTCls_zones (s : State) (t : Nat) (c : Cls) (f : TCls → TCls) : (modTCls s t c f).zones = s.zones := rfl
@[simp] theorem modTCls_zonesSaved (s : State) (t : Nat) (c : Cls) (f : TCls → TCls) : (modTCls s t c f).zonesSaved = s.zonesSaved := rfl
@[simp] theorem modTCls_vers (s : State) (t : Nat) (c : Cls) (f : TCls → TCls) : (modTCls s t c f).vers = s.vers := rfl
@[simp] theorem modTCls_verCtr (s : State) (t : Nat) (c : Cls) (f : TCls → TCls) : (modTCls s t c f).verCtr = s.verCtr := rfl
@[simp] theorem modTCls_adm (s : State) (t : Nat) (c : Cls) (f : TCls → TCls) : (modTCls s t c f).adm = s.adm := rfl
@[simp] theorem modTCls_portEvt (s : State) (t : Nat) (c : Cls) (f : TCls → TCls) : (modTCls s t c f).portEvt = s.portEvt := rfl
@[simp] theorem modTCls_ssid (s : State) (t : Nat) (c : Cls) (f : TCls → TCls) : (modTCls s t c f).ssid = s.ssid := rfl
@[simp] theorem modTCls_svid (s : State) (t : Nat) (c : Cls) (f : TCls → TCls) : (modTCls s t c f).svid = s.svid := rfl
@[simp] theorem modTCls_fuse (s : State) (t : Nat) (c : Cls) (f : TCls → TCls) : (modTCls s t c f).fuse = s.fuse := rfl
@[simp] theorem modTCls_media (s : State) (t : Nat) (c : Cls) (f : TCls → TCls) : (modTCls s t c f).media = s.media := rfl
@[simp] theorem modTCls_bpm (s : State) (t : Nat) (c : Cls) (f : TCls → TCls) : (modTCls s t c f).bpm = s.bpm := rfl
@[simp] theorem modTCls_evr (s : State) (t : Nat) (c : Cls) (f : TCls → TCls) : (modTCls s t c f).evr = s.evr := rfl
@[simp] theorem modTCls_mep (s : State) (t : Nat) (c : Cls) (f : TCls → TCls) : (modTCls s t c f).mep = s.mep := rfl
@[simp] theorem modTCls_plp (s : State) (t : Nat) (c : Cls) (f : TCls → TCls) : (modTCls s t c f).plp = s.plp := rfl
@[simp] theorem modTCls_cip (s : State) (t : Nat) (c : Cls) (f : TCls → TCls) : (modTCls s t c f).cip = s.cip := rfl
@[simp] theorem modTCls_mbxs (s : State) (t : Nat) (c : Cls) (f : TCls → TCls) : (modTCls s t c f).mbxs = s.mbxs := rfl
@[simp] theorem modTCls_takeNo (s : State) (t : Nat) (c : Cls) (f : TCls → TCls) : (modTCls s t c f).takeNo = s.takeNo := rfl
@[simp] theorem modTCls_mctp (s : State) (t : Nat) (c : Cls) (f : TCls → TCls) : (modTCls s t c f).mctp = s.mctp := rfl
@[simp] theorem modTCls_ckm (s : State) (t : Nat) (c : Cls) (f : TCls → TCls) : (modTCls s t c f).ckm = s.ckm := rfl
@[simp] theorem modTCls_rst (s : State) (t : Nat) (c : Cls) (f : TCls → TCls) : (modTCls s t c f).rst = s.rst := rfl
@[simp] theorem modTCls_boot (s : State) (t : Nat) (c : Cls) (f : TCls → TCls) : (modTCls s t c f).boot = s.boot := rfl
@[simp] theorem modTCls_thm (s : State) (t : Nat) (c : Cls) (f : TCls → TCls) : (modTCls s t c f).thm = s.thm := rfl
@[simp] theorem modTCls_hlt (s : State) (t : Nat) (c : Cls) (f : TCls → TCls) : (modTCls s t c f).hlt = s.hlt := rfl
@[simp] theorem modTCls_hltSaved (s : State) (t : Nat) (c : Cls) (f : TCls → TCls) : (modTCls s t c f).hltSaved = s.hltSaved := rfl
@[simp] theorem modTCls_savedMs (s : State) (t : Nat) (c : Cls) (f : TCls → TCls) : (modTCls s t c f).savedMs = s.savedMs := rfl
@[simp] theorem modTCls_tablesSaved (s : State) (t : Nat) (c : Cls) (f : TCls → TCls) : (modTCls s t c f).tablesSaved = s.tablesSaved := rfl
@[simp] theorem modTCls_heldCommits (s : State) (t : Nat) (c : Cls) (f : TCls → TCls) : (modTCls s t c f).heldCommits = s.heldCommits := rfl
@[simp] theorem modTCls_heldOut (s : State) (t : Nat) (c : Cls) (f : TCls → TCls) : (modTCls s t c f).heldOut = s.heldOut := rfl
@[simp] theorem modTCls_tap (s : State) (t : Nat) (c : Cls) (f : TCls → TCls) : (modTCls s t c f).tap = s.tap := rfl
@[simp] theorem modTCls_pins (s : State) (t : Nat) (c : Cls) (f : TCls → TCls) : (modTCls s t c f).pins = s.pins := rfl
@[simp] theorem modTCls_formatted (s : State) (t : Nat) (c : Cls) (f : TCls → TCls) : (modTCls s t c f).formatted = s.formatted := rfl
@[simp] theorem modTCls_flushEnd (s : State) (t : Nat) (c : Cls) (f : TCls → TCls) : (modTCls s t c f).flushEnd = s.flushEnd := rfl
@[simp] theorem modTCls_postNs (s : State) (t : Nat) (c : Cls) (f : TCls → TCls) : (modTCls s t c f).postNs = s.postNs := rfl
@[simp] theorem modTCls_cfgReport (s : State) (t : Nat) (c : Cls) (f : TCls → TCls) : (modTCls s t c f).cfgReport = s.cfgReport := rfl
@[simp] theorem modTCls_cfgOpen (s : State) (t : Nat) (c : Cls) (f : TCls → TCls) : (modTCls s t c f).cfgOpen = s.cfgOpen := rfl
@[simp] theorem modTCls_cfgSsid (s : State) (t : Nat) (c : Cls) (f : TCls → TCls) : (modTCls s t c f).cfgSsid = s.cfgSsid := rfl
@[simp] theorem modTCls_cfgSvid (s : State) (t : Nat) (c : Cls) (f : TCls → TCls) : (modTCls s t c f).cfgSvid = s.cfgSvid := rfl
@[simp] theorem modTCls_nowNs (s : State) (t : Nat) (c : Cls) (f : TCls → TCls) : (modTCls s t c f).nowNs = s.nowNs := rfl
@[simp] theorem modTCls_freeCtr (s : State) (t : Nat) (c : Cls) (f : TCls → TCls) : (modTCls s t c f).freeCtr = s.freeCtr := rfl
@[simp] theorem modTCls_pending (s : State) (t : Nat) (c : Cls) (f : TCls → TCls) : (modTCls s t c f).pending = s.pending := rfl
@[simp] theorem modTCls_out (s : State) (t : Nat) (c : Cls) (f : TCls → TCls) : (modTCls s t c f).out = s.out := rfl

@[simp] theorem modZone_pa (s : State) (t z : Nat) (f : Zone → Zone) : (modZone s t z f).pa = s.pa := rfl
@[simp] theorem modZone_pb (s : State) (t z : Nat) (f : Zone → Zone) : (modZone s t z f).pb = s.pb := rfl
@[simp] theorem modZone_cmds (s : State) (t z : Nat) (f : Zone → Zone) : (modZone s t z f).cmds = s.cmds := rfl
@[simp] theorem modZone_genCtr (s : State) (t z : Nat) (f : Zone → Zone) : (modZone s t z f).genCtr = s.genCtr := rfl
@[simp] theorem modZone_tenants (s : State) (t z : Nat) (f : Zone → Zone) : (modZone s t z f).tenants = s.tenants := rfl
@[simp] theorem modZone_zonesSaved (s : State) (t z : Nat) (f : Zone → Zone) : (modZone s t z f).zonesSaved = s.zonesSaved := rfl
@[simp] theorem modZone_vers (s : State) (t z : Nat) (f : Zone → Zone) : (modZone s t z f).vers = s.vers := rfl
@[simp] theorem modZone_verCtr (s : State) (t z : Nat) (f : Zone → Zone) : (modZone s t z f).verCtr = s.verCtr := rfl
@[simp] theorem modZone_adm (s : State) (t z : Nat) (f : Zone → Zone) : (modZone s t z f).adm = s.adm := rfl
@[simp] theorem modZone_portEvt (s : State) (t z : Nat) (f : Zone → Zone) : (modZone s t z f).portEvt = s.portEvt := rfl
@[simp] theorem modZone_ssid (s : State) (t z : Nat) (f : Zone → Zone) : (modZone s t z f).ssid = s.ssid := rfl
@[simp] theorem modZone_svid (s : State) (t z : Nat) (f : Zone → Zone) : (modZone s t z f).svid = s.svid := rfl
@[simp] theorem modZone_fuse (s : State) (t z : Nat) (f : Zone → Zone) : (modZone s t z f).fuse = s.fuse := rfl
@[simp] theorem modZone_media (s : State) (t z : Nat) (f : Zone → Zone) : (modZone s t z f).media = s.media := rfl
@[simp] theorem modZone_bpm (s : State) (t z : Nat) (f : Zone → Zone) : (modZone s t z f).bpm = s.bpm := rfl
@[simp] theorem modZone_evr (s : State) (t z : Nat) (f : Zone → Zone) : (modZone s t z f).evr = s.evr := rfl
@[simp] theorem modZone_mep (s : State) (t z : Nat) (f : Zone → Zone) : (modZone s t z f).mep = s.mep := rfl
@[simp] theorem modZone_plp (s : State) (t z : Nat) (f : Zone → Zone) : (modZone s t z f).plp = s.plp := rfl
@[simp] theorem modZone_cip (s : State) (t z : Nat) (f : Zone → Zone) : (modZone s t z f).cip = s.cip := rfl
@[simp] theorem modZone_mbxs (s : State) (t z : Nat) (f : Zone → Zone) : (modZone s t z f).mbxs = s.mbxs := rfl
@[simp] theorem modZone_takeNo (s : State) (t z : Nat) (f : Zone → Zone) : (modZone s t z f).takeNo = s.takeNo := rfl
@[simp] theorem modZone_mctp (s : State) (t z : Nat) (f : Zone → Zone) : (modZone s t z f).mctp = s.mctp := rfl
@[simp] theorem modZone_ckm (s : State) (t z : Nat) (f : Zone → Zone) : (modZone s t z f).ckm = s.ckm := rfl
@[simp] theorem modZone_rst (s : State) (t z : Nat) (f : Zone → Zone) : (modZone s t z f).rst = s.rst := rfl
@[simp] theorem modZone_boot (s : State) (t z : Nat) (f : Zone → Zone) : (modZone s t z f).boot = s.boot := rfl
@[simp] theorem modZone_thm (s : State) (t z : Nat) (f : Zone → Zone) : (modZone s t z f).thm = s.thm := rfl
@[simp] theorem modZone_hlt (s : State) (t z : Nat) (f : Zone → Zone) : (modZone s t z f).hlt = s.hlt := rfl
@[simp] theorem modZone_hltSaved (s : State) (t z : Nat) (f : Zone → Zone) : (modZone s t z f).hltSaved = s.hltSaved := rfl
@[simp] theorem modZone_savedMs (s : State) (t z : Nat) (f : Zone → Zone) : (modZone s t z f).savedMs = s.savedMs := rfl
@[simp] theorem modZone_tablesSaved (s : State) (t z : Nat) (f : Zone → Zone) : (modZone s t z f).tablesSaved = s.tablesSaved := rfl
@[simp] theorem modZone_heldCommits (s : State) (t z : Nat) (f : Zone → Zone) : (modZone s t z f).heldCommits = s.heldCommits := rfl
@[simp] theorem modZone_heldOut (s : State) (t z : Nat) (f : Zone → Zone) : (modZone s t z f).heldOut = s.heldOut := rfl
@[simp] theorem modZone_tap (s : State) (t z : Nat) (f : Zone → Zone) : (modZone s t z f).tap = s.tap := rfl
@[simp] theorem modZone_pins (s : State) (t z : Nat) (f : Zone → Zone) : (modZone s t z f).pins = s.pins := rfl
@[simp] theorem modZone_formatted (s : State) (t z : Nat) (f : Zone → Zone) : (modZone s t z f).formatted = s.formatted := rfl
@[simp] theorem modZone_flushEnd (s : State) (t z : Nat) (f : Zone → Zone) : (modZone s t z f).flushEnd = s.flushEnd := rfl
@[simp] theorem modZone_postNs (s : State) (t z : Nat) (f : Zone → Zone) : (modZone s t z f).postNs = s.postNs := rfl
@[simp] theorem modZone_cfgReport (s : State) (t z : Nat) (f : Zone → Zone) : (modZone s t z f).cfgReport = s.cfgReport := rfl
@[simp] theorem modZone_cfgOpen (s : State) (t z : Nat) (f : Zone → Zone) : (modZone s t z f).cfgOpen = s.cfgOpen := rfl
@[simp] theorem modZone_cfgSsid (s : State) (t z : Nat) (f : Zone → Zone) : (modZone s t z f).cfgSsid = s.cfgSsid := rfl
@[simp] theorem modZone_cfgSvid (s : State) (t z : Nat) (f : Zone → Zone) : (modZone s t z f).cfgSvid = s.cfgSvid := rfl
@[simp] theorem modZone_nowNs (s : State) (t z : Nat) (f : Zone → Zone) : (modZone s t z f).nowNs = s.nowNs := rfl
@[simp] theorem modZone_freeCtr (s : State) (t z : Nat) (f : Zone → Zone) : (modZone s t z f).freeCtr = s.freeCtr := rfl
@[simp] theorem modZone_pending (s : State) (t z : Nat) (f : Zone → Zone) : (modZone s t z f).pending = s.pending := rfl
@[simp] theorem modZone_out (s : State) (t z : Nat) (f : Zone → Zone) : (modZone s t z f).out = s.out := rfl

@[simp] theorem modCmd_pa (s : State) (t seq : Nat) (f : Cmd → Cmd) : (modCmd s t seq f).pa = s.pa := rfl
@[simp] theorem modCmd_pb (s : State) (t seq : Nat) (f : Cmd → Cmd) : (modCmd s t seq f).pb = s.pb := rfl
@[simp] theorem modCmd_genCtr (s : State) (t seq : Nat) (f : Cmd → Cmd) : (modCmd s t seq f).genCtr = s.genCtr := rfl
@[simp] theorem modCmd_tenants (s : State) (t seq : Nat) (f : Cmd → Cmd) : (modCmd s t seq f).tenants = s.tenants := rfl
@[simp] theorem modCmd_zones (s : State) (t seq : Nat) (f : Cmd → Cmd) : (modCmd s t seq f).zones = s.zones := rfl
@[simp] theorem modCmd_zonesSaved (s : State) (t seq : Nat) (f : Cmd → Cmd) : (modCmd s t seq f).zonesSaved = s.zonesSaved := rfl
@[simp] theorem modCmd_vers (s : State) (t seq : Nat) (f : Cmd → Cmd) : (modCmd s t seq f).vers = s.vers := rfl
@[simp] theorem modCmd_verCtr (s : State) (t seq : Nat) (f : Cmd → Cmd) : (modCmd s t seq f).verCtr = s.verCtr := rfl
@[simp] theorem modCmd_adm (s : State) (t seq : Nat) (f : Cmd → Cmd) : (modCmd s t seq f).adm = s.adm := rfl
@[simp] theorem modCmd_portEvt (s : State) (t seq : Nat) (f : Cmd → Cmd) : (modCmd s t seq f).portEvt = s.portEvt := rfl
@[simp] theorem modCmd_ssid (s : State) (t seq : Nat) (f : Cmd → Cmd) : (modCmd s t seq f).ssid = s.ssid := rfl
@[simp] theorem modCmd_svid (s : State) (t seq : Nat) (f : Cmd → Cmd) : (modCmd s t seq f).svid = s.svid := rfl
@[simp] theorem modCmd_fuse (s : State) (t seq : Nat) (f : Cmd → Cmd) : (modCmd s t seq f).fuse = s.fuse := rfl
@[simp] theorem modCmd_media (s : State) (t seq : Nat) (f : Cmd → Cmd) : (modCmd s t seq f).media = s.media := rfl
@[simp] theorem modCmd_bpm (s : State) (t seq : Nat) (f : Cmd → Cmd) : (modCmd s t seq f).bpm = s.bpm := rfl
@[simp] theorem modCmd_evr (s : State) (t seq : Nat) (f : Cmd → Cmd) : (modCmd s t seq f).evr = s.evr := rfl
@[simp] theorem modCmd_mep (s : State) (t seq : Nat) (f : Cmd → Cmd) : (modCmd s t seq f).mep = s.mep := rfl
@[simp] theorem modCmd_plp (s : State) (t seq : Nat) (f : Cmd → Cmd) : (modCmd s t seq f).plp = s.plp := rfl
@[simp] theorem modCmd_cip (s : State) (t seq : Nat) (f : Cmd → Cmd) : (modCmd s t seq f).cip = s.cip := rfl
@[simp] theorem modCmd_mbxs (s : State) (t seq : Nat) (f : Cmd → Cmd) : (modCmd s t seq f).mbxs = s.mbxs := rfl
@[simp] theorem modCmd_takeNo (s : State) (t seq : Nat) (f : Cmd → Cmd) : (modCmd s t seq f).takeNo = s.takeNo := rfl
@[simp] theorem modCmd_mctp (s : State) (t seq : Nat) (f : Cmd → Cmd) : (modCmd s t seq f).mctp = s.mctp := rfl
@[simp] theorem modCmd_ckm (s : State) (t seq : Nat) (f : Cmd → Cmd) : (modCmd s t seq f).ckm = s.ckm := rfl
@[simp] theorem modCmd_rst (s : State) (t seq : Nat) (f : Cmd → Cmd) : (modCmd s t seq f).rst = s.rst := rfl
@[simp] theorem modCmd_boot (s : State) (t seq : Nat) (f : Cmd → Cmd) : (modCmd s t seq f).boot = s.boot := rfl
@[simp] theorem modCmd_thm (s : State) (t seq : Nat) (f : Cmd → Cmd) : (modCmd s t seq f).thm = s.thm := rfl
@[simp] theorem modCmd_hlt (s : State) (t seq : Nat) (f : Cmd → Cmd) : (modCmd s t seq f).hlt = s.hlt := rfl
@[simp] theorem modCmd_hltSaved (s : State) (t seq : Nat) (f : Cmd → Cmd) : (modCmd s t seq f).hltSaved = s.hltSaved := rfl
@[simp] theorem modCmd_savedMs (s : State) (t seq : Nat) (f : Cmd → Cmd) : (modCmd s t seq f).savedMs = s.savedMs := rfl
@[simp] theorem modCmd_tablesSaved (s : State) (t seq : Nat) (f : Cmd → Cmd) : (modCmd s t seq f).tablesSaved = s.tablesSaved := rfl
@[simp] theorem modCmd_heldCommits (s : State) (t seq : Nat) (f : Cmd → Cmd) : (modCmd s t seq f).heldCommits = s.heldCommits := rfl
@[simp] theorem modCmd_heldOut (s : State) (t seq : Nat) (f : Cmd → Cmd) : (modCmd s t seq f).heldOut = s.heldOut := rfl
@[simp] theorem modCmd_tap (s : State) (t seq : Nat) (f : Cmd → Cmd) : (modCmd s t seq f).tap = s.tap := rfl
@[simp] theorem modCmd_pins (s : State) (t seq : Nat) (f : Cmd → Cmd) : (modCmd s t seq f).pins = s.pins := rfl
@[simp] theorem modCmd_formatted (s : State) (t seq : Nat) (f : Cmd → Cmd) : (modCmd s t seq f).formatted = s.formatted := rfl
@[simp] theorem modCmd_flushEnd (s : State) (t seq : Nat) (f : Cmd → Cmd) : (modCmd s t seq f).flushEnd = s.flushEnd := rfl
@[simp] theorem modCmd_postNs (s : State) (t seq : Nat) (f : Cmd → Cmd) : (modCmd s t seq f).postNs = s.postNs := rfl
@[simp] theorem modCmd_cfgReport (s : State) (t seq : Nat) (f : Cmd → Cmd) : (modCmd s t seq f).cfgReport = s.cfgReport := rfl
@[simp] theorem modCmd_cfgOpen (s : State) (t seq : Nat) (f : Cmd → Cmd) : (modCmd s t seq f).cfgOpen = s.cfgOpen := rfl
@[simp] theorem modCmd_cfgSsid (s : State) (t seq : Nat) (f : Cmd → Cmd) : (modCmd s t seq f).cfgSsid = s.cfgSsid := rfl
@[simp] theorem modCmd_cfgSvid (s : State) (t seq : Nat) (f : Cmd → Cmd) : (modCmd s t seq f).cfgSvid = s.cfgSvid := rfl
@[simp] theorem modCmd_nowNs (s : State) (t seq : Nat) (f : Cmd → Cmd) : (modCmd s t seq f).nowNs = s.nowNs := rfl
@[simp] theorem modCmd_freeCtr (s : State) (t seq : Nat) (f : Cmd → Cmd) : (modCmd s t seq f).freeCtr = s.freeCtr := rfl
@[simp] theorem modCmd_pending (s : State) (t seq : Nat) (f : Cmd → Cmd) : (modCmd s t seq f).pending = s.pending := rfl
@[simp] theorem modCmd_out (s : State) (t seq : Nat) (f : Cmd → Cmd) : (modCmd s t seq f).out = s.out := rfl

@[simp] theorem modVer_pa (s : State) (v : Nat) (f : Ver → Ver) : (modVer s v f).pa = s.pa := rfl
@[simp] theorem modVer_pb (s : State) (v : Nat) (f : Ver → Ver) : (modVer s v f).pb = s.pb := rfl
@[simp] theorem modVer_cmds (s : State) (v : Nat) (f : Ver → Ver) : (modVer s v f).cmds = s.cmds := rfl
@[simp] theorem modVer_genCtr (s : State) (v : Nat) (f : Ver → Ver) : (modVer s v f).genCtr = s.genCtr := rfl
@[simp] theorem modVer_tenants (s : State) (v : Nat) (f : Ver → Ver) : (modVer s v f).tenants = s.tenants := rfl
@[simp] theorem modVer_zones (s : State) (v : Nat) (f : Ver → Ver) : (modVer s v f).zones = s.zones := rfl
@[simp] theorem modVer_zonesSaved (s : State) (v : Nat) (f : Ver → Ver) : (modVer s v f).zonesSaved = s.zonesSaved := rfl
@[simp] theorem modVer_verCtr (s : State) (v : Nat) (f : Ver → Ver) : (modVer s v f).verCtr = s.verCtr := rfl
@[simp] theorem modVer_adm (s : State) (v : Nat) (f : Ver → Ver) : (modVer s v f).adm = s.adm := rfl
@[simp] theorem modVer_portEvt (s : State) (v : Nat) (f : Ver → Ver) : (modVer s v f).portEvt = s.portEvt := rfl
@[simp] theorem modVer_ssid (s : State) (v : Nat) (f : Ver → Ver) : (modVer s v f).ssid = s.ssid := rfl
@[simp] theorem modVer_svid (s : State) (v : Nat) (f : Ver → Ver) : (modVer s v f).svid = s.svid := rfl
@[simp] theorem modVer_fuse (s : State) (v : Nat) (f : Ver → Ver) : (modVer s v f).fuse = s.fuse := rfl
@[simp] theorem modVer_media (s : State) (v : Nat) (f : Ver → Ver) : (modVer s v f).media = s.media := rfl
@[simp] theorem modVer_bpm (s : State) (v : Nat) (f : Ver → Ver) : (modVer s v f).bpm = s.bpm := rfl
@[simp] theorem modVer_evr (s : State) (v : Nat) (f : Ver → Ver) : (modVer s v f).evr = s.evr := rfl
@[simp] theorem modVer_mep (s : State) (v : Nat) (f : Ver → Ver) : (modVer s v f).mep = s.mep := rfl
@[simp] theorem modVer_plp (s : State) (v : Nat) (f : Ver → Ver) : (modVer s v f).plp = s.plp := rfl
@[simp] theorem modVer_cip (s : State) (v : Nat) (f : Ver → Ver) : (modVer s v f).cip = s.cip := rfl
@[simp] theorem modVer_mbxs (s : State) (v : Nat) (f : Ver → Ver) : (modVer s v f).mbxs = s.mbxs := rfl
@[simp] theorem modVer_takeNo (s : State) (v : Nat) (f : Ver → Ver) : (modVer s v f).takeNo = s.takeNo := rfl
@[simp] theorem modVer_mctp (s : State) (v : Nat) (f : Ver → Ver) : (modVer s v f).mctp = s.mctp := rfl
@[simp] theorem modVer_ckm (s : State) (v : Nat) (f : Ver → Ver) : (modVer s v f).ckm = s.ckm := rfl
@[simp] theorem modVer_rst (s : State) (v : Nat) (f : Ver → Ver) : (modVer s v f).rst = s.rst := rfl
@[simp] theorem modVer_boot (s : State) (v : Nat) (f : Ver → Ver) : (modVer s v f).boot = s.boot := rfl
@[simp] theorem modVer_thm (s : State) (v : Nat) (f : Ver → Ver) : (modVer s v f).thm = s.thm := rfl
@[simp] theorem modVer_hlt (s : State) (v : Nat) (f : Ver → Ver) : (modVer s v f).hlt = s.hlt := rfl
@[simp] theorem modVer_hltSaved (s : State) (v : Nat) (f : Ver → Ver) : (modVer s v f).hltSaved = s.hltSaved := rfl
@[simp] theorem modVer_savedMs (s : State) (v : Nat) (f : Ver → Ver) : (modVer s v f).savedMs = s.savedMs := rfl
@[simp] theorem modVer_tablesSaved (s : State) (v : Nat) (f : Ver → Ver) : (modVer s v f).tablesSaved = s.tablesSaved := rfl
@[simp] theorem modVer_heldCommits (s : State) (v : Nat) (f : Ver → Ver) : (modVer s v f).heldCommits = s.heldCommits := rfl
@[simp] theorem modVer_heldOut (s : State) (v : Nat) (f : Ver → Ver) : (modVer s v f).heldOut = s.heldOut := rfl
@[simp] theorem modVer_tap (s : State) (v : Nat) (f : Ver → Ver) : (modVer s v f).tap = s.tap := rfl
@[simp] theorem modVer_pins (s : State) (v : Nat) (f : Ver → Ver) : (modVer s v f).pins = s.pins := rfl
@[simp] theorem modVer_formatted (s : State) (v : Nat) (f : Ver → Ver) : (modVer s v f).formatted = s.formatted := rfl
@[simp] theorem modVer_flushEnd (s : State) (v : Nat) (f : Ver → Ver) : (modVer s v f).flushEnd = s.flushEnd := rfl
@[simp] theorem modVer_postNs (s : State) (v : Nat) (f : Ver → Ver) : (modVer s v f).postNs = s.postNs := rfl
@[simp] theorem modVer_cfgReport (s : State) (v : Nat) (f : Ver → Ver) : (modVer s v f).cfgReport = s.cfgReport := rfl
@[simp] theorem modVer_cfgOpen (s : State) (v : Nat) (f : Ver → Ver) : (modVer s v f).cfgOpen = s.cfgOpen := rfl
@[simp] theorem modVer_cfgSsid (s : State) (v : Nat) (f : Ver → Ver) : (modVer s v f).cfgSsid = s.cfgSsid := rfl
@[simp] theorem modVer_cfgSvid (s : State) (v : Nat) (f : Ver → Ver) : (modVer s v f).cfgSvid = s.cfgSvid := rfl
@[simp] theorem modVer_nowNs (s : State) (v : Nat) (f : Ver → Ver) : (modVer s v f).nowNs = s.nowNs := rfl
@[simp] theorem modVer_freeCtr (s : State) (v : Nat) (f : Ver → Ver) : (modVer s v f).freeCtr = s.freeCtr := rfl
@[simp] theorem modVer_pending (s : State) (v : Nat) (f : Ver → Ver) : (modVer s v f).pending = s.pending := rfl
@[simp] theorem modVer_out (s : State) (v : Nat) (f : Ver → Ver) : (modVer s v f).out = s.out := rfl

@[simp] theorem modMbx_pa (s : State) (b : Box) (f : Mbx → Mbx) : (modMbx s b f).pa = s.pa := rfl
@[simp] theorem modMbx_pb (s : State) (b : Box) (f : Mbx → Mbx) : (modMbx s b f).pb = s.pb := rfl
@[simp] theorem modMbx_cmds (s : State) (b : Box) (f : Mbx → Mbx) : (modMbx s b f).cmds = s.cmds := rfl
@[simp] theorem modMbx_genCtr (s : State) (b : Box) (f : Mbx → Mbx) : (modMbx s b f).genCtr = s.genCtr := rfl
@[simp] theorem modMbx_tenants (s : State) (b : Box) (f : Mbx → Mbx) : (modMbx s b f).tenants = s.tenants := rfl
@[simp] theorem modMbx_zones (s : State) (b : Box) (f : Mbx → Mbx) : (modMbx s b f).zones = s.zones := rfl
@[simp] theorem modMbx_zonesSaved (s : State) (b : Box) (f : Mbx → Mbx) : (modMbx s b f).zonesSaved = s.zonesSaved := rfl
@[simp] theorem modMbx_vers (s : State) (b : Box) (f : Mbx → Mbx) : (modMbx s b f).vers = s.vers := rfl
@[simp] theorem modMbx_verCtr (s : State) (b : Box) (f : Mbx → Mbx) : (modMbx s b f).verCtr = s.verCtr := rfl
@[simp] theorem modMbx_adm (s : State) (b : Box) (f : Mbx → Mbx) : (modMbx s b f).adm = s.adm := rfl
@[simp] theorem modMbx_portEvt (s : State) (b : Box) (f : Mbx → Mbx) : (modMbx s b f).portEvt = s.portEvt := rfl
@[simp] theorem modMbx_ssid (s : State) (b : Box) (f : Mbx → Mbx) : (modMbx s b f).ssid = s.ssid := rfl
@[simp] theorem modMbx_svid (s : State) (b : Box) (f : Mbx → Mbx) : (modMbx s b f).svid = s.svid := rfl
@[simp] theorem modMbx_fuse (s : State) (b : Box) (f : Mbx → Mbx) : (modMbx s b f).fuse = s.fuse := rfl
@[simp] theorem modMbx_media (s : State) (b : Box) (f : Mbx → Mbx) : (modMbx s b f).media = s.media := rfl
@[simp] theorem modMbx_bpm (s : State) (b : Box) (f : Mbx → Mbx) : (modMbx s b f).bpm = s.bpm := rfl
@[simp] theorem modMbx_evr (s : State) (b : Box) (f : Mbx → Mbx) : (modMbx s b f).evr = s.evr := rfl
@[simp] theorem modMbx_mep (s : State) (b : Box) (f : Mbx → Mbx) : (modMbx s b f).mep = s.mep := rfl
@[simp] theorem modMbx_plp (s : State) (b : Box) (f : Mbx → Mbx) : (modMbx s b f).plp = s.plp := rfl
@[simp] theorem modMbx_cip (s : State) (b : Box) (f : Mbx → Mbx) : (modMbx s b f).cip = s.cip := rfl
@[simp] theorem modMbx_takeNo (s : State) (b : Box) (f : Mbx → Mbx) : (modMbx s b f).takeNo = s.takeNo := rfl
@[simp] theorem modMbx_mctp (s : State) (b : Box) (f : Mbx → Mbx) : (modMbx s b f).mctp = s.mctp := rfl
@[simp] theorem modMbx_ckm (s : State) (b : Box) (f : Mbx → Mbx) : (modMbx s b f).ckm = s.ckm := rfl
@[simp] theorem modMbx_rst (s : State) (b : Box) (f : Mbx → Mbx) : (modMbx s b f).rst = s.rst := rfl
@[simp] theorem modMbx_boot (s : State) (b : Box) (f : Mbx → Mbx) : (modMbx s b f).boot = s.boot := rfl
@[simp] theorem modMbx_thm (s : State) (b : Box) (f : Mbx → Mbx) : (modMbx s b f).thm = s.thm := rfl
@[simp] theorem modMbx_hlt (s : State) (b : Box) (f : Mbx → Mbx) : (modMbx s b f).hlt = s.hlt := rfl
@[simp] theorem modMbx_hltSaved (s : State) (b : Box) (f : Mbx → Mbx) : (modMbx s b f).hltSaved = s.hltSaved := rfl
@[simp] theorem modMbx_savedMs (s : State) (b : Box) (f : Mbx → Mbx) : (modMbx s b f).savedMs = s.savedMs := rfl
@[simp] theorem modMbx_tablesSaved (s : State) (b : Box) (f : Mbx → Mbx) : (modMbx s b f).tablesSaved = s.tablesSaved := rfl
@[simp] theorem modMbx_heldCommits (s : State) (b : Box) (f : Mbx → Mbx) : (modMbx s b f).heldCommits = s.heldCommits := rfl
@[simp] theorem modMbx_heldOut (s : State) (b : Box) (f : Mbx → Mbx) : (modMbx s b f).heldOut = s.heldOut := rfl
@[simp] theorem modMbx_tap (s : State) (b : Box) (f : Mbx → Mbx) : (modMbx s b f).tap = s.tap := rfl
@[simp] theorem modMbx_pins (s : State) (b : Box) (f : Mbx → Mbx) : (modMbx s b f).pins = s.pins := rfl
@[simp] theorem modMbx_formatted (s : State) (b : Box) (f : Mbx → Mbx) : (modMbx s b f).formatted = s.formatted := rfl
@[simp] theorem modMbx_flushEnd (s : State) (b : Box) (f : Mbx → Mbx) : (modMbx s b f).flushEnd = s.flushEnd := rfl
@[simp] theorem modMbx_postNs (s : State) (b : Box) (f : Mbx → Mbx) : (modMbx s b f).postNs = s.postNs := rfl
@[simp] theorem modMbx_cfgReport (s : State) (b : Box) (f : Mbx → Mbx) : (modMbx s b f).cfgReport = s.cfgReport := rfl
@[simp] theorem modMbx_cfgOpen (s : State) (b : Box) (f : Mbx → Mbx) : (modMbx s b f).cfgOpen = s.cfgOpen := rfl
@[simp] theorem modMbx_cfgSsid (s : State) (b : Box) (f : Mbx → Mbx) : (modMbx s b f).cfgSsid = s.cfgSsid := rfl
@[simp] theorem modMbx_cfgSvid (s : State) (b : Box) (f : Mbx → Mbx) : (modMbx s b f).cfgSvid = s.cfgSvid := rfl
@[simp] theorem modMbx_nowNs (s : State) (b : Box) (f : Mbx → Mbx) : (modMbx s b f).nowNs = s.nowNs := rfl
@[simp] theorem modMbx_freeCtr (s : State) (b : Box) (f : Mbx → Mbx) : (modMbx s b f).freeCtr = s.freeCtr := rfl
@[simp] theorem modMbx_pending (s : State) (b : Box) (f : Mbx → Mbx) : (modMbx s b f).pending = s.pending := rfl
@[simp] theorem modMbx_out (s : State) (b : Box) (f : Mbx → Mbx) : (modMbx s b f).out = s.out := rfl

@[simp] theorem modChan_pa (s : State) (c : Nat) (f : Chan → Chan) : (modChan s c f).pa = s.pa := rfl
@[simp] theorem modChan_pb (s : State) (c : Nat) (f : Chan → Chan) : (modChan s c f).pb = s.pb := rfl
@[simp] theorem modChan_cmds (s : State) (c : Nat) (f : Chan → Chan) : (modChan s c f).cmds = s.cmds := rfl
@[simp] theorem modChan_genCtr (s : State) (c : Nat) (f : Chan → Chan) : (modChan s c f).genCtr = s.genCtr := rfl
@[simp] theorem modChan_tenants (s : State) (c : Nat) (f : Chan → Chan) : (modChan s c f).tenants = s.tenants := rfl
@[simp] theorem modChan_zones (s : State) (c : Nat) (f : Chan → Chan) : (modChan s c f).zones = s.zones := rfl
@[simp] theorem modChan_zonesSaved (s : State) (c : Nat) (f : Chan → Chan) : (modChan s c f).zonesSaved = s.zonesSaved := rfl
@[simp] theorem modChan_vers (s : State) (c : Nat) (f : Chan → Chan) : (modChan s c f).vers = s.vers := rfl
@[simp] theorem modChan_verCtr (s : State) (c : Nat) (f : Chan → Chan) : (modChan s c f).verCtr = s.verCtr := rfl
@[simp] theorem modChan_adm (s : State) (c : Nat) (f : Chan → Chan) : (modChan s c f).adm = s.adm := rfl
@[simp] theorem modChan_portEvt (s : State) (c : Nat) (f : Chan → Chan) : (modChan s c f).portEvt = s.portEvt := rfl
@[simp] theorem modChan_ssid (s : State) (c : Nat) (f : Chan → Chan) : (modChan s c f).ssid = s.ssid := rfl
@[simp] theorem modChan_svid (s : State) (c : Nat) (f : Chan → Chan) : (modChan s c f).svid = s.svid := rfl
@[simp] theorem modChan_fuse (s : State) (c : Nat) (f : Chan → Chan) : (modChan s c f).fuse = s.fuse := rfl
@[simp] theorem modChan_bpm (s : State) (c : Nat) (f : Chan → Chan) : (modChan s c f).bpm = s.bpm := rfl
@[simp] theorem modChan_evr (s : State) (c : Nat) (f : Chan → Chan) : (modChan s c f).evr = s.evr := rfl
@[simp] theorem modChan_mep (s : State) (c : Nat) (f : Chan → Chan) : (modChan s c f).mep = s.mep := rfl
@[simp] theorem modChan_plp (s : State) (c : Nat) (f : Chan → Chan) : (modChan s c f).plp = s.plp := rfl
@[simp] theorem modChan_cip (s : State) (c : Nat) (f : Chan → Chan) : (modChan s c f).cip = s.cip := rfl
@[simp] theorem modChan_mbxs (s : State) (c : Nat) (f : Chan → Chan) : (modChan s c f).mbxs = s.mbxs := rfl
@[simp] theorem modChan_takeNo (s : State) (c : Nat) (f : Chan → Chan) : (modChan s c f).takeNo = s.takeNo := rfl
@[simp] theorem modChan_mctp (s : State) (c : Nat) (f : Chan → Chan) : (modChan s c f).mctp = s.mctp := rfl
@[simp] theorem modChan_ckm (s : State) (c : Nat) (f : Chan → Chan) : (modChan s c f).ckm = s.ckm := rfl
@[simp] theorem modChan_rst (s : State) (c : Nat) (f : Chan → Chan) : (modChan s c f).rst = s.rst := rfl
@[simp] theorem modChan_boot (s : State) (c : Nat) (f : Chan → Chan) : (modChan s c f).boot = s.boot := rfl
@[simp] theorem modChan_thm (s : State) (c : Nat) (f : Chan → Chan) : (modChan s c f).thm = s.thm := rfl
@[simp] theorem modChan_hlt (s : State) (c : Nat) (f : Chan → Chan) : (modChan s c f).hlt = s.hlt := rfl
@[simp] theorem modChan_hltSaved (s : State) (c : Nat) (f : Chan → Chan) : (modChan s c f).hltSaved = s.hltSaved := rfl
@[simp] theorem modChan_savedMs (s : State) (c : Nat) (f : Chan → Chan) : (modChan s c f).savedMs = s.savedMs := rfl
@[simp] theorem modChan_tablesSaved (s : State) (c : Nat) (f : Chan → Chan) : (modChan s c f).tablesSaved = s.tablesSaved := rfl
@[simp] theorem modChan_heldCommits (s : State) (c : Nat) (f : Chan → Chan) : (modChan s c f).heldCommits = s.heldCommits := rfl
@[simp] theorem modChan_heldOut (s : State) (c : Nat) (f : Chan → Chan) : (modChan s c f).heldOut = s.heldOut := rfl
@[simp] theorem modChan_tap (s : State) (c : Nat) (f : Chan → Chan) : (modChan s c f).tap = s.tap := rfl
@[simp] theorem modChan_pins (s : State) (c : Nat) (f : Chan → Chan) : (modChan s c f).pins = s.pins := rfl
@[simp] theorem modChan_formatted (s : State) (c : Nat) (f : Chan → Chan) : (modChan s c f).formatted = s.formatted := rfl
@[simp] theorem modChan_flushEnd (s : State) (c : Nat) (f : Chan → Chan) : (modChan s c f).flushEnd = s.flushEnd := rfl
@[simp] theorem modChan_postNs (s : State) (c : Nat) (f : Chan → Chan) : (modChan s c f).postNs = s.postNs := rfl
@[simp] theorem modChan_cfgReport (s : State) (c : Nat) (f : Chan → Chan) : (modChan s c f).cfgReport = s.cfgReport := rfl
@[simp] theorem modChan_cfgOpen (s : State) (c : Nat) (f : Chan → Chan) : (modChan s c f).cfgOpen = s.cfgOpen := rfl
@[simp] theorem modChan_cfgSsid (s : State) (c : Nat) (f : Chan → Chan) : (modChan s c f).cfgSsid = s.cfgSsid := rfl
@[simp] theorem modChan_cfgSvid (s : State) (c : Nat) (f : Chan → Chan) : (modChan s c f).cfgSvid = s.cfgSvid := rfl
@[simp] theorem modChan_nowNs (s : State) (c : Nat) (f : Chan → Chan) : (modChan s c f).nowNs = s.nowNs := rfl
@[simp] theorem modChan_freeCtr (s : State) (c : Nat) (f : Chan → Chan) : (modChan s c f).freeCtr = s.freeCtr := rfl
@[simp] theorem modChan_pending (s : State) (c : Nat) (f : Chan → Chan) : (modChan s c f).pending = s.pending := rfl
@[simp] theorem modChan_out (s : State) (c : Nat) (f : Chan → Chan) : (modChan s c f).out = s.out := rfl

@[simp] theorem modLun_pa (s : State) (l : Nat) (f : Lun → Lun) : (modLun s l f).pa = s.pa := rfl
@[simp] theorem modLun_pb (s : State) (l : Nat) (f : Lun → Lun) : (modLun s l f).pb = s.pb := rfl
@[simp] theorem modLun_cmds (s : State) (l : Nat) (f : Lun → Lun) : (modLun s l f).cmds = s.cmds := rfl
@[simp] theorem modLun_genCtr (s : State) (l : Nat) (f : Lun → Lun) : (modLun s l f).genCtr = s.genCtr := rfl
@[simp] theorem modLun_tenants (s : State) (l : Nat) (f : Lun → Lun) : (modLun s l f).tenants = s.tenants := rfl
@[simp] theorem modLun_zones (s : State) (l : Nat) (f : Lun → Lun) : (modLun s l f).zones = s.zones := rfl
@[simp] theorem modLun_zonesSaved (s : State) (l : Nat) (f : Lun → Lun) : (modLun s l f).zonesSaved = s.zonesSaved := rfl
@[simp] theorem modLun_vers (s : State) (l : Nat) (f : Lun → Lun) : (modLun s l f).vers = s.vers := rfl
@[simp] theorem modLun_verCtr (s : State) (l : Nat) (f : Lun → Lun) : (modLun s l f).verCtr = s.verCtr := rfl
@[simp] theorem modLun_adm (s : State) (l : Nat) (f : Lun → Lun) : (modLun s l f).adm = s.adm := rfl
@[simp] theorem modLun_portEvt (s : State) (l : Nat) (f : Lun → Lun) : (modLun s l f).portEvt = s.portEvt := rfl
@[simp] theorem modLun_ssid (s : State) (l : Nat) (f : Lun → Lun) : (modLun s l f).ssid = s.ssid := rfl
@[simp] theorem modLun_svid (s : State) (l : Nat) (f : Lun → Lun) : (modLun s l f).svid = s.svid := rfl
@[simp] theorem modLun_fuse (s : State) (l : Nat) (f : Lun → Lun) : (modLun s l f).fuse = s.fuse := rfl
@[simp] theorem modLun_bpm (s : State) (l : Nat) (f : Lun → Lun) : (modLun s l f).bpm = s.bpm := rfl
@[simp] theorem modLun_evr (s : State) (l : Nat) (f : Lun → Lun) : (modLun s l f).evr = s.evr := rfl
@[simp] theorem modLun_mep (s : State) (l : Nat) (f : Lun → Lun) : (modLun s l f).mep = s.mep := rfl
@[simp] theorem modLun_plp (s : State) (l : Nat) (f : Lun → Lun) : (modLun s l f).plp = s.plp := rfl
@[simp] theorem modLun_cip (s : State) (l : Nat) (f : Lun → Lun) : (modLun s l f).cip = s.cip := rfl
@[simp] theorem modLun_mbxs (s : State) (l : Nat) (f : Lun → Lun) : (modLun s l f).mbxs = s.mbxs := rfl
@[simp] theorem modLun_takeNo (s : State) (l : Nat) (f : Lun → Lun) : (modLun s l f).takeNo = s.takeNo := rfl
@[simp] theorem modLun_mctp (s : State) (l : Nat) (f : Lun → Lun) : (modLun s l f).mctp = s.mctp := rfl
@[simp] theorem modLun_ckm (s : State) (l : Nat) (f : Lun → Lun) : (modLun s l f).ckm = s.ckm := rfl
@[simp] theorem modLun_rst (s : State) (l : Nat) (f : Lun → Lun) : (modLun s l f).rst = s.rst := rfl
@[simp] theorem modLun_boot (s : State) (l : Nat) (f : Lun → Lun) : (modLun s l f).boot = s.boot := rfl
@[simp] theorem modLun_thm (s : State) (l : Nat) (f : Lun → Lun) : (modLun s l f).thm = s.thm := rfl
@[simp] theorem modLun_hlt (s : State) (l : Nat) (f : Lun → Lun) : (modLun s l f).hlt = s.hlt := rfl
@[simp] theorem modLun_hltSaved (s : State) (l : Nat) (f : Lun → Lun) : (modLun s l f).hltSaved = s.hltSaved := rfl
@[simp] theorem modLun_savedMs (s : State) (l : Nat) (f : Lun → Lun) : (modLun s l f).savedMs = s.savedMs := rfl
@[simp] theorem modLun_tablesSaved (s : State) (l : Nat) (f : Lun → Lun) : (modLun s l f).tablesSaved = s.tablesSaved := rfl
@[simp] theorem modLun_heldCommits (s : State) (l : Nat) (f : Lun → Lun) : (modLun s l f).heldCommits = s.heldCommits := rfl
@[simp] theorem modLun_heldOut (s : State) (l : Nat) (f : Lun → Lun) : (modLun s l f).heldOut = s.heldOut := rfl
@[simp] theorem modLun_tap (s : State) (l : Nat) (f : Lun → Lun) : (modLun s l f).tap = s.tap := rfl
@[simp] theorem modLun_pins (s : State) (l : Nat) (f : Lun → Lun) : (modLun s l f).pins = s.pins := rfl
@[simp] theorem modLun_formatted (s : State) (l : Nat) (f : Lun → Lun) : (modLun s l f).formatted = s.formatted := rfl
@[simp] theorem modLun_flushEnd (s : State) (l : Nat) (f : Lun → Lun) : (modLun s l f).flushEnd = s.flushEnd := rfl
@[simp] theorem modLun_postNs (s : State) (l : Nat) (f : Lun → Lun) : (modLun s l f).postNs = s.postNs := rfl
@[simp] theorem modLun_cfgReport (s : State) (l : Nat) (f : Lun → Lun) : (modLun s l f).cfgReport = s.cfgReport := rfl
@[simp] theorem modLun_cfgOpen (s : State) (l : Nat) (f : Lun → Lun) : (modLun s l f).cfgOpen = s.cfgOpen := rfl
@[simp] theorem modLun_cfgSsid (s : State) (l : Nat) (f : Lun → Lun) : (modLun s l f).cfgSsid = s.cfgSsid := rfl
@[simp] theorem modLun_cfgSvid (s : State) (l : Nat) (f : Lun → Lun) : (modLun s l f).cfgSvid = s.cfgSvid := rfl
@[simp] theorem modLun_nowNs (s : State) (l : Nat) (f : Lun → Lun) : (modLun s l f).nowNs = s.nowNs := rfl
@[simp] theorem modLun_freeCtr (s : State) (l : Nat) (f : Lun → Lun) : (modLun s l f).freeCtr = s.freeCtr := rfl
@[simp] theorem modLun_pending (s : State) (l : Nat) (f : Lun → Lun) : (modLun s l f).pending = s.pending := rfl
@[simp] theorem modLun_out (s : State) (l : Nat) (f : Lun → Lun) : (modLun s l f).out = s.out := rfl

@[simp] theorem modBlk_pa (s : State) (b : Nat) (f : FBlk → FBlk) : (modBlk s b f).pa = s.pa := rfl
@[simp] theorem modBlk_pb (s : State) (b : Nat) (f : FBlk → FBlk) : (modBlk s b f).pb = s.pb := rfl
@[simp] theorem modBlk_cmds (s : State) (b : Nat) (f : FBlk → FBlk) : (modBlk s b f).cmds = s.cmds := rfl
@[simp] theorem modBlk_genCtr (s : State) (b : Nat) (f : FBlk → FBlk) : (modBlk s b f).genCtr = s.genCtr := rfl
@[simp] theorem modBlk_tenants (s : State) (b : Nat) (f : FBlk → FBlk) : (modBlk s b f).tenants = s.tenants := rfl
@[simp] theorem modBlk_zones (s : State) (b : Nat) (f : FBlk → FBlk) : (modBlk s b f).zones = s.zones := rfl
@[simp] theorem modBlk_zonesSaved (s : State) (b : Nat) (f : FBlk → FBlk) : (modBlk s b f).zonesSaved = s.zonesSaved := rfl
@[simp] theorem modBlk_vers (s : State) (b : Nat) (f : FBlk → FBlk) : (modBlk s b f).vers = s.vers := rfl
@[simp] theorem modBlk_verCtr (s : State) (b : Nat) (f : FBlk → FBlk) : (modBlk s b f).verCtr = s.verCtr := rfl
@[simp] theorem modBlk_adm (s : State) (b : Nat) (f : FBlk → FBlk) : (modBlk s b f).adm = s.adm := rfl
@[simp] theorem modBlk_portEvt (s : State) (b : Nat) (f : FBlk → FBlk) : (modBlk s b f).portEvt = s.portEvt := rfl
@[simp] theorem modBlk_ssid (s : State) (b : Nat) (f : FBlk → FBlk) : (modBlk s b f).ssid = s.ssid := rfl
@[simp] theorem modBlk_svid (s : State) (b : Nat) (f : FBlk → FBlk) : (modBlk s b f).svid = s.svid := rfl
@[simp] theorem modBlk_fuse (s : State) (b : Nat) (f : FBlk → FBlk) : (modBlk s b f).fuse = s.fuse := rfl
@[simp] theorem modBlk_bpm (s : State) (b : Nat) (f : FBlk → FBlk) : (modBlk s b f).bpm = s.bpm := rfl
@[simp] theorem modBlk_evr (s : State) (b : Nat) (f : FBlk → FBlk) : (modBlk s b f).evr = s.evr := rfl
@[simp] theorem modBlk_mep (s : State) (b : Nat) (f : FBlk → FBlk) : (modBlk s b f).mep = s.mep := rfl
@[simp] theorem modBlk_plp (s : State) (b : Nat) (f : FBlk → FBlk) : (modBlk s b f).plp = s.plp := rfl
@[simp] theorem modBlk_cip (s : State) (b : Nat) (f : FBlk → FBlk) : (modBlk s b f).cip = s.cip := rfl
@[simp] theorem modBlk_mbxs (s : State) (b : Nat) (f : FBlk → FBlk) : (modBlk s b f).mbxs = s.mbxs := rfl
@[simp] theorem modBlk_takeNo (s : State) (b : Nat) (f : FBlk → FBlk) : (modBlk s b f).takeNo = s.takeNo := rfl
@[simp] theorem modBlk_mctp (s : State) (b : Nat) (f : FBlk → FBlk) : (modBlk s b f).mctp = s.mctp := rfl
@[simp] theorem modBlk_ckm (s : State) (b : Nat) (f : FBlk → FBlk) : (modBlk s b f).ckm = s.ckm := rfl
@[simp] theorem modBlk_rst (s : State) (b : Nat) (f : FBlk → FBlk) : (modBlk s b f).rst = s.rst := rfl
@[simp] theorem modBlk_boot (s : State) (b : Nat) (f : FBlk → FBlk) : (modBlk s b f).boot = s.boot := rfl
@[simp] theorem modBlk_thm (s : State) (b : Nat) (f : FBlk → FBlk) : (modBlk s b f).thm = s.thm := rfl
@[simp] theorem modBlk_hlt (s : State) (b : Nat) (f : FBlk → FBlk) : (modBlk s b f).hlt = s.hlt := rfl
@[simp] theorem modBlk_hltSaved (s : State) (b : Nat) (f : FBlk → FBlk) : (modBlk s b f).hltSaved = s.hltSaved := rfl
@[simp] theorem modBlk_savedMs (s : State) (b : Nat) (f : FBlk → FBlk) : (modBlk s b f).savedMs = s.savedMs := rfl
@[simp] theorem modBlk_tablesSaved (s : State) (b : Nat) (f : FBlk → FBlk) : (modBlk s b f).tablesSaved = s.tablesSaved := rfl
@[simp] theorem modBlk_heldCommits (s : State) (b : Nat) (f : FBlk → FBlk) : (modBlk s b f).heldCommits = s.heldCommits := rfl
@[simp] theorem modBlk_heldOut (s : State) (b : Nat) (f : FBlk → FBlk) : (modBlk s b f).heldOut = s.heldOut := rfl
@[simp] theorem modBlk_tap (s : State) (b : Nat) (f : FBlk → FBlk) : (modBlk s b f).tap = s.tap := rfl
@[simp] theorem modBlk_pins (s : State) (b : Nat) (f : FBlk → FBlk) : (modBlk s b f).pins = s.pins := rfl
@[simp] theorem modBlk_formatted (s : State) (b : Nat) (f : FBlk → FBlk) : (modBlk s b f).formatted = s.formatted := rfl
@[simp] theorem modBlk_flushEnd (s : State) (b : Nat) (f : FBlk → FBlk) : (modBlk s b f).flushEnd = s.flushEnd := rfl
@[simp] theorem modBlk_postNs (s : State) (b : Nat) (f : FBlk → FBlk) : (modBlk s b f).postNs = s.postNs := rfl
@[simp] theorem modBlk_cfgReport (s : State) (b : Nat) (f : FBlk → FBlk) : (modBlk s b f).cfgReport = s.cfgReport := rfl
@[simp] theorem modBlk_cfgOpen (s : State) (b : Nat) (f : FBlk → FBlk) : (modBlk s b f).cfgOpen = s.cfgOpen := rfl
@[simp] theorem modBlk_cfgSsid (s : State) (b : Nat) (f : FBlk → FBlk) : (modBlk s b f).cfgSsid = s.cfgSsid := rfl
@[simp] theorem modBlk_cfgSvid (s : State) (b : Nat) (f : FBlk → FBlk) : (modBlk s b f).cfgSvid = s.cfgSvid := rfl
@[simp] theorem modBlk_nowNs (s : State) (b : Nat) (f : FBlk → FBlk) : (modBlk s b f).nowNs = s.nowNs := rfl
@[simp] theorem modBlk_freeCtr (s : State) (b : Nat) (f : FBlk → FBlk) : (modBlk s b f).freeCtr = s.freeCtr := rfl
@[simp] theorem modBlk_pending (s : State) (b : Nat) (f : FBlk → FBlk) : (modBlk s b f).pending = s.pending := rfl
@[simp] theorem modBlk_out (s : State) (b : Nat) (f : FBlk → FBlk) : (modBlk s b f).out = s.out := rfl

/-! ### Reading back -/

@[simp] theorem emit_out (s : State) (o : Out) : (emit s o).out = s.out ++ [o] := rfl

@[simp] theorem getPort_modPort_self (s : State) (p : Port) (f : PortSt → PortSt) : getPort (modPort s p f) p = f (getPort s p) := by
  cases p <;> rfl

theorem getPort_modPort_ne (s : State) (p q : Port) (f : PortSt → PortSt) (h : q ≠ p) : getPort (modPort s p f) q = getPort s q := by
  cases p <;> cases q <;> first | rfl | exact absurd rfl h

@[simp] theorem getFn_modFn_self (s : State) (p : Port) (fn : Nat) (f : Fn → Fn) : getFn (modFn s p fn f) p fn = f (getFn s p fn) := by
  simp only [getFn, modFn, getPort_modPort_self]
  split <;> simp

theorem getFn_modFn_ne (s : State) (p : Port) (fn g : Nat) (f : Fn → Fn) (h : g ≠ fn) : getFn (modFn s p fn f) p g = getFn s p g := by
  simp only [getFn, modFn, getPort_modPort_self]
  by_cases h0 : fn = 0
  · by_cases hg : g = 0
    · omega
    · simp [h0, hg]
  · by_cases hg : g = 0
    · simp [h0, hg]
    · simp [h0, hg, Tab.get_upd_ne _ _ _ _ _ h]

@[simp] theorem getCas_modCas_self (s : State) (p : Port) (fn : Nat) (f : Casement → Casement) :
    getCas (modCas s p fn f) p fn = f (getCas s p fn) := by simp [getCas, modCas]

@[simp] theorem getRing_modRing_self (s : State) (p : Port) (fn n : Nat) (f : Ring → Ring) :
    getRing (modRing s p fn n f) p fn n = f (getRing s p fn n) := by simp [getRing, modRing]

theorem getRing_modRing_ne (s : State) (p : Port) (fn n m : Nat) (f : Ring → Ring) (h : m ≠ n) :
    getRing (modRing s p fn n f) p fn m = getRing s p fn m := by simp [getRing, modRing, Tab.get_upd_ne _ _ _ _ _ h]

@[simp] theorem getTen_modTen_self (s : State) (t : Nat) (f : Tenant → Tenant) : getTen (modTen s t f) t = (getTen s t).map f := by
  simp [getTen, modTen]

theorem getTen_modTen_ne (s : State) (t u : Nat) (f : Tenant → Tenant) (h : u ≠ t) : getTen (modTen s t f) u = getTen s u := by
  simp [getTen, modTen, Tab.get_upd_ne _ _ _ _ _ h]

@[simp] theorem getZone_modZone_self (s : State) (t z : Nat) (f : Zone → Zone) : getZone (modZone s t z f) t z = f (getZone s t z) := by
  simp [getZone, modZone]

theorem getZone_modZone_ne (s : State) (t z u y : Nat) (f : Zone → Zone) (h : zkey u y ≠ zkey t z) :
    getZone (modZone s t z f) u y = getZone s u y := by simp [getZone, modZone, Tab.get_upd_ne _ _ _ _ _ h]

@[simp] theorem getVer_modVer_self (s : State) (v : Nat) (f : Ver → Ver) : getVer (modVer s v f) v = f (getVer s v) := by
  simp [getVer, modVer]

theorem getVer_modVer_ne (s : State) (v w : Nat) (f : Ver → Ver) (h : w ≠ v) : getVer (modVer s v f) w = getVer s w := by
  simp [getVer, modVer, Tab.get_upd_ne _ _ _ _ _ h]

@[simp] theorem getMbx_modMbx_self (s : State) (b : Box) (f : Mbx → Mbx) : getMbx (modMbx s b f) b = f (getMbx s b) := by
  simp [getMbx, modMbx]

theorem getMbx_modMbx_ne (s : State) (b c : Box) (f : Mbx → Mbx) (h : boxKey c ≠ boxKey b) : getMbx (modMbx s b f) c = getMbx s c := by
  simp [getMbx, modMbx, Tab.get_upd_ne _ _ _ _ _ h]

@[simp] theorem getLun_modLun_self (s : State) (l : Nat) (f : Lun → Lun) : getLun (modLun s l f) l = f (getLun s l) := by
  simp [getLun, modLun]

theorem getLun_modLun_ne (s : State) (l m : Nat) (f : Lun → Lun) (h : m ≠ l) : getLun (modLun s l f) m = getLun s m := by
  simp [getLun, modLun, Tab.get_upd_ne _ _ _ _ _ h]

@[simp] theorem getChan_modChan_self (s : State) (c : Nat) (f : Chan → Chan) : getChan (modChan s c f) c = f (getChan s c) := by
  simp [getChan, modChan]

@[simp] theorem getBlk_modBlk_self (s : State) (b : Nat) (f : FBlk → FBlk) : getBlk (modBlk s b f) b = f (getBlk s b) := by
  simp [getBlk, modBlk]

end Sys2Proof.Machine
end

