-- ==== Sys2Proof/Laws/Access.lean ====
section
/-! SUPPORT. What a host's access does, once for all rows that are made of one (R37, R44, R262, R337), and how a frame is put together. -/

namespace Sys2Proof.Machine

theorem hostAccess_reaches {s : State} {p : Port} {fn : Nat} (cause : Nat) (k : State → Res) (h : Reaches s p fn) :
    hostAccess p fn cause s k = k (woken s p cause) := by
  obtain ⟨h1, h2, h3, h4, h5⟩ := h
  simp [hostAccess, woken, h1, h2, h3, h4, h5]

/-- A memory request has one of three ends: lost, Unsupported Request, or its effect on the woken state. -/
theorem hostAccess_cases (p : Port) (fn cause : Nat) (s : State) (k : State → Res) :
    hostAccess p fn cause s k = .next s ∨ hostAccess p fn cause s k = .next (emit s (.unsupported p fn)) ∨
      (Reaches s p fn ∧ hostAccess p fn cause s k = k (woken s p cause)) := by
  by_cases h : Reaches s p fn
  · exact .inr (.inr ⟨h, hostAccess_reaches cause k h⟩)
  · unfold hostAccess
    split
    · exact .inl rfl
    · split
      · exact .inr (.inl rfl)
      · rename_i h1 h2
        exfalso
        simp at h1 h2
        exact h ⟨h1.1, h1.2, h2.1.1, h2.1.2, h2.2⟩

@[simp] theorem wake_flushing (s : State) (cause : Nat) : flushing (wake s cause) = flushing s := by
  unfold wake flushing; grind

@[simp] theorem woken_flushing (s : State) (p : Port) (cause : Nat) : flushing (woken s p cause) = flushing s := by
  simp [woken]; cases p <;> rfl

theorem regWriteBy_writable {s : State} {p : Port} {fn : Nat} (cause : Nat) (k : State → Res) (h : Writable s p fn) :
    regWriteBy cause p fn s k = k (woken s p cause) := by
  simp [regWriteBy, hostAccess_reaches cause _ h.1, h.2]

theorem regWrite_writable {s : State} {p : Port} {fn : Nat} (k : State → Res) (h : Writable s p fn) :
    regWrite p fn s k = k (woken s p 3) := regWriteBy_writable 3 k h

theorem Only.refl (l : List Part) (s : State) : Only l s s := by intro q _; cases q <;> rfl

theorem Only.trans {l : List Part} {s t u : State} (h : Only l s t) (h' : Only l t u) : Only l s u := by
  intro q hq
  have a := h q hq
  have b := h' q hq
  cases q <;> simp_all [Part.same]

theorem Only.mono {l m : List Part} {s t : State} (h : Only l s t) (hm : ∀ q, q ∈ l → q ∈ m) : Only m s t :=
  fun q hq => h q fun x => hq (hm q x)

/-- A wake changes the reset and power block only. -/
theorem only_wake (s : State) (cause : Nat) : Only [.rst] s (wake s cause) := by
  intro q hq
  unfold wake
  cases q <;> simp at hq <;> simp [Part.same] <;> (repeat' split) <;> rfl

/-- A request that arrives changes its port and the reset and power block only. -/
theorem only_woken (s : State) (p : Port) (cause : Nat) : Only [portPart p, .rst] s (woken s p cause) := by
  intro q hq
  have h := only_wake (modPort s p fun q => { q with inL1 := false }) cause q
  cases p <;> cases q <;> simp_all [portPart, Part.same, woken, modPort]

theorem getFn_woken (s : State) (p q : Port) (fn cause : Nat) : getFn (woken s p cause) q fn = getFn s q fn := by
  unfold woken wake getFn; cases p <;> cases q <;> simp [modPort, getPort] <;> grind

theorem getCas_woken (s : State) (p q : Port) (fn cause : Nat) : getCas (woken s p cause) q fn = getCas s q fn := by
  simp [getCas, getFn_woken]

theorem getRing_woken (s : State) (p q : Port) (fn n cause : Nat) : getRing (woken s p cause) q fn n = getRing s q fn n := by
  simp [getRing, getCas_woken]

/-- A port's parts but the function rewritten stay. -/
theorem only_modPort (s : State) (p : Port) (f : PortSt → PortSt) : Only [portPart p] s (modPort s p f) := by
  intro q hq; cases p <;> cases q <;> simp_all [portPart, Part.same, modPort]

theorem only_modRing (s : State) (p : Port) (fn n : Nat) (f : Ring → Ring) : Only [portPart p] s (modRing s p fn n f) :=
  only_modPort _ _ _

theorem only_emit (s : State) (o : Out) : Only [.out] s (emit s o) := by
  intro q hq; cases q <;> simp_all [Part.same]

theorem getFn_emit (s : State) (o : Out) (p : Port) (fn : Nat) : getFn (emit s o) p fn = getFn s p fn := by cases p <;> rfl

theorem getCas_emit (s : State) (o : Out) (p : Port) (fn : Nat) : getCas (emit s o) p fn = getCas s p fn := by cases p <;> rfl

theorem fireVec_held {s : State} {p : Port} {fn v : Nat} (h : Held s p fn v) : fireVec s p fn v =
    modFn s p fn fun f => { f with vecs := Tab.upd {} f.vecs v fun e => { e with pend := true } } := by
  simp only [Held] at h; simp [fireVec]; grind

theorem fireVec_sent {s : State} {p : Port} {fn v : Nat} (h : ¬Held s p fn v) : fireVec s p fn v = emit s (.msix p fn v) := by
  simp only [Held] at h; simp [fireVec]; grind

theorem only_fireVec (s : State) (p : Port) (fn v : Nat) : Only [portPart p, .out] s (fireVec s p fn v) := by
  by_cases h : Held s p fn v
  · rw [fireVec_held h]; exact (only_modPort _ _ _).mono (by simp_all)
  · rw [fireVec_sent h]; exact (only_emit _ _).mono (by simp_all)

theorem getCas_fireVec (s : State) (p : Port) (fn v : Nat) : getCas (fireVec s p fn v) p fn = getCas s p fn := by
  by_cases h : Held s p fn v
  · simp [fireVec_held h, getCas]
  · simp [fireVec_sent h, getCas_emit]

theorem getRing_fireVec (s : State) (p : Port) (fn v n : Nat) : getRing (fireVec s p fn v) p fn n = getRing s p fn n := by
  simp [getRing, getCas_fireVec]

theorem only_modCas (s : State) (p : Port) (fn : Nat) (f) : Only [portPart p] s (modCas s p fn f) := only_modPort _ _ _

theorem nextFor_fold (l : List Cmd) (P : Cmd → Prop) (h : ∀ c ∈ l, P c) (a : Option Cmd) (ha : ∀ c, a = some c → P c) :
   ∀ c, l.foldl (fun acc c => match acc with
      | none => some c
      | some a => if c.genNo < a.genNo then some c else some a) a = some c → P c := by
  induction l generalizing a with
  | nil => exact ha
  | cons x t ih => 
    apply ih
    · intro c hc; exact h c (by simp [hc])
    · intro c hc; grind

theorem nextFor_some {s p fn ring c} (h : nextFor s p fn ring = some c) : c.outPort = p ∧ c.outFn = fn ∧ c.outRing = ring := by
  obtain ⟨h1, -⟩ := Option.filter_eq_some_iff.mp h
  refine nextFor_fold _ (fun c => c.outPort = p ∧ c.outFn = fn ∧ c.outRing = ring) ?_ none (by simp) c h1
  intro c hc; simp at hc; grind

theorem getRing_emit (s : State) (o : Out) (p fn n) : getRing (emit s o) p fn n = getRing s p fn n := by cases p <;> rfl

theorem getRing_modCas (s : State) (p fn n f) (h : (f (getCas s p fn)).rings = (getCas s p fn).rings) : getRing (modCas s p fn f) p fn n = getRing s p fn n := by
  simp [getRing, h]

theorem getRing_writeMirror (s : State) (p fn n) : getRing (writeMirror s p fn) p fn n = getRing s p fn n := by
  unfold writeMirror; dsimp only; split
  · rfl
  · rw [getRing_modCas _ _ _ _ _ rfl, getRing_emit]

theorem only_writeMirror (s : State) (p fn) : Only [portPart p, .out] s (writeMirror s p fn) := by
  unfold writeMirror; dsimp only; split
  · exact Only.refl _ _
  · exact ((only_emit _ _).mono (by simp_all)).trans ((only_modCas _ _ _ _).mono (by simp_all))

theorem only_signalRing (s : State) (p : Port) (fn n : Nat) : Only [portPart p, .out] s (signalRing s p fn n) :=
  (only_fireVec _ p fn n).trans ((only_modRing _ p fn n _).mono (by intro q hq; simp at hq; simp [hq]))

theorem only_countEntry (s : State) (p : Port) (fn n : Nat) : Only [portPart p, .out] s (countEntry s p fn n) := by
  unfold countEntry; simp only []; split
  · exact Only.refl _ _
  · split
    · exact ((only_modRing _ p fn n _).mono (by intro q hq; simp at hq; simp [hq])).trans (only_signalRing _ _ _ _)
    · exact (only_modRing _ p fn n _).mono (by intro q hq; simp at hq; simp [hq])

theorem countEntry_posted (s : State) (p fn n) : (getRing (countEntry s p fn n) p fn n).posted = (getRing s p fn n).posted := by
  unfold countEntry; simp only []; split
  · rfl
  · split <;> simp [signalRing, getRing_fireVec]

theorem countEntry_out (s : State) (p fn n x) (h : x ∈ s.out) : x ∈ (countEntry s p fn n).out := by
  unfold countEntry; simp only []; split
  · exact h
  · split <;> simp [signalRing, fireVec, h]; split <;> simp [emit, modFn, h]

end Sys2Proof.Machine
end

