-- ==== Sys2Proof/Laws/Events.lean ====
section
/-! SUPPORT. The event recorder: what recording an event leaves as it was, and that the record is there (R380 to R386). -/

namespace Sys2Proof.Machine

theorem firePf0_evr (s : State) (v : Nat) : (firePf0 s v).evr = s.evr := by
  unfold firePf0; dsimp only; (repeat' split) <;> simp [fireVec] <;> (repeat' split) <;> simp

theorem only_firePf0 (s : State) (v : Nat) : Only [.pa, .pb, .out] s (firePf0 s v) := by
  unfold firePf0; dsimp only
  have h : ∀ u p, Only [.pa, .pb, .out] u (fireVec u p 0 v) := fun u p => (only_fireVec u p 0 v).mono (by cases p <;> simp [portPart])
  split <;> split
  · exact (h _ _).trans (h _ _)
  · exact h _ _
  · exact h _ _
  · exact Only.refl _ _

theorem only_evr (s : State) (e : Evr) : Only [.evr] s { s with evr := e } := by
  intro q hq; cases q <;> simp at hq <;> rfl

theorem only_rawEv (s : State) (sev source code : Nat) (pl : List Byte) : Only [.pa, .pb, .out, .evr] s (rawEv s sev source code pl) := by
  intro q hq
  have g := fun u v => only_firePf0 u v q (by simp_all)
  unfold rawEv; dsimp only
  (repeat' split) <;> cases q <;> simp at hq <;> first
    | rfl
    | exact g _ _

/-- What leaves a frame alone at each step leaves it alone over a list. -/
theorem only_foldl {α : Type} {l : List Part} (f : State → α → State) (h : ∀ s x, Only l s (f s x)) (xs : List α) (s : State) :
    Only l s (xs.foldl f s) := by
  induction xs generalizing s with
  | nil => exact Only.refl _ _
  | cons x t ih => exact (h s x).trans (ih _)

theorem only_endSecond (s : State) : Only [.pa, .pb, .out, .evr] s (endSecond s) := by
  unfold endSecond
  split
  · exact Only.refl _ _
  · exact ((only_evr s _).mono (by simp)).trans
      (only_foldl _ (fun u x => ((only_evr u _).mono (by simp)).trans (only_rawEv _ _ _ _ _)) _ _)

theorem only_logUpTo (n : Nat) (s : State) (sev source code : Nat) (pl : List Byte) :
    Only [.pa, .pb, .out, .evr] s (logUpTo n s sev source code pl) := by
  have h := only_endSecond s
  unfold logUpTo; dsimp only
  split
  · exact h.trans ((only_evr _ _).mono (by simp))
  · exact h.trans (((only_evr _ _).mono (by simp)).trans (only_rawEv _ _ _ _ _))

/-- Recording an event changes the recorder, and ports and output by its error vector only. -/
theorem only_logEv (s : State) (sev source code : Nat) (pl : List Byte) : Only [.pa, .pb, .out, .evr] s (logEv s sev source code pl) :=
  only_logUpTo 64 s sev source code pl

theorem storeRec_ring (e : Evr) (r : EvRec) (h : e.frozen = false) :
    r ∈ (storeRec e r).ring ∧ (storeRec e r).frozen = false := by
  simp [storeRec, h]

theorem rawEv_recorded (s : State) (sev source code : Nat) (pl : List Byte) (h : s.evr.frozen = false) :
    Recorded s (rawEv s sev source code pl) sev source code pl := by
  refine ⟨newRec s sev source code false pl, ?_, by simp [newRec]⟩
  have h1 := storeRec_ring s.evr (newRec s sev source code false pl) h
  unfold rawEv; dsimp only
  have key : newRec s sev source code false pl ∈ (if pl.length > 12 then
      { ({ s with evr := storeRec s.evr (newRec s sev source code false pl) } : State) with
        evr := storeRec (storeRec s.evr (newRec s sev source code false pl))
          (newRec { s with evr := storeRec s.evr (newRec s sev source code false pl) } sev source code true (pl.drop 12)) }
      else { s with evr := storeRec s.evr (newRec s sev source code false pl) }).evr.ring := by
    split
    · simp only [storeRec, h, Bool.false_eq_true, if_false]
      simp [newRec, p32]
      omega
    · exact h1.1
  split
  · rw [firePf0_evr]; exact key
  · exact key

theorem rawEv_recorded_of (s u : State) (sev source code : Nat) (pl : List Byte) (h : u.evr.frozen = false)
    (hn : u.evr.evNext = s.evr.evNext) : Recorded s (rawEv u sev source code pl) sev source code pl := by
  obtain ⟨r, hr, hk, hx⟩ := rawEv_recorded u sev source code pl h
  exact ⟨r, hr, hk.trans hn, hx⟩

/-- An event that the recorder takes is in its ring (R384). -/
theorem logEv_recorded (s : State) (sev source code : Nat) (pl : List Byte) (h : Recordable s source code) :
    Recorded s (logEv s sev source code pl) sev source code pl := by
  obtain ⟨h1, h2, h3⟩ := h
  unfold logEv logUpTo endSecond; dsimp only
  by_cases hs : s.evr.sec = opMs s / 1000
  · rw [if_pos hs, if_neg (Nat.not_le.mpr (h2 hs))]
    exact rawEv_recorded_of _ _ _ _ _ _ h1 rfl
  · rw [if_neg hs, h3 hs, List.foldl_nil, if_neg (by simp)]
    exact rawEv_recorded_of _ _ _ _ _ _ h1 rfl

/-! ### Buffers that are given back -/

theorem only_freeFloor (s : State) (k : Nat) : Only [.bpm] s (freeFloor s k) := by
  unfold freeFloor
  split
  · intro q hq; cases q <;> simp at hq <;> rfl
  · exact Only.refl _ _

theorem only_acceptPush (s : State) (i : Nat) : Only [.bpm] s (acceptPush s i) := by
  unfold acceptPush
  split
  · exact Only.refl _ _
  · dsimp only
    refine Only.trans ?_ (only_freeFloor _ _)
    intro q hq; cases q <;> simp at hq <;> rfl

theorem only_rejectPush (s : State) (r check ptr : Nat) : Only [.bpm, .pa, .pb, .out, .evr] s (rejectPush s r check ptr) := by
  unfold rejectPush; dsimp only
  refine Only.trans ?_ ((only_logEv _ _ _ _ _).mono (by simp))
  intro q hq; cases q <;> simp at hq <;> rfl

theorem only_pushPtr (s : State) (r ptr : Nat) : Only [.bpm, .pa, .pb, .out, .evr] s (pushPtr s r ptr) := by
  unfold pushPtr
  split
  · exact only_rejectPush _ _ _ _
  · exact only_rejectPush _ _ _ _
  · exact only_rejectPush _ _ _ _
  · exact (only_acceptPush _ _).mono (by simp)

theorem only_freeVer (s : State) (v : Nat) : Only [.vers, .bpm, .pa, .pb, .out, .evr] s (freeVer s v) := by
  have hm : ∀ (u : State) (f : Ver → Ver), Only [.vers, .bpm, .pa, .pb, .out, .evr] u (modVer u v f) := by
    intro u f q hq; cases q <;> simp at hq <;> rfl
  unfold freeVer; dsimp only
  split
  · exact hm _ _
  · exact ((hm _ _).trans ((only_foldl _ (fun u i => only_pushPtr u _ _) _ _).mono (by simp))).trans (hm _ _)

/-- Giving back what nobody needs changes versions and the pool, and a rejected push is recorded. -/
theorem only_sweepVers (s : State) : Only [.vers, .bpm, .pa, .pb, .out, .evr] s (sweepVers s) :=
  only_foldl _ (fun u (x : Nat × Ver) => only_freeVer u x.1) _ _

end Sys2Proof.Machine
end

