-- ==== Sys2Proof/Laws/Cmds.lean ====
section
/-! SUPPORT. Commands in flight: what rewriting one reads back as, and what generating a completion does. -/

namespace Sys2Proof.Machine

theorem getCmd_key {s : State} {t seq : Nat} {c : Cmd} (h : getCmd s t seq = some c) : c.tenant = t ∧ c.seq = seq := by
  have := List.find?_some h; simp at this; exact this

/-- A command rewritten reads back rewritten, when its key stays. -/
theorem getCmd_modCmd_self {s : State} {t seq : Nat} {c : Cmd} (f : Cmd → Cmd) (h : getCmd s t seq = some c)
    (hf : ∀ x, (f x).tenant = x.tenant ∧ (f x).seq = x.seq) : getCmd (modCmd s t seq f) t seq = some (f c) := by
  simp only [getCmd, modCmd] at h ⊢
  generalize s.cmds = l at h
  induction l with
  | nil => simp at h
  | cons x r ih =>
    simp only [List.find?_cons, List.map_cons] at h ⊢
    by_cases hx : (x.tenant == t && x.seq == seq) = true
    · simp only [hx, if_true, Option.some.injEq] at h ⊢; subst h
      have := hf x
      simp [this]
      simp at hx; simp [hx]
    · simp only [Bool.not_eq_true] at hx
      simp only [hx] at h ⊢
      simp [hx]; simpa using ih h

/-- A command with another key is not touched. -/
theorem getCmd_modCmd_ne (s : State) (t seq t' seq' : Nat) (f : Cmd → Cmd) (h : ¬(t' = t ∧ seq' = seq))
    (hf : ∀ x, (f x).tenant = x.tenant ∧ (f x).seq = x.seq) : getCmd (modCmd s t seq f) t' seq' = getCmd s t' seq' := by
  simp only [getCmd, modCmd]
  induction s.cmds with
  | nil => rfl
  | cons x r ih =>
    simp only [List.find?_cons, List.map_cons]
    by_cases hx : (x.tenant == t && x.seq == seq) = true
    · have := hf x
      simp [hx, this]
      simp at hx
      have e : (x.tenant == t' && x.seq == seq') = false := by simp; omega
      simp [hx]
      have e2 : (t == t' && seq == seq') = false := by simp; omega
      rw [e2]; simpa using ih
    · simp only [Bool.not_eq_true] at hx
      simp [hx]
      split
      · rfl
      · simpa using ih

theorem only_endEntry (s : State) (t seq st r : Nat) (c : Cmd) : Only [.cmds, .bpm, .genCtr] s (endEntry s t seq st r c) := by
  intro q hq; unfold endEntry; dsimp only
  split <;> cases q <;> simp at hq <;> rfl

theorem getCmd_endEntry {s : State} {t seq : Nat} {c : Cmd} (st r : Nat) (h : getCmd s t seq = some c) :
    ∃ d, getCmd (endEntry s t seq st r c) t seq = some d ∧ d.ph = .gen ∧ d.status = st ∧ d.result = r := by
  generalize hu : (if c.committed then s else { s with bpm := uncharge s.bpm t c.charge }) = u
  have h' : getCmd u t seq = some c := by rw [← hu]; split <;> exact h
  have := getCmd_modCmd_self (fun c => { c with
    ph := .gen, status := st, result := r, genNo := u.genCtr, gate := .none
    charge := if c.committed then c.charge else 0 }) h' (by simp)
  unfold endEntry; rw [hu]
  exact ⟨_, this, by simp⟩

theorem completes_genCompl {s : State} {t seq st r : Nat} {c : Cmd} (h : getCmd s t seq = some c) (hp : c.ph ≠ .gen) :
    Completes (genCompl s t seq st r) t seq st r := by
  obtain ⟨d, hd, h2⟩ := getCmd_endEntry st r h
  simp only [genCompl, h, if_neg hp]
  split
  · refine ⟨d, ?_, h2⟩
    unfold getCmd at hd ⊢
    rw [only_sweepVers (endEntry s t seq st r c) .cmds (by simp)]; exact hd
  · exact ⟨d, hd, h2⟩

/-- Generating the completion of `c` changes what `endParts` names. -/
theorem only_genCompl {s : State} {t seq : Nat} {c : Cmd} (st r : Nat) (h : getCmd s t seq = some c) :
    Only (endParts c) s (genCompl s t seq st r) := by
  have g := only_endEntry s t seq st r c
  simp only [genCompl, h]
  by_cases hg : c.ph = .gen
  · rw [if_pos hg]; exact Only.refl _ _
  · rw [if_neg hg]
    unfold endParts
    split
    · exact (g.mono (by simp)).trans ((only_sweepVers _).mono (by simp))
    · exact g

/-- A generated completion stays as it is. -/
theorem genCompl_gen {s : State} {t seq st r : Nat} {c : Cmd} (h : getCmd s t seq = some c) (hp : c.ph = .gen) :
    genCompl s t seq st r = s := by
  simp [genCompl, h, hp]

end Sys2Proof.Machine
end

