-- ==== Sys2Proof/Laws/Fuse.lean ====
section
/-! SUPPORT. The fuses through every operation of the model: one lemma for each operation, that it leaves the fuses (R349, R356) as they were. Only FUSE_UPDATE is missing here: it is the one command that writes them. -/

namespace Sys2Proof.Machine

/-- If the result is a next state, its fuses are `w`. -/
def Fx (w : Fuse) : Res → Prop
  | .next t => t.fuse = w
  | _ => True
theorem Fx_next (w : Fuse) (t : State) : Fx w (.next t) = (t.fuse = w) := rfl
theorem Fx_fault (w : Fuse) (f) : Fx w (.fault f) = True := rfl
theorem Fx_refused (w : Fuse) (f) : Fx w (.refused f) = True := rfl
theorem Fx_ite (w : Fuse) (c : Prop) [Decidable c] (a b : Res) : Fx w (if c then a else b) = (if c then Fx w a else Fx w b) := by split <;> rfl
theorem foldl_fuse {α} (f : State → α → State) (h : ∀ s x, (f s x).fuse = s.fuse) (l : List α) (s : State) : (l.foldl f s).fuse = s.fuse := by
  induction l generalizing s with
  | nil => rfl
  | cons x t ih => simp [ih, h]
theorem bindRes_fuse (r : Res) (k : State → Res) {w} (hr : Fx w r) (hk : ∀ u, u.fuse = w → Fx w (k u)) : Fx w (bindRes r k) := by
  cases r <;> simp_all [bindRes, Fx]
theorem fireVec_fuse (s : State) (p : Port) (fn v : Nat) : (fireVec s p fn v).fuse = s.fuse := by simp [fireVec, modFn_fuse, emit_fuse, apply_ite State.fuse]
theorem firePf0_fuse (s : State) (v : Nat) : (firePf0 s v).fuse = s.fuse := by simp [firePf0, fireVec_fuse, apply_ite State.fuse]
theorem rawEv_fuse (s : State) (sev source code : Nat) (payload : List Byte) : (rawEv s sev source code payload).fuse = s.fuse := by simp [rawEv, firePf0_fuse, apply_ite State.fuse]
theorem endSecond_fuse (s : State) : (endSecond s).fuse = s.fuse := by unfold endSecond; grind [rawEv_fuse, foldl_fuse]
theorem logUpTo_fuse (most : Nat) (s : State) (sev source code : Nat) (payload : List Byte) : (logUpTo most s sev source code payload).fuse = s.fuse := by simp [logUpTo, endSecond_fuse, rawEv_fuse, apply_ite State.fuse]
theorem logEv_fuse (s : State) (sev source code : Nat) (payload : List Byte) : (logEv s sev source code payload).fuse = s.fuse := by simp [logEv, logUpTo_fuse, apply_ite State.fuse]
theorem genericEv_fuse (s : State) (sev cls inst b off v : Nat) : (genericEv s sev cls inst b off v).fuse = s.fuse := by simp [genericEv, logEv_fuse]
theorem raiseEvt_fuse (s : State) (old b : Nat) (put : State → Nat → State) (sev cls inst off : Nat) (hput : ∀ u y1, (put u y1).fuse = u.fuse) : (raiseEvt s old b put sev cls inst off).fuse = s.fuse := by unfold raiseEvt; grind [genericEv_fuse, foldl_fuse]
theorem setPortEvt_fuse (s : State) (b : Nat) : (setPortEvt s b).fuse = s.fuse := by simp [setPortEvt, firePf0_fuse]
theorem admCnt_fuse (s : State) (t : Nat) (c : Cls) (k n : Nat) : (admCnt s t c k n).fuse = s.fuse := by rfl
theorem dropCmd_fuse (s : State) (t seq : Nat) : (dropCmd s t seq).fuse = s.fuse := by rfl
theorem stageRec_fuse (s : State) : (stageRec s).fuse = s.fuse := by rfl
theorem tieCount_fuse (s : State) (r k n : Nat) (tie : Bool) : (tieCount s r k n tie).fuse = s.fuse := by simp [tieCount, apply_ite State.fuse]
theorem setBpmEvt_fuse (s : State) (bitNo inst sev : Nat) : (setBpmEvt s bitNo inst sev).fuse = s.fuse := by simp [setBpmEvt, raiseEvt_fuse]
theorem setBpmBit_fuse (s : State) (b : Nat) : (setBpmBit s b).fuse = s.fuse := by rfl
theorem bpmLast_fuse (s : State) (reason r index ptr : Nat) : (bpmLast s reason r index ptr).fuse = s.fuse := by rfl
theorem discardEntry_fuse (s : State) (w : Nat) : (discardEntry s w).fuse = s.fuse := by simp [discardEntry, logEv_fuse, bpmLast_fuse, setBpmBit_fuse, apply_ite State.fuse]
theorem refillMiss_fuse (s : State) (r k : Nat) : (refillMiss s r k).fuse = s.fuse := by simp [refillMiss, setBpmBit_fuse, modTen_fuse, logUpTo_fuse, apply_ite State.fuse]
theorem takeEntry_fuse (r k : Nat) (x0 : Nat) (s : State) : (takeEntry r k x0 s).1.fuse = s.fuse := by
  induction x0 generalizing s with
  | zero => unfold takeEntry; exact refillMiss_fuse s r k
  | succ n ih =>
    unfold takeEntry
    split
    · exact (show (takeEntry r k 0 s).1.fuse = s.fuse by unfold takeEntry; exact refillMiss_fuse s r k)
    · dsimp only
      split
      · exact refillMiss_fuse s r k
      · rw [ih, discardEntry_fuse]; exact refillMiss_fuse s r k
theorem popBuf_fuse (s : State) (r k : Nat) : (popBuf s r k).1.fuse = s.fuse := by simp [popBuf, takeEntry_fuse, apply_ite State.fuse]
theorem popBufs_fuse (s : State) (r k : Nat) (x0 : Nat) : (popBufs s r k x0).1.fuse = s.fuse := by
  induction x0 generalizing s with
  | zero => rfl
  | succ n ih => simp [popBufs, ih, popBuf_fuse]
theorem freeFloor_fuse (s : State) (k : Nat) : (freeFloor s k).fuse = s.fuse := by simp [freeFloor, apply_ite State.fuse]
theorem rejectPush_fuse (s : State) (r check ptr : Nat) : (rejectPush s r check ptr).fuse = s.fuse := by simp [rejectPush, bpmLast_fuse, setBpmBit_fuse, logEv_fuse, apply_ite State.fuse]
theorem acceptPush_fuse (s : State) (i : Nat) : (acceptPush s i).fuse = s.fuse := by unfold acceptPush; grind [freeFloor_fuse, foldl_fuse]
theorem pushPtr_fuse (s : State) (r ptr : Nat) : (pushPtr s r ptr).fuse = s.fuse := by unfold pushPtr; grind [rejectPush_fuse, acceptPush_fuse, foldl_fuse]
theorem pushBuf_fuse (r : Nat) (s : State) (i : Nat) : (pushBuf r s i).fuse = s.fuse := by simp [pushBuf, pushPtr_fuse, apply_ite State.fuse]
theorem pushBufs_fuse (s : State) (r : Nat) (l : List Nat) : (pushBufs s r l).fuse = s.fuse := by unfold pushBufs; grind [pushBuf_fuse, foldl_fuse]
theorem freeVer_fuse (s : State) (v : Nat) : (freeVer s v).fuse = s.fuse := by simp [freeVer, modVer_fuse, pushBufs_fuse, apply_ite State.fuse]
theorem sweepVers_fuse (s : State) : (sweepVers s).fuse = s.fuse := by unfold sweepVers; grind [freeVer_fuse, foldl_fuse]
theorem modExt_fuse (s : State) (e : Nat) (f : Ext → Ext) : (modExt s e f).fuse = s.fuse := by rfl
theorem modSet_fuse (s : State) (i : Nat) (f : UcSet → UcSet) : (modSet s i f).fuse = s.fuse := by rfl
theorem modFold_fuse (s : State) (i : Nat) (f : Fold → Fold) : (modFold s i f).fuse = s.fuse := by rfl
theorem modReloc_fuse (s : State) (i : Nat) (f : Reloc → Reloc) : (modReloc s i f).fuse = s.fuse := by rfl
theorem newId_fuse (s : State) : (newId s).1.fuse = s.fuse := by rfl
theorem mcnt_fuse (s : State) (k n : Nat) : (mcnt s k n).fuse = s.fuse := by rfl
theorem chCnt_fuse (s : State) (c k n : Nat) : (chCnt s c k n).fuse = s.fuse := by rfl
theorem setFchEvt_fuse (s : State) (c b sev : Nat) : (setFchEvt s c b sev).fuse = s.fuse := raiseEvt_fuse _ _ _ _ _ _ _ _ (fun u _ => modChan_fuse u _ _)
theorem setHltEvt_fuse (s : State) (b inst sev : Nat) : (setHltEvt s b inst sev).fuse = s.fuse := by simp [setHltEvt, firePf0_fuse, genericEv_fuse, apply_ite State.fuse]
theorem watchGate_fuse (s : State) : (watchGate s).fuse = s.fuse := by rfl
theorem setPlpEvt_fuse (s : State) (b sev : Nat) : (setPlpEvt s b sev).fuse = s.fuse := by simp [setPlpEvt, raiseEvt_fuse]
theorem refillEmerg_fuse (s : State) : (refillEmerg s).fuse = s.fuse := by simp [refillEmerg, setPlpEvt_fuse, apply_ite State.fuse]
theorem checkOver_fuse (s : State) : (checkOver s).fuse = s.fuse := by simp [checkOver, setPlpEvt_fuse, apply_ite State.fuse]
theorem recompute_fuse (s : State) (note : Bool) : (recompute s note).fuse = s.fuse := by simp [recompute, refillEmerg_fuse, checkOver_fuse, setPlpEvt_fuse, apply_ite State.fuse]
theorem enterRd_fuse (s : State) (l : Nat) (r : Rd) : (enterRd s l r).fuse = s.fuse := by simp [enterRd, modLun_fuse, apply_ite State.fuse]
theorem drainOvf_fuse (s : State) (l : Nat) : (drainOvf s l).fuse = s.fuse := by unfold drainOvf; grind [enterRd_fuse, modLun_fuse, foldl_fuse]
theorem queueRd_fuse (s : State) (why : Why) (cls order blk page : Nat) (qlc : Bool) (secs : List SecReq) (lr : Bool) : (queueRd s why cls order blk page qlc secs lr).1.fuse = s.fuse := by simp [queueRd, newId_fuse, enterRd_fuse]
theorem endTokWait_fuse (s : State) (l : Nat) : (endTokWait s l).fuse = s.fuse := by unfold endTokWait; grind [chCnt_fuse, modLun_fuse, foldl_fuse]
theorem dropPrograms_fuse (s : State) (blks exts : List Nat) : (dropPrograms s blks exts).fuse = s.fuse := by unfold dropPrograms; grind [endTokWait_fuse, foldl_fuse]
theorem allocBlk_fuse (s : State) (b : Nat) (f : FBlk → FBlk) : (allocBlk s b f).fuse = s.fuse := by simp [allocBlk, queueRd_fuse, modBlk_fuse, stageRec_fuse, apply_ite State.fuse]
theorem queuePg_fuse (s : State) (k : PgKind) (blk page : Nat) (fua bg : Bool) : (queuePg s k blk page fua bg).fuse = s.fuse := by rfl
theorem eraseBlkQ_fuse (s : State) (blk : Nat) : (eraseBlkQ s blk).fuse = s.fuse := by rfl
theorem queueEr_fuse (s : State) (blk : Nat) : (queueEr s blk).fuse = s.fuse := by simp [queueEr, eraseBlkQ_fuse, modBlk_fuse, apply_ite State.fuse]
theorem newSet_fuse (s : State) (q tenant grp : Nat) : ∀ r, newSet s q tenant grp = some r → r.1.fuse = s.fuse := by
  intro r h
  unfold newSet at h
  dsimp only at h
  split at h
  · simp at h
  · simp only [Option.some.injEq] at h
    subst h
    refine (modSet_fuse _ _ _).trans ((foldl_fuse _ ?_ _ _).trans rfl)
    exact fun u _ => allocBlk_fuse u _ _
theorem setIn_fuse (s : State) (t grp q : Nat) : ∀ r, setIn s t grp q = some r → r.1.fuse = s.fuse := by
  intro r h
  unfold setIn at h
  grind [newSet_fuse]
theorem newExt_fuse (s : State) (t : Nat) (zone : Option Nat) (gen hint : Nat) : ∀ r, newExt s t zone gen hint = some r → r.1.fuse = s.fuse := by
  intro r h
  unfold newExt at h
  dsimp only at h
  split at h
  · simp at h
  · rename_i hs
    simp only [Option.some.injEq] at h
    subst h
    obtain ⟨q, -, hq⟩ := List.exists_of_findSome?_eq_some hs
    have hn := setIn_fuse _ _ _ _ _ hq
    simp only [watchGate_fuse, modExt_fuse]
    (repeat' split) <;> simp_all [modZone_fuse, modSet_fuse, newId_fuse]
theorem issueExt_fuse (s : State) (e : Nat) (fua : Bool) : (issueExt s e fua).fuse = s.fuse := by simp [issueExt, modExt_fuse, queuePg_fuse, foldl_fuse, apply_ite State.fuse]
theorem issueIfFull_fuse (s : State) (e : Nat) : (issueIfFull s e).fuse = s.fuse := by simp [issueIfFull, issueExt_fuse, apply_ite State.fuse]
theorem placeUc_fuse (s : State) (v : Nat) : (placeUc s v).fuse = s.fuse := by
  unfold placeUc
  dsimp only
  split
  · rfl
  · rename_i u e h
    rw [modVer_fuse, modExt_fuse]
    (repeat' split at h) <;> first
      | (simp only [Option.some.injEq, Prod.mk.injEq] at h; obtain ⟨rfl, rfl⟩ := h; rfl)
      | (simp at h; done)
      | (rename_i hn; simp only [Option.some.injEq, Prod.mk.injEq] at h; obtain ⟨rfl, rfl⟩ := h
         rw [modExt_fuse, popBufs_fuse]; exact newExt_fuse _ _ _ _ _ _ hn)
      | grind [newExt_fuse, popBufs_fuse, modExt_fuse]
theorem closeExt_fuse (s : State) (e : Nat) (fua : Bool) : (closeExt s e fua).fuse = s.fuse := by unfold closeExt; grind [modExt_fuse, modVer_fuse, issueExt_fuse, placeUc_fuse, foldl_fuse]
theorem stageZone_fuse (s : State) (t : Nat) (z : Nat) (fua : Bool) : (stageZone s t z fua).fuse = s.fuse := by unfold stageZone; grind [closeExt_fuse, foldl_fuse]
theorem promote_fuse (s : State) (e : Nat) : (promote s e).fuse = s.fuse := foldl_fuse _ (fun u _ => modLun_fuse u _ _) _ _
theorem forceVer_fuse (s : State) (v : Nat) : (forceVer s v).fuse = s.fuse := by unfold forceVer; grind [placeUc_fuse, promote_fuse, closeExt_fuse, foldl_fuse]
theorem forceWanted_fuse (s : State) (v : Nat) : (forceWanted s v).fuse = s.fuse := by simp [forceWanted, forceVer_fuse, apply_ite State.fuse]
theorem queueQlc_fuse (s : State) (coarse fine : PgKind) (b wl : Nat) (last bg : Bool) : (queueQlc s coarse fine b wl last bg).fuse = s.fuse := by simp [queueQlc, queuePg_fuse, apply_ite State.fuse]
theorem queueVerify_fuse (s : State) (b wl : Nat) : (queueVerify s b wl).fuse = s.fuse := by simp [queueVerify, queueRd_fuse, apply_ite State.fuse]
theorem queuePasses_fuse (s : State) (fid : Nat) (f : Fold) (m b : Nat) : (queuePasses s fid f m b).fuse = s.fuse := by simp [queuePasses, queueVerify_fuse, queueQlc_fuse, apply_ite State.fuse]
theorem pumpFolds_fuse (s : State) (t z : Nat) : (pumpFolds s t z).fuse = s.fuse := by unfold pumpFolds; grind [modFold_fuse, queuePasses_fuse, foldl_fuse]
theorem newFold_fuse (s : State) (t z wl : Nat) (direct pad : Bool) (vs : List Nat) : (newFold s t z wl direct pad vs).1.fuse = s.fuse := by rfl
theorem startDirect_fuse (s : State) (t z : Nat) (x0 : Nat) : (startDirect s t z x0).fuse = s.fuse := by
  induction x0 generalizing s with
  | zero => rfl
  | succ n ih =>
    unfold startDirect
    dsimp only
    split
    · rw [ih, pumpFolds_fuse, modFold_fuse, popBufs_fuse, newFold_fuse]
    · rfl
theorem wake_fuse (s : State) (cause : Nat) : (wake s cause).fuse = s.fuse := by simp [wake, apply_ite State.fuse]
theorem hostAccess_fuse (p : Port) (fn cause : Nat) (s : State) (k : State → Res) (hk : ∀ u, Fx u.fuse (k u)) {w} (hw : s.fuse = w) : Fx w (hostAccess p fn cause s k) := by unfold hostAccess; grind [emit_fuse, wake_fuse, modPort_fuse, foldl_fuse, Fx]
theorem regWriteBy_fuse (cause : Nat) (p : Port) (fn : Nat) (s : State) (k : State → Res) (hk : ∀ u, Fx u.fuse (k u)) {w} (hw : s.fuse = w) : Fx w (regWriteBy cause p fn s k) := by unfold regWriteBy; grind [hostAccess_fuse, foldl_fuse, Fx]
theorem regWrite_fuse (p : Port) (fn : Nat) (s : State) (k : State → Res) (hk : ∀ u, Fx u.fuse (k u)) {w} (hw : s.fuse = w) : Fx w (regWrite p fn s k) := by unfold regWrite; grind [regWriteBy_fuse, foldl_fuse, Fx]
theorem writeMirror_fuse (s : State) (p : Port) (fn : Nat) : (writeMirror s p fn).fuse = s.fuse := by unfold writeMirror; grind [emit_fuse, modCas_fuse, foldl_fuse]
theorem endEntry_fuse (s : State) (t seq status result : Nat) (c : Cmd) : (endEntry s t seq status result c).fuse = s.fuse := by simp [endEntry, modCmd_fuse, apply_ite State.fuse]
theorem genCompl_fuse (s : State) (t seq status result : Nat) : (genCompl s t seq status result).fuse = s.fuse := by unfold genCompl; grind [endEntry_fuse, sweepVers_fuse, foldl_fuse]
theorem signalRing_fuse (s : State) (p : Port) (fn ring : Nat) : (signalRing s p fn ring).fuse = s.fuse := by simp [signalRing, modRing_fuse, fireVec_fuse]
theorem countEntry_fuse (s : State) (p : Port) (fn ring : Nat) : (countEntry s p fn ring).fuse = s.fuse := by simp [countEntry, modRing_fuse, signalRing_fuse, apply_ite State.fuse]
theorem retire_fuse (s : State) (t seq : Nat) : (retire s t seq).fuse = s.fuse := by rfl
theorem postEntry_fuse (s : State) (c : Cmd) : (postEntry s c).fuse = s.fuse := by
  unfold postEntry
  dsimp only
  rw [retire_fuse]
  show (countEntry _ _ _ _).fuse = _
  rw [countEntry_fuse, modRing_fuse, emit_fuse]
  split <;> simp [writeMirror_fuse]
theorem execCompletionPost_fuse (p : Port) (fn ring : Nat) (s : State) {w} (hw : s.fuse = w) : Fx w (execCompletionPost p fn ring s) := by unfold execCompletionPost; grind [postEntry_fuse, foldl_fuse, Fx]
theorem execMirrorWrite_fuse (p : Port) (fn : Nat) (s : State) {w} (hw : s.fuse = w) : Fx w (execMirrorWrite p fn s) := by simp [execMirrorWrite, hw, writeMirror_fuse, Fx_next, Fx_ite]
theorem execRingInterruptTimer_fuse (p : Port) (fn ring : Nat) (s : State) {w} (hw : s.fuse = w) : Fx w (execRingInterruptTimer p fn ring s) := by simp [execRingInterruptTimer, hw, signalRing_fuse, Fx_next, Fx_ite]
theorem execMsixPendingSend_fuse (p : Port) (fn vec : Nat) (s : State) {w} (hw : s.fuse = w) : Fx w (execMsixPendingSend p fn vec s) := by simp [execMsixPendingSend, hw, emit_fuse, modFn_fuse, Fx_next, Fx_ite]
theorem execRingHeadWrite_fuse (p : Port) (fn ring : Nat) (v : Word) (s : State) {w} (hw : s.fuse = w) : Fx w (execRingHeadWrite p fn ring v s) := by simp [execRingHeadWrite, hw, regWrite_fuse, modRing_fuse, Fx_next, Fx_fault, Fx_ite]
theorem enableRing_fuse (s : State) (p : Port) (fn ring : Nat) (v : Word) : (enableRing s p fn ring v).fuse = s.fuse := by simp [enableRing, modRing_fuse]
theorem settleRing_fuse (s : State) (p : Port) (fn ring : Nat) (was : Option Nat) : (settleRing s p fn ring was).fuse = s.fuse := by simp [settleRing, modCas_fuse, signalRing_fuse, apply_ite State.fuse]
theorem writeRngCtl_fuse (p : Port) (fn ring : Nat) (v : Word) (s : State) {w} (hw : s.fuse = w) : Fx w (writeRngCtl p fn ring v s) := by simp [writeRngCtl, hw, regWrite_fuse, settleRing_fuse, enableRing_fuse, modRing_fuse, Fx_next, Fx_fault, Fx_ite]
theorem execRingEnable_fuse (p : Port) (fn ring : Nat) (ctl : Word) (s : State) {w} (hw : s.fuse = w) : Fx w (execRingEnable p fn ring ctl s) := by simp [execRingEnable, hw, writeRngCtl_fuse]
theorem execRingDisable_fuse (p : Port) (fn ring : Nat) (ctl : Word) (s : State) {w} (hw : s.fuse = w) : Fx w (execRingDisable p fn ring ctl s) := by simp [execRingDisable, hw, writeRngCtl_fuse]
theorem execRingIenClear_fuse (p : Port) (fn ring : Nat) (ctl : Word) (s : State) {w} (hw : s.fuse = w) : Fx w (execRingIenClear p fn ring ctl s) := by simp [execRingIenClear, hw, writeRngCtl_fuse]
theorem noteGrant_fuse (s : State) (t : Nat) (c : Cls) (p : Port) : (noteGrant s t c p).fuse = s.fuse := by unfold noteGrant; grind [foldl_fuse]
theorem countWait_fuse (s : State) (t : Nat) (c : Cls) (us : Nat) : (countWait s t c us).fuse = s.fuse := by rfl
theorem endBlockWait_fuse (s : State) (c : Cmd) : (endBlockWait s c).fuse = s.fuse := by unfold endBlockWait; grind [modTCls_fuse, admCnt_fuse, modCmd_fuse, foldl_fuse]
theorem refuseQueued_fuse (s : State) (c : Cmd) (status : Nat) : (refuseQueued s c status).fuse = s.fuse := by simp [refuseQueued, admCnt_fuse, endBlockWait_fuse, countWait_fuse, modCmd_fuse, genCompl_fuse, apply_ite State.fuse]
theorem endQueued_fuse (s : State) (c : Cmd) : (endQueued s c).fuse = s.fuse := by simp [endQueued, modCmd_fuse, admCnt_fuse, apply_ite State.fuse]
theorem setCipEvt_fuse (s : State) (b inst sev : Nat) : (setCipEvt s b inst sev).fuse = s.fuse := by simp [setCipEvt, raiseEvt_fuse]
theorem cipCnt_fuse (s : State) (k n : Nat) : (cipCnt s k n).fuse = s.fuse := by rfl
theorem cipT_fuse (s : State) (t k n : Nat) : (cipT s t k n).fuse = s.fuse := by rfl
theorem derive_fuse (s : State) (v : Ver) : (derive s v).fuse = s.fuse := by rfl
theorem encryptBlock_fuse (s : State) (v : Nat) : (encryptBlock s v).fuse = s.fuse := by simp [encryptBlock, cipT_fuse, cipCnt_fuse, derive_fuse, apply_ite State.fuse]
theorem decryptBlock_fuse (s : State) (v : Nat) : (decryptBlock s v).fuse = s.fuse := by simp [decryptBlock, cipT_fuse, cipCnt_fuse, derive_fuse, apply_ite State.fuse]
theorem authFail_fuse (s : State) (v : Nat) : (authFail s v).fuse = s.fuse := by simp [authFail, cipT_fuse, cipCnt_fuse, derive_fuse, logUpTo_fuse, apply_ite State.fuse]
theorem purgeOld_fuse (s : State) (t z : Nat) : (purgeOld s t z).fuse = s.fuse := by rfl
theorem purgeTenant_fuse (s : State) (t : Nat) : (purgeTenant s t).fuse = s.fuse := by rfl
theorem endSan_fuse (s : State) : (endSan s).fuse = s.fuse := by unfold endSan; grind [setCipEvt_fuse, foldl_fuse]
theorem narrowWrite_fuse (s : State) (line mask : Nat) : (narrowWrite s line mask).fuse = s.fuse := by simp [narrowWrite, apply_ite State.fuse]
theorem mapWrite_fuse (s : State) (t z i n : Nat) : (mapWrite s t z i n).fuse = s.fuse := by simp [mapWrite, narrowWrite_fuse, foldl_fuse]
theorem readCnt_fuse (s : State) (c : Cmd) (k : Nat) : (readCnt s c k).fuse = s.fuse := by rfl
theorem countRead_fuse (s : State) (c : Cmd) (status : Nat) : (countRead s c status).fuse = s.fuse := by simp [countRead, readCnt_fuse, apply_ite State.fuse]
theorem tel_fuse (s : State) (k n : Nat) : (tel s k n).fuse = s.fuse := by rfl
theorem sendNow_fuse (s : State) (p : Port) (o : Out) : (sendNow s p o).fuse = s.fuse := by rfl
theorem sendData_fuse (s : State) (p : Port) (fn : Nat) (o : Out) : (sendData s p fn o).fuse = s.fuse := by simp [sendData, sendNow_fuse, apply_ite State.fuse]
theorem settleOut_fuse (s : State) : (settleOut s).fuse = s.fuse := by unfold settleOut; grind [sendNow_fuse, foldl_fuse]
theorem sendBlock_fuse (s : State) (c : Cmd) (i : Nat) (x : Content) : (sendBlock s c i x).fuse = s.fuse := by simp [sendBlock, sendData_fuse, apply_ite State.fuse]
theorem failBlock_fuse (s : State) (t seq lba status : Nat) : (failBlock s t seq lba status).fuse = s.fuse := by rfl
theorem copyBlock_fuse (s : State) (c : Cmd) (i : Nat) (x : Content) : (copyBlock s c i x).fuse = s.fuse := by unfold copyBlock; grind [encryptBlock_fuse, modVer_fuse, foldl_fuse]
theorem gotBlock_fuse (s : State) (c : Cmd) (i : Nat) (x : Content) : (gotBlock s c i x).fuse = s.fuse := by simp [gotBlock, copyBlock_fuse, sendBlock_fuse, apply_ite State.fuse]
theorem revive_fuse (s : State) (x : Ver) : (revive s x).fuse = s.fuse := by unfold revive; grind [modVer_fuse, mapWrite_fuse, forceWanted_fuse, placeUc_fuse, foldl_fuse]
theorem endVer_fuse (s : State) (v : Nat) : (endVer s v).fuse = s.fuse := by simp [endVer, revive_fuse, freeVer_fuse, modVer_fuse, apply_ite State.fuse]
theorem stagePartial_fuse (s : State) (t z : Nat) : (stagePartial s t z).fuse = s.fuse := by simp [stagePartial, placeUc_fuse, stageZone_fuse, foldl_fuse, apply_ite State.fuse]
theorem stageClosed_fuse (s : State) (t z : Nat) : (stageClosed s t z).fuse = s.fuse := by simp [stageClosed, stagePartial_fuse, apply_ite State.fuse]
theorem onward_fuse (s : State) (c : Cmd) : (onward s c).fuse = s.fuse := by unfold onward; grind [issueIfFull_fuse, startDirect_fuse, forceWanted_fuse, sweepVers_fuse, stageClosed_fuse, foldl_fuse]
theorem leaveWriter_fuse (s : State) (c : Cmd) (blocks : List Nat) : (leaveWriter s c blocks).fuse = s.fuse := by unfold leaveWriter; grind [modVer_fuse, encryptBlock_fuse, endVer_fuse, onward_fuse, foldl_fuse]
theorem endReader_fuse (s : State) (c : Cmd) (status result : Nat) : (endReader s c status result).fuse = s.fuse := by simp [endReader, purgeOld_fuse, genCompl_fuse]
theorem finishReader_fuse (s : State) (t seq : Nat) : (finishReader s t seq).fuse = s.fuse := by unfold finishReader; grind [logEv_fuse, endReader_fuse, leaveWriter_fuse, countRead_fuse, foldl_fuse]
theorem readNow_fuse (s : State) (t seq z lba i : Nat) : (readNow s t seq z lba i).fuse = s.fuse := by unfold readNow; grind [gotBlock_fuse, failBlock_fuse, modCmd_fuse, authFail_fuse, decryptBlock_fuse, foldl_fuse]
theorem loseReader_fuse (s : State) (t seq : Nat) : (loseReader s t seq).fuse = s.fuse := by unfold loseReader; grind [finishReader_fuse, failBlock_fuse, modCmd_fuse, foldl_fuse]
theorem issueReads_fuse (s : State) (c : Cmd) : (issueReads s c).fuse = s.fuse := by simp [issueReads, loseReader_fuse, queueRd_fuse, foldl_fuse, apply_ite State.fuse]
theorem startReader_fuse (s : State) (t seq : Nat) : (startReader s t seq).fuse = s.fuse := by unfold startReader; grind [readNow_fuse, finishReader_fuse, issueReads_fuse, foldl_fuse]
theorem readerStage_fuse (s : State) (t seq : Nat) : (readerStage s t seq).fuse = s.fuse := by unfold readerStage; grind [modCmd_fuse, startReader_fuse, foldl_fuse]
theorem fireBox_fuse (s : State) (x0 : Box) : (fireBox s x0).fuse = s.fuse := by unfold fireBox; grind [firePf0_fuse, fireVec_fuse, foldl_fuse]
theorem setIst_fuse (s : State) (b : Box) (i : Nat) : (setIst s b i).fuse = s.fuse := by simp [setIst, modMbx_fuse, fireBox_fuse, apply_ite State.fuse]
theorem boxWrite_fuse (cause : Nat) (p : Port) (b : Box) (off rsv : Nat) (v : Word) (s : State) (k : State → Nat → Res) (hk : ∀ u y1, Fx u.fuse (k u y1)) {w} (hw : s.fuse = w) : Fx w (boxWrite cause p b off rsv v s k) := by unfold boxWrite; grind [regWriteBy_fuse, foldl_fuse, Fx]
theorem pushRequest_fuse (s : State) (b : Box) (f : Frame) : (pushRequest s b f).fuse = s.fuse := by simp [pushRequest, setIst_fuse, modMbx_fuse, apply_ite State.fuse]
theorem execMbxDoorbell_fuse (p : Port) (b : Box) (v : Word) (s : State) {w} (hw : s.fuse = w) : Fx w (execMbxDoorbell p b v s) := by simp [execMbxDoorbell, hw, boxWrite_fuse, pushRequest_fuse, Fx_next, Fx_ite]
theorem readLock_fuse (s : State) (n agent : Nat) : (readLock s n agent).1.fuse = s.fuse := by simp [readLock, modMbx_fuse, apply_ite State.fuse]
theorem execMbxLockRead_fuse (p : Port) (n : Nat) (s : State) {w} (hw : s.fuse = w) : Fx w (execMbxLockRead p n s) := by unfold execMbxLockRead; grind [hostAccess_fuse, readLock_fuse, emit_fuse, foldl_fuse, Fx]
theorem releaseLock_fuse (s : State) (n agent v : Nat) : (releaseLock s n agent v).fuse = s.fuse := by simp [releaseLock, modMbx_fuse, apply_ite State.fuse]
theorem execMbxLockRelease_fuse (p : Port) (n : Nat) (v : Word) (s : State) {w} (hw : s.fuse = w) : Fx w (execMbxLockRelease p n v s) := by simp [execMbxLockRelease, hw, regWrite_fuse, releaseLock_fuse, Fx_next, Fx_fault, Fx_ite]
theorem startReplyTimer_fuse (s : State) : (startReplyTimer s).fuse = s.fuse := by rfl
theorem discardBox_fuse (s : State) (b : Box) : (discardBox s b).fuse = s.fuse := by unfold discardBox; grind [startReplyTimer_fuse, modMbx_fuse, foldl_fuse]
theorem breakLock_fuse (s : State) (n cause breaker : Nat) : (breakLock s n cause breaker).fuse = s.fuse := by simp [breakLock, modMbx_fuse, discardBox_fuse, logEv_fuse]
theorem execMbxBreak_fuse (p : Port) (v : Word) (s : State) {w} (hw : s.fuse = w) : Fx w (execMbxBreak p v s) := by simp [execMbxBreak, hw, regWrite_fuse, breakLock_fuse, Fx_next, Fx_fault, Fx_ite]
theorem breakPort_fuse (s : State) (p : Port) (cause : Nat) : (breakPort s p cause).fuse = s.fuse := by simp [breakPort, breakLock_fuse, foldl_fuse, apply_ite State.fuse]
theorem discardVfBox_fuse (s : State) (p : Port) (fn cause : Nat) : (discardVfBox s p fn cause).fuse = s.fuse := by simp [discardVfBox, discardBox_fuse, logEv_fuse]
theorem dropVfBox_fuse (s : State) (p : Port) (fn cause : Nat) : (dropVfBox s p fn cause).fuse = s.fuse := by simp [dropVfBox, modMbx_fuse, discardVfBox_fuse]
theorem execMbxTakeRequest_fuse (b : Box) (s : State) {w} (hw : s.fuse = w) : Fx w (execMbxTakeRequest b s) := by unfold execMbxTakeRequest; grind [modMbx_fuse, setIst_fuse, foldl_fuse, Fx]
theorem finishReq_fuse (s : State) (b : Box) (result : Nat) (vals : List Nat) (data : List Byte) : (finishReq s b result vals data).fuse = s.fuse := by unfold finishReq; grind [modMbx_fuse, foldl_fuse]
theorem finishDurable_fuse (s : State) (b : Box) (result : Nat) (vals : List Nat) (data : List Byte) : (finishDurable s b result vals data).fuse = s.fuse := by simp [finishDurable, modMbx_fuse, finishReq_fuse, stageRec_fuse, apply_ite State.fuse]
theorem execMbxReplyPost_fuse (b : Box) (s : State) {w} (hw : s.fuse = w) : Fx w (execMbxReplyPost b s) := by unfold execMbxReplyPost; grind [emit_fuse, startReplyTimer_fuse, setIst_fuse, modMbx_fuse, foldl_fuse, Fx]
theorem noticeTo_fuse (s : State) (code v1 v2 v3 : Nat) (b : Box) : (noticeTo s code v1 v2 v3 b).fuse = s.fuse := by simp [noticeTo, setIst_fuse, modMbx_fuse, apply_ite State.fuse]
theorem noticePf0_fuse (s : State) (code v1 v2 v3 : Nat) : (noticePf0 s code v1 v2 v3).fuse = s.fuse := by simp [noticePf0, noticeTo_fuse, foldl_fuse]
theorem noticeTenant_fuse (s : State) (t code v1 v2 v3 : Nat) : (noticeTenant s t code v1 v2 v3).fuse = s.fuse := by simp [noticeTenant, noticeTo_fuse, apply_ite State.fuse]
theorem keyNotice_fuse (s : State) (t cause : Nat) : (keyNotice s t cause).fuse = s.fuse := by simp [keyNotice, noticeTenant_fuse, noticePf0_fuse]
theorem dropResv_fuse (s : State) (t z : Nat) : (dropResv s t z).fuse = s.fuse := by rfl
theorem goReadOnly_fuse (s : State) (t z reason : Nat) : (goReadOnly s t z reason).fuse = s.fuse := by simp [goReadOnly, modZone_fuse, stageRec_fuse, logEv_fuse, watchGate_fuse, stageClosed_fuse, noticeTenant_fuse, setHltEvt_fuse, apply_ite State.fuse]
theorem openEmpty_fuse (s : State) (t z hint : Nat) : (openEmpty s t z hint).fuse = s.fuse := by rfl
theorem applyHint_fuse (s : State) (t z hint want : Nat) : (applyHint s t z hint want).1.fuse = s.fuse := by unfold applyHint; grind [stageRec_fuse, watchGate_fuse, modZone_fuse, foldl_fuse]
theorem takeFor_fuse (s : State) (t z : Nat) : (takeFor s t z).fuse = s.fuse := by simp [takeFor, modZone_fuse, genericEv_fuse, cipT_fuse, cipCnt_fuse, apply_ite State.fuse]
theorem supply_fuse (s : State) (t z : Nat) (x0 : List Nat) : ∀ r, supply s t z x0 = some r → r.fuse = s.fuse := by
  induction x0 generalizing s with
  | nil => simp [supply]
  | cons m rest ih =>
    unfold supply
    (repeat' split) <;> first
      | exact ih _
      | (intro r h; exact (ih _ r h).trans ((modZone_fuse _ _ _ _).trans (allocBlk_fuse _ _ _)))
      | simp
theorem makeVer_fuse (s : State) (c : Cmd) (lba0 i : Nat) : (makeVer s c lba0 i).fuse = s.fuse := by simp [makeVer, takeFor_fuse, popBufs_fuse, modVer_fuse, mapWrite_fuse, modCmd_fuse, apply_ite State.fuse]
theorem returnParity_fuse (s : State) (c : Cmd) (left : Nat) : (returnParity s c left).fuse = s.fuse := by rfl
theorem commitWriter_fuse (s : State) (c : Cmd) : (commitWriter s c).fuse = s.fuse := by simp [commitWriter, modCmd_fuse, modZone_fuse, makeVer_fuse, watchGate_fuse, placeUc_fuse, returnParity_fuse, foldl_fuse, apply_ite State.fuse]
theorem writerStage_fuse (s : State) (c : Cmd) : (writerStage s c).fuse = s.fuse := by unfold writerStage; grind [setCipEvt_fuse, goReadOnly_fuse, cipCnt_fuse, genCompl_fuse, commitWriter_fuse, openEmpty_fuse, modZone_fuse, supply_fuse, modCmd_fuse, foldl_fuse]
theorem releaseExt_fuse (s : State) (e : Nat) : (releaseExt s e).fuse = s.fuse := by simp [releaseExt, pushBufs_fuse, modExt_fuse, watchGate_fuse, modSet_fuse, queueEr_fuse, foldl_fuse, apply_ite State.fuse]
theorem endFua_fuse (s : State) (t z : Nat) : (endFua s t z).fuse = s.fuse := by simp [endFua, genCompl_fuse, foldl_fuse, apply_ite State.fuse]
theorem dropParity_fuse (s : State) (t z : Nat) : (dropParity s t z).fuse = s.fuse := by simp [dropParity, apply_ite State.fuse]
theorem dropMoves_fuse (s : State) (t z : Nat) (blks : List Nat) : (dropMoves s t z blks).fuse = s.fuse := by simp [dropMoves, pushBufs_fuse, queueEr_fuse, dropPrograms_fuse, foldl_fuse]
theorem applyReset_fuse (s : State) (t z : Nat) : (applyReset s t z).fuse = s.fuse := by simp [applyReset, endFua_fuse, dropMoves_fuse, dropPrograms_fuse, dropParity_fuse, modZone_fuse, freeVer_fuse, releaseExt_fuse, watchGate_fuse, queueEr_fuse, purgeOld_fuse, setCipEvt_fuse, foldl_fuse, apply_ite State.fuse]
theorem awaitJournal_fuse (s : State) (t seq result : Nat) : (awaitJournal s t seq result).fuse = s.fuse := by rfl
theorem resetStage_fuse (s : State) (c : Cmd) : (resetStage s c).fuse = s.fuse := by simp [resetStage, modCmd_fuse, modZone_fuse, awaitJournal_fuse, applyReset_fuse, apply_ite State.fuse]
theorem openStage_fuse (s : State) (c : Cmd) : (openStage s c).fuse = s.fuse := by simp [openStage, openEmpty_fuse, modZone_fuse, stageRec_fuse, applyHint_fuse, genCompl_fuse, apply_ite State.fuse]
theorem closeStage_fuse (s : State) (c : Cmd) : (closeStage s c).fuse = s.fuse := by simp [closeStage, watchGate_fuse, modZone_fuse, stageRec_fuse, stageClosed_fuse, genCompl_fuse, apply_ite State.fuse]
theorem finishStage_fuse (s : State) (c : Cmd) : (finishStage s c).fuse = s.fuse := by simp [finishStage, genCompl_fuse, watchGate_fuse, modZone_fuse, awaitJournal_fuse, stageClosed_fuse, apply_ite State.fuse]
theorem hintStage_fuse (s : State) (c : Cmd) : (hintStage s c).fuse = s.fuse := by simp [hintStage, applyHint_fuse, genCompl_fuse]
theorem flushStage_fuse (s : State) (c : Cmd) : (flushStage s c).fuse = s.fuse := by unfold flushStage; grind [modCmd_fuse, forceVer_fuse, genCompl_fuse, foldl_fuse]
theorem reportStage_fuse (s : State) (c : Cmd) : (reportStage s c).fuse = s.fuse := by
  unfold reportStage
  dsimp only
  rw [genCompl_fuse, modCmd_fuse]
  generalize segments _ _ _ = l
  generalize List.foldl (fun (x y : List Byte) => x ++ y) _ _ = bs
  suffices h : ∀ (a : State × List Byte), (l.foldl (fun (acc : State × List Byte) g =>
      (sendData acc.1 c.port c.fn (.bytes c.port c.fn g.1 (acc.2.take g.2) (relaxedFn s c.port c.fn)), acc.2.drop g.2)) a).1.fuse = a.1.fuse by
    exact h _
  induction l with
  | nil => intro a; rfl
  | cons x t ih => intro a; rw [List.foldl_cons, ih, sendData_fuse]
theorem copyStage_fuse (s : State) (c : Cmd) : (copyStage s c).fuse = s.fuse := by unfold copyStage; grind [modCmd_fuse, writerStage_fuse, startReader_fuse, foldl_fuse]
theorem zoneStage_fuse (s : State) (t seq : Nat) : (zoneStage s t seq).fuse = s.fuse := by
  unfold zoneStage
  split
  · rfl
  · rename_i c hc
    cases hz : zoneCmdCheck s c <;> simp [apply_ite State.fuse, genCompl_fuse, modCmd_fuse, readerStage_fuse, copyStage_fuse,
      writerStage_fuse, flushStage_fuse, reportStage_fuse, resetStage_fuse, openStage_fuse, closeStage_fuse, finishStage_fuse,
      hintStage_fuse]
theorem wakeHeld_fuse (s : State) (t z : Nat) : (wakeHeld s t z).fuse = s.fuse := by simp [wakeHeld, zoneStage_fuse, foldl_fuse, apply_ite State.fuse]
theorem endActivation_fuse (s : State) : (endActivation s).fuse = s.fuse := by unfold endActivation; grind [zoneStage_fuse, foldl_fuse]
theorem failEarly_fuse (s : State) (c : Cmd) (st : Nat) : (failEarly s c st).fuse = s.fuse := by simp [failEarly, genCompl_fuse, apply_ite State.fuse]
theorem ringStage_fuse (s : State) (c : Cmd) : ∀ t, ringStage s c = some t → t.fuse = s.fuse := by unfold ringStage; grind [failEarly_fuse, sweepVers_fuse, modCmd_fuse, retire_fuse, modCas_fuse]
theorem decideCmd_fuse (s : State) (c : Cmd) (rival : Bool) : (decideCmd s c rival).fuse = s.fuse := by unfold decideCmd; grind [genCompl_fuse, ringStage_fuse, failEarly_fuse, admCnt_fuse, noteGrant_fuse, modCmd_fuse, foldl_fuse]
theorem decideOp_fuse (op t seq : Nat) (rival : Bool) (s : State) {w} (hw : s.fuse = w) : Fx w (decideOp op t seq rival s) := by unfold decideOp; grind [decideCmd_fuse, foldl_fuse, Fx]
theorem execRead_fuse (t seq : Nat) (rival : Bool) (s : State) {w} (hw : s.fuse = w) : Fx w (execRead t seq rival s) := by simp [execRead, hw, decideOp_fuse]
theorem execWrite_fuse (t seq : Nat) (rival : Bool) (s : State) {w} (hw : s.fuse = w) : Fx w (execWrite t seq rival s) := by simp [execWrite, hw, decideOp_fuse]
theorem execAppend_fuse (t seq : Nat) (rival : Bool) (s : State) {w} (hw : s.fuse = w) : Fx w (execAppend t seq rival s) := by simp [execAppend, hw, decideOp_fuse]
theorem execZoneOpen_fuse (t seq : Nat) (rival : Bool) (s : State) {w} (hw : s.fuse = w) : Fx w (execZoneOpen t seq rival s) := by simp [execZoneOpen, hw, decideOp_fuse]
theorem execZoneClose_fuse (t seq : Nat) (rival : Bool) (s : State) {w} (hw : s.fuse = w) : Fx w (execZoneClose t seq rival s) := by simp [execZoneClose, hw, decideOp_fuse]
theorem execZoneFinish_fuse (t seq : Nat) (rival : Bool) (s : State) {w} (hw : s.fuse = w) : Fx w (execZoneFinish t seq rival s) := by simp [execZoneFinish, hw, decideOp_fuse]
theorem execZoneReset_fuse (t seq : Nat) (rival : Bool) (s : State) {w} (hw : s.fuse = w) : Fx w (execZoneReset t seq rival s) := by simp [execZoneReset, hw, decideOp_fuse]
theorem execFlush_fuse (t seq : Nat) (rival : Bool) (s : State) {w} (hw : s.fuse = w) : Fx w (execFlush t seq rival s) := by simp [execFlush, hw, decideOp_fuse]
theorem execZoneReport_fuse (t seq : Nat) (rival : Bool) (s : State) {w} (hw : s.fuse = w) : Fx w (execZoneReport t seq rival s) := by simp [execZoneReport, hw, decideOp_fuse]
theorem execCopy_fuse (t seq : Nat) (rival : Bool) (s : State) {w} (hw : s.fuse = w) : Fx w (execCopy t seq rival s) := by simp [execCopy, hw, decideOp_fuse]
theorem execVerify_fuse (t seq : Nat) (rival : Bool) (s : State) {w} (hw : s.fuse = w) : Fx w (execVerify t seq rival s) := by simp [execVerify, hw, decideOp_fuse]
theorem execHint_fuse (t seq : Nat) (rival : Bool) (s : State) {w} (hw : s.fuse = w) : Fx w (execHint t seq rival s) := by simp [execHint, hw, decideOp_fuse]
theorem execInvalidOpcode_fuse (t seq : Nat) (s : State) {w} (hw : s.fuse = w) : Fx w (execInvalidOpcode t seq s) := by unfold execInvalidOpcode; grind [decideCmd_fuse, foldl_fuse, Fx]
theorem catchCmd_fuse (s : State) (x : Cmd) : (catchCmd s x).fuse = s.fuse := by simp [catchCmd, endQueued_fuse, modZone_fuse, genCompl_fuse, wakeHeld_fuse, apply_ite State.fuse]
theorem resolveAbort_fuse (s : State) (c : Cmd) : (resolveAbort s c).fuse = s.fuse := by unfold resolveAbort; grind [genCompl_fuse, modCmd_fuse, catchCmd_fuse, foldl_fuse]
theorem execAbort_fuse (t seq : Nat) (s : State) {w} (hw : s.fuse = w) : Fx w (execAbort t seq s) := by unfold execAbort; grind [ringStage_fuse, failEarly_fuse, resolveAbort_fuse, foldl_fuse, Fx]
theorem stage4_fuse (s : State) (c : Cmd) : (stage4 s c).fuse = s.fuse := by simp [stage4, genCompl_fuse, cipT_fuse, cipCnt_fuse, modCmd_fuse, zoneStage_fuse, apply_ite State.fuse]
theorem releaseCmd_fuse (s : State) (c : Cmd) : (releaseCmd s c).fuse = s.fuse := by unfold releaseCmd; grind [modTCls_fuse, admCnt_fuse, countWait_fuse, modCmd_fuse, checkOver_fuse, stage4_fuse, foldl_fuse]
theorem noteHold_fuse (s : State) (c : Cmd) : (noteHold s c).fuse = s.fuse := by simp [noteHold, modTen_fuse, watchGate_fuse, modCmd_fuse, apply_ite State.fuse]
theorem execAdmissionRelease_fuse (t : Nat) (c : Cls) (turn : LaneTurn) (s : State) {w} (hw : s.fuse = w) : Fx w (execAdmissionRelease t c turn s) := by unfold execAdmissionRelease; grind [releaseCmd_fuse, noteHold_fuse, tieCount_fuse, foldl_fuse, Fx]
theorem execRefusalAfterWaiting_fuse (t seq : Nat) (s : State) {w} (hw : s.fuse = w) : Fx w (execRefusalAfterWaiting t seq s) := by unfold execRefusalAfterWaiting; grind [refuseQueued_fuse, foldl_fuse, Fx]
theorem execExtentListFetch_fuse (t seq : Nat) (bytes : List Byte) (s : State) {w} (hw : s.fuse = w) : Fx w (execExtentListFetch t seq bytes s) := by unfold execExtentListFetch; grind [zoneStage_fuse, modCmd_fuse, genCompl_fuse, foldl_fuse, Fx]
theorem completeFua_fuse (s : State) : (completeFua s).fuse = s.fuse := by simp [completeFua, genCompl_fuse, foldl_fuse, apply_ite State.fuse]
theorem execWriteAcknowledgement_fuse (t seq : Nat) (s : State) {w} (hw : s.fuse = w) : Fx w (execWriteAcknowledgement t seq s) := by unfold execWriteAcknowledgement; grind [modVer_fuse, encryptBlock_fuse, tel_fuse, modCmd_fuse, onward_fuse, completeFua_fuse, forceVer_fuse, genCompl_fuse, foldl_fuse, Fx]
theorem execReaderResume_fuse (t seq : Nat) (s : State) {w} (hw : s.fuse = w) : Fx w (execReaderResume t seq s) := by unfold execReaderResume; grind [zoneStage_fuse, foldl_fuse, Fx]
theorem execZoneResetApply_fuse (t seq : Nat) (s : State) {w} (hw : s.fuse = w) : Fx w (execZoneResetApply t seq s) := by unfold execZoneResetApply; grind [modCmd_fuse, applyReset_fuse, wakeHeld_fuse, awaitJournal_fuse, foldl_fuse, Fx]
theorem endPath_fuse (s : State) (c : Cmd) (status : Nat) (blocks : List Nat) : (endPath s c status blocks).fuse = s.fuse := by unfold endPath; grind [modVer_fuse, leaveWriter_fuse, genCompl_fuse, foldl_fuse]
theorem dmaFail_fuse (t seq b : Nat) (reached : List Nat) (s : State) {w} (hw : s.fuse = w) : Fx w (dmaFail t seq b reached s) := by unfold dmaFail; grind [modFn_fuse, genCompl_fuse, endPath_fuse, foldl_fuse, Fx]
theorem execDmaReadFail_fuse (t seq : Nat) (fail : DmaFail) (s : State) {w} (hw : s.fuse = w) : Fx w (execDmaReadFail t seq fail s) := by simp [execDmaReadFail, hw, dmaFail_fuse, Fx_next, Fx_fault, Fx_ite]
theorem execCompletionTimeout_fuse (t seq : Nat) (reached : List Nat) (s : State) {w} (hw : s.fuse = w) : Fx w (execCompletionTimeout t seq reached s) := by unfold execCompletionTimeout; grind [dmaFail_fuse, foldl_fuse, Fx]
theorem dropCompl_fuse (s : State) (c : Cmd) : (dropCompl s c).fuse = s.fuse := by simp [dropCompl, dropCmd_fuse, modPort_fuse]
theorem redirect_fuse (s : State) (reached : List Reached) (status : Nat) (c : Cmd) : (redirect s reached status c).fuse = s.fuse := by simp [redirect, endQueued_fuse, modZone_fuse, endPath_fuse, modCmd_fuse, sweepVers_fuse, dropCompl_fuse, wakeHeld_fuse, apply_ite State.fuse]
theorem redirectAll_fuse (s : State) (p : Port) (f : Nat → Bool) (reached : List Reached) (status : Nat) : (redirectAll s p f reached status).fuse = s.fuse := by simp [redirectAll, dropCompl_fuse, redirect_fuse, foldl_fuse]
theorem dropWaiting_fuse (s : State) (p : Port) (f : Nat → Bool) : (dropWaiting s p f).fuse = s.fuse := by rfl
theorem resetVf_fuse (s : State) (p : Port) (fn : Nat) : (resetVf s p fn).fuse = s.fuse := by simp [resetVf, modPort_fuse, dropWaiting_fuse, apply_ite State.fuse]
theorem resetFns_fuse (s : State) (p : Port) : (resetFns s p).fuse = s.fuse := by simp [resetFns, modPort_fuse, dropWaiting_fuse, apply_ite State.fuse]
theorem cfgAccess_fuse (p : Port) (fn : Nat) (s : State) (k : State → Res) (hk : ∀ u, Fx u.fuse (k u)) {w} (hw : s.fuse = w) : Fx w (cfgAccess p fn s k) := by unfold cfgAccess; grind [emit_fuse, wake_fuse, modPort_fuse, foldl_fuse, Fx]
theorem removeVfs_fuse (s : State) (p : Port) (l : List Nat) (reached : List Reached) (cause : Nat) : (removeVfs s p l reached cause).fuse = s.fuse := by simp [removeVfs, redirectAll_fuse, resetVf_fuse, dropVfBox_fuse, foldl_fuse]
theorem losePort_fuse (s : State) (p : Port) (cause : LossCause) (reached : List Reached) : (losePort s p cause reached).fuse = s.fuse := by simp [losePort, modPort_fuse, redirectAll_fuse, dropVfBox_fuse, resetFns_fuse, breakPort_fuse, logEv_fuse, setPortEvt_fuse, foldl_fuse]
theorem modRef_fuse (s : State) (r : Port) (f : RefSt → RefSt) : (modRef s r f).fuse = s.fuse := by unfold modRef; grind [foldl_fuse]
theorem modPll_fuse (s : State) (p : Nat) (f : Pll → Pll) : (modPll s p f).fuse = s.fuse := by rfl
theorem startPll_fuse (s : State) (p : Nat) (r : Port) : (startPll s p r).fuse = s.fuse := by rfl
theorem resetPhy_fuse (s : State) (p : Port) : (resetPhy s p).fuse = s.fuse := by rfl
theorem startPhy_fuse (s : State) (p : Port) : (startPhy s p).fuse = s.fuse := by simp [startPhy, modPll_fuse, startPll_fuse, modRef_fuse, apply_ite State.fuse]
theorem execPortLost_fuse (p : Port) (cause : LossCause) (reached : List Reached) (s : State) {w} (hw : s.fuse = w) : Fx w (execPortLost p cause reached s) := by unfold execPortLost; grind [resetPhy_fuse, modPort_fuse, wake_fuse, losePort_fuse, resetFns_fuse, foldl_fuse, Fx]
theorem execPortUp_fuse (p : Port) (speed width : Nat) (flit : Bool) (s : State) {w} (hw : s.fuse = w) : Fx w (execPortUp p speed width flit s) := by simp [execPortUp, hw, modPort_fuse, wake_fuse, setPortEvt_fuse, Fx_next, Fx_ite]
theorem execPerstDeassert_fuse (p : Port) (s : State) {w} (hw : s.fuse = w) : Fx w (execPerstDeassert p s) := by simp [execPerstDeassert, hw, startPhy_fuse, modPort_fuse, wake_fuse, Fx_next, Fx_fault, Fx_ite]
theorem execFlr_fuse (p : Port) (vf : Nat) (reached : List Reached) (s : State) {w} (hw : s.fuse = w) : Fx w (execFlr p vf reached s) := by simp [execFlr, hw, cfgAccess_fuse, removeVfs_fuse, Fx_next, Fx_ite]
theorem execPf0Flr_fuse (p : Port) (reached : List Reached) (s : State) {w} (hw : s.fuse = w) : Fx w (execPf0Flr p reached s) := by unfold execPf0Flr; grind [cfgAccess_fuse, resetFns_fuse, breakPort_fuse, removeVfs_fuse, foldl_fuse, Fx]
theorem execVfEnableWrite_fuse (p : Port) (on : Bool) (reached : List Reached) (s : State) {w} (hw : s.fuse = w) : Fx w (execVfEnableWrite p on reached s) := by simp [execVfEnableWrite, hw, cfgAccess_fuse, modPort_fuse, removeVfs_fuse, Fx_next, Fx_ite]
theorem execNumvfsWrite_fuse (p : Port) (v : Nat) (reached : List Reached) (s : State) {w} (hw : s.fuse = w) : Fx w (execNumvfsWrite p v reached s) := by simp [execNumvfsWrite, hw, cfgAccess_fuse, modPort_fuse, removeVfs_fuse, Fx_next, Fx_ite]
theorem execBusMasterEnableClear_fuse (p : Port) (fn : Nat) (s : State) {w} (hw : s.fuse = w) : Fx w (execBusMasterEnableClear p fn s) := by unfold execBusMasterEnableClear; grind [cfgAccess_fuse, modFn_fuse, foldl_fuse, Fx]
theorem execBusMasterEnableSet_fuse (p : Port) (fn : Nat) (s : State) {w} (hw : s.fuse = w) : Fx w (execBusMasterEnableSet p fn s) := by unfold execBusMasterEnableSet; grind [cfgAccess_fuse, settleOut_fuse, modFn_fuse, foldl_fuse, Fx]
theorem execPf0D3hot_fuse (p : Port) (s : State) {w} (hw : s.fuse = w) : Fx w (execPf0D3hot p s) := by unfold execPf0D3hot; grind [cfgAccess_fuse, modPort_fuse, foldl_fuse, Fx]
theorem execPf0D3hotExit_fuse (p : Port) (s : State) {w} (hw : s.fuse = w) : Fx w (execPf0D3hotExit p s) := by unfold execPf0D3hotExit; grind [cfgAccess_fuse, settleOut_fuse, modPort_fuse, foldl_fuse, Fx]
theorem execAspmL1Entry_fuse (p : Port) (s : State) {w} (hw : s.fuse = w) : Fx w (execAspmL1Entry p s) := by simp [execAspmL1Entry, hw, modPort_fuse, Fx_next, Fx_ite]
theorem execUnsupportedRequest_fuse (p : Port) (fn off : Nat) (_isRead : Bool) (s : State) {w} (hw : s.fuse = w) : Fx w (execUnsupportedRequest p fn off _isRead s) := by simp [execUnsupportedRequest, hw, emit_fuse, Fx_next, Fx_ite]
theorem execD2dLaneFault_fuse (q lane : Nat) (s : State) {w} (hw : s.fuse = w) : Fx w (execD2dLaneFault q lane s) := by simp [execD2dLaneFault, hw, logEv_fuse, Fx_next, Fx_ite]
theorem trainLink_fuse (s : State) (q bad : Nat) : (trainLink s q bad).fuse = s.fuse := by rfl
theorem execCoreHang_fuse (die core items : Nat) (s : State) {w} (hw : s.fuse = w) : Fx w (execCoreHang die core items s) := by simp [execCoreHang, hw, logEv_fuse, Fx_next, Fx_fault, Fx_ite]
theorem persistOnce_fuse (fails : List Bool) (s : State) : (persistOnce fails s).fuse = s.fuse := by rfl
theorem persistAll_fuse (s : State) : (persistAll s).fuse = s.fuse := by simp [persistAll, persistOnce_fuse, apply_ite State.fuse]
theorem execEventPersistWrite_fuse (s : State) {w} (hw : s.fuse = w) : Fx w (execEventPersistWrite s) := by simp [execEventPersistWrite, hw, persistOnce_fuse, Fx_next, Fx_fault, Fx_ite]
theorem execRepeat_fuse (s : State) {w} (hw : s.fuse = w) : Fx w (execRepeat s) := by simp [execRepeat, hw, endSecond_fuse, Fx_next, Fx_fault, Fx_ite]
theorem unfreeze_fuse (s : State) : (unfreeze s).fuse = s.fuse := by simp [unfreeze, logEv_fuse, apply_ite State.fuse]
theorem writeEvrCtl_fuse (p : Port) (v : Word) (s : State) {w} (hw : s.fuse = w) : Fx w (writeEvrCtl p v s) := by simp [writeEvrCtl, hw, regWrite_fuse, modPort_fuse, unfreeze_fuse, apply_ite State.fuse, Fx_next, Fx_fault, Fx_ite]
theorem execFreeze_fuse (p : Port) (v : Word) (s : State) {w} (hw : s.fuse = w) : Fx w (execFreeze p v s) := by simp [execFreeze, hw, writeEvrCtl_fuse]
theorem execUnfreeze_fuse (p : Port) (v : Word) (s : State) {w} (hw : s.fuse = w) : Fx w (execUnfreeze p v s) := by simp [execUnfreeze, hw, writeEvrCtl_fuse]
theorem execClr_fuse (p : Port) (v : Word) (s : State) {w} (hw : s.fuse = w) : Fx w (execClr p v s) := by simp [execClr, hw, writeEvrCtl_fuse]
theorem execEvrClearDone_fuse (s : State) {w} (hw : s.fuse = w) : Fx w (execEvrClearDone s) := by unfold execEvrClearDone; grind [persistAll_fuse, logEv_fuse, foldl_fuse, Fx]
theorem startFetch_fuse (s : State) (p : Port) (cursor : Nat) : (startFetch s p cursor).fuse = s.fuse := by simp [startFetch, modPort_fuse]
theorem execEvrCursor_fuse (p : Port) (v : Word) (s : State) {w} (hw : s.fuse = w) : Fx w (execEvrCursor p v s) := by unfold execEvrCursor; grind [regWrite_fuse, startFetch_fuse, foldl_fuse, Fx]
theorem endFetch_fuse (s : State) (p : Port) (result : Nat) (data : List Byte) : (endFetch s p result data).fuse = s.fuse := by simp [endFetch, modPort_fuse, apply_ite State.fuse]
theorem badPage_fuse (s : State) (p : Port) (pos : Nat) : (badPage s p pos).fuse = s.fuse := by simp [badPage, endFetch_fuse, apply_ite State.fuse]
theorem execEvrFetchDone_fuse (f : RecFetch) (s : State) {w} (hw : s.fuse = w) : Fx w (execEvrFetchDone f s) := by unfold execEvrFetchDone; grind [endFetch_fuse, badPage_fuse, foldl_fuse, Fx]
theorem execEvrData7Read_fuse (p : Port) (s : State) {w} (hw : s.fuse = w) : Fx w (execEvrData7Read p s) := by simp [execEvrData7Read, hw, hostAccess_fuse, emit_fuse, startFetch_fuse, Fx_next, Fx_ite]
theorem programEmerg_fuse (s : State) (order : List Nat) : (programEmerg s order).fuse = s.fuse := by unfold programEmerg; grind [modVer_fuse, foldl_fuse]
theorem takeFlush_fuse (s : State) : (takeFlush s).fuse = s.fuse := by simp [takeFlush, programEmerg_fuse, apply_ite State.fuse]
theorem abandonReads_fuse (s : State) : (abandonReads s).fuse = s.fuse := by rfl
theorem startFlush_fuse (s : State) (why : Nat) : (startFlush s why).fuse = s.fuse := by simp [startFlush, abandonReads_fuse, apply_ite State.fuse]
theorem execPwrfailAssert_fuse (s : State) {w} (hw : s.fuse = w) : Fx w (execPwrfailAssert s) := by simp [execPwrfailAssert, hw, startFlush_fuse, apply_ite State.fuse, Fx_next, Fx_ite]
theorem acceptReached_fuse (s : State) (r : Reached) : (acceptReached s r).fuse = s.fuse := by unfold acceptReached; grind [modVer_fuse, encryptBlock_fuse, foldl_fuse]
theorem execFlushDmaCutoff_fuse (reached : List Reached) (s : State) {w} (hw : s.fuse = w) : Fx w (execFlushDmaCutoff reached s) := by simp [execFlushDmaCutoff, hw, acceptReached_fuse, foldl_fuse, Fx_next, Fx_ite]
theorem endFlush_fuse (s : State) : (endFlush s).fuse = s.fuse := by simp [endFlush, persistAll_fuse, takeFlush_fuse, logEv_fuse]
theorem journalDone_fuse (s : State) : (journalDone s).fuse = s.fuse := by simp [journalDone, genCompl_fuse, foldl_fuse, apply_ite State.fuse]
theorem execCheckpoint_fuse (s : State) {w} (hw : s.fuse = w) : Fx w (execCheckpoint s) := by simp [execCheckpoint, hw, Fx_next, Fx_ite]
theorem execZoneTableWriteback_fuse (lines : Nat) (s : State) {w} (hw : s.fuse = w) : Fx w (execZoneTableWriteback lines s) := by simp [execZoneTableWriteback, hw, Fx_next, Fx_ite]
theorem modSens_fuse (s : State) (k : Nat) (f : Sens → Sens) : (modSens s k f).fuse = s.fuse := by rfl
theorem setThmEvt_fuse (s : State) (b inst : Nat) : (setThmEvt s b inst).fuse = s.fuse := by simp [setThmEvt, genericEv_fuse, raiseEvt_fuse, apply_ite State.fuse]
theorem thmCnt_fuse (s : State) (k n : Nat) : (thmCnt s k n).fuse = s.fuse := by rfl
theorem breakSensor_fuse (s : State) (k reason : Nat) : (breakSensor s k reason).fuse = s.fuse := by simp [breakSensor, thmCnt_fuse, modSens_fuse, logEv_fuse, apply_ite State.fuse]
theorem convert_fuse (s : State) (k : Nat) (v : Option Int) : (convert s k v).fuse = s.fuse := by unfold convert; grind [modSens_fuse, breakSensor_fuse, foldl_fuse]
theorem derive'_fuse (s : State) : (derive' s).fuse = s.fuse := by simp [derive', setThmEvt_fuse, foldl_fuse, apply_ite State.fuse]
theorem flagChanged_fuse (s : State) (b before : Nat) : (flagChanged s b before).fuse = s.fuse := by simp [flagChanged, wake_fuse, noticePf0_fuse, firePf0_fuse, setThmEvt_fuse]
theorem stepFlag_fuse (s : State) (f : Nat) : (stepFlag s f).fuse = s.fuse := by unfold stepFlag; grind [flagChanged_fuse, foldl_fuse]
theorem thermalStopped_fuse (s : State) : (thermalStopped s).fuse = s.fuse := by simp [thermalStopped, logEv_fuse]
theorem beginShutdown_fuse (s : State) : (beginShutdown s).fuse = s.fuse := by simp [beginShutdown, flagChanged_fuse, refuseQueued_fuse, thermalStopped_fuse, foldl_fuse, apply_ite State.fuse]
theorem stepChannels_fuse (s : State) : (stepChannels s).fuse = s.fuse := by simp [stepChannels, modChan_fuse, thmCnt_fuse, foldl_fuse, apply_ite State.fuse]
theorem stepShutter_fuse (s : State) : (stepShutter s).fuse = s.fuse := by simp [stepShutter, thmCnt_fuse, apply_ite State.fuse]
theorem execThermalControlPeriod_fuse (conv : List (Option Int)) (s : State) {w} (hw : s.fuse = w) : Fx w (execThermalControlPeriod conv s) := by
  unfold execThermalControlPeriod
  split
  · simp [Fx_next, hw]
  · simp only [hw, stepChannels_fuse, stepShutter_fuse, stepFlag_fuse, beginShutdown_fuse, convert_fuse, breakSensor_fuse, derive'_fuse, foldl_fuse,
      apply_ite State.fuse, Fx_next, implies_true, ite_self]
theorem execSensorTimeout_fuse (k : Nat) (s : State) {w} (hw : s.fuse = w) : Fx w (execSensorTimeout k s) := by simp [execSensorTimeout, hw, derive'_fuse, breakSensor_fuse, Fx_next, Fx_ite]
theorem execFlagDwellExpiry_fuse (f : Nat) (s : State) {w} (hw : s.fuse = w) : Fx w (execFlagDwellExpiry f s) := by simp [execFlagDwellExpiry, hw, stepFlag_fuse, Fx_next, Fx_ite]
theorem execShutdownDrainEnd_fuse (reached : List Reached) (s : State) {w} (hw : s.fuse = w) : Fx w (execShutdownDrainEnd reached s) := by simp [execShutdownDrainEnd, hw, startFlush_fuse, acceptReached_fuse, foldl_fuse, Fx_next, Fx_ite]
theorem execSensorExclude_fuse (p : Port) (v : Word) (s : State) {w} (hw : s.fuse = w) : Fx w (execSensorExclude p v s) := by simp [execSensorExclude, hw, regWrite_fuse, modSens_fuse, foldl_fuse, apply_ite State.fuse, Fx_next, Fx_fault, Fx_ite]
theorem execCntClrThm_fuse (p : Port) (s : State) {w} (hw : s.fuse = w) : Fx w (execCntClrThm p s) := by unfold execCntClrThm; grind [regWrite_fuse, foldl_fuse, Fx]
theorem putHlt_fuse (s : State) (f : Hlt → Hlt) : (putHlt s f).fuse = s.fuse := by rfl
theorem devPut_fuse (s : State) (v : Nat) (x0 : Nat) : (devPut s v x0).fuse = s.fuse := by unfold devPut; grind [putHlt_fuse, foldl_fuse]
theorem tenPut_fuse (s : State) (t v id : Nat) : (tenPut s t v id).fuse = s.fuse := by unfold tenPut; grind [modTen_fuse, modTCls_fuse, foldl_fuse]
theorem putAll_fuse (put : State → Nat → Nat → State) (ids vals : List Nat) (s : State) (hput : ∀ u y1 y2, (put u y1 y2).fuse = u.fuse) : (putAll put ids vals s).fuse = s.fuse := by
  unfold putAll
  (repeat' split) <;> grind [foldl_fuse]
theorem restoreCfg_fuse (s : State) : (restoreCfg s).fuse = s.fuse := by unfold restoreCfg; grind [putAll_fuse, devPut_fuse, tenPut_fuse, foldl_fuse]
theorem resetKept_fuse (s : State) : (resetKept s).fuse = s.fuse := by rfl
theorem powerOff_fuse (s : State) : (powerOff s).fuse = s.fuse := by simp [powerOff, resetKept_fuse, restoreCfg_fuse, apply_ite State.fuse]
theorem warmReset_fuse (s : State) (cause : Nat) : (warmReset s cause).fuse = s.fuse := by rfl
theorem beginWarm_fuse (s : State) (cause : Nat) : (beginWarm s cause).fuse = s.fuse := by simp [beginWarm, warmReset_fuse, apply_ite State.fuse]
theorem execWarm_fuse (p : Port) (v : Word) (s : State) {w} (hw : s.fuse = w) : Fx w (execWarm p v s) := by simp [execWarm, hw, hostAccess_fuse, warmReset_fuse, setThmEvt_fuse, beginWarm_fuse, Fx_next, Fx_fault, Fx_ite]
theorem execQuiesceTimeout_fuse (reached : List Reached) (s : State) {w} (hw : s.fuse = w) : Fx w (execQuiesceTimeout reached s) := by simp [execQuiesceTimeout, hw, acceptReached_fuse, startFlush_fuse, foldl_fuse, Fx_next, Fx_ite]
theorem execFlushEnd_fuse (s : State) {w} (hw : s.fuse = w) : Fx w (execFlushEnd s) := by simp [execFlushEnd, hw, endFlush_fuse, warmReset_fuse, thermalStopped_fuse, Fx_next, Fx_ite]
theorem execPwrfailHighTimeout_fuse (s : State) {w} (hw : s.fuse = w) : Fx w (execPwrfailHighTimeout s) := by simp [execPwrfailHighTimeout, hw, warmReset_fuse, Fx_next, Fx_ite]
theorem execFwActivateResetTimeout_fuse (s : State) {w} (hw : s.fuse = w) : Fx w (execFwActivateResetTimeout s) := by simp [execFwActivateResetTimeout, hw, beginWarm_fuse, Fx_next, Fx_ite]
theorem setCkmEvt_fuse (s : State) (b inst : Nat) : (setCkmEvt s b inst).fuse = s.fuse := by simp [setCkmEvt, genericEv_fuse, raiseEvt_fuse, apply_ite State.fuse]
theorem setCore_fuse (s : State) (r : Port) : (setCore s r).fuse = s.fuse := by simp [setCore, startPll_fuse, modPll_fuse, foldl_fuse, apply_ite State.fuse]
theorem switchCore_fuse (s : State) (r : Port) : (switchCore s r).fuse = s.fuse := by simp [switchCore, setCkmEvt_fuse, setCore_fuse]
theorem selectRef_fuse (s : State) (r : Port) : (selectRef s r).fuse = s.fuse := by simp [selectRef, modRef_fuse, setCkmEvt_fuse, startPll_fuse, setCore_fuse, switchCore_fuse, wake_fuse, apply_ite State.fuse]
theorem deselect_fuse (s : State) (r : Port) (st : Nat) : (deselect s r st).fuse = s.fuse := by simp [deselect, modRef_fuse, firePf0_fuse, setCkmEvt_fuse, modPort_fuse, modPll_fuse, switchCore_fuse, wake_fuse, apply_ite State.fuse]
theorem execRefclkMissing_fuse (r : Port) (s : State) {w} (hw : s.fuse = w) : Fx w (execRefclkMissing r s) := by simp [execRefclkMissing, hw, deselect_fuse, modRef_fuse, Fx_next, Fx_ite]
theorem judgePlls_fuse (s : State) : (judgePlls s).fuse = s.fuse := by simp [judgePlls, modPll_fuse, foldl_fuse, apply_ite State.fuse]
theorem passCmp_fuse (s : State) : (passCmp s).fuse = s.fuse := by simp [passCmp, modRef_fuse, selectRef_fuse, judgePlls_fuse, apply_ite State.fuse]
theorem failCmp_fuse (s : State) (lockA lockB : Bool) : (failCmp s lockA lockB).fuse = s.fuse := by simp [failCmp, modRef_fuse, deselect_fuse, apply_ite State.fuse]
theorem restart_fuse (s : State) : (restart s).fuse = s.fuse := by simp [restart, warmReset_fuse, setCkmEvt_fuse, apply_ite State.fuse]
theorem execRefclkComparison_fuse (countA countB : Nat) (lockA lockB : Bool) (s : State) {w} (hw : s.fuse = w) : Fx w (execRefclkComparison countA countB lockA lockB s) := by simp [execRefclkComparison, hw, modRef_fuse, restart_fuse, passCmp_fuse, failCmp_fuse, Fx_next, Fx_ite]
theorem execRefclkEdgesReturn_fuse (r : Port) (s : State) {w} (hw : s.fuse = w) : Fx w (execRefclkEdgesReturn r s) := by simp [execRefclkEdgesReturn, hw, modRef_fuse, Fx_next, Fx_ite]
theorem execSingleReferenceBoot_fuse (s : State) {w} (hw : s.fuse = w) : Fx w (execSingleReferenceBoot s) := by simp [execSingleReferenceBoot, hw, setCore_fuse, startPll_fuse, modPll_fuse, setCkmEvt_fuse, foldl_fuse, apply_ite State.fuse, Fx_next, Fx_ite]
theorem execBothReferencesLost_fuse (s : State) {w} (hw : s.fuse = w) : Fx w (execBothReferencesLost s) := by simp [execBothReferencesLost, hw, resetKept_fuse, Fx_next, Fx_ite]
theorem skimAfresh_fuse (s : State) (q : Nat) : (skimAfresh s q).fuse = s.fuse := by rfl
theorem beginQuad_fuse (s : State) (q : Nat) : (beginQuad s q).fuse = s.fuse := by simp [beginQuad, recompute_fuse, skimAfresh_fuse]
theorem execPllFault_fuse (p : Nat) (reached : List Reached) (s : State) {w} (hw : s.fuse = w) : Fx w (execPllFault p reached s) := by simp [execPllFault, hw, modPll_fuse, wake_fuse, setCkmEvt_fuse, losePort_fuse, beginQuad_fuse, warmReset_fuse, Fx_next, Fx_ite]
theorem gateOn_fuse (x0 : Nat) (s : State) (x1 : Nat) : (gateOn x0 s x1).fuse = s.fuse := by
  induction x0 generalizing s x1 with
  | zero => rfl
  | succ n ih => unfold gateOn; dsimp only; (repeat' split) <;> simp [ih]
theorem gateRefuse_fuse (s : State) (reason : Nat) : (gateRefuse s reason).fuse = s.fuse := by rfl
theorem writeClkgReq_fuse (p : Port) (v : Word) (s : State) {w} (hw : s.fuse = w) : Fx w (writeClkgReq p v s) := by simp [writeClkgReq, hw, regWriteBy_fuse, gateRefuse_fuse, gateOn_fuse, Fx_next, Fx_fault, Fx_ite]
theorem execClockGateOn_fuse (p : Port) (v : Word) (s : State) {w} (hw : s.fuse = w) : Fx w (execClockGateOn p v s) := by simp [execClockGateOn, hw, writeClkgReq_fuse]
theorem execClockGateOff_fuse (p : Port) (v : Word) (s : State) {w} (hw : s.fuse = w) : Fx w (execClockGateOff p v s) := by simp [execClockGateOff, hw, writeClkgReq_fuse]
theorem execP1Entry_fuse (q : Nat) (s : State) {w} (hw : s.fuse = w) : Fx w (execP1Entry q s) := by simp [execP1Entry, hw, Fx_next, Fx_ite]
theorem execP2Entry_fuse (s : State) {w} (hw : s.fuse = w) : Fx w (execP2Entry s) := by simp [execP2Entry, hw, Fx_next, Fx_ite]
theorem execP3Entry_fuse (s : State) {w} (hw : s.fuse = w) : Fx w (execP3Entry s) := by simp [execP3Entry, hw, persistAll_fuse, Fx_next, Fx_ite]
theorem relock_fuse (s : State) (ps : List Nat) : (relock s ps).fuse = s.fuse := by unfold relock; grind [modPll_fuse, foldl_fuse]
theorem execWakeComplete_fuse (cause us : Nat) (s : State) {w} (hw : s.fuse = w) : Fx w (execWakeComplete cause us s) := by simp [execWakeComplete, hw, relock_fuse, Fx_next, Fx_fault, Fx_ite]
theorem execMaxState_fuse (p : Port) (v : Word) (s : State) {w} (hw : s.fuse = w) : Fx w (execMaxState p v s) := by simp [execMaxState, hw, regWriteBy_fuse, Fx_next, Fx_fault, Fx_ite]
theorem mapQuadLuns_fuse (s : State) (q : Nat) (f : Lun → Lun) : (mapQuadLuns s q f).fuse = s.fuse := by rfl
theorem suspendErases_fuse (s : State) (q : Nat) : (suspendErases s q).fuse = s.fuse := by rfl
theorem execQuadrantResetBegin_fuse (q : Nat) (s : State) {w} (hw : s.fuse = w) : Fx w (execQuadrantResetBegin q s) := by simp [execQuadrantResetBegin, hw, suspendErases_fuse, beginQuad_fuse, Fx_next, Fx_ite]
theorem quadReply_fuse (s : State) (q result : Nat) (vals : List Nat) : (quadReply s q result vals).fuse = s.fuse := by unfold quadReply; grind [finishReq_fuse, foldl_fuse]
theorem endQuad_fuse (s : State) (q us state result sev : Nat) : (endQuad s q us state result sev).fuse = s.fuse := by simp [endQuad, logEv_fuse]
theorem execQuadrantResetDone_fuse (q : Nat) (took : QuadDone) (s : State) {w} (hw : s.fuse = w) : Fx w (execQuadrantResetDone q took s) := by simp [execQuadrantResetDone, hw, endQuad_fuse, modPll_fuse, trainLink_fuse, quadReply_fuse, recompute_fuse, Fx_next, Fx_fault, Fx_ite]
theorem dropReads_fuse (s : State) (q : Nat) (f : Rd → Bool) : (dropReads s q f).fuse = s.fuse := by rfl
theorem execQuadrantResetFail_fuse (q us : Nat) (s : State) {w} (hw : s.fuse = w) : Fx w (execQuadrantResetFail q us s) := by simp [execQuadrantResetFail, hw, endQuad_fuse, loseReader_fuse, dropReads_fuse, quadReply_fuse, completeFua_fuse, recompute_fuse, foldl_fuse, Fx_next, Fx_ite]
theorem execLiveActivationDone_fuse (ms : Nat) (s : State) {w} (hw : s.fuse = w) : Fx w (execLiveActivationDone ms s) := by unfold execLiveActivationDone; grind [endActivation_fuse, noticePf0_fuse, finishReq_fuse, foldl_fuse, Fx]
theorem execLiveActivationRevert_fuse (ms : Nat) (s : State) {w} (hw : s.fuse = w) : Fx w (execLiveActivationRevert ms s) := by unfold execLiveActivationRevert; grind [endActivation_fuse, noticePf0_fuse, logEv_fuse, finishReq_fuse, foldl_fuse, Fx]
theorem resettle_fuse (s : State) (v : Nat) : (resettle s v).fuse = s.fuse := by
  have hx : ∀ (x : Nat) (a : Option Nat) (b c : Nat) (r : State × Nat), newExt s x a b c = some r → r.1.fuse = s.fuse :=
    fun x a b c r => newExt_fuse s x a b c r
  unfold resettle
  dsimp only
  split
  · rw [modVer_fuse, popBufs_fuse]
  · rename_i u e h
    rw [modVer_fuse, modExt_fuse]
    grind
theorem sealExts_fuse (s : State) : (sealExts s).fuse = s.fuse := by simp [sealExts, modExt_fuse, foldl_fuse, apply_ite State.fuse]
theorem settleExts_fuse (s : State) (kept : List Nat) : (settleExts s kept).fuse = s.fuse := by simp [settleExts, modExt_fuse, releaseExt_fuse, foldl_fuse, apply_ite State.fuse]
theorem fillTimes_fuse (s : State) : (fillTimes s).fuse = s.fuse := by rfl
theorem discover_fuse (s : State) : (discover s).fuse = s.fuse := by rfl
theorem eraseAgain_fuse (s : State) (b : Nat) : (eraseAgain s b).fuse = s.fuse := by rfl
theorem noteOffline_fuse (s : State) (key : Nat) : (noteOffline s key).fuse = s.fuse := by simp [noteOffline, noticeTenant_fuse, logEv_fuse]
theorem settleMoves_fuse (s : State) : (settleMoves s).fuse = s.fuse := by unfold settleMoves; grind [modBlk_fuse, queueEr_fuse, foldl_fuse]
theorem recover_fuse (s : State) (m : MediaFinding) : (recover s m).fuse = s.fuse := by unfold recover; grind [discover_fuse, programEmerg_fuse, setPlpEvt_fuse, eraseAgain_fuse, settleMoves_fuse, settleExts_fuse, resettle_fuse, sealExts_fuse, queueEr_fuse, noteOffline_fuse, mcnt_fuse, foldl_fuse]
theorem retireFactory_fuse (s : State) (b : Nat) : (retireFactory s b).fuse = s.fuse := by unfold retireFactory; grind [mcnt_fuse, modBlk_fuse, foldl_fuse]
theorem format_fuse (s : State) (m : MediaFinding) : (format s m).fuse = s.fuse := by unfold format; grind [retireFactory_fuse, mcnt_fuse, discover_fuse, foldl_fuse]
theorem loadCaps_fuse (s : State) : (loadCaps s).fuse = s.fuse := by rfl
theorem finishMedia_fuse (s : State) : (finishMedia s).fuse = s.fuse := by simp [finishMedia, endSan_fuse, recompute_fuse, loadCaps_fuse]
theorem commitTrs_fuse (s : State) (p : Port) (fn k : Nat) (l : List (Nat × Byte)) : (commitTrs s p fn k l).fuse = s.fuse := by simp [commitTrs, modCas_fuse, apply_ite State.fuse]
theorem captureOne_fuse (s : State) (p : Port) (fn : Nat) : (captureOne s p fn).fuse = s.fuse := by simp [captureOne, modCas_fuse, modTen_fuse]
theorem captureAll_fuse (p : Port) (fn : Nat) (x0 : Nat) (s : State) {w} (hw : s.fuse = w) : Fx w (captureAll p fn x0 s) := by
  induction x0 generalizing s with
  | zero => exact hw
  | succ n ih =>
    unfold captureAll
    dsimp only
    (repeat' split) <;> simp_all [Fx_next, Fx_fault, captureOne_fuse]
theorem writeTrs_fuse (p : Port) (fn off : Nat) (bytes : List (Option Byte)) (s : State) {w} (hw : s.fuse = w) : Fx w (writeTrs p fn off bytes s) := by unfold writeTrs; grind [hostAccess_fuse, modCas_fuse, captureAll_fuse, commitTrs_fuse, foldl_fuse, Fx]
theorem execTrsWrite_fuse (p : Port) (fn off : Nat) (bytes : List (Option Byte)) (s : State) {w} (hw : s.fuse = w) : Fx w (execTrsWrite p fn off bytes s) := by simp [execTrsWrite, hw, writeTrs_fuse]
theorem execTrsCommit_fuse (p : Port) (fn off : Nat) (bytes : List (Option Byte)) (s : State) {w} (hw : s.fuse = w) : Fx w (execTrsCommit p fn off bytes s) := by simp [execTrsCommit, hw, writeTrs_fuse]
theorem resetCas_fuse (s : State) (p : Port) (fn : Nat) : (resetCas s p fn).fuse = s.fuse := by simp [resetCas, modCas_fuse]
theorem setBootEvt_fuse (s : State) (b inst : Nat) : (setBootEvt s b inst).fuse = s.fuse := by simp [setBootEvt, genericEv_fuse, raiseEvt_fuse, apply_ite State.fuse]
theorem freeLocks_fuse (s : State) : (freeLocks s).fuse = s.fuse := by unfold freeLocks; grind [modMbx_fuse, foldl_fuse]
theorem stopBoot_fuse (s : State) (code : Nat) : (stopBoot s code).fuse = s.fuse := by simp [stopBoot, freeLocks_fuse]
theorem toPhase_fuse (s : State) (p : Nat) : (toPhase s p).fuse = s.fuse := by rfl
theorem enterRead_fuse (s : State) : (enterRead s).fuse = s.fuse := by rfl
theorem showSlot_fuse (s : State) (d result : Nat) : (showSlot s d result).fuse = s.fuse := by rfl
theorem showOther_fuse (s : State) (d : Nat) : (showOther s d).fuse = s.fuse := by rfl
theorem failCandidate_fuse (s : State) (d code : Nat) : (failCandidate s d code).fuse = s.fuse := by unfold failCandidate; grind [showSlot_fuse, setBootEvt_fuse, enterRead_fuse, stopBoot_fuse, foldl_fuse]
theorem execBootCandidateFail_fuse (code : Nat) (s : State) {w} (hw : s.fuse = w) : Fx w (execBootCandidateFail code s) := by unfold execBootCandidateFail; grind [failCandidate_fuse, foldl_fuse, Fx]
theorem execPowerOn_fuse (s : State) {w} (hw : s.fuse = w) : Fx w (execPowerOn s) := by simp [execPowerOn, hw, Fx_next, Fx_ite]
theorem execBootPwrfailRelease_fuse (s : State) {w} (hw : s.fuse = w) : Fx w (execBootPwrfailRelease s) := by simp [execBootPwrfailRelease, hw, Fx_next, Fx_ite]
theorem missChan_fuse (s : State) (ch : Nat) : (missChan s ch).fuse = s.fuse := by simp [missChan, logEv_fuse, apply_ite State.fuse]
theorem trainChan_fuse (dev : Option Geom) (s : State) (c : ChanFound) : (trainChan dev s c).fuse = s.fuse := by simp [trainChan, modChan_fuse, setFchEvt_fuse, missChan_fuse, apply_ite State.fuse]
theorem trainAll_fuse (s : State) (cs : List ChanFound) : (trainAll s cs).fuse = s.fuse := by simp [trainAll, trainChan_fuse, foldl_fuse]
theorem buildPool_fuse (s : State) : (buildPool s).fuse = s.fuse := by rfl
theorem phase8_fuse (s : State) (m : MediaFinding) : (phase8 s m).fuse = s.fuse := by
  unfold phase8
  (repeat' split) <;> simp [stopBoot_fuse, toPhase_fuse, finishMedia_fuse, format_fuse, recover_fuse]
theorem finding_fuse (s : State) (code : Nat) : (finding s code).fuse = s.fuse := by simp [finding, toPhase_fuse, stopBoot_fuse, apply_ite State.fuse]
theorem phaseDone_fuse (s : State) : (phaseDone s).fuse = s.fuse := by unfold phaseDone; grind [toPhase_fuse, enterRead_fuse, showOther_fuse, showSlot_fuse, buildPool_fuse, foldl_fuse]
theorem fusesRead_fuse (s : State) (bad : Nat) (huk : Bool) : (fusesRead s bad huk).fuse = s.fuse := by rfl
theorem flashFound_fuse (s : State) (absent : List Nat) : (flashFound s absent).fuse = s.fuse := by rfl
theorem addTime_fuse (s : State) (p us : Nat) : (addTime s p us).fuse = s.fuse := by rfl
theorem trainLinks_fuse (s : State) (bad : List Nat) : (trainLinks s bad).fuse = s.fuse := by unfold trainLinks; grind [trainLink_fuse, foldl_fuse]
theorem execBootPhaseDone_fuse (us : Nat) (r : PhaseResult) (s : State) {w} (hw : s.fuse = w) : Fx w (execBootPhaseDone us r s) := by unfold execBootPhaseDone; grind [phaseDone_fuse, trainLinks_fuse, fusesRead_fuse, flashFound_fuse, finding_fuse, trainAll_fuse, toPhase_fuse, stopBoot_fuse, phase8_fuse, addTime_fuse, foldl_fuse, Fx]
theorem captureHeld_fuse (x0 : List (Port × Nat × Nat)) (s : State) {w} (hw : s.fuse = w) : Fx w (captureHeld x0 s) := by
  induction x0 generalizing s with
  | nil => exact hw
  | cons e t ih =>
    obtain ⟨p, fn, k⟩ := e
    unfold captureHeld
    dsimp only
    generalize hu : (if hasTenant s fn then modCas s p fn fun c => { c with valid := c.valid ++ [k] } else s) = u
    have hw' : u.fuse = w := by rw [← hu]; split <;> simp [modCas_fuse, hw]
    have h := captureAll_fuse p fn 16 u hw'
    split
    · rename_i u hu; rw [hu] at h; exact ih _ h
    · exact h
theorem liftHeld_fuse (s : State) : (liftHeld s).fuse = s.fuse := by unfold liftHeld; grind [modCas_fuse, foldl_fuse]
theorem dropOrphans_fuse (s : State) (p : Port) : (dropOrphans s p).fuse = s.fuse := by simp [dropOrphans, modCas_fuse, foldl_fuse, apply_ite State.fuse]
theorem execBootReady_fuse (s : State) {w} (hw : s.fuse = w) : Fx w (execBootReady s) := by simp [execBootReady, hw, logEv_fuse, freeLocks_fuse, dropOrphans_fuse, captureHeld_fuse, liftHeld_fuse, Fx_next, Fx_fault, Fx_ite]
theorem execBootFlashRead_fuse (p : Port) (s : State) {w} (hw : s.fuse = w) : Fx w (execBootFlashRead p s) := by unfold execBootFlashRead; grind [regWrite_fuse, foldl_fuse, Fx]
theorem askReloc_fuse (s : State) (b : Nat) (why : RelWhy) : (askReloc s b why).fuse = s.fuse := by unfold askReloc; grind [modReloc_fuse, newId_fuse, foldl_fuse]
theorem setHltBit_fuse (s : State) (b : Nat) : (setHltBit s b).fuse = s.fuse := by simp [setHltBit, firePf0_fuse, apply_ite State.fuse]
theorem checkReadOnly_fuse (s : State) : (checkReadOnly s).fuse = s.fuse := by simp [checkReadOnly, genericEv_fuse, firePf0_fuse, noticePf0_fuse, noticeTenant_fuse, foldl_fuse, apply_ite State.fuse]
theorem loseSpares_fuse (s : State) (g n : Nat) : (loseSpares s g n).fuse = s.fuse := by simp [loseSpares, setHltEvt_fuse, checkReadOnly_fuse, apply_ite State.fuse]
theorem fillRole_fuse (s : State) (c : Nat) (r : Role) : (fillRole s c r).fuse = s.fuse := by unfold fillRole; grind [loseSpares_fuse, modBlk_fuse, foldl_fuse]
theorem fillWaiting_fuse (s : State) (f : Nat → Bool) : (fillWaiting s f).fuse = s.fuse := by unfold fillWaiting; grind [fillRole_fuse, foldl_fuse]
theorem askRole_fuse (s : State) (c : Nat) (r : Role) : (askRole s c r).fuse = s.fuse := by rfl
theorem execJournalPageProgram_fuse (pass : Bool) (s : State) {w} (hw : s.fuse = w) : Fx w (execJournalPageProgram pass s) := by simp [execJournalPageProgram, hw, fillWaiting_fuse, journalDone_fuse, Fx_next, Fx_fault, Fx_ite]
theorem retireAs_fuse (s : State) (b reason : Nat) (r : Role) : (retireAs s b reason r).fuse = s.fuse := by simp [retireAs, modBlk_fuse, mcnt_fuse, logEv_fuse, loseSpares_fuse, checkReadOnly_fuse, askRole_fuse, stageRec_fuse, apply_ite State.fuse]
theorem retireBlk_fuse (s : State) (b reason : Nat) : (retireBlk s b reason).fuse = s.fuse := by simp [retireBlk, retireAs_fuse, apply_ite State.fuse]
theorem condemn_fuse (s : State) (b reason : Nat) : (condemn s b reason).fuse = s.fuse := by simp [condemn, modBlk_fuse, askReloc_fuse, retireBlk_fuse, apply_ite State.fuse]
theorem releaseBlk_fuse (s : State) (b : Nat) : (releaseBlk s b).fuse = s.fuse := by simp [releaseBlk, retireAs_fuse, modBlk_fuse, queueEr_fuse, apply_ite State.fuse]
theorem toTopcoat_fuse (s : State) (v : Nat) (l : Loc) : (toTopcoat s v l).fuse = s.fuse := by simp [toTopcoat, freeVer_fuse, modVer_fuse]
theorem releaseMoved_fuse (s : State) (mib : Nat) (es : List Nat) : (releaseMoved s mib es).fuse = s.fuse := by simp [releaseMoved, mcnt_fuse, releaseExt_fuse, foldl_fuse, apply_ite State.fuse]
theorem foldDone_fuse (s : State) (id : Nat) : (foldDone s id).fuse = s.fuse := by simp [foldDone, toTopcoat_fuse, pushBufs_fuse, completeFua_fuse, releaseMoved_fuse, foldl_fuse, apply_ite State.fuse]
theorem checkFold_fuse (s : State) (id : Nat) : (checkFold s id).fuse = s.fuse := by simp [checkFold, foldDone_fuse, apply_ite State.fuse]
theorem checkFolds_fuse (s : State) (t z : Nat) : (checkFolds s t z).fuse = s.fuse := by simp [checkFolds, checkFold_fuse, foldl_fuse]
theorem unrecSec_fuse (s : State) (r : Rd) (q : SecReq) : (unrecSec s r q).fuse = s.fuse := by simp [unrecSec, logEv_fuse, setHltBit_fuse, mcnt_fuse, condemn_fuse, modVer_fuse]
theorem poisonSec_fuse (s : State) (blk page : Nat) (q : SecReq) : (poisonSec s blk page q).fuse = s.fuse := by simp [poisonSec, logEv_fuse, mcnt_fuse, modVer_fuse, apply_ite State.fuse]
theorem useCipher_fuse (s : State) : (useCipher s).fuse = s.fuse := by simp [useCipher, popBufs_fuse, pushBufs_fuse]
theorem blockDone_fuse (s : State) (t seq v : Nat) (authBad : Bool) : (blockDone s t seq v authBad).fuse = s.fuse := by unfold blockDone; grind [failBlock_fuse, modCmd_fuse, authFail_fuse, gotBlock_fuse, decryptBlock_fuse, foldl_fuse]
theorem cmdSec_fuse (s : State) (t seq : Nat) (r : Rd) (q : SecReq) (tier : Nat) (ok authBad : Bool) : (cmdSec s t seq r q tier ok authBad).fuse = s.fuse := by unfold cmdSec; grind [modCmd_fuse, finishReader_fuse, blockDone_fuse, sweepVers_fuse, foldl_fuse]
theorem keyBack_fuse (s : State) (c : Cmd) : (keyBack s c).fuse = s.fuse := by unfold keyBack; grind [modCmd_fuse, sweepVers_fuse, finishReader_fuse, blockDone_fuse, foldl_fuse]
theorem backOff_fuse (s : State) (k id : Nat) : (backOff s k id).fuse = s.fuse := by rfl
theorem foldReads_fuse (s : State) (id : Nat) : (foldReads s id).fuse = s.fuse := by simp [foldReads, modFold_fuse, queueRd_fuse, pumpFolds_fuse, foldl_fuse, apply_ite State.fuse]
theorem beginFold_fuse (s : State) (id : Nat) : (beginFold s id).fuse = s.fuse := by simp [beginFold, popBufs_fuse, foldReads_fuse, modFold_fuse, backOff_fuse, apply_ite State.fuse]
theorem refold_fuse (s : State) (id m : Nat) : (refold s id m).fuse = s.fuse := by simp [refold, modFold_fuse, pumpFolds_fuse, beginFold_fuse, apply_ite State.fuse]
theorem foldSec_fuse (s : State) (id : Nat) (r : Rd) (q : SecReq) (ok : Bool) : (foldSec s id r q ok).fuse = s.fuse := by simp [foldSec, poisonSec_fuse, modFold_fuse, pumpFolds_fuse, apply_ite State.fuse]
theorem relIssued_fuse (s : State) (id : Nat) (x : Reloc) (b : Nat) : (relIssued s id x b).fuse = s.fuse := by unfold relIssued; grind [queueQlc_fuse, pumpFolds_fuse, refold_fuse, foldl_fuse]
theorem relPrograms_fuse (s : State) (id : Nat) : (relPrograms s id).fuse = s.fuse := by unfold relPrograms; grind [modReloc_fuse, queueQlc_fuse, queuePg_fuse, relIssued_fuse, foldl_fuse]
theorem relSec_fuse (s : State) (id : Nat) (r : Rd) (q : SecReq) (ok : Bool) : (relSec s id r q ok).fuse = s.fuse := by simp [relSec, poisonSec_fuse, modReloc_fuse, relPrograms_fuse, apply_ite State.fuse]
theorem secEnd_fuse (s : State) (r : Rd) (q : SecReq) (tier : Nat) (ok authBad : Bool) : (secEnd s r q tier ok authBad).fuse = s.fuse := by unfold secEnd; grind [askReloc_fuse, newId_fuse, backOff_fuse, useCipher_fuse, cmdSec_fuse, foldSec_fuse, relSec_fuse, foldl_fuse]
theorem loseSec_fuse (s : State) (r : Rd) (q : SecReq) : (loseSec s r q).fuse = s.fuse := by simp [loseSec, secEnd_fuse, unrecSec_fuse, apply_ite State.fuse]
theorem rebuilt_fuse (s : State) (r : Rd) (q : SecReq) (authBad : Bool) : (rebuilt s r q authBad).fuse = s.fuse := by simp [rebuilt, loseSec_fuse, mcnt_fuse, secEnd_fuse, apply_ite State.fuse]
theorem readMoved_fuse (s : State) (r : Rd) (q : SecReq) : (readMoved s r q).fuse = s.fuse := by unfold readMoved; grind [secEnd_fuse, loseSec_fuse, queueRd_fuse, foldl_fuse]
theorem startRebuild_fuse (s : State) (r : Rd) (q : SecReq) : (startRebuild s r q).fuse = s.fuse := by unfold startRebuild; grind [readMoved_fuse, loseSec_fuse, rebuilt_fuse, newId_fuse, queueRd_fuse, foldl_fuse]
theorem dropDeep_fuse (s : State) (id : Nat) : (dropDeep s id).fuse = s.fuse := by rfl
theorem rebuildMember_fuse (s : State) (id : Nat) (ok authBad : Bool) : (rebuildMember s id ok authBad).fuse = s.fuse := by unfold rebuildMember; grind [loseSec_fuse, dropDeep_fuse, rebuilt_fuse, foldl_fuse]
theorem sendRebuild_fuse (s : State) (r : Rd) : (sendRebuild s r).fuse = s.fuse := by unfold sendRebuild; grind [rebuildMember_fuse, startRebuild_fuse, foldl_fuse]
theorem readPage_fuse (s : State) (why : Why) (order blk page : Nat) (qlc : Bool) (secs : List SecReq) : (readPage s why order blk page qlc secs).fuse = s.fuse := by simp [readPage, sendRebuild_fuse, queueRd_fuse, apply_ite State.fuse]
theorem stepReloc_fuse (s : State) (id : Nat) : (stepReloc s id).fuse = s.fuse := by simp [stepReloc, popBufs_fuse, modReloc_fuse, relPrograms_fuse, readPage_fuse, backOff_fuse, foldl_fuse, apply_ite State.fuse]
theorem closeSet_fuse (s : State) (i : Nat) : (closeSet s i).fuse = s.fuse := by rfl
theorem passPiece_fuse (s : State) (e i : Nat) : (passPiece s e i).fuse = s.fuse := by simp [passPiece, modExt_fuse, pushBufs_fuse, apply_ite State.fuse]
theorem failPiece_fuse (s : State) (e i : Nat) : (failPiece s e i).fuse = s.fuse := by unfold failPiece; grind [modExt_fuse, passPiece_fuse, placeUc_fuse, modVer_fuse, forceVer_fuse, issueIfFull_fuse, foldl_fuse]
theorem leavePieces_fuse (s : State) (b : Nat) : (leavePieces s b).fuse = s.fuse := by unfold leavePieces; grind [dropPrograms_fuse, closeSet_fuse, failPiece_fuse, foldl_fuse]
theorem takeReserve_fuse (s : State) (b : Nat) (r : Role) (oneBit : Bool) : (takeReserve s b r oneBit).fuse = s.fuse := by simp [takeReserve, allocBlk_fuse, apply_ite State.fuse]
theorem startPlain_fuse (s : State) (id : Nat) (x : Reloc) : (startPlain s id x).fuse = s.fuse := by unfold startPlain; grind [leavePieces_fuse, dropPrograms_fuse, takeReserve_fuse, modReloc_fuse, relIssued_fuse, stepReloc_fuse, foldl_fuse]
theorem startLogical_fuse (s : State) (id : Nat) (x : Reloc) (t q : Nat) : (startLogical s id x t q).fuse = s.fuse := by unfold startLogical; grind [modReloc_fuse, stepReloc_fuse, takeReserve_fuse, foldl_fuse]
theorem startReloc_fuse (s : State) (id : Nat) : (startReloc s id).fuse = s.fuse := by unfold startReloc; grind [startLogical_fuse, startPlain_fuse, foldl_fuse]
theorem countReloc_fuse (s : State) (x : Reloc) : (countReloc s x).fuse = s.fuse := by unfold countReloc; grind [mcnt_fuse, foldl_fuse]
theorem switchLogical_fuse (s : State) (x : Reloc) (b : Nat) : (switchLogical s x b).fuse = s.fuse := by unfold switchLogical; grind [toTopcoat_fuse, releaseMoved_fuse, releaseBlk_fuse, askReloc_fuse, foldl_fuse]
theorem switchPlain_fuse (s : State) (x : Reloc) (b : Nat) : (switchPlain s x b).fuse = s.fuse := by unfold switchPlain; grind [modZone_fuse, releaseBlk_fuse, checkFolds_fuse, pumpFolds_fuse, foldl_fuse]
theorem checkRebuilds_fuse (s : State) : (checkRebuilds s).fuse = s.fuse := by rfl
theorem checkReloc_fuse (s : State) (id : Nat) : (checkReloc s id).fuse = s.fuse := by unfold checkReloc; grind [countReloc_fuse, pushBufs_fuse, switchLogical_fuse, switchPlain_fuse, completeFua_fuse, checkRebuilds_fuse, foldl_fuse]
theorem retarget_fuse (s : State) (id : Nat) : (retarget s id).fuse = s.fuse := by simp [retarget, pushBufs_fuse, newId_fuse, modReloc_fuse, apply_ite State.fuse]
theorem destinationFailed_fuse (s : State) (b : Nat) : (destinationFailed s b).fuse = s.fuse := by unfold destinationFailed; grind [dropPrograms_fuse, mcnt_fuse, retarget_fuse, condemn_fuse, retireAs_fuse, modBlk_fuse, askReloc_fuse, foldl_fuse]
theorem stirQuad_fuse (s : State) (l : Nat) : (stirQuad s l).fuse = s.fuse := by rfl
theorem countRd_fuse (s : State) (l : Nat) (r : Rd) (stream : Bool) : (countRd s l r stream).fuse = s.fuse := by simp [countRd, chCnt_fuse, apply_ite State.fuse]
theorem startRd_fuse (s : State) (l : Nat) (r : Rd) : (startRd s l r).fuse = s.fuse := by unfold startRd; grind [modLun_fuse, chCnt_fuse, sendRebuild_fuse, enterRd_fuse, countRd_fuse, modCmd_fuse, foldl_fuse]
theorem startWr_fuse (s : State) (l : Nat) (k : OpK) : (startWr s l k).fuse = s.fuse := by unfold startWr; grind [endTokWait_fuse, chCnt_fuse, mcnt_fuse, modLun_fuse, foldl_fuse]
theorem noteTokWait_fuse (s : State) (l : Nat) : (noteTokWait s l).fuse = s.fuse := by simp [noteTokWait, modLun_fuse, apply_ite State.fuse]
theorem leaveBlk_fuse (s : State) (b : Nat) : (leaveBlk s b).fuse = s.fuse := by unfold leaveBlk; grind [leavePieces_fuse, retarget_fuse, askReloc_fuse, foldl_fuse]
theorem moveOff_fuse (s : State) (l : Nat) : (moveOff s l).fuse = s.fuse := by unfold moveOff; grind [modLun_fuse, sendRebuild_fuse, leaveBlk_fuse, foldl_fuse]
theorem execArrayOpStart_fuse (l : Nat) (s : State) {w} (hw : s.fuse = w) : Fx w (execArrayOpStart l s) := by unfold execArrayOpStart; grind [moveOff_fuse, drainOvf_fuse, startRd_fuse, stirQuad_fuse, noteTokWait_fuse, startWr_fuse, foldl_fuse, Fx]
theorem noteIdle_fuse (s : State) (l : Nat) : (noteIdle s l).fuse = s.fuse := by rfl
theorem unpark_fuse (s : State) (l : Nat) : (unpark s l).fuse = s.fuse := by unfold unpark; grind [enterRd_fuse, modLun_fuse, foldl_fuse]
theorem setRd_fuse (s : State) (l : Nat) (r : Option Rd) : (setRd s l r).fuse = s.fuse := by unfold setRd; grind [modLun_fuse, countRd_fuse, unpark_fuse, noteIdle_fuse, foldl_fuse]
theorem passSec_fuse (s : State) (r : Rd) (q : SecReq) (x : SectorRead) (authBad : List Nat) : (passSec s r q x authBad).fuse = s.fuse := by
  unfold passSec
  dsimp only
  (repeat' split) <;> simp [rebuildMember_fuse, mcnt_fuse, secEnd_fuse, unrecSec_fuse, askReloc_fuse]
theorem lrStop_fuse (s : State) (r : Rd) (q : SecReq) : (lrStop s r q).fuse = s.fuse := by simp [lrStop, secEnd_fuse, mcnt_fuse]
theorem execFlashReadDone_fuse (l : Nat) (secs : List SectorRead) (authBad : List Nat) (s : State) {w} (hw : s.fuse = w) : Fx w (execFlashReadDone l secs authBad s) := by unfold execFlashReadDone; grind [tel_fuse, setRd_fuse, newId_fuse, drainOvf_fuse, mcnt_fuse, passSec_fuse, lrStop_fuse, foldl_fuse, Fx]
theorem execSoftDecodeDone_fuse (id : Nat) (ok metaBad : List Bool) (authBad : List Nat) (s : State) {w} (hw : s.fuse = w) : Fx w (execSoftDecodeDone id ok metaBad authBad s) := by unfold execSoftDecodeDone; grind [dropDeep_fuse, mcnt_fuse, rebuildMember_fuse, startRebuild_fuse, secEnd_fuse, unrecSec_fuse, foldl_fuse, Fx]
theorem telProg_fuse (s : State) (k n : Nat) : (telProg s k n).fuse = s.fuse := by rfl
theorem stampBlk_fuse (s : State) (b wl : Nat) : (stampBlk s b wl).fuse = s.fuse := by rfl
theorem extPass_fuse (s : State) (e i : Nat) : (extPass s e i).fuse = s.fuse := by simp [extPass, tel_fuse, telProg_fuse, passPiece_fuse, poisonSec_fuse, freeVer_fuse, modVer_fuse, foldl_fuse, apply_ite State.fuse]
theorem foldBufs_fuse (s : State) (b wl : Nat) : (foldBufs s b wl).fuse = s.fuse := by unfold foldBufs; grind [modFold_fuse, pushBufs_fuse, foldl_fuse]
theorem coarsePass_fuse (s : State) (b wl : Nat) : (coarsePass s b wl).fuse = s.fuse := by rfl
theorem finePass_fuse (s : State) (b wl : Nat) : (finePass s b wl).fuse = s.fuse := by simp [finePass, modBlk_fuse, foldBufs_fuse, queueVerify_fuse, tel_fuse, telProg_fuse, apply_ite State.fuse]
theorem relBufs_fuse (s : State) (id wl : Nat) : (relBufs s id wl).fuse = s.fuse := by simp [relBufs, modReloc_fuse, pushBufs_fuse, apply_ite State.fuse]
theorem pgPass_fuse (s : State) (p : Pg) : (pgPass s p).fuse = s.fuse := by unfold pgPass; grind [modBlk_fuse, stampBlk_fuse, completeFua_fuse, extPass_fuse, coarsePass_fuse, finePass_fuse, queueVerify_fuse, telProg_fuse, relBufs_fuse, stepReloc_fuse, foldl_fuse]
theorem pgFail_fuse (s : State) (p : Pg) : (pgFail s p).fuse = s.fuse := by unfold pgFail; grind [chCnt_fuse, leavePieces_fuse, completeFua_fuse, condemn_fuse, failPiece_fuse, modLun_fuse, modBlk_fuse, destinationFailed_fuse, foldl_fuse]
theorem endOp_fuse (s : State) (l : Nat) : (endOp s l).fuse = s.fuse := by simp [endOp, unpark_fuse, noteIdle_fuse, modLun_fuse, apply_ite State.fuse]
theorem execProgramDone_fuse (l : Nat) (pass : Bool) (s : State) {w} (hw : s.fuse = w) : Fx w (execProgramDone l pass s) := by unfold execProgramDone; grind [endOp_fuse, pgPass_fuse, pgFail_fuse, foldl_fuse, Fx]
theorem execEraseDone_fuse (l : Nat) (pass : Bool) (s : State) {w} (hw : s.fuse = w) : Fx w (execEraseDone l pass s) := by unfold execEraseDone; grind [endOp_fuse, queueRd_fuse, modBlk_fuse, chCnt_fuse, condemn_fuse, foldl_fuse, Fx]
theorem execHalfEraseCheck_fuse (l b : Nat) (zeros : List Nat) (s : State) {w} (hw : s.fuse = w) : Fx w (execHalfEraseCheck l b zeros s) := by unfold execHalfEraseCheck; grind [drainOvf_fuse, setRd_fuse, eraseBlkQ_fuse, mcnt_fuse, modBlk_fuse, fillWaiting_fuse, foldl_fuse, Fx]
theorem execReadyListRefill_fuse (g : Nat) (s : State) {w} (hw : s.fuse = w) : Fx w (execReadyListRefill g s) := by unfold execReadyListRefill; grind [zoneStage_fuse, endBlockWait_fuse, foldl_fuse, Fx]
theorem execProgramSuspend_fuse (l : Nat) (s : State) {w} (hw : s.fuse = w) : Fx w (execProgramSuspend l s) := by unfold execProgramSuspend; grind [modLun_fuse, chCnt_fuse, foldl_fuse, Fx]
theorem execSuspendReady_fuse (l : Nat) (s : State) {w} (hw : s.fuse = w) : Fx w (execSuspendReady l s) := by unfold execSuspendReady; grind [modLun_fuse, foldl_fuse, Fx]
theorem execResume_fuse (l : Nat) (s : State) {w} (hw : s.fuse = w) : Fx w (execResume l s) := by unfold execResume; grind [modLun_fuse, foldl_fuse, Fx]
theorem wlSafe_fuse (s : State) (b wl : Nat) : (wlSafe s b wl).fuse = s.fuse := by unfold wlSafe; grind [modBlk_fuse, checkReloc_fuse, checkFolds_fuse, foldl_fuse]
theorem execWordlineVerifyDone_fuse (l b wl : Nat) (secs : List SectorRead) (s : State) {w} (hw : s.fuse = w) : Fx w (execWordlineVerifyDone l b wl secs s) := by unfold execWordlineVerifyDone; grind [mcnt_fuse, tel_fuse, drainOvf_fuse, setRd_fuse, wlSafe_fuse, destinationFailed_fuse, foldl_fuse, Fx]
theorem execFoldGroupStart_fuse (t z wl : Nat) (s : State) {w} (hw : s.fuse = w) : Fx w (execFoldGroupStart t z wl s) := by simp [execFoldGroupStart, hw, newFold_fuse, beginFold_fuse, startDirect_fuse, apply_ite State.fuse, Fx_next, Fx_ite]
theorem askCleaning_fuse (s : State) (t : Nat) : (askCleaning s t).fuse = s.fuse := by unfold askCleaning; grind [askReloc_fuse, foldl_fuse]
theorem askLost_fuse (s : State) (q : Nat) : (askLost s q).fuse = s.fuse := by unfold askLost; grind [askReloc_fuse, foldl_fuse]
theorem execRelocationStart_fuse (q : Nat) (s : State) {w} (hw : s.fuse = w) : Fx w (execRelocationStart q s) := by unfold execRelocationStart; grind [askCleaning_fuse, askLost_fuse, checkReloc_fuse, startReloc_fuse, newId_fuse, modReloc_fuse, foldl_fuse, Fx]
theorem execInterruptedBlockRepair_fuse (l b : Nat) (s : State) {w} (hw : s.fuse = w) : Fx w (execInterruptedBlockRepair l b s) := by unfold execInterruptedBlockRepair; grind [askReloc_fuse, checkReloc_fuse, startReloc_fuse, foldl_fuse, Fx]
theorem execPartialRowStage_fuse (t z : Nat) (s : State) {w} (hw : s.fuse = w) : Fx w (execPartialRowStage t z s) := by simp [execPartialRowStage, hw, stagePartial_fuse, Fx_next, Fx_ite]
theorem execPatrolVisit_fuse (l b : Nat) (s : State) {w} (hw : s.fuse = w) : Fx w (execPatrolVisit l b s) := by simp [execPatrolVisit, hw, mcnt_fuse, modBlk_fuse, queueRd_fuse, foldl_fuse, Fx_next, Fx_ite]
theorem queueCalib_fuse (s : State) (l b page : Nat) : (queueCalib s l b page).fuse = s.fuse := by simp [queueCalib, queueRd_fuse, modLun_fuse, apply_ite State.fuse]
theorem endCalib_fuse (s : State) (l b key : Nat) (measured : List Int) (tier : Nat) : (endCalib s l b key measured tier).fuse = s.fuse := by simp [endCalib, drainOvf_fuse, setRd_fuse, tel_fuse, chCnt_fuse, mcnt_fuse, askReloc_fuse, apply_ite State.fuse]
theorem execCalibrationRead_fuse (l b page : Nat) (found : Calibrated) (s : State) {w} (hw : s.fuse = w) : Fx w (execCalibrationRead l b page found s) := by unfold execCalibrationRead; grind [endCalib_fuse, queueCalib_fuse, foldl_fuse, Fx]
theorem execThresholdTableSave_fuse (s : State) {w} (hw : s.fuse = w) : Fx w (execThresholdTableSave s) := by simp [execThresholdTableSave, hw, Fx_next, Fx_ite]
theorem askWear_fuse (s : State) (g : Nat) (oneBit : Bool) : (askWear s g oneBit).fuse = s.fuse := by unfold askWear; grind [askReloc_fuse, foldl_fuse]
theorem askAged_fuse (s : State) : (askAged s).fuse = s.fuse := by simp [askAged, askReloc_fuse, foldl_fuse, apply_ite State.fuse]
theorem sampleTemp_fuse (s : State) (d : Nat) (t : Int) : (sampleTemp s d t).fuse = s.fuse := by rfl
theorem execHealthSummary_fuse (powerMw : Nat) (s : State) {w} (hw : s.fuse = w) : Fx w (execHealthSummary powerMw s) := by unfold execHealthSummary; grind [sampleTemp_fuse, askAged_fuse, askWear_fuse, setHltEvt_fuse, checkReadOnly_fuse, foldl_fuse, Fx]
theorem execHltTsel_fuse (p : Port) (v : Word) (s : State) {w} (hw : s.fuse = w) : Fx w (execHltTsel p v s) := by simp [execHltTsel, hw, regWrite_fuse, modPort_fuse, modTCls_fuse, apply_ite State.fuse, Fx_next, Fx_fault, Fx_ite]
theorem execHltTelSnap_fuse (p : Port) (v : Word) (s : State) {w} (hw : s.fuse = w) : Fx w (execHltTelSnap p v s) := by simp [execHltTelSnap, hw, regWrite_fuse, modPort_fuse, Fx_next, Fx_fault, Fx_ite]
theorem pollPg_fuse (s : State) (l : Nat) (p : Pg) (x0 : LunPoll) : (pollPg s l p x0).fuse = s.fuse := by unfold pollPg; grind [pgPass_fuse, endOp_fuse, pgFail_fuse, modLun_fuse, foldl_fuse]
theorem resolveLun_fuse (s : State) (status : List LunStatus) (l : Nat) : (resolveLun s status l).fuse = s.fuse := by unfold resolveLun; grind [modLun_fuse, pollPg_fuse, mcnt_fuse, chCnt_fuse, foldl_fuse]
theorem execSequencerHang_fuse (ch : Nat) (status : List LunStatus) (s : State) {w} (hw : s.fuse = w) : Fx w (execSequencerHang ch status s) := by simp [execSequencerHang, hw, resolveLun_fuse, modChan_fuse, setFchEvt_fuse, foldl_fuse, Fx_next, Fx_ite]
theorem clearLun_fuse (s : State) (l : Nat) : (clearLun s l).fuse = s.fuse := by unfold clearLun; grind [modLun_fuse, failPiece_fuse, leaveBlk_fuse, sendRebuild_fuse, foldl_fuse]
theorem execLunHang_fuse (hung : HungLun) (s : State) {w} (hw : s.fuse = w) : Fx w (execLunHang hung s) := by simp [execLunHang, hw, chCnt_fuse, setFchEvt_fuse, clearLun_fuse, modLun_fuse, modChan_fuse, Fx_next, Fx_fault, Fx_ite]
theorem retireLun_fuse (s : State) (l : Nat) : (retireLun s l).fuse = s.fuse := by unfold retireLun; grind [modLun_fuse, clearLun_fuse, mcnt_fuse, logEv_fuse, setHltEvt_fuse, setFchEvt_fuse, loseSpares_fuse, leaveBlk_fuse, askReloc_fuse, leavePieces_fuse, askRole_fuse, stageRec_fuse, foldl_fuse]
theorem endRecovery_fuse (s : State) (c : Nat) : (endRecovery s c).fuse = s.fuse := by rfl
theorem execResetLunDone_fuse (l : Nat) (ok : Bool) (s : State) {w} (hw : s.fuse = w) : Fx w (execResetLunDone l ok s) := by unfold execResetLunDone; grind [endRecovery_fuse, noteIdle_fuse, modLun_fuse, retireLun_fuse, foldl_fuse, Fx]
theorem modVol_fuse (s : State) (ch v : Nat) (f : Vol → Vol) : (modVol s ch v f).fuse = s.fuse := by rfl
theorem execZqCalibrationShort_fuse (ch v : Nat) (s : State) {w} (hw : s.fuse = w) : Fx w (execZqCalibrationShort ch v s) := by simp [execZqCalibrationShort, hw, modVol_fuse, Fx_next, Fx_ite]
theorem execFlashTemperatureRead_fuse (ch v : Nat) (temp : Option Int) (s : State) {w} (hw : s.fuse = w) : Fx w (execFlashTemperatureRead ch v temp s) := by unfold execFlashTemperatureRead; grind [modVol_fuse, setFchEvt_fuse, foldl_fuse, Fx]
theorem retrainRate_fuse (s : State) (ch : Nat) (fails : List (Nat × List Nat)) : (retrainRate s ch fails).fuse = s.fuse := by unfold retrainRate; grind [modChan_fuse, setFchEvt_fuse, clearLun_fuse, foldl_fuse]
theorem execChannelRetrain_fuse (ch : Nat) (run : Retraining) (s : State) {w} (hw : s.fuse = w) : Fx w (execChannelRetrain ch run s) := by simp [execChannelRetrain, hw, modChan_fuse, retrainRate_fuse, Fx_next, Fx_fault, Fx_ite]
theorem endPause_fuse (s : State) (ch us : Nat) : (endPause s ch us).fuse = s.fuse := by simp [endPause, modChan_fuse, setFchEvt_fuse, apply_ite State.fuse]
theorem endPauses_fuse (s : State) : (endPauses s).fuse = s.fuse := by unfold endPauses; grind [endPause_fuse, foldl_fuse]
theorem execRetrain_fuse (p : Port) (ch : Nat) (s : State) {w} (hw : s.fuse = w) : Fx w (execRetrain p ch s) := by simp [execRetrain, hw, regWrite_fuse, modChan_fuse, Fx_next, Fx_ite]
theorem execCntClrFch_fuse (p : Port) (ch : Nat) (s : State) {w} (hw : s.fuse = w) : Fx w (execCntClrFch p ch s) := by simp [execCntClrFch, hw, regWrite_fuse, modChan_fuse, Fx_next, Fx_ite]
theorem execBpmSpill_fuse (s : State) {w} (hw : s.fuse = w) : Fx w (execBpmSpill s) := by simp [execBpmSpill, hw, Fx_next, Fx_ite]
theorem execBpmRefill_fuse (s : State) {w} (hw : s.fuse = w) : Fx w (execBpmRefill s) := by simp [execBpmRefill, hw, Fx_next, Fx_ite]
theorem takeRetry_fuse (s : State) (k id afterNs : Nat) : ∀ t, takeRetry s k id afterNs = some t → t.fuse = s.fuse := by unfold takeRetry; grind [foldl_fuse]
theorem execCipherChargeRetry_fuse (r : Retry) (s : State) {w} (hw : s.fuse = w) : Fx w (execCipherChargeRetry r s) := by unfold execCipherChargeRetry; grind [takeRetry_fuse, useCipher_fuse, dropDeep_fuse, cmdSec_fuse, backOff_fuse, tieCount_fuse, foldl_fuse, Fx]
theorem execBackOffRetry_fuse (cls q : Nat) (r : Retry) (s : State) {w} (hw : s.fuse = w) : Fx w (execBackOffRetry cls q r s) := by unfold execBackOffRetry; grind [takeRetry_fuse, beginFold_fuse, tieCount_fuse, stepReloc_fuse, foldl_fuse, Fx]
theorem execBpmTest_fuse (p : Port) (s : State) {w} (hw : s.fuse = w) : Fx w (execBpmTest p s) := by unfold execBpmTest; grind [regWrite_fuse, foldl_fuse, Fx]
theorem execCntClrBpm_fuse (p : Port) (s : State) {w} (hw : s.fuse = w) : Fx w (execCntClrBpm p s) := by unfold execCntClrBpm; grind [regWrite_fuse, foldl_fuse, Fx]
theorem execBpmTsel_fuse (p : Port) (v : Word) (s : State) {w} (hw : s.fuse = w) : Fx w (execBpmTsel p v s) := by simp [execBpmTsel, hw, regWrite_fuse, modPort_fuse, modTen_fuse, apply_ite State.fuse, Fx_next, Fx_fault, Fx_ite]
theorem execAdmTwinSel_fuse (p : Port) (v : Word) (s : State) {w} (hw : s.fuse = w) : Fx w (execAdmTwinSel p v s) := by simp [execAdmTwinSel, hw, regWrite_fuse, modPort_fuse, modTCls_fuse, apply_ite State.fuse, Fx_next, Fx_fault, Fx_ite]
theorem setMepBit_fuse (s : State) (b : Nat) : (setMepBit s b).fuse = s.fuse := by rfl
theorem setMepEvt_fuse (s : State) (b inst : Nat) : (setMepEvt s b inst).fuse = s.fuse := by simp [setMepEvt, raiseEvt_fuse]
theorem logMem_fuse (s : State) (mem kind source addr pos synd : Nat) : (logMem s mem kind source addr pos synd).fuse = s.fuse := by simp [logMem, setMepEvt_fuse, apply_ite State.fuse]
theorem freeSynd_fuse (s : State) (mem : Nat) : (freeSynd s mem).1.fuse = s.fuse := by rfl
theorem corrected_fuse (s : State) (mem addr source pos by' : Nat) : (corrected s mem addr source pos by').fuse = s.fuse := by simp [corrected, freeSynd_fuse, logMem_fuse]
theorem poisonVer_fuse (s : State) (mem v : Nat) : (poisonVer s mem v).fuse = s.fuse := by simp [poisonVer, logEv_fuse, setMepBit_fuse, modVer_fuse, apply_ite State.fuse]
theorem refetch_fuse (s : State) (mem v : Nat) : (refetch s mem v).fuse = s.fuse := by unfold refetch; grind [poisonVer_fuse, takeFor_fuse, modVer_fuse, encryptBlock_fuse, foldl_fuse]
theorem withdraw_fuse (s : State) (l : List Nat) (inHead : Bool) : (withdraw s l inHead).fuse = s.fuse := by simp [withdraw, setBpmEvt_fuse, apply_ite State.fuse]
theorem freeIndices_fuse (s : State) (n : Nat) : (freeIndices s n).1.fuse = s.fuse := by rfl
theorem pickOf_fuse {α : Type} (s : State) (l : List α) : (pickOf s l).1.fuse = s.fuse := by rfl
theorem bothLost_fuse (s : State) : (bothLost s).1.fuse = s.fuse := by rfl
theorem loseContext_fuse (s : State) (mem : Nat) (c : Cmd) : (loseContext s mem c).fuse = s.fuse := by simp [loseContext, endQueued_fuse, modZone_fuse, endPath_fuse, logEv_fuse, setMepBit_fuse, sweepVers_fuse, dropCmd_fuse, wakeHeld_fuse, apply_ite State.fuse]
theorem ctxAction_fuse (s : State) (mem : Nat) : (ctxAction s mem).fuse = s.fuse := by unfold ctxAction; grind [pickOf_fuse, bothLost_fuse, loseContext_fuse, foldl_fuse]
theorem zoneAction_fuse (s : State) (mem : Nat) : (zoneAction s mem).fuse = s.fuse := by unfold zoneAction; grind [pickOf_fuse, bothLost_fuse, logEv_fuse, setMepEvt_fuse, foldl_fuse]
theorem mapAction_fuse (s : State) (mem line : Nat) : (mapAction s mem line).fuse = s.fuse := by unfold mapAction; grind [bothLost_fuse, poisonVer_fuse, setMepEvt_fuse, foldl_fuse]
theorem keyAction_fuse (s : State) : (keyAction s).fuse = s.fuse := by unfold keyAction; grind [pickOf_fuse, bothLost_fuse, keyNotice_fuse, setCipEvt_fuse, foldl_fuse]
theorem hbmAction_fuse (s : State) (mem line : Nat) : (hbmAction s mem line).fuse = s.fuse := by unfold hbmAction; grind [poisonVer_fuse, refetch_fuse, mapAction_fuse, ctxAction_fuse, zoneAction_fuse, freeIndices_fuse, withdraw_fuse, foldl_fuse]
theorem sramAction_fuse (s : State) (mem word : Nat) : (sramAction s mem word).fuse = s.fuse := by unfold sramAction; grind [keyAction_fuse, withdraw_fuse, freeIndices_fuse, hbmAction_fuse, modTCls_fuse, pickOf_fuse, resolveLun_fuse, foldl_fuse]
theorem poisonPattern_fuse (s : State) (mem addr source : Nat) : (poisonPattern s mem addr source).fuse = s.fuse := by simp [poisonPattern, logMem_fuse]
theorem mergeAction_fuse (s : State) (word : Nat) : (mergeAction s word).fuse = s.fuse := by unfold mergeAction; grind [hbmAction_fuse, poisonPattern_fuse, foldl_fuse]
theorem uncorrectable_fuse (s : State) (mem addr source kind pos : Nat) : (uncorrectable s mem addr source kind pos).fuse = s.fuse := by simp [uncorrectable, freeSynd_fuse, logMem_fuse, setMepBit_fuse, logEv_fuse, hbmAction_fuse, mergeAction_fuse, sramAction_fuse, apply_ite State.fuse]
theorem found_fuse (s : State) (mem addr source by' : Nat) (x0 : MemFinding) : (found s mem addr source by' x0).fuse = s.fuse := by unfold found; grind [corrected_fuse, uncorrectable_fuse, foldl_fuse]
theorem flipFire_fuse (s : State) (mem : Nat) : (flipFire s mem).fuse = s.fuse := by simp [flipFire, setMepEvt_fuse]
theorem putLine_fuse (s : State) (mem k : Nat) (x : TestLine) : (putLine s mem k x).fuse = s.fuse := by simp [putLine, flipFire_fuse, apply_ite State.fuse]
theorem spoilEntries_fuse (s : State) (f : Flip) : (spoilEntries s f).fuse = s.fuse := by unfold spoilEntries; grind [freeIndices_fuse, foldl_fuse]
theorem readLine_fuse (s : State) (mem k : Nat) : (readLine s mem k).fuse = s.fuse := by simp [readLine, corrected_fuse, uncorrectable_fuse, apply_ite State.fuse]
theorem writeFlipCtl_fuse (p : Port) (v : Word) (s : State) {w} (hw : s.fuse = w) : Fx w (writeFlipCtl p v s) := by simp [writeFlipCtl, hw, regWrite_fuse, Fx_next, Fx_fault, Fx_ite]
theorem execMepFlipArm_fuse (p : Port) (v : Word) (s : State) {w} (hw : s.fuse = w) : Fx w (execMepFlipArm p v s) := by simp [execMepFlipArm, hw, writeFlipCtl_fuse]
theorem writeTestCtl_fuse (p : Port) (v : Word) (s : State) {w} (hw : s.fuse = w) : Fx w (writeTestCtl p v s) := by simp [writeTestCtl, hw, regWrite_fuse, putLine_fuse, readLine_fuse, Fx_next, Fx_fault, Fx_ite]
theorem execMepTestWrite_fuse (p : Port) (v : Word) (s : State) {w} (hw : s.fuse = w) : Fx w (execMepTestWrite p v s) := by simp [execMepTestWrite, hw, writeTestCtl_fuse]
theorem execMepTestRead_fuse (p : Port) (v : Word) (s : State) {w} (hw : s.fuse = w) : Fx w (execMepTestRead p v s) := by simp [execMepTestRead, hw, writeTestCtl_fuse]
theorem execLogClr_fuse (p : Port) (s : State) {w} (hw : s.fuse = w) : Fx w (execLogClr p s) := by unfold execLogClr; grind [regWrite_fuse, foldl_fuse, Fx]
theorem execCntClrMep_fuse (p : Port) (s : State) {w} (hw : s.fuse = w) : Fx w (execCntClrMep p s) := by unfold execCntClrMep; grind [regWrite_fuse, foldl_fuse, Fx]
theorem execMepLogSel_fuse (p : Port) (v : Word) (s : State) {w} (hw : s.fuse = w) : Fx w (execMepLogSel p v s) := by simp [execMepLogSel, hw, regWrite_fuse, modPort_fuse, Fx_next, Fx_fault, Fx_ite]
theorem modSkim_fuse (s : State) (e : Nat) (f : Skim → Skim) : (modSkim s e f).fuse = s.fuse := by rfl
theorem skimTo_fuse (s : State) (e : Nat) (next : Option Nat) : (skimTo s e next).fuse = s.fuse := by rfl
theorem startLap_fuse (s : State) (e : Nat) : (startLap s e).fuse = s.fuse := by rfl
theorem execSkimRead_fuse (e : Nat) (finding : MemFinding) (s : State) {w} (hw : s.fuse = w) : Fx w (execSkimRead e finding s) := by unfold execSkimRead; grind [startLap_fuse, corrected_fuse, uncorrectable_fuse, found_fuse, finding_fuse, skimTo_fuse, foldl_fuse, Fx]
theorem execCorrectedWriteBack_fuse (mem addr : Nat) (s : State) {w} (hw : s.fuse = w) : Fx w (execCorrectedWriteBack mem addr s) := by unfold execCorrectedWriteBack; grind [modSkim_fuse, putLine_fuse, flipFire_fuse, spoilEntries_fuse, foldl_fuse, Fx]
theorem execMergeEntryTimeout_fuse (stack line : Nat) (readBad : Bool) (s : State) {w} (hw : s.fuse = w) : Fx w (execMergeEntryTimeout stack line readBad s) := by unfold execMergeEntryTimeout; grind [uncorrectable_fuse, poisonPattern_fuse, flipFire_fuse, foldl_fuse, Fx]
theorem execHbmRefresh_fuse (stack : Nat) (s : State) {w} (hw : s.fuse = w) : Fx w (execHbmRefresh stack s) := by simp [execHbmRefresh, hw, Fx_next, Fx_ite]
theorem execSkimSlow_fuse (e : Nat) (s : State) {w} (hw : s.fuse = w) : Fx w (execSkimSlow e s) := by simp [execSkimSlow, hw, setMepBit_fuse, modSkim_fuse, genericEv_fuse, Fx_next, Fx_ite]
theorem execCeRate_fuse (m : Nat) (s : State) {w} (hw : s.fuse = w) : Fx w (execCeRate m s) := by simp [execCeRate, hw, setMepBit_fuse, genericEv_fuse, Fx_next, Fx_ite]
theorem popReply_fuse (s : State) (b : Box) : (popReply s b).fuse = s.fuse := by unfold popReply; grind [modMbx_fuse, beginWarm_fuse, foldl_fuse]
theorem execMbxPop_fuse (p : Port) (b : Box) (v : Word) (s : State) {w} (hw : s.fuse = w) : Fx w (execMbxPop p b v s) := by unfold execMbxPop; grind [boxWrite_fuse, popReply_fuse, foldl_fuse, Fx]
theorem runReq_fuse (sel : Frame → Bool) (b : Box) (s : State) (k : Frame → State → State) (hk : ∀ y0 u, (k y0 u).fuse = u.fuse) {w} (hw : s.fuse = w) : Fx w (runReq sel b s k) := by unfold runReq; grind [finishReq_fuse, foldl_fuse, Fx]
theorem runData_fuse (sel : Frame → Bool) (b : Box) (d : ReqData) (s : State) (k : List Byte → Frame → State → State) (hk : ∀ y0 y1 u, (k y0 y1 u).fuse = u.fuse) {w} (hw : s.fuse = w) : Fx w (runData sel b d s k) := by unfold runData; grind [runReq_fuse, finishReq_fuse, foldl_fuse, Fx]
theorem execMbxInvalidOpcode_fuse (b : Box) (s : State) {w} (hw : s.fuse = w) : Fx w (execMbxInvalidOpcode b s) := by simp [execMbxInvalidOpcode, hw, runReq_fuse]
theorem execIdentify_fuse (b : Box) (s : State) {w} (hw : s.fuse = w) : Fx w (execIdentify b s) := by simp [execIdentify, hw, runReq_fuse, finishReq_fuse]
theorem openField_fuse (s : State) : (openField s).1.fuse = s.fuse := by rfl
theorem logEvents_fuse (s : State) (b : Box) (f : Frame) : (logEvents s b f).fuse = s.fuse := by unfold logEvents; grind [finishReq_fuse, openField_fuse, foldl_fuse]
theorem execGetLog_fuse (b : Box) (s : State) {w} (hw : s.fuse = w) : Fx w (execGetLog b s) := by unfold execGetLog; grind [runReq_fuse, logEvents_fuse, finishReq_fuse, foldl_fuse, Fx]
theorem execHealth_fuse (b : Box) (s : State) {w} (hw : s.fuse = w) : Fx w (execHealth b s) := by simp [execHealth, hw, runReq_fuse, finishReq_fuse]
theorem execThermalSet_fuse (b : Box) (s : State) {w} (hw : s.fuse = w) : Fx w (execThermalSet b s) := by unfold execThermalSet; grind [runReq_fuse, finishReq_fuse, finishDurable_fuse, foldl_fuse, Fx]
theorem execQuadrantReset_fuse (b : Box) (s : State) {w} (hw : s.fuse = w) : Fx w (execQuadrantReset b s) := by simp [execQuadrantReset, hw, runReq_fuse, finishReq_fuse, modMbx_fuse, apply_ite State.fuse]
theorem execEvrecPersist_fuse (b : Box) (s : State) {w} (hw : s.fuse = w) : Fx w (execEvrecPersist b s) := by unfold execEvrecPersist; grind [runReq_fuse, persistAll_fuse, finishReq_fuse, openField_fuse, foldl_fuse, Fx]
theorem modTslot_fuse (s : State) (t : Nat) (f : KeySlot → KeySlot) : (modTslot s t f).fuse = s.fuse := by rfl
theorem modDslot_fuse (s : State) (d : Nat) (f : KeySlot → KeySlot) : (modDslot s d f).fuse = s.fuse := by rfl
theorem unwrapFailed_fuse (s : State) (d : List Byte) : (unwrapFailed s d).fuse = s.fuse := by simp [unwrapFailed, setCipEvt_fuse, cipCnt_fuse]
theorem keyLoaded_fuse (s : State) (t : Nat) : (keyLoaded s t).fuse = s.fuse := by unfold keyLoaded; grind [keyBack_fuse, foldl_fuse]
theorem execKeyLoad_fuse (b : Box) (d : ReqData) (s : State) {w} (hw : s.fuse = w) : Fx w (execKeyLoad b d s) := by unfold execKeyLoad; grind [runData_fuse, finishReq_fuse, unwrapFailed_fuse, finishDurable_fuse, modDslot_fuse, keyLoaded_fuse, modTslot_fuse, foldl_fuse, Fx]
theorem execKeyEvict_fuse (b : Box) (d : ReqData) (s : State) {w} (hw : s.fuse = w) : Fx w (execKeyEvict b d s) := by unfold execKeyEvict; grind [runData_fuse, finishReq_fuse, stageRec_fuse, modMbx_fuse, keyNotice_fuse, modTslot_fuse, modDslot_fuse, foldl_fuse, Fx]
theorem keyOut_fuse (s : State) (t : Nat) : (keyOut s t).fuse = s.fuse := by rfl
theorem execKeyEvictReply_fuse (b : Box) (s : State) {w} (hw : s.fuse = w) : Fx w (execKeyEvictReply b s) := by unfold execKeyEvictReply; grind [keyOut_fuse, finishReq_fuse, foldl_fuse, Fx]
theorem severWriters_fuse (s : State) (t : Nat) : (severWriters s t).fuse = s.fuse := by unfold severWriters; grind [modVer_fuse, foldl_fuse]
theorem dropStreams_fuse (s : State) (t : Nat) : (dropStreams s t).fuse = s.fuse := by simp [dropStreams, pushBufs_fuse, dropPrograms_fuse, releaseExt_fuse, modSet_fuse, queueEr_fuse, foldl_fuse]
theorem dropZones_fuse (s : State) (t : Nat) : (dropZones s t).fuse = s.fuse := by simp [dropZones, severWriters_fuse, dropStreams_fuse, applyReset_fuse, foldl_fuse]
theorem sanTenant_fuse (s : State) (t : Nat) : (sanTenant s t).fuse = s.fuse := by simp [sanTenant, modTslot_fuse, keyNotice_fuse, dropZones_fuse, purgeTenant_fuse, apply_ite State.fuse]
theorem sanDevice_fuse (s : State) : (sanDevice s).fuse = s.fuse := by simp [sanDevice, modDslot_fuse]
theorem startSan_fuse (s : State) (b : Box) (kind t : Nat) : (startSan s b kind t).fuse = s.fuse := by simp [startSan, sanTenant_fuse, sanDevice_fuse, completeFua_fuse, stageRec_fuse, foldl_fuse, apply_ite State.fuse]
theorem execSanitize_fuse (b : Box) (s : State) {w} (hw : s.fuse = w) : Fx w (execSanitize b s) := by unfold execSanitize; grind [runReq_fuse, finishReq_fuse, startSan_fuse, modMbx_fuse, foldl_fuse, Fx]
theorem execSanitizeDone_fuse (b : Box) (s : State) {w} (hw : s.fuse = w) : Fx w (execSanitizeDone b s) := by unfold execSanitizeDone; grind [finishReq_fuse, endSan_fuse, keyOut_fuse, foldl_fuse, Fx]
theorem execPlainKekClose_fuse (p : Port) (s : State) {w} (hw : s.fuse = w) : Fx w (execPlainKekClose p s) := by unfold execPlainKekClose; grind [regWrite_fuse, foldl_fuse, Fx]
theorem execCntClrCip_fuse (p : Port) (s : State) {w} (hw : s.fuse = w) : Fx w (execCntClrCip p s) := by unfold execCntClrCip; grind [regWrite_fuse, foldl_fuse, Fx]
theorem execCipTsel_fuse (p : Port) (v : Word) (s : State) {w} (hw : s.fuse = w) : Fx w (execCipTsel p v s) := by simp [execCipTsel, hw, regWrite_fuse, modPort_fuse, apply_ite State.fuse, Fx_next, Fx_fault, Fx_ite]
theorem applied_fuse (a : Apply) (id scope reason want got : Nat) : (applied a id scope reason want got).s.fuse = a.s.fuse := by rfl
theorem skipped_fuse (a : Apply) (f : CfgField) (scope reason : Nat) (kept : Option Nat) : (skipped a f scope reason kept).s.fuse = a.s.fuse := by unfold skipped; grind [openField_fuse, foldl_fuse]
theorem raisedCap_fuse (a : Apply) (id scope old new : Nat) : (raisedCap a id scope old new).s.fuse = a.s.fuse := by rfl
theorem applyDev_fuse (a : Apply) (id v : Nat) : (applyDev a id v).s.fuse = a.s.fuse := by unfold applyDev; grind [devPut_fuse, applied_fuse, recompute_fuse, raisedCap_fuse, foldl_fuse]
theorem applyTen_fuse (a : Apply) (t id v : Nat) : (applyTen a t id v).s.fuse = a.s.fuse := by unfold applyTen; grind [applied_fuse, tenPut_fuse, raisedCap_fuse, foldl_fuse]
theorem tenField_fuse (create : Bool) (t : Nat) (a : Apply) (f : CfgField) : (tenField create t a f).s.fuse = a.s.fuse := by unfold tenField; grind [skipped_fuse, applyTen_fuse, foldl_fuse]
theorem tenPass_fuse (create : Bool) (t : Nat) (a : Apply) (l : List CfgField) : (tenPass create t a l).s.fuse = a.s.fuse := by
  have hf : ∀ (l : List CfgField) (g : Apply → CfgField → Apply), (∀ a f, (g a f).s.fuse = a.s.fuse) → ∀ a : Apply,
      (l.foldl g a).s.fuse = a.s.fuse := by
    intro l g hg
    induction l with
    | nil => intro a; rfl
    | cons x t ih => intro a; rw [List.foldl_cons, ih, hg]
  unfold tenPass
  split
  · exact hf _ _ (fun a f => tenField_fuse create t a f) _
  · exact hf _ _ (fun a f => skipped_fuse _ _ _ _ _) _
theorem devField'_fuse (a : Apply) (f : CfgField) : (devField' a f).s.fuse = a.s.fuse := by unfold devField'; grind [skipped_fuse, applyDev_fuse, foldl_fuse]
theorem devPass_fuse (a : Apply) (l : List (CfgField × Scope)) : (devPass a l).s.fuse = a.s.fuse := by
  have hf : ∀ (l : List (CfgField × Scope)) (g : Apply → CfgField × Scope → Apply), (∀ a f, (g a f).s.fuse = a.s.fuse) →
      ∀ a : Apply, (l.foldl g a).s.fuse = a.s.fuse := by
    intro l g hg
    induction l with
    | nil => intro a; rfl
    | cons x t ih => intro a; rw [List.foldl_cons, ih, hg]
  unfold devPass
  dsimp only
  refine hf _ _ (fun a e => ?_) _
  split
  · exact devField'_fuse _ _
  · exact skipped_fuse _ _ _ _ _
  · rfl
theorem applyImage_fuse (s : State) (l : List CfgField) : (applyImage s l).s.fuse = s.fuse := by
  have hf : ∀ (l : List Nat) (g : Apply → Nat → Apply), (∀ a f, (g a f).s.fuse = a.s.fuse) → ∀ a : Apply,
      (l.foldl g a).s.fuse = a.s.fuse := by
    intro l g hg
    induction l with
    | nil => intro a; rfl
    | cons x t ih => intro a; rw [List.foldl_cons, ih, hg]
  unfold applyImage
  rw [hf _ _ (fun a t => tenPass_fuse _ _ _ _), devPass_fuse]
theorem execSetConfig_fuse (b : Box) (d : ReqData) (s : State) {w} (hw : s.fuse = w) : Fx w (execSetConfig b d s) := by unfold execSetConfig; grind [runData_fuse, finishReq_fuse, applyImage_fuse, finishDurable_fuse, checkOver_fuse, foldl_fuse, Fx]
theorem execGetConfig_fuse (b : Box) (s : State) {w} (hw : s.fuse = w) : Fx w (execGetConfig b s) := by simp [execGetConfig, hw, runReq_fuse, finishReq_fuse]
theorem startTenant_fuse (s : State) (t : Nat) : (startTenant s t).fuse = s.fuse := by rfl
theorem execTenantCreate_fuse (b : Box) (d : ReqData) (s : State) {w} (hw : s.fuse = w) : Fx w (execTenantCreate b d s) := by unfold execTenantCreate; grind [runData_fuse, finishReq_fuse, tenPass_fuse, startTenant_fuse, finishDurable_fuse, foldl_fuse, Fx]
theorem removeTenant_fuse (s : State) (t : Nat) : (removeTenant s t).fuse = s.fuse := by simp [removeTenant, stageRec_fuse, purgeTenant_fuse, modTslot_fuse, noticePf0_fuse, dropStreams_fuse, applyReset_fuse, discardVfBox_fuse, freeFloor_fuse, foldl_fuse, apply_ite State.fuse]
theorem execTenantDelete_fuse (b : Box) (s : State) {w} (hw : s.fuse = w) : Fx w (execTenantDelete b s) := by unfold execTenantDelete; grind [runReq_fuse, finishReq_fuse, finishDurable_fuse, removeTenant_fuse, foldl_fuse, Fx]
theorem dropStage_fuse (s : State) : (dropStage s).fuse = s.fuse := by rfl
theorem firstStage_fuse (s : State) (agent : Nat) : (firstStage s agent).fuse = s.fuse := by simp [firstStage, setBootEvt_fuse, dropStage_fuse, apply_ite State.fuse]
theorem stageTrain_fuse (s : State) : (stageTrain s).1.fuse = s.fuse := by unfold stageTrain; grind [openField_fuse, foldl_fuse]
theorem takeChunk_fuse (s : State) (f : Frame) (l : List Byte) : (takeChunk s f l).1.fuse = s.fuse := by unfold takeChunk; grind [stageTrain_fuse, firstStage_fuse, dropStage_fuse, foldl_fuse]
theorem execFwStage_fuse (b : Box) (d : ReqData) (s : State) {w} (hw : s.fuse = w) : Fx w (execFwStage b d s) := by simp [execFwStage, hw, runData_fuse, takeChunk_fuse, finishReq_fuse, apply_ite State.fuse]
theorem startWrite_fuse (s : State) (b : Box) : (startWrite s b).fuse = s.fuse := by rfl
theorem execFwStageLast_fuse (b : Box) (d : ReqData) (s : State) {w} (hw : s.fuse = w) : Fx w (execFwStageLast b d s) := by simp [execFwStageLast, hw, runData_fuse, takeChunk_fuse, finishReq_fuse, dropStage_fuse, startWrite_fuse, apply_ite State.fuse]
theorem execBootFlashWriteDone_fuse (err : Bool) (s : State) {w} (hw : s.fuse = w) : Fx w (execBootFlashWriteDone err s) := by unfold execBootFlashWriteDone; grind [finishReq_fuse, setBootEvt_fuse, dropStage_fuse, foldl_fuse, Fx]
theorem execFwActivateLive_fuse (b : Box) (s : State) {w} (hw : s.fuse = w) : Fx w (execFwActivateLive b s) := by simp [execFwActivateLive, hw, runReq_fuse, finishReq_fuse, modMbx_fuse, noticePf0_fuse, apply_ite State.fuse]
theorem nextStaged_fuse (s : State) : (nextStaged s).fuse = s.fuse := by rfl
theorem execFwActivateNextReset_fuse (b : Box) (s : State) {w} (hw : s.fuse = w) : Fx w (execFwActivateNextReset b s) := by simp [execFwActivateNextReset, hw, runReq_fuse, finishReq_fuse, nextStaged_fuse, apply_ite State.fuse]
theorem execFwActivateWarmReset_fuse (b : Box) (s : State) {w} (hw : s.fuse = w) : Fx w (execFwActivateWarmReset b s) := by simp [execFwActivateWarmReset, hw, runReq_fuse, finishReq_fuse, nextStaged_fuse, startReplyTimer_fuse, modMbx_fuse, apply_ite State.fuse]
theorem smbusAccess_fuse (s : State) (k : State → Res) (hk : ∀ u, Fx u.fuse (k u)) {w} (hw : s.fuse = w) : Fx w (smbusAccess s k) := by unfold smbusAccess; grind [wake_fuse, foldl_fuse, Fx]
theorem ctlReply_fuse (s : State) (cmd code : Nat) (data : List Byte) {w} (hw : s.fuse = w) : Fx w (ctlReply s cmd code data) := by exact hw
theorem execSetEndpointId_fuse (op eid : Byte) (s : State) {w} (hw : s.fuse = w) : Fx w (execSetEndpointId op eid s) := by simp [execSetEndpointId, hw, smbusAccess_fuse, ctlReply_fuse, Fx_ite]
theorem execGetEndpointId_fuse (s : State) {w} (hw : s.fuse = w) : Fx w (execGetEndpointId s) := by simp [execGetEndpointId, hw, smbusAccess_fuse, ctlReply_fuse]
theorem execGetEndpointUuid_fuse (s : State) {w} (hw : s.fuse = w) : Fx w (execGetEndpointUuid s) := by simp [execGetEndpointUuid, hw, smbusAccess_fuse, ctlReply_fuse]
theorem execGetMctpVersionSupport_fuse (mtype : Byte) (s : State) {w} (hw : s.fuse = w) : Fx w (execGetMctpVersionSupport mtype s) := by simp [execGetMctpVersionSupport, hw, smbusAccess_fuse, ctlReply_fuse, Fx_ite]
theorem execGetMessageTypeSupport_fuse (s : State) {w} (hw : s.fuse = w) : Fx w (execGetMessageTypeSupport s) := by simp [execGetMessageTypeSupport, hw, smbusAccess_fuse, ctlReply_fuse]
theorem execGetVendorDefinedMessageSupport_fuse (sel : Byte) (s : State) {w} (hw : s.fuse = w) : Fx w (execGetVendorDefinedMessageSupport sel s) := by
  unfold execGetVendorDefinedMessageSupport
  refine smbusAccess_fuse _ _ (fun u => ?_) hw
  split
  · exact ctlReply_fuse _ _ _ _ rfl
  · exact ctlReply_fuse _ _ _ _ rfl
theorem bridgeReply_fuse (s : State) (op n status : Nat) (data : List Byte) (dlen : Nat) {w} (hw : s.fuse = w) : Fx w (bridgeReply s op n status data dlen) := by exact hw
theorem bridge_fuse (op n : Nat) (s : State) (k : State → Res) (hk : ∀ u, Fx u.fuse (k u)) {w} (hw : s.fuse = w) : Fx w (bridge op n s k) := by unfold bridge; grind [smbusAccess_fuse, bridgeReply_fuse, foldl_fuse, Fx]
theorem bridgeOwned_fuse (op n : Nat) (s : State) (k : State → Res) (hk : ∀ u, Fx u.fuse (k u)) {w} (hw : s.fuse = w) : Fx w (bridgeOwned op n s k) := by unfold bridgeOwned; grind [bridge_fuse, bridgeReply_fuse, foldl_fuse, Fx]
theorem execMctpLock_fuse (n : Nat) (s : State) {w} (hw : s.fuse = w) : Fx w (execMctpLock n s) := by simp [execMctpLock, hw, bridge_fuse, readLock_fuse, bridgeReply_fuse]
theorem execMctpRelease_fuse (n : Nat) (s : State) {w} (hw : s.fuse = w) : Fx w (execMctpRelease n s) := by simp [execMctpRelease, hw, bridgeOwned_fuse, bridgeReply_fuse, releaseLock_fuse]
theorem execMctpSend_fuse (n : Nat) (frame data : List Byte) (s : State) {w} (hw : s.fuse = w) : Fx w (execMctpSend n frame data s) := by simp [execMctpSend, hw, bridgeOwned_fuse, bridgeReply_fuse, pushRequest_fuse, Fx_ite]
theorem execMctpFetch_fuse (n : Nat) (s : State) {w} (hw : s.fuse = w) : Fx w (execMctpFetch n s) := by unfold execMctpFetch; grind [bridgeOwned_fuse, bridgeReply_fuse, popReply_fuse, foldl_fuse, Fx]
theorem execMctpStatus_fuse (n : Nat) (s : State) {w} (hw : s.fuse = w) : Fx w (execMctpStatus n s) := by simp [execMctpStatus, hw, bridge_fuse, bridgeReply_fuse]
theorem execMctpBreak_fuse (n : Nat) (s : State) {w} (hw : s.fuse = w) : Fx w (execMctpBreak n s) := by simp [execMctpBreak, hw, bridge_fuse, bridgeReply_fuse, breakLock_fuse, apply_ite State.fuse, Fx_next, Fx_ite]
theorem execSmbusAlertResponse_fuse (s : State) {w} (hw : s.fuse = w) : Fx w (execSmbusAlertResponse s) := by simp [execSmbusAlertResponse, hw, emit_fuse, Fx_next, Fx_ite]
theorem tapTakes_fuse (s : State) (opcode : Nat) (reg : List Bool) (float hold : Bool) : (tapTakes s opcode reg float hold).fuse = s.fuse := by rfl
theorem execTapReset_fuse (s : State) {w} (hw : s.fuse = w) : Fx w (execTapReset s) := by exact hw
theorem execIdcode_fuse (s : State) {w} (hw : s.fuse = w) : Fx w (execIdcode s) := by exact hw
theorem execSamplePreload_fuse (cells : List Bool) (s : State) {w} (hw : s.fuse = w) : Fx w (execSamplePreload cells s) := by exact hw
theorem execExtest_fuse (s : State) {w} (hw : s.fuse = w) : Fx w (execExtest s) := by exact hw
theorem execHighz_fuse (s : State) {w} (hw : s.fuse = w) : Fx w (execHighz s) := by exact hw
theorem execClamp_fuse (s : State) {w} (hw : s.fuse = w) : Fx w (execClamp s) := by exact hw
theorem execBypass_fuse (opcode : Byte) (s : State) {w} (hw : s.fuse = w) : Fx w (execBypass opcode s) := by simp [execBypass, hw, tapTakes_fuse, Fx_next, Fx_ite]
theorem execRailUndervoltage_fuse (rail : Nat) (s : State) {w} (hw : s.fuse = w) : Fx w (execRailUndervoltage rail s) := by simp [execRailUndervoltage, hw, powerOff_fuse, apply_ite State.fuse, Fx_next, Fx_ite]
theorem execTestEnAssert_fuse (s : State) {w} (hw : s.fuse = w) : Fx w (execTestEnAssert s) := by simp [execTestEnAssert, hw, powerOff_fuse, apply_ite State.fuse, Fx_next]
theorem storeSys_fuse (s : State) (o n : Nat) : (storeSys s o n).fuse = s.fuse := by unfold storeSys; grind [foldl_fuse]
theorem storeEvr_fuse (s : State) (o n : Nat) : (storeEvr s o n).fuse = s.fuse := by simp [storeEvr, apply_ite State.fuse]
theorem storeFch_fuse (s : State) (c o n : Nat) : (storeFch s c o n).fuse = s.fuse := by simp [storeFch, modChan_fuse, apply_ite State.fuse]
theorem storeMsix_fuse (s : State) (p : Port) (fn tab o n : Nat) : (storeMsix s p fn tab o n).fuse = s.fuse := by simp [storeMsix, modFn_fuse, apply_ite State.fuse]
theorem storeMbx_fuse (s : State) (b : Box) (o n : Nat) : (storeMbx s b o n).fuse = s.fuse := by unfold storeMbx; grind [modMbx_fuse, foldl_fuse]
theorem storePf0_fuse (s : State) (p : Port) (o n : Nat) : (storePf0 s p o n).fuse = s.fuse := by simp [storePf0, storeMsix_fuse, storeSys_fuse, storeMbx_fuse, storeEvr_fuse, storeFch_fuse, apply_ite State.fuse]
theorem storeVf_fuse (s : State) (p : Port) (fn o n : Nat) {w} (hw : s.fuse = w) : Fx w (storeVf s p fn o n) := by simp [storeVf, hw, storeMsix_fuse, modCas_fuse, modRing_fuse, storeMbx_fuse, Fx_next, Fx_fault, Fx_ite]
theorem storeReq_fuse (s : State) (b : Box) (i : Nat) (v : Word) : (storeReq s b i v).fuse = s.fuse := by rfl
theorem mbxRow_fuse (p : Port) (b : Box) (o : Nat) (v : Word) : ∀ k, mbxRow p b o v = some k → ∀ u : State, Fx u.fuse (k u) := by
  intro k h u
  unfold mbxRow at h
  (repeat' split at h) <;> simp only [Option.some.injEq, reduceCtorEq] at h <;> subst h
  · exact boxWrite_fuse _ _ _ _ _ _ _ _ (fun u m => (Fx_next _ _).mpr (storeReq_fuse _ _ _ _)) rfl
  · exact execMbxDoorbell_fuse _ _ _ _ rfl
  · exact execMbxPop_fuse _ _ _ _ rfl
theorem ctlRow_fuse (p : Port) (o : Nat) (v : Word) : ∀ k, ctlRow p o v = some k → ∀ u : State, Fx u.fuse (k u) := by
  intro k h u
  unfold ctlRow at h
  split at h
  · cases h; dsimp only; split
    · exact execCntClrThm_fuse _ _ rfl
    · rfl
  · cases h; dsimp only; split
    · exact execCntClrBpm_fuse _ _ rfl
    · rfl
  · cases h; dsimp only; split
    · exact execBpmTest_fuse _ _ rfl
    · rfl
  · cases h; dsimp only
    refine bindRes_fuse _ _ (w := u.fuse) ?_ (fun t ht => ?_)
    · split
      · exact execCntClrCip_fuse _ _ rfl
      · rfl
    · split
      · exact execPlainKekClose_fuse _ _ ht
      · exact ht
  · cases h; dsimp only; split
    · exact execBootFlashRead_fuse _ _ rfl
    · rfl
  · split at h
    · cases h; dsimp only
      refine bindRes_fuse _ _ (w := u.fuse) ?_ (fun t ht => ?_)
      · split
        · exact execCntClrFch_fuse _ _ _ rfl
        · rfl
      · split
        · exact execRetrain_fuse _ _ _ ht
        · exact ht
    · cases h
theorem pf0Row_fuse (p : Port) (o : Nat) (v : Word) : ∀ k, pf0Row p o v = some k → ∀ u : State, Fx u.fuse (k u) := by
  intro k h u
  unfold pf0Row at h
  (repeat' split at h) <;> simp only [Option.some.injEq, reduceCtorEq] at h <;> first
    | (subst h; grind [execClockGateOn_fuse, execClockGateOff_fuse, execWarm_fuse, execMaxState_fuse, execSensorExclude_fuse,
        execMbxBreak_fuse, execClr_fuse, execFreeze_fuse, execUnfreeze_fuse, execEvrCursor_fuse, execMepLogSel_fuse,
        execMepFlipArm_fuse, execMepTestRead_fuse, execMepTestWrite_fuse, execBpmTsel_fuse, execCipTsel_fuse,
        execAdmTwinSel_fuse, execHltTsel_fuse, execHltTelSnap_fuse, execMbxLockRelease_fuse])
    | exact mbxRow_fuse _ _ _ _ _ h u
theorem vfRow_fuse (p : Port) (fn o : Nat) (v : Word) : ∀ k, vfRow p fn o v = some k → ∀ u : State, Fx u.fuse (k u) := by
  intro k h u
  unfold vfRow at h
  (repeat' split at h) <;> first
    | (simp only [Option.some.injEq] at h; subst h
       grind [execRingDisable_fuse, execRingIenClear_fuse, execRingEnable_fuse, execRingHeadWrite_fuse])
    | exact mbxRow_fuse _ _ _ _ _ h u
    | (simp at h; done)
theorem writePlain_fuse (p : Port) (fn o : Nat) (v : Word) (s : State) {w} (hw : s.fuse = w) : Fx w (writePlain p fn o v s) := by
  unfold writePlain
  refine regWrite_fuse _ _ _ _ (fun u => ?_) hw
  (repeat' split) <;> first | exact trivial | skip
  · rename_i k hk
    exact ctlRow_fuse _ _ _ _ hk u
  · exact storePf0_fuse _ _ _ _
  · exact storeVf_fuse _ _ _ _ _ rfl
theorem writePlpEvt_fuse (p : Port) (v : Word) (s : State) {w} (hw : s.fuse = w) : Fx w (writePlpEvt p v s) := by simp [writePlpEvt, hw, hostAccess_fuse, Fx_next, Fx_fault, Fx_ite]
theorem write32_fuse (p : Port) (fn o : Nat) (v : Word) (s : State) {w} (hw : s.fuse = w) : Fx w (write32 p fn o v s) := by
  unfold write32
  split
  · rename_i k hk
    split at hk
    · have h := pf0Row_fuse _ _ _ _ hk s; rw [hw] at h; exact h
    · have h := vfRow_fuse _ _ _ _ _ hk s; rw [hw] at h; exact h
  · split
    · exact writePlpEvt_fuse _ _ _ hw
    · exact writePlain_fuse _ _ _ _ _ hw
theorem writeBar_fuse (p : Port) (fn off size : Nat) (v : Word64) (s : State) {w} (hw : s.fuse = w) : Fx w (writeBar p fn off size v s) := by
  unfold writeBar
  (repeat' split) <;> first
    | exact execUnsupportedRequest_fuse _ _ _ _ _ hw
    | exact execTrsWrite_fuse _ _ _ _ _ hw
    | exact write32_fuse _ _ _ _ _ hw
    | exact bindRes_fuse _ _ (write32_fuse _ _ _ _ _ hw) (fun u hu => write32_fuse _ _ _ _ _ hu)
    | exact hostAccess_fuse _ _ _ _ _ (fun u => (Fx_next _ _).mpr rfl) hw
theorem storeCfg_fuse (s : State) (p : Port) (fn off size n : Nat) : (storeCfg s p fn off size n).fuse = s.fuse := by
  unfold storeCfg
  split <;> first
    | exact (settleOut_fuse _).trans (modFn_fuse _ _ _ _)
    | exact modFn_fuse _ _ _ _
    | (split <;> first | rfl | exact modFn_fuse _ _ _ _ | exact modPort_fuse _ _ _)
    | rfl
theorem execRegisterWrite_fuse (p : Port) (fn : Nat) (sp : Space) (off size : Nat) (v : Word64) (s : State) {w} (hw : s.fuse = w) : Fx w (execRegisterWrite p fn sp off size v s) := by unfold execRegisterWrite; grind [writeBar_fuse, cfgAccess_fuse, storeCfg_fuse, foldl_fuse, Fx]
theorem clearRc_fuse (s : State) (p : Port) (fn o : Nat) : (clearRc s p fn o).fuse = s.fuse := by unfold clearRc; grind [modMbx_fuse, foldl_fuse]
theorem read32_fuse (p : Port) (fn off : Nat) (s : State) {w} (hw : s.fuse = w) : Fx w (read32 p fn off s) := by unfold read32; grind [execMbxLockRead_fuse, execEvrData7Read_fuse, hostAccess_fuse, clearRc_fuse, emit_fuse, foldl_fuse, Fx]
theorem readBar_fuse (p : Port) (fn off size : Nat) (s : State) {w} (hw : s.fuse = w) : Fx w (readBar p fn off size s) := by
  unfold readBar
  (repeat' split) <;> first
    | exact execUnsupportedRequest_fuse _ _ _ _ _ hw
    | exact read32_fuse _ _ _ _ hw
    | exact bindRes_fuse _ _ (read32_fuse _ _ _ _ hw) (fun u hu => read32_fuse _ _ _ _ hu)
    | exact hostAccess_fuse p fn 3 s (fun s => .next (emit s (.value p 0))) (fun u => emit_fuse u _) hw
theorem execRcRegisterRead_fuse (p : Port) (fn : Nat) (r : ReadAt) (s : State) {w} (hw : s.fuse = w) : Fx w (execRcRegisterRead p fn r s) := by unfold execRcRegisterRead; grind [readBar_fuse, cfgAccess_fuse, emit_fuse, foldl_fuse, Fx]
theorem fillTokens_fuse (s : State) : (fillTokens s).fuse = s.fuse := by
  unfold fillTokens; dsimp only
  rw [foldl_fuse _ (fun u k => modCmd_fuse u _ _ _), foldl_fuse _ (fun u k => modCmd_fuse u _ _ _)]
theorem fillDirect_fuse (s : State) : (fillDirect s).fuse = s.fuse := by rfl
theorem countState_fuse (s : State) : (countState s).fuse = s.fuse := by simp [countState, apply_ite State.fuse]
theorem tick_fuse (s : State) : (tick s).fuse = s.fuse := by simp [tick, watchGate_fuse, fillDirect_fuse, fillTokens_fuse, countState_fuse, endPauses_fuse, apply_ite State.fuse]
theorem State.withFetchWord_fuse (s : State) (nbits w : Nat) : (State.withFetchWord s nbits w).fuse = s.fuse := by rfl
/-- No command but FUSE_UPDATE writes the fuses. -/
theorem exec_fuse (c : Instr) (s : State) (hc : c ≠ .fuseUpdate) : Fx s.fuse (exec c s) :=
  match c, hc with
  | .trsWrite x0 x1 x2 x3, _ => execTrsWrite_fuse x0 x1 x2 x3 s rfl
  | .trsCommit x0 x1 x2 x3, _ => execTrsCommit_fuse x0 x1 x2 x3 s rfl
  | .read x0 x1 x2, _ => execRead_fuse x0 x1 x2 s rfl
  | .write x0 x1 x2, _ => execWrite_fuse x0 x1 x2 s rfl
  | .append x0 x1 x2, _ => execAppend_fuse x0 x1 x2 s rfl
  | .zoneOpen x0 x1 x2, _ => execZoneOpen_fuse x0 x1 x2 s rfl
  | .zoneClose x0 x1 x2, _ => execZoneClose_fuse x0 x1 x2 s rfl
  | .zoneFinish x0 x1 x2, _ => execZoneFinish_fuse x0 x1 x2 s rfl
  | .zoneReset x0 x1 x2, _ => execZoneReset_fuse x0 x1 x2 s rfl
  | .flush x0 x1 x2, _ => execFlush_fuse x0 x1 x2 s rfl
  | .abort x0 x1, _ => execAbort_fuse x0 x1 s rfl
  | .zoneReport x0 x1 x2, _ => execZoneReport_fuse x0 x1 x2 s rfl
  | .copy x0 x1 x2, _ => execCopy_fuse x0 x1 x2 s rfl
  | .verify x0 x1 x2, _ => execVerify_fuse x0 x1 x2 s rfl
  | .hint x0 x1 x2, _ => execHint_fuse x0 x1 x2 s rfl
  | .invalidOpcode x0 x1, _ => execInvalidOpcode_fuse x0 x1 s rfl
  | .admissionRelease x0 x1 x2, _ => execAdmissionRelease_fuse x0 x1 x2 s rfl
  | .refusalAfterWaiting x0 x1, _ => execRefusalAfterWaiting_fuse x0 x1 s rfl
  | .extentListFetch x0 x1 x2, _ => execExtentListFetch_fuse x0 x1 x2 s rfl
  | .writeAcknowledgement x0 x1, _ => execWriteAcknowledgement_fuse x0 x1 s rfl
  | .readerResume x0 x1, _ => execReaderResume_fuse x0 x1 s rfl
  | .zoneResetApply x0 x1, _ => execZoneResetApply_fuse x0 x1 s rfl
  | .mirrorWrite x0 x1, _ => execMirrorWrite_fuse x0 x1 s rfl
  | .completionPost x0 x1 x2, _ => execCompletionPost_fuse x0 x1 x2 s rfl
  | .ringEnable x0 x1 x2 x3, _ => execRingEnable_fuse x0 x1 x2 x3 s rfl
  | .ringDisable x0 x1 x2 x3, _ => execRingDisable_fuse x0 x1 x2 x3 s rfl
  | .ringHeadWrite x0 x1 x2 x3, _ => execRingHeadWrite_fuse x0 x1 x2 x3 s rfl
  | .ringIenClear x0 x1 x2 x3, _ => execRingIenClear_fuse x0 x1 x2 x3 s rfl
  | .ringInterruptTimer x0 x1 x2, _ => execRingInterruptTimer_fuse x0 x1 x2 s rfl
  | .msixPendingSend x0 x1 x2, _ => execMsixPendingSend_fuse x0 x1 x2 s rfl
  | .portLost x0 x1 x2, _ => execPortLost_fuse x0 x1 x2 s rfl
  | .portUp x0 x1 x2 x3, _ => execPortUp_fuse x0 x1 x2 x3 s rfl
  | .dmaReadFail x0 x1 x2, _ => execDmaReadFail_fuse x0 x1 x2 s rfl
  | .completionTimeout x0 x1 x2, _ => execCompletionTimeout_fuse x0 x1 x2 s rfl
  | .flr x0 x1 x2, _ => execFlr_fuse x0 x1 x2 s rfl
  | .pf0Flr x0 x1, _ => execPf0Flr_fuse x0 x1 s rfl
  | .vfEnableWrite x0 x1 x2, _ => execVfEnableWrite_fuse x0 x1 x2 s rfl
  | .numvfsWrite x0 x1 x2, _ => execNumvfsWrite_fuse x0 x1 x2 s rfl
  | .busMasterEnableClear x0 x1, _ => execBusMasterEnableClear_fuse x0 x1 s rfl
  | .pf0D3hot x0, _ => execPf0D3hot_fuse x0 s rfl
  | .perstDeassert x0, _ => execPerstDeassert_fuse x0 s rfl
  | .unsupportedRequest x0 x1 x2 x3, _ => execUnsupportedRequest_fuse x0 x1 x2 x3 s rfl
  | .registerWrite x0 x1 x2 x3 x4 x5, _ => execRegisterWrite_fuse x0 x1 x2 x3 x4 x5 s rfl
  | .rcRegisterRead x0 x1 x2, _ => execRcRegisterRead_fuse x0 x1 x2 s rfl
  | .d2dLaneFault x0 x1, _ => execD2dLaneFault_fuse x0 x1 s rfl
  | .coreHang x0 x1 x2, _ => execCoreHang_fuse x0 x1 x2 s rfl
  | .arrayOpStart x0, _ => execArrayOpStart_fuse x0 s rfl
  | .flashReadDone x0 x1 x2, _ => execFlashReadDone_fuse x0 x1 x2 s rfl
  | .softDecodeDone x0 x1 x2 x3, _ => execSoftDecodeDone_fuse x0 x1 x2 x3 s rfl
  | .programDone x0 x1, _ => execProgramDone_fuse x0 x1 s rfl
  | .eraseDone x0 x1, _ => execEraseDone_fuse x0 x1 s rfl
  | .programSuspend x0, _ => execProgramSuspend_fuse x0 s rfl
  | .suspendReady x0, _ => execSuspendReady_fuse x0 s rfl
  | .resume x0, _ => execResume_fuse x0 s rfl
  | .sequencerHang x0 x1, _ => execSequencerHang_fuse x0 x1 s rfl
  | .lunHang x0, _ => execLunHang_fuse x0 s rfl
  | .resetLunDone x0 x1, _ => execResetLunDone_fuse x0 x1 s rfl
  | .zqCalibrationShort x0 x1, _ => execZqCalibrationShort_fuse x0 x1 s rfl
  | .flashTemperatureRead x0 x1 x2, _ => execFlashTemperatureRead_fuse x0 x1 x2 s rfl
  | .channelRetrain x0 x1, _ => execChannelRetrain_fuse x0 x1 s rfl
  | .retrain x0 x1, _ => execRetrain_fuse x0 x1 s rfl
  | .cntClrFch x0 x1, _ => execCntClrFch_fuse x0 x1 s rfl
  | .foldGroupStart x0 x1 x2, _ => execFoldGroupStart_fuse x0 x1 x2 s rfl
  | .wordlineVerifyDone x0 x1 x2 x3, _ => execWordlineVerifyDone_fuse x0 x1 x2 x3 s rfl
  | .relocationStart x0, _ => execRelocationStart_fuse x0 s rfl
  | .patrolVisit x0 x1, _ => execPatrolVisit_fuse x0 x1 s rfl
  | .calibrationRead x0 x1 x2 x3, _ => execCalibrationRead_fuse x0 x1 x2 x3 s rfl
  | .halfEraseCheck x0 x1 x2, _ => execHalfEraseCheck_fuse x0 x1 x2 s rfl
  | .readyListRefill x0, _ => execReadyListRefill_fuse x0 s rfl
  | .healthSummary x0, _ => execHealthSummary_fuse x0 s rfl
  | .thresholdTableSave, _ => execThresholdTableSave_fuse s rfl
  | .hltTsel x0 x1, _ => execHltTsel_fuse x0 x1 s rfl
  | .partialRowStage x0 x1, _ => execPartialRowStage_fuse x0 x1 s rfl
  | .thermalControlPeriod x0, _ => execThermalControlPeriod_fuse x0 s rfl
  | .sensorTimeout x0, _ => execSensorTimeout_fuse x0 s rfl
  | .flagDwellExpiry x0, _ => execFlagDwellExpiry_fuse x0 s rfl
  | .shutdownDrainEnd x0, _ => execShutdownDrainEnd_fuse x0 s rfl
  | .sensorExclude x0 x1, _ => execSensorExclude_fuse x0 x1 s rfl
  | .cntClrThm x0, _ => execCntClrThm_fuse x0 s rfl
  | .admTwinSel x0 x1, _ => execAdmTwinSel_fuse x0 x1 s rfl
  | .bpmSpill, _ => execBpmSpill_fuse s rfl
  | .bpmRefill, _ => execBpmRefill_fuse s rfl
  | .cipherChargeRetry x0, _ => execCipherChargeRetry_fuse x0 s rfl
  | .backOffRetry x0 x1 x2, _ => execBackOffRetry_fuse x0 x1 x2 s rfl
  | .bpmTest x0, _ => execBpmTest_fuse x0 s rfl
  | .cntClrBpm x0, _ => execCntClrBpm_fuse x0 s rfl
  | .bpmTsel x0 x1, _ => execBpmTsel_fuse x0 x1 s rfl
  | .skimRead x0 x1, _ => execSkimRead_fuse x0 x1 s rfl
  | .correctedWriteBack x0 x1, _ => execCorrectedWriteBack_fuse x0 x1 s rfl
  | .mergeEntryTimeout x0 x1 x2, _ => execMergeEntryTimeout_fuse x0 x1 x2 s rfl
  | .hbmRefresh x0, _ => execHbmRefresh_fuse x0 s rfl
  | .skimSlow x0, _ => execSkimSlow_fuse x0 s rfl
  | .ceRate x0, _ => execCeRate_fuse x0 s rfl
  | .mepFlipArm x0 x1, _ => execMepFlipArm_fuse x0 x1 s rfl
  | .mepTestWrite x0 x1, _ => execMepTestWrite_fuse x0 x1 s rfl
  | .mepTestRead x0 x1, _ => execMepTestRead_fuse x0 x1 s rfl
  | .logClr x0, _ => execLogClr_fuse x0 s rfl
  | .cntClrMep x0, _ => execCntClrMep_fuse x0 s rfl
  | .mepLogSel x0 x1, _ => execMepLogSel_fuse x0 x1 s rfl
  | .pwrfailAssert, _ => execPwrfailAssert_fuse s rfl
  | .flushDmaCutoff x0, _ => execFlushDmaCutoff_fuse x0 s rfl
  | .flushEnd, _ => execFlushEnd_fuse s rfl
  | .pwrfailHighTimeout, _ => execPwrfailHighTimeout_fuse s rfl
  | .journalPageProgram x0, _ => execJournalPageProgram_fuse x0 s rfl
  | .checkpoint, _ => execCheckpoint_fuse s rfl
  | .zoneTableWriteback x0, _ => execZoneTableWriteback_fuse x0 s rfl
  | .interruptedBlockRepair x0 x1, _ => execInterruptedBlockRepair_fuse x0 x1 s rfl
  | .keyLoad x0 x1, _ => execKeyLoad_fuse x0 x1 s rfl
  | .keyEvict x0 x1, _ => execKeyEvict_fuse x0 x1 s rfl
  | .keyEvictReply x0, _ => execKeyEvictReply_fuse x0 s rfl
  | .plainKekClose x0, _ => execPlainKekClose_fuse x0 s rfl
  | .cntClrCip x0, _ => execCntClrCip_fuse x0 s rfl
  | .cipTsel x0 x1, _ => execCipTsel_fuse x0 x1 s rfl
  | .sanitize x0, _ => execSanitize_fuse x0 s rfl
  | .sanitizeDone x0, _ => execSanitizeDone_fuse x0 s rfl
  | .mbxDoorbell x0 x1 x2, _ => execMbxDoorbell_fuse x0 x1 x2 s rfl
  | .mbxPop x0 x1 x2, _ => execMbxPop_fuse x0 x1 x2 s rfl
  | .mbxLockRead x0 x1, _ => execMbxLockRead_fuse x0 x1 s rfl
  | .mbxLockRelease x0 x1 x2, _ => execMbxLockRelease_fuse x0 x1 x2 s rfl
  | .mbxBreak x0 x1, _ => execMbxBreak_fuse x0 x1 s rfl
  | .mbxTakeRequest x0, _ => execMbxTakeRequest_fuse x0 s rfl
  | .mbxReplyPost x0, _ => execMbxReplyPost_fuse x0 s rfl
  | .mbxInvalidOpcode x0, _ => execMbxInvalidOpcode_fuse x0 s rfl
  | .identify x0, _ => execIdentify_fuse x0 s rfl
  | .getLog x0, _ => execGetLog_fuse x0 s rfl
  | .setConfig x0 x1, _ => execSetConfig_fuse x0 x1 s rfl
  | .getConfig x0, _ => execGetConfig_fuse x0 s rfl
  | .tenantCreate x0 x1, _ => execTenantCreate_fuse x0 x1 s rfl
  | .tenantDelete x0, _ => execTenantDelete_fuse x0 s rfl
  | .fwStage x0 x1, _ => execFwStage_fuse x0 x1 s rfl
  | .fwStageLast x0 x1, _ => execFwStageLast_fuse x0 x1 s rfl
  | .fwActivateLive x0, _ => execFwActivateLive_fuse x0 s rfl
  | .fwActivateNextReset x0, _ => execFwActivateNextReset_fuse x0 s rfl
  | .fwActivateWarmReset x0, _ => execFwActivateWarmReset_fuse x0 s rfl
  | .health x0, _ => execHealth_fuse x0 s rfl
  | .thermalSet x0, _ => execThermalSet_fuse x0 s rfl
  | .quadrantReset x0, _ => execQuadrantReset_fuse x0 s rfl
  | .evrecPersist x0, _ => execEvrecPersist_fuse x0 s rfl
  | .quadrantResetBegin x0, _ => execQuadrantResetBegin_fuse x0 s rfl
  | .quadrantResetDone x0 x1, _ => execQuadrantResetDone_fuse x0 x1 s rfl
  | .quadrantResetFail x0 x1, _ => execQuadrantResetFail_fuse x0 x1 s rfl
  | .liveActivationDone x0, _ => execLiveActivationDone_fuse x0 s rfl
  | .liveActivationRevert x0, _ => execLiveActivationRevert_fuse x0 s rfl
  | .setEndpointId x0 x1, _ => execSetEndpointId_fuse x0 x1 s rfl
  | .getEndpointId, _ => execGetEndpointId_fuse s rfl
  | .getEndpointUuid, _ => execGetEndpointUuid_fuse s rfl
  | .getMctpVersionSupport x0, _ => execGetMctpVersionSupport_fuse x0 s rfl
  | .getMessageTypeSupport, _ => execGetMessageTypeSupport_fuse s rfl
  | .getVendorDefinedMessageSupport x0, _ => execGetVendorDefinedMessageSupport_fuse x0 s rfl
  | .mctpLock x0, _ => execMctpLock_fuse x0 s rfl
  | .mctpRelease x0, _ => execMctpRelease_fuse x0 s rfl
  | .mctpSend x0 x1 x2, _ => execMctpSend_fuse x0 x1 x2 s rfl
  | .mctpFetch x0, _ => execMctpFetch_fuse x0 s rfl
  | .mctpStatus x0, _ => execMctpStatus_fuse x0 s rfl
  | .mctpBreak x0, _ => execMctpBreak_fuse x0 s rfl
  | .smbusAlertResponse, _ => execSmbusAlertResponse_fuse s rfl
  | .refclkMissing x0, _ => execRefclkMissing_fuse x0 s rfl
  | .refclkComparison x0 x1 x2 x3, _ => execRefclkComparison_fuse x0 x1 x2 x3 s rfl
  | .singleReferenceBoot, _ => execSingleReferenceBoot_fuse s rfl
  | .pllFault x0 x1, _ => execPllFault_fuse x0 x1 s rfl
  | .bothReferencesLost, _ => execBothReferencesLost_fuse s rfl
  | .clockGateOn x0 x1, _ => execClockGateOn_fuse x0 x1 s rfl
  | .clockGateOff x0 x1, _ => execClockGateOff_fuse x0 x1 s rfl
  | .p1Entry x0, _ => execP1Entry_fuse x0 s rfl
  | .p2Entry, _ => execP2Entry_fuse s rfl
  | .p3Entry, _ => execP3Entry_fuse s rfl
  | .wakeComplete x0 x1, _ => execWakeComplete_fuse x0 x1 s rfl
  | .maxState x0 x1, _ => execMaxState_fuse x0 x1 s rfl
  | .warm x0 x1, _ => execWarm_fuse x0 x1 s rfl
  | .quiesceTimeout x0, _ => execQuiesceTimeout_fuse x0 s rfl
  | .powerOn, _ => execPowerOn_fuse s rfl
  | .bootPwrfailRelease, _ => execBootPwrfailRelease_fuse s rfl
  | .bootCandidateFail x0, _ => execBootCandidateFail_fuse x0 s rfl
  | .bootReady, _ => execBootReady_fuse s rfl
  | .fuseUpdate, h => absurd rfl h
  | .bootFlashRead x0, _ => execBootFlashRead_fuse x0 s rfl
  | .repeat, _ => execRepeat_fuse s rfl
  | .eventPersistWrite, _ => execEventPersistWrite_fuse s rfl
  | .freeze x0 x1, _ => execFreeze_fuse x0 x1 s rfl
  | .unfreeze x0 x1, _ => execUnfreeze_fuse x0 x1 s rfl
  | .clr x0 x1, _ => execClr_fuse x0 x1 s rfl
  | .evrClearDone, _ => execEvrClearDone_fuse s rfl
  | .evrCursor x0 x1, _ => execEvrCursor_fuse x0 x1 s rfl
  | .evrFetchDone x0, _ => execEvrFetchDone_fuse x0 s rfl
  | .evrData7Read x0, _ => execEvrData7Read_fuse x0 s rfl
  | .hltTelSnap x0 x1, _ => execHltTelSnap_fuse x0 x1 s rfl
  | .tapReset, _ => execTapReset_fuse s rfl
  | .idcode, _ => execIdcode_fuse s rfl
  | .samplePreload x0, _ => execSamplePreload_fuse x0 s rfl
  | .extest, _ => execExtest_fuse s rfl
  | .highz, _ => execHighz_fuse s rfl
  | .clamp, _ => execClamp_fuse s rfl
  | .bypass x0, _ => execBypass_fuse x0 s rfl
  | .railUndervoltage x0, _ => execRailUndervoltage_fuse x0 s rfl
  | .testEnAssert, _ => execTestEnAssert_fuse s rfl
  | .refclkEdgesReturn x0, _ => execRefclkEdgesReturn_fuse x0 s rfl
  | .busMasterEnableSet x0 x1, _ => execBusMasterEnableSet_fuse x0 x1 s rfl
  | .pf0D3hotExit x0, _ => execPf0D3hotExit_fuse x0 s rfl
  | .aspmL1Entry x0, _ => execAspmL1Entry_fuse x0 s rfl
  | .bootPhaseDone x0 x1, _ => execBootPhaseDone_fuse x0 x1 s rfl
  | .bootFlashWriteDone x0, _ => execBootFlashWriteDone_fuse x0 s rfl
  | .fwActivateResetTimeout, _ => execFwActivateResetTimeout_fuse s rfl
end Sys2Proof.Machine
end

