-- ==== Sys2Proof/Tests/Slice0.lean ====
section
/-! SUPPORT. Tests of the model on small states: well-formedness, register and protocol examples of the manual, and for every obligation
states and operands that meet its hypotheses. -/

namespace Sys2Proof.Tests

open Sys2Proof Sys2Proof.Machine

/-! ### Small states -/

/-- A port that is up, with two VFs and every space and bus mastering enabled. -/
def upPort : PortSt :=
  { linkUp := true, perst := false, vfEn := true, numVfs := 2, pf0 := { mse := true, bme := true }, vfs := [(1, { mse := true, bme := true })] }

/-- A device that has booted, with tenant 0 and both ports up; agent 1 owns mailbox 0 and agent 3 mailbox 1. -/
def dev : State :=
  { pa := upPort, pb := upPort, tenants := [(0, some {})], pins := { porHeld := false }
    boot := { phase := 9, ready := true, slot := 0 }
    bpm := { ready := true, head := 4096, stack := 16773120 }
    mbxs := [(0, { owner := 1 }), (1, { owner := 3 }), (2, { owner := 0 })]
    ckm := { refA := { st := 2 }, refB := { st := 2 } }
    hlt := { known := true }
    nowNs := 1000000000000 }

/-- `dev` with ring 0 of VF 1 of port A as given. -/
def withRing (r : Ring) : State := { dev with pa := { upPort with vfs := [(1, { mse := true, bme := true, cas := { rings := [(0, r)] } })] } }

/-- `dev` with the casement of VF 1 of port A as given. -/
def withCas (c : Casement) : State := { dev with pa := { upPort with vfs := [(1, { mse := true, bme := true, cas := c })] } }

/-- An enabled ring of 64 entries. -/
def ring6 : Ring := { en := true, sizeLog2 := 6 }

/-- A packet of opcode `op` and DWORD 10 `d10`, with tag 7, as host software commits it with sequence 0. -/
def packet (op d10 : Nat) : List Word := [BitVec.ofNat 32 (7 * 65536 + op), 0, 0, 0, 0, 0, 0, 0, 0, 0, BitVec.ofNat 32 d10, 0, 0, 0, 0, 0xC3#32]

/-- A command of tenant 0 that came through VF 1 of port A. -/
def cmd (seq : Nat) (pkt : List Word) (ph : Ph) : Cmd := { tenant := 0, seq := seq, port := .a, fn := 1, pkt := pkt, ph := ph, outFn := 1 }

/-- `dev` with an enabled ring and these commands. -/
def withCmds (l : List Cmd) : State := { withRing ring6 with cmds := l }

/-! ### States that meet the hypotheses of each obligation -/

theorem wit_StepRunsCommand : ({ dev with pending := [.bpmSpill] } : State).pending = .bpmSpill :: [] ∧ dev.pending = [] := by decide

theorem wit_RingsAreControlled :
    (Writable dev .a 1 ∧ (getRing dev .a 1 0).en = false ∧ flag 0x601#32 0 = true ∧ (0x601#32).toNat &&& 0xE0E2 = 0 ∧ 6 ≤ fld 0x601#32 8 5 ∧
        fld 0x601#32 8 5 ≤ 16) ∧
      (flag 0x1101#32 0 = true ∧ (0x1101#32).toNat &&& 0xE0E2 = 0 ∧ ¬(6 ≤ fld 0x1101#32 8 5 ∧ fld 0x1101#32 8 5 ≤ 16)) ∧
      (flag 0x600#32 0 = false ∧ (0x600#32).toNat &&& 0xE0E2 = 0) ∧
      (Writable (withRing ring6) .a 1 ∧ (getRing (withRing ring6) .a 1 0).en = true ∧ flag 0x601#32 0 = true ∧
        fld 0x601#32 8 5 = (getRing (withRing ring6) .a 1 0).sizeLog2) ∧
      (flag 0x605#32 0 = true ∧ flag 0x605#32 2 = true ∧ (0x605#32).toNat &&& 0xE0E2 = 0 ∧
        fld 0x605#32 16 8 + 1 ≤ (getRing (withRing { ring6 with unsig := 1 }) .a 1 0).unsig ∧ Writable (withRing { unsig := 1 }) .a 1 ∧
        (getRing (withRing { unsig := 1 }) .a 1 0).en = false ∧ fld 0x605#32 16 8 + 1 ≤ (getRing (withRing { unsig := 1 }) .a 1 0).unsig) := by decide

theorem wit_RingHeadWrites :
    (Writable dev .a 1 ∧ (getRing dev .a 1 0).en = false) ∧
      (Writable (withRing ring6) .a 1 ∧ (getRing (withRing ring6) .a 1 0).en = true ∧
        ((getRing (withRing ring6) .a 1 0).posted + p32 - (0#32).toNat) % p32 ≤ 2 ^ (getRing (withRing ring6) .a 1 0).sizeLog2) ∧
      (2 ^ (getRing (withRing ring6) .a 1 0).sizeLog2 < ((getRing (withRing ring6) .a 1 0).posted + p32 - (1#32).toNat) % p32) := by decide

/-- `dev` with vector 0 of VF 1 due, masked or not, and a ring with unsignalled entries. -/
def withVec (m : Bool) : State :=
  { dev with pa := { upPort with vfs := [(1, { mse := true, bme := true, vecs := [(0, { masked := m, pend := true })], cas := { rings := [(0, { ring6 with ien := true, itime := 1, unsig := 1 })] } })] } }

theorem wit_RingInterrupts :
    ((getRing (withVec true) .a 1 0).ien = true ∧ (getRing (withVec true) .a 1 0).en = true ∧ 0 < (getRing (withVec true) .a 1 0).itime ∧
        0 < (getRing (withVec true) .a 1 0).unsig ∧
        (getRing (withVec true) .a 1 0).firstUnsigNs + (getRing (withVec true) .a 1 0).itime * 1000 ≤ (withVec true).nowNs ∧ Held (withVec true) .a 1 0) ∧
      ¬Held (withVec false) .a 1 0 ∧ (Tab.get {} (getFn (withVec false) .a 1).vecs 0).pend = true ∧ (getPort (withVec false) .a).linkUp = true ∧
      (withVec false).ckm.stopped = false := by decide

theorem wit_CompletionIsPosted :
    let s := withCmds [cmd 3 (packet 8 0) .gen]
    (getRing s .a 1 0).en = true ∧ 0 < ringFree (getRing s .a 1 0) ∧ canWrite s .a 1 = true ∧ s.adm.postStop = false ∧
      nextFor s .a 1 0 = some (cmd 3 (packet 8 0) .gen) := by decide

theorem wit_MirrorIsWritten :
    let s := withCas { rings := [(0, { ring6 with mirror := true })], unmirrored := 8, taken := 8 }
    canWrite s .a 1 = true ∧ 0 < (getCas s .a 1).unmirrored ∧ 8 ≤ (getCas s .a 1).unmirrored ∧
      mirrorRing (getCas s .a 1) = some { ring6 with mirror := true } := by decide

/-- The bytes that a write encloses lie within its length. -/
theorem written_within {off a : Nat} {l : List (Option Byte)} (h : (written off l a).isSome = true) : off ≤ a ∧ a < off + l.length := by
  unfold written at h
  split at h
  · refine ⟨‹_›, ?_⟩
    by_cases hl : a - off < l.length
    · omega
    · rw [List.getElem?_eq_none (by omega)] at h; simp at h
  · simp at h

theorem wit_TrsWritesStore :
    (Reaches (withCas { valid := [3] }) .a 1 ∧ 1020 + [some 1#8, none, none, some 2#8].length ≤ 1024 ∧
      (∀ k ∈ (getCas (withCas { valid := [3] }) .a 1).valid,
        (k = (getCas (withCas { valid := [3] }) .a 1).taken % 16 → casOpen (withCas { valid := [3] }) 1 = false) ∧
        ∀ a, a / 64 = k → written 1020 [some 1#8, none, none, some 2#8] a = none) ∧
      ∀ k, written 1020 [some 1#8, none, none, some 2#8] (k * 64 + 60) = none ∨
        written 1020 [some 1#8, none, none, some 2#8] (k * 64 + 61) = none ∨
        written 1020 [some 1#8, none, none, some 2#8] (k * 64 + 60) ≠ some 0xC3#8) ∧
      ((∀ a, (written 192 [some 1#8] a).isSome = true → a / 64 = 3) ∧ 3 ∈ (getCas (withCas { valid := [3] }) .a 1).valid ∧
        (written 192 [some 1#8] 192).isSome = true ∧ 192 + [some 1#8].length ≤ 1024) ∧
      ((∀ a, (written 60 [some 0xC3#8, some 0#8] a).isSome = true → a / 64 = 0) ∧ 0 ∉ (getCas dev .a 1).valid ∧
        written 60 [some 0xC3#8, some 0#8] (0 * 64 + 60) = some 0xC3#8 ∧ (written 60 [some 0xC3#8, some 0#8] (0 * 64 + 61)).isSome = true ∧
        ∃ a, a < 60 ∧ written 60 [some 0xC3#8, some 0#8] (0 * 64 + a) = none ∧ Tab.get false (getCas dev .a 1).seen (0 * 64 + a) = false) := by
  refine ⟨⟨by decide, by decide, fun k hk => ?_, fun k => ?_⟩, ⟨fun a h => ?_, by decide, by decide, by decide⟩,
    ⟨fun a h => ?_, by decide, by decide, by decide, 0, by decide⟩⟩
  · have h : k = 3 := by simpa [withCas, getCas, getFn, getPort, dev, upPort, Tab.get] using hk
    subst h
    refine ⟨by decide, fun a ha => ?_⟩
    simp only [written]; rw [if_neg (by omega)]
  · by_cases h : k = 15
    · subst h; decide
    · refine Or.inl ?_
      cases hw : written 1020 [some 1#8, none, none, some 2#8] (k * 64 + 60) with
      | none => rfl
      | some _ => have := written_within (by rw [hw]; rfl); simp at this; omega
  · have := written_within h; simp at this; omega
  · have := written_within h; simp at this; omega

theorem wit_CommitIsCaptured :
    Reaches dev .a 1 ∧ dev.boot.ready = true ∧ dev.adm.casStopped = false ∧ getTen dev (1 - 1) = some {} ∧ (getCas dev .a 1).valid = [] ∧
      (packet 8 0).length = 16 ∧ pktD (packet 8 0) 15 % 256 = 0xC3 ∧ pktD (packet 8 0) 15 / 256 % 256 = (getCas dev .a 1).taken % 256 ∧
      tagBusy dev (1 - 1) (pTag (packet 8 0)) = false := by decide

theorem wit_WrongSequenceIsRefused :
    (Reaches dev .a 1 ∧ hasTenant dev 1 = true ∧ (getCas dev .a 1).valid = [] ∧ (packet 8 0).length = 16 ∧ pktD (packet 8 0) 15 % 256 = 0xC3 ∧
        pktD (packet 8 0) 15 / 256 % 256 ≠ expectSeq (getCas dev .a 1).taken 15 ∧ dev.boot.ready = true) ∧
      (let s : State := { dev with pa := { upPort with vfs := [(2, { mse := true, bme := true })] } };
        Reaches s .a 2 ∧ hasTenant s 2 = false ∧ (getCas s .a 2).valid = [] ∧ s.boot.ready = true) ∧
      (let s : State := { dev with boot := { phase := 9 } };
        Reaches s .a 1 ∧ s.boot.ready = false ∧ (getCas s .a 1).valid = [] ∧
          pktD (packet 8 0) 15 / 256 % 256 = expectSeq (getCas s .a 1).taken 0) := by decide +kernel

/-- A FLUSH to be decoded, alone. -/
def atDecode (op d10 : Nat) : State := withCmds [cmd 3 (packet op d10) .captured]

theorem wit_CommandsAreQueued :
    AtDecode (atDecode 8 0) 0 3 (cmd 3 (packet 8 0) .captured) ∧ decodeRow (cOp (cmd 3 (packet 8 0) .captured)) 0 3 false = some (.flush 0 3 false) ∧
      (getRing (atDecode 8 0) .a 1 0).en = true ∧ decodeCheck (tenD (atDecode 8 0) 0) (packet 8 0) = none ∧ stateCheck (atDecode 8 0) 8 = none ∧
      contextStep (admCnt (atDecode 8 0) 0 .rt 0 1) 0 .rt .a false = none := by decide

theorem wit_FailedChecksComplete :
    (AtDecode (atDecode 1 0) 0 3 (cmd 3 (packet 1 0) .captured) ∧ (getRing (atDecode 1 0) .a 1 0).en = true ∧
        decodeRow (cOp (cmd 3 (packet 1 0) .captured)) 0 3 false = some (.read 0 3 false) ∧
        (decodeCheck (tenD (atDecode 1 0) 0) (packet 1 0)).isSome = true) ∧
      (let s := { atDecode 8 0 with adm := { shutdown := true } };
        AtDecode s 0 3 (cmd 3 (packet 8 0) .captured) ∧ decodeCheck (tenD s 0) (packet 8 0) = none ∧ (stateCheck s 8).isSome = true) ∧
      AtDecode (atDecode 14 0) 0 3 (cmd 3 (packet 14 0) .captured) ∧ 0x0D < cOp (cmd 3 (packet 14 0) .captured) := by decide

theorem wit_AbortResolves :
    let c := cmd 3 (packet 9 5) .captured
    let x := { cmd 2 (BitVec.ofNat 32 (5 * 65536 + 8) :: (packet 8 0).drop 1) .queued with granted := true }
    let y := { x with committed := true, ph := .exec }
    let s := withCmds [c]
    let t := withCmds [x, c]
    let u := withCmds [y, c]
    (getCmd s 0 3 = some c ∧ c.ph = .captured ∧ cOp c = 0x09 ∧ flushing s = false ∧ (getRing s .a 1 (pRing c.pkt)).en = true ∧
        decodeCheck (tenD s 0) c.pkt = none ∧ ∀ y ∈ s.cmds, y.tenant = 0 → y.seq < 3 → pTag y.pkt ≠ bits (pD10 c.pkt) 0 16) ∧
      (getCmd t 0 3 = some c ∧
        t.cmds.find? (fun y => y.tenant == 0 && pTag y.pkt == bits (pD10 c.pkt) 0 16 && decide (y.seq < 3)) = some x ∧
        getCmd t 0 x.seq = some x ∧ x.committed = false ∧ x.ph = .queued) ∧
      (getCmd u 0 3 = some c ∧
        u.cmds.find? (fun y => y.tenant == 0 && pTag y.pkt == bits (pD10 c.pkt) 0 16 && decide (y.seq < 3)) = some y ∧
        getCmd u 0 y.seq = some y ∧ y.committed = true) := by decide

/-- A packet with flags, zone, COUNT, DWORD 5 and LENGTH. -/
def pkt (op flags zone count d5 len : Nat) : List Word :=
  [BitVec.ofNat 32 (7 * 65536 + flags * 256 + op), BitVec.ofNat 32 zone, 0, 0, BitVec.ofNat 32 count, BitVec.ofNat 32 d5, 0, 0, BitVec.ofNat 32 len, 0, 0, 0, 0,
    0, BitVec.ofNat 32 (if flags % 2 = 1 then 1 else 0), 0xC3#32]

/-- A tenant with full buckets, eight zones and conventional zones 0 and 1. -/
def rich : Tenant :=
  { nz := 8, nc := 2, openMax := 4, rt := { sillOps := 1000, sillMbps := 1000, bktB := 1000000000000000000, bktO := 1000000000000000000 } }

/-- `withCmds` with tenant 0 rich and these zones. -/
def withRich (l : List Cmd) (z : Tab Zone) : State := { withCmds l with tenants := [(0, some rich)], zones := z }

/-- An extent list of one extent of 4 KiB, as host memory holds it. -/
def oneExtent : List Byte := leBytes 8 0x1000 ++ leBytes 4 4096 ++ leBytes 4 0

theorem wit_WaitersEnd :
    (let c := cmd 3 (pkt 8 0 0 0 (1 * 65536) 0) .queued;
      getCmd (withCmds [c]) 0 3 = some c ∧ c.ph = .queued ∧ (withCmds [c]).adm.stop = false ∧ boundOf (withCmds [c]) c ≠ .none) ∧
      (let c := { cmd 3 (pkt 2 0 2 1 (1 * 65536) 4096) .blockWait with blockNs := some 0 };
        getCmd (withCmds [c]) 0 3 = some c ∧ c.ph = .blockWait ∧ boundOf (withCmds [c]) c ≠ .none) ∧
      (let c := { cmd 3 (pkt 1 1 2 1 0 4096) .listWait with released := true, granted := true };
        let s := withCmds [c];
        getCmd s 0 3 = some c ∧ c.ph = .listWait ∧ dmaRuns s c = true ∧
          listOk c.pkt (parseExtents [] (pXcount c.pkt)) = false ∧ listOk c.pkt (parseExtents oneExtent (pXcount c.pkt)) = true ∧
          c.relNs + cplTimeoutNs (getFn s c.port c.fn).cplTimeout ≤ s.nowNs) ∧
      (let c := { cmd 3 (pkt 2 0 2 1 0 4096) .exec with released := true, committed := true };
        getCmd (withCmds [c]) 0 3 = some c ∧ c.ph = .exec ∧ c.committed = true ∧ c.acked = false ∧ cOp c = 0x02) := by decide

theorem wit_HeadsAreReleased :
    (let c := { cmd 3 (pkt 1 1 2 1 0 4096) .queued with granted := true };
      laneHead (withRich [c] []) 0 .rt false = some c ∧ getCmd (withRich [c] []) 0 3 = some c ∧ (withRich [c] []).adm.stop = false ∧
        laneHead (withRich [c] []) 0 .rt (!false) = none ∧ getTen (withRich [c] []) 0 = some rich ∧ canRelease (withRich [c] []) c = true ∧
        needsKey (cOp c) = true ∧ keyReady (withRich [c] []) 0 = false) ∧
      (let c := { cmd 3 (pkt 1 1 2 1 0 4096) .queued with granted := true };
        let s := { withRich [c] [] with tenants := [(0, some { rich with cipherOff := true })] };
        laneHead s 0 .rt false = some c ∧ laneHead s 0 .rt (!false) = none ∧ canRelease s c = true ∧ keyReady s 0 = true ∧ pXL c.pkt = true) ∧
      (let c := { cmd 3 (pkt 13 0 2 0 0 0) .queued with granted := true };
        laneHead (withCmds [c]) 0 .rt false = some c ∧ laneHead (withCmds [c]) 0 .rt (!false) = none ∧ canRelease (withCmds [c]) c = false) := by decide

/-- A released zone command at the head of its lane, with its zone as given. -/
def zoneCmd (op hint : Nat) (z : Zone) : State := withRich [{ cmd 3 (pkt op 0 2 0 (hint * 16) 0) .queued with granted := true }] [(2, z)]

/-- What every clause on zone commands asks. -/
abbrev ZoneHead (op hint : Nat) (z : Zone) : Prop :=
  let c := { cmd 3 (pkt op 0 2 0 (hint * 16) 0) .queued with granted := true }
  laneHead (zoneCmd op hint z) 0 .rt false = some c ∧ getCmd (zoneCmd op hint z) 0 3 = some c ∧ (zoneCmd op hint z).adm.stop = false ∧
    laneHead (zoneCmd op hint z) 0 .rt true = none ∧ canRelease (zoneCmd op hint z) c = true ∧ getTen (zoneCmd op hint z) 0 = some rich ∧
    pXL c.pkt = false ∧ rich.nc ≤ pZone c.pkt ∧ (getZone (zoneCmd op hint z) 0 (pZone c.pkt)).resetWait = none ∧
    (getZone (zoneCmd op hint z) 0 (pZone c.pkt)).tabLost = false ∧ (zoneCmd op hint z).rst.actState = 0 ∧ pHint c.pkt ≠ 3 ∧ cOp c = op

theorem wit_ZonesChange :
    (ZoneHead 4 1 {} ∧ (getZone (zoneCmd 4 1 {}) 0 2).st = .empty ∧ openCount (zoneCmd 4 1 {}) 0 < rich.openMax ∧ openAll (zoneCmd 4 1 {}) < 65536) ∧
      (ZoneHead 5 0 { st := .opened } ∧ (getZone (zoneCmd 5 0 { st := .opened }) 0 2).st = .opened ∧
        (getZone (zoneCmd 5 0 { st := .opened }) 0 2).wp = 0) ∧
      (ZoneHead 6 0 { st := .opened, wp := 5 } ∧ (getZone (zoneCmd 6 0 { st := .opened, wp := 5 }) 0 2).st = .opened) ∧
      (ZoneHead 13 4 { st := .opened, wp := 5 } ∧ (getZone (zoneCmd 13 4 { st := .opened, wp := 5 }) 0 2).st = .opened) ∧
      (let c := { cmd 3 (pkt 7 0 2 0 0 0) .resetWait with released := true };
        let s := withRich [c] [(2, { st := .opened, resetWait := some 3 })];
        getCmd s 0 3 = some c ∧ c.ph = .resetWait ∧ transfersInto s 0 (pZone c.pkt) = false ∧ s.rst.actState = 0 ∧ ∀ x ∈ s.cmds, x.ph ≠ .heldReset) :=
  ⟨⟨by decide +kernel, by decide +kernel⟩, ⟨by decide +kernel, by decide +kernel⟩, ⟨by decide +kernel, by decide +kernel⟩,
    ⟨by decide +kernel, by decide +kernel⟩, by decide +kernel⟩

theorem wit_TransfersEnd :
    (let c := { cmd 3 (pkt 2 0 2 1 0 4096) .exec with released := true, committed := true, vers := [1] };
      let s := { withRich [c] [(2, { st := .opened, wp := 1 })] with vers := [(1, { zone := 2, hbm := true })] };
      getCmd s 0 3 = some c ∧ c.ph = .exec ∧ c.committed = true ∧ c.acked = false ∧ cOp c = 0x02 ∧ dmaRuns s c = true ∧ pFUA c.pkt = false ∧
        ∀ v ∈ c.vers, (getVer s v).hbm = true ∨ keyGone s v = false) ∧
      (let c := { cmd 3 (pkt 11 0 2 1 0 4096) .exec with released := true, committed := true, vers := [1] };
        let s := { withRich [c] [(2, { st := .opened, wp := 1 })] with vers := [(1, { zone := 2, hbm := true })] };
        getCmd s 0 3 = some c ∧ c.ph = .exec ∧ c.committed = true ∧ c.acked = false ∧ cOp c = 0x0B ∧ c.todo = [] ∧ c.failLba = none ∧
          pFUA c.pkt = false ∧ ∀ v ∈ c.vers, (getVer s v).hbm = true ∨ keyGone s v = false) ∧
      (let c := { cmd 3 (pkt 1 0 2 1 0 4096) .heldReader with released := true };
        let s := withRich [c] [(2, { st := .opened, wp := 1 })];
        getCmd s 0 3 = some c ∧ c.ph = .heldReader ∧ readerHeld s c = false ∧ s.rst.actState = 0 ∧ cOp c = 0x01 ∧ c.todo = [] ∧ c.keyWait = [] ∧
          c.failLba = none ∧ (getZone s 0 (pZone c.pkt)).tabLost = false ∧
          (getZone s 0 (pZone c.pkt)).st ≠ .offline ∧ (getZone s 0 (pZone c.pkt)).resetWait = none ∧
          ∀ lba, visibleTo s 0 (pZone c.pkt) lba 3 c.skip = none) := by
  refine ⟨by decide, by decide, by decide, by decide, by decide, by decide, by decide, by decide, by decide, by decide, by decide, by decide,
    by decide, fun lba => rfl⟩

theorem wit_ConfigurationWrites :
    CfgReaches dev .a 1 ∧ CfgReaches dev .a 0 ∧ 1024 < 1025 ∧ ((getPort dev .a).numVfs ≤ 1024) := by decide

theorem wit_RemovedFunctionsAreReset : (1 : Nat) ≠ 0 ∧ CfgReaches dev .a 1 ∧ (getPort dev .a).vfEn = true ∧ 0 < 1 ∧ 0 ≤ 1024 := by decide

theorem wit_PortsAreLostAndReturn :
    (getPort dev .a).linkUp = true ∧
      (let s := { dev with pa := {}, ckm := { dev.ckm with plls := [(11, { on := true, lock := true, stable := true })] } };
        portLogic { s with pa := { perst := false } } .a = true ∧ (getPort { s with pa := { perst := false } } .a).linkUp = false ∧
          (getPort { s with pa := { perst := false } } .a).lossDue = false ∧ linkModeOk 6 16 true = true ∧ linkModeOk 1 1 false = true) := by decide

theorem wit_FaultsAreAnswered :
    ((0 : Nat) < 4 ∧ Tab.get 0 dev.media.links 0 < 2 ∧ Recordable dev (0xA000 + 0) 0xA001) ∧
      (let s := { dev with media := { links := [(3, 2)] } };
        (3 : Nat) < 4 ∧ Tab.get 0 s.media.links 3 = 2 ∧ Recordable s (0xA000 + 3) 0xA002) ∧
      3 ≤ Tab.get 0 ({ dev with media := { links := [(3, 3)] } } : State).media.links 3 ∧
      (15 < (if (0 : Nat) = 0 then 16 else 8) ∧ Recordable dev (0xF000 + 0 * 256 + 15) 0xF001 ∧
        7 < (if (4 : Nat) = 0 then 16 else if (4 : Nat) < 5 then 8 else 0) ∧ Recordable dev (0xF000 + 4 * 256 + 7) 0xF001) ∧
      ((getPort dev .a).linkUp = true ∧ dev.ckm.stopped = false ∧ fnExists dev .a 3 = false ∧
        (if (1 : Nat) = 0 then 16777216 else 65536) ≤ 65536) := by decide

/-! #### Flash -/

/-- Channel 0 with one volume of four LUNs of 2 Tb, each with 256 spare blocks. -/
def flash : Media :=
  { chans := [(0, { trained := true, wp := false, vols := [(0, { present := true, luns := 4 })] })], idCtr := 9, lunTbit := 2, lunBlocks := 8448 }

/-- A read of sector 0 of QLC page 0 of block 5, for a READ. -/
def rd0 : Rd :=
  { id := 1, why := .cmd 0 3, cls := 0, order := 0, blk := 5, page := 0, qlc := true, secs := [{ plane := 0, sector := 0, ver := 1, sub := 0 }], tier := 0,
    lr := false, ahead := 0, ovf := false, susp := false }

/-- A program of a kind for page 0 of block 5. -/
def pg0 (k : PgKind) : Pg := { id := 2, kind := k, blk := 5, page := 0, fua := false, bg := false, sinceNs := 0 }

/-- An erase of block 5 whose intent is durable. -/
def er0 : Er := { blk := 5, sinceNs := 0, jno := 0 }

/-- A LUN 0 that runs a read of block 5 for the XV8's own ends. -/
def rdLun (w : Why) (page : Nat) : Lun := { op := some { k := .rd { rd0 with why := w, cls := 3, page := page }, runNs := 0, tokens := 0 } }

/-- `dev` with LUN 0 as given, and with block 5 as given. -/
def withLun (u : Lun) (f : FBlk) : State := { dev with plp := { dev.plp with jSeq := 1 }, media := { flash with luns := [(0, u)], blks := [(5, f)] } }

/-- LUN 0 with an operation under way since the start. -/
def opLun (k : OpK) : Lun := { op := some { k := k, runNs := 0, tokens := 0 } }

theorem wit_ArrayOperationsStart :
    (let s := withLun { rq := [rd0] } {};
      lunRuns s 0 = true ∧ (getLun s 0).op = none ∧ (getLun s 0).sub = none ∧ (getLun s 0).ovf = [] ∧ (getLun s 0).rq = [rd0] ∧
        (getLun s 0).pq = [] ∧ (getLun s 0).eq = [] ∧ rd0.why = .cmd 0 3) ∧
      (let s := withLun { pq := [pg0 (.uc 1 0)] } { checked := true };
        lunRuns s 0 = true ∧ (getLun s 0).op = none ∧ (getLun s 0).sub = none ∧ (getLun s 0).ovf = [] ∧ (getLun s 0).rq = [] ∧
          (getLun s 0).pq = [pg0 (.uc 1 0)] ∧ (getLun s 0).eq = [] ∧ pgReady s (pg0 (.uc 1 0)).blk = true ∧ powerOk s 0 (.pg (pg0 (.uc 1 0))) = true) ∧
      (let s := withLun { eq := [er0] } {};
        lunRuns s 0 = true ∧ (getLun s 0).op = none ∧ (getLun s 0).sub = none ∧ (getLun s 0).ovf = [] ∧ (getLun s 0).rq = [] ∧
          (getLun s 0).pq = [] ∧ (getLun s 0).eq = [er0] ∧ eraseReady s er0 = true ∧ powerOk s 0 (.er er0) = true) := by decide +kernel

theorem wit_SuspensionServesReads :
    (let s := withLun { opLun (.pg (pg0 (.uc 1 0))) with rq := [rd0] } {};
      let o : Op := { k := .pg (pg0 (.uc 1 0)), runNs := 0, tokens := 0 };
      (getLun s 0).op = some o ∧ (getLun s 0).rq = rd0 :: [] ∧ lunRuns s 0 = true ∧ tenantRd rd0 = true ∧ o.susp = .none ∧
        o.k = .pg (pg0 (.uc 1 0)) ∧ o.runNs + 4000 ≤ s.nowNs) ∧
      (let s := withLun { opLun (.er er0) with rq := [rd0] } {};
        let o : Op := { k := .er er0, runNs := 0, tokens := 0 };
        (getLun s 0).op = some o ∧ (getLun s 0).rq = rd0 :: [] ∧ lunRuns s 0 = true ∧ o.susp = .none ∧ o.k = .er er0 ∧ o.runNs + 6000 ≤ s.nowNs) ∧
      (let o : Op := { k := .er er0, runNs := 0, tokens := 0, susp := .asked };
        let s := withLun { op := some o, rq := [rd0] } {};
        (getLun s 0).op = some o ∧ collects s 0 = true ∧ o.susp = .asked) ∧
      (let o : Op := { k := .er er0, runNs := 0, tokens := 0, susp := .ready, serve := [7] };
        let s := withLun { op := some o, rq := [rd0] } {};
        (getLun s 0).op = some o ∧ lunRuns s 0 = true ∧ o.susp = .ready ∧ (getLun s 0).sub = none ∧ (∀ r ∈ (getLun s 0).rq, r.id ∉ o.serve)) := by
  decide +kernel

theorem wit_DecodeTiersFollow :
    (∀ t, t = 0 ∨ t = 8 ∨ t = 9 ∨ t = 10 →
      let r := { rd0 with tier := t };
      let s := withLun (opLun (.rd r)) {};
      collects s 0 = true ∧ (getLun s 0).op = some { k := .rd r, runNs := 0, tokens := 0 } ∧ (getLun s 0).sub = none ∧ (getLun s 0).ovf = [] ∧
        r.why ≠ .calib ∧ r.why ≠ .verify ∧ r.why ≠ .check ∧
        r.secs = [{ plane := 0, sector := 0, ver := 1, sub := 0 }] ∧ (t < 8 ∨ (t = 8 ∧ r.lr = false) ∨ t = 9 ∨ t = 10)) ∧
      (let q : SecReq := { plane := 0, sector := 0, ver := 1, sub := 0 };
        let d : Deep := { rd := { rd0 with why := .patrol }, secs := [q] };
        let s : State := { withLun {} {} with media := { flash with deeps := [(4, d)] } };
        alive s = true ∧ s.rst.actState = 0 ∧ getDeep s 4 = some d ∧ d.rebuild = false ∧ d.cipher = false ∧ d.rd.why = .patrol ∧ d.secs = [q] ∧
          lostSec s q = false ∧ isPoison s q = false ∧ partners (dropDeep s 4) d.rd.blk d.rd.page q = none) := by
  refine ⟨?_, by decide +kernel⟩
  rintro t (rfl | rfl | rfl | rfl) <;> decide +kernel

theorem wit_FlashReadReturnsData :
    let q : SecReq := { plane := 0, sector := 0, ver := 1, sub := 0 }
    let c := { cmd 3 (pkt 1 0 2 1 0 4096) .exec with released := true, todo := [4] }
    let s : State := { withLun (opLun (.rd rd0)) {} with cmds := [c], vers := [(1, { lba := 0, loc := .cv 5 0 })] }
    collects s 0 = true ∧ (getLun s 0).op = some { k := .rd rd0, runNs := 0, tokens := 0 } ∧ (getLun s 0).sub = none ∧ (getLun s 0).ovf = [] ∧
      rd0.why = .cmd 0 3 ∧ rd0.tier = 0 ∧ rd0.secs = [q] ∧ q.ver ≠ 0 ∧ isPoison s q = false ∧ lostSec s q = false ∧ keyGone s q.ver = false ∧
      tagOk s q.ver = true ∧ canWrite s c.port c.fn = true ∧ getCmd s 0 3 = some c ∧ c.redirected = false ∧ c.keyWait = [] ∧
      c.ph = .exec ∧ cOp c = 0x01 ∧ c.todo = [q.ver * 4 + q.sub] ∧ q.sub < 4 ∧ c.bad = [] ∧ c.failLba = none := by decide +kernel

theorem wit_ProgramsEnd :
    (∀ k, k = PgKind.coarse 1 0 ∨ k = .fine 1 0 ∨ k = .uc 1 0 →
      let s := withLun (opLun (.pg (pg0 k))) {};
      let o : Op := { k := .pg (pg0 k), runNs := 0, tokens := 0 };
      collects s 0 = true ∧ (getLun s 0).op = some o ∧ o.susp ≠ .ready ∧ memberAt s 5 = none ∧
        (getBlk s 5).eraseIntent = false ∧ ∀ e ∈ s.media.relocs, e.2.tgt ≠ some 5) := by
  rintro k (rfl | rfl | rfl) <;> decide +kernel

theorem wit_ErasedBlocksAreChecked :
    (let s := withLun (opLun (.er er0)) {};
      let o : Op := { k := .er er0, runNs := 0, tokens := 0 };
      collects s 0 = true ∧ (getLun s 0).op = some o ∧ o.k = .er er0 ∧ o.susp ≠ .ready) ∧
      (let s := withLun (rdLun .check 0) { erases := 1, role := some .pool };
        collects s 0 = true ∧ runs s 0 .check 5 0 = true ∧ blkLun 5 = 0 ∧ (getBlk s 5).eraseIntent = false ∧ roleOf s 5 ≠ .retired ∧
          (∀ z ∈ [64, 3], z ≤ 64) ∧ roleOf s 5 ≠ .undercoat ∧ s.media.waitRoles = [] ∧ ∃ z ∈ [64, 65], 64 < z) ∧
      (let s := withLun {} { checked := true, role := some .pool };
        running s = true ∧ Tab.wf {} s.media.blks = true ∧ (∀ c ∈ s.cmds, c.ph ≠ .blockWait) ∧ chGrp (blkCh 5) = 0 ∧ roleOf s 5 = .pool ∧
          (getBlk s 5).erased = true ∧ (getBlk s 5).checked = true ∧ (getBlk s 5).inUse = false) := by decide +kernel

theorem wit_VerifyReadsEnd :
    let s := withLun (rdLun .verify 508) { erased := false, fine := 128, role := some .pool }
    let got := List.replicate (verifySecs s 5 127).length (SectorRead.decoded false false 0)
    collects s 0 = true ∧ runs s 0 .verify 5 (if (getBlk s 5).oneBit then 127 else 4 * 127) = true ∧ 127 ∉ (getBlk s 5).safe ∧
      (getBlk s 5).eraseIntent = false ∧ (getBlk s 5).failed = false ∧ (∀ e ∈ s.media.relocs, e.2.tgt ≠ some 5) ∧
      memberAt s 5 = none ∧ (verifySecs s 5 127).length ≤ got.length ∧
      (∀ e ∈ (verifySecs s 5 127).zip got, ∃ ok poison n, e.2 = .decoded ok poison n ∧ (ok = true ∨ e.1.ver = 0) ∧ n ≤ s.hlt.verifyMax) ∧
      ([] : List SectorRead).length < (verifySecs s 5 127).length ∧
      ∃ e ∈ (verifySecs s 5 127).zip (List.replicate 64 SectorRead.failed), e.2 = .failed := by
  refine ⟨by decide +kernel, by decide +kernel, by decide +kernel, by decide +kernel, by decide +kernel, by decide +kernel, by decide +kernel,
    by decide +kernel, fun e he => ?_, by decide +kernel, by decide +kernel⟩
  have h : ∀ e ∈ (verifySecs (withLun (rdLun .verify 508) { erased := false, fine := 128, role := some .pool }) 5 127).zip
      (List.replicate (verifySecs (withLun (rdLun .verify 508) { erased := false, fine := 128, role := some .pool }) 5 127).length
        (SectorRead.decoded false false 0)), e.2 = SectorRead.decoded false false 0 ∧ e.1.ver = 0 := by decide +kernel
  exact ⟨false, false, 0, (h e he).1, .inr (h e he).2, Nat.zero_le _⟩

/-- `dev` with channel 0 as given. -/
def withChan (c : Chan) : State := { dev with media := { flash with chans := [(0, c)] } }

theorem wit_ChannelsAreKept :
    (let s := withLun {} {};
      alive s = true ∧ (getChan s 0).trained = true ∧ (∀ i ∈ chLuns 0, (getLun s i).op = none ∧ (getLun s i).sub = none)) ∧
      (let s := withLun (opLun (.er er0)) {};
        alive s = true ∧ (getLun s 0).hung = false ∧ (getLun s 0).retired = false ∧ (getLun s 0).op.any (pastCeiling s) = true) ∧
      (let s := withLun { op := some { k := .rd rd0, runNs := 0, tokens := 0, features := true } } {};
        alive s = true ∧ (getLun s 0).hung = false ∧ (getLun s 0).retired = false ∧ (getLun s 0).op.any (pastFeatures s) = true) ∧
      (let s := withLun { opLun .rst with hung := true } {};
        alive s = true ∧ (getLun s 0).op = some { k := .rst, runNs := 0, tokens := 0 }) ∧
      (let s := withChan { trained := true, retrainReq := true, band := bandDue dev 0, vols := [(0, { present := true, luns := 4, tempFails := 2 })] };
        alive s = true ∧ volOk s 0 0 = true ∧ (getVol s 0 0).lastZqNs + 128000000 ≤ s.nowNs ∧ (getVol s 0 0).lastTempNs + 10000000 ≤ s.nowNs ∧
          (getVol s 0 0).tempFails = 2 ∧ (getChan s 0).trained = true ∧ (getChan s 0).retraining = false ∧ (getChan s 0).recovering = false ∧
          bandDue s 0 = (getChan s 0).band ∧ (getChan s 0).retrainReq = true ∧ chanIdle s 0 = true ∧ Writable s .a 0) ∧
      (let s := withChan { trained := true, band := 5 };
        alive s = true ∧ (getChan s 0).trained = true ∧ (getChan s 0).retraining = false ∧ (getChan s 0).recovering = false ∧
          bandDue s 0 ≠ (getChan s 0).band ∧ bandTurn s 0 = true) := by decide +kernel

/-! #### Movement of data, registers, memories, temperature -/

/-- `withRich` with a full zone 2 of one member, block 5. -/
def foldable : State :=
  { withRich [] [(2, { st := .full, wp := 8192, members := [{ ch := 0, blk := some 5 }] })] with
    vers := [(1, { tenant := 0, zone := 2, lba := 0, hbm := true, acked := true, dirty := true })], media := { flash with blks := [(5, { inUse := true, erased := false, role := some .pool })] } }

/-- `dev` whose relocation 4 is queued. -/
def relocDue : State :=
  { dev with media := { flash with blks := [(5, { inUse := true, erased := false, fine := 2, role := some .pool })], relocs := [(4, { src := 5, count := 2 })] } }

/-- `foldable` whose block 5 was interrupted. -/
def broken : State := { foldable with media := { foldable.media with blks := [(5, { inUse := true, erased := false, fine := 2, role := some .pool, interrupted := true })] } }

theorem wit_DataMoves :
    (running foldable = true ∧ foldable.rst.pwr ≤ 1 ∧ foldReady foldable 0 2 = true ∧ (getZone foldable 0 2).hint ≠ 1 ∧
        ∀ e ∈ foldable.zones, e.1 ≠ zkey 0 2 → foldReady foldable (e.1 / 4194304) (e.1 % 4194304) = false) ∧
      (let s := relocDue;
        running s = true ∧ s.rst.pwr ≤ 1 ∧ quadOut s 0 = false ∧ (∀ e ∈ tenants s, cleanBlocks (tenD s e.1) ≤ convFree s e.1 * 16) ∧
          (sortBy relFirst (s.media.relocs.filter fun e => relQuad s e.2 == 0 && relFree s e.2)).head? = some (4, { src := 5, count := 2 }) ∧
          (∀ e ∈ s.media.blks, e.2.inUse = true → chQuad (blkCh e.1) = 0 → e.2.retireWhy = 0 ∧ blkLun e.1 ∉ s.media.deadLuns) ∧
          getReloc s 4 = { src := 5, count := 2 } ∧ (getBlk s 5).inUse = true ∧ (getReloc s 4).ext = none ∧ (∀ e ∈ s.media.convs, e.1 ≠ 5) ∧
          relTarget s 5 = some 6) ∧
      (let s := broken;
        running s = true ∧ s.rst.pwr ≤ 1 ∧ lunOk s 0 = true ∧ blkLun 5 = 0 ∧ (getBlk s 5).interrupted = true ∧ (memberAt s 5).isSome = true ∧
          relocating s 5 = false ∧ (getBlk s 5).inUse = true ∧ (getBlk s 5).oneBit = false ∧ s.media.relocs = [] ∧ holdsLive s 5 = true ∧
          (∀ e ∈ s.media.convs, e.1 ≠ 5) ∧ (getLun s 0).op = none ∧ relTarget s 5 = some 6) ∧
      (let s := withRich [] [(2, { st := .opened, wp := 5 })];
        running s = true ∧ s.rst.pwr ≤ 1 ∧ getTen s 0 = some rich ∧ (getZone s 0 2).st = .opened ∧ (getZone s 0 2).lastWriteNs + 50000000 ≤ s.nowNs) :=
  ⟨by decide +kernel, by decide +kernel, by decide +kernel, by decide +kernel⟩

theorem wit_HealthIsWatched :
    (let s := { broken with media := { broken.media with blks := [(5, { inUse := true, erased := false, fine := 2, role := some .pool })] } };
      lunRuns s 0 = true ∧ s.rst.actState = 0 ∧ blkLun 5 = 0 ∧ holdsLive s 5 = true ∧ (getBlk s 5).eraseIntent = false ∧
        lunIdle (getLun s 0) = true ∧ (getBlk s 5).oneBit = false ∧ 4 / 4 < (getBlk s 5).fine) ∧
      (let r := { rd0 with why := .calib, cls := 3, page := 4, key := some 3 };
        let s := { broken with media := { broken.media with
          blks := [(5, { inUse := true, erased := false, fine := 2, role := some .pool })], luns := [(0, opLun (.rd r))] } };
        collects s 0 = true ∧ runningRd (getLun s 0) = some r ∧ r.why = .calib ∧ r.blk = 5 ∧ r.page = 4 ∧ r.key = some 3 ∧ ladderOn s 3 = false ∧
          holdsLive s 5 = true) ∧
      running dev = true ∧ dev.savedMs + 1000 ≤ opMs dev ∧
      (let s := { dev with nowNs := 4000000000000 };
        running s = true ∧ s.media.tableMs + 3600000 ≤ opMs s) := by decide +kernel

theorem wit_BlockRegistersAct :
    Writable dev .a 0 ∧ (fld 0x80010000#32 10 6 = 0 ∧ fld 0x80010000#32 18 13 = 0 ∧ flag 0x80010000#32 31 = true) ∧ flag 0#32 31 = false ∧
      (fld 0x80000000#32 10 21 = 0 ∧ flag 0x80000000#32 31 = true) ∧ fld 5#32 6 26 = 0 ∧ (fld 1#32 1 31 = 0 ∧ flag 1#32 0 = true) ∧
      getTen dev 0 = some {} ∧ (2 ^ 36 ≤ 0 + p32 * 16 ∧ 5 < 2 ^ 36 ∧ 5 % 4096 ≠ 0) ∧
      (let s := { dev with bpm := { dev.bpm with alloc := [(1, 7)] } };
        Tab.get 0 s.bpm.alloc (0 / 4096) = 0 ∧ Tab.get 0 s.bpm.alloc (4096 / 4096) ≠ 0 ∧ ∀ e ∈ s.bpm.withdrawn, e.1 ≠ 4096 / 4096) := by decide

theorem wit_RegistersAreAccessed :
    Writable dev .a 1 ∧ (getRing dev .a 1 3).en = false ∧ ((0x12345000#64).setWidth 32).toNat &&& 0xFFF = 0 ∧ Writable dev .a 0 ∧ (1024 ≤ 1026 ∧ 1026 < 65536 ∧ 1026 % 4 ≠ 0) ∧
      (1024 ≤ 0xF000 ∧ 0xF000 < 65536 ∧ 0xF000 % 4 = 0 ∧ (vfRow .a 1 0xF000 0).isNone = true ∧ rsvOf 1 0xF000 = none) ∧
      Reaches dev .a 1 ∧ isRc 1 0x1058 = true ∧ Reaches dev .a 0 ∧
      (isRc 0 0x2000C = false ∧ isLock 0 0x2000C = false ∧ 0x2000C % 4 = 0 ∧ isRc 1 0xFFFC = false ∧ isLock 1 0xFFFC = false) ∧
      (let s : State := { dev with pa := { upPort with pf0 := { upPort.pf0 with bar := 0x7F000000 }, vfBar := 0x100000000 } };
        memTarget s .a 0x7F01800C = some (0, 0x1800C) ∧ memTarget s .a 0x100011058 = some (2, 0x1058)) ∧ CfgReaches dev .a 1 ∧ CfgReaches dev .a 0 := by
  decide +kernel

/-- `dev` with a pool as given. -/
def withPool (b : Bpm) : State := { dev with bpm := { b with ready := true } }

theorem wit_PoolRetries :
    (withPool { head := 6145 }).bpm.ready = true ∧ 6144 < (withPool { head := 6145 }).bpm.head ∧
      ((withPool { head := 2047, stack := 4096 }).bpm.head < 2048 ∧ 4096 ≤ (withPool { head := 2047, stack := 4096 }).bpm.stack) ∧
      (withPool { head := 2047, stack := 2049 }).bpm.stack + (withPool { head := 2047, stack := 2049 }).bpm.head ≤ 4096 ∧
      (let d : Deep := { rd := rd0, secs := [{ plane := 0, sector := 0, ver := 1, sub := 0 }], cipher := true };
        let s := { withPool { head := 4096, retries := [(kCipher, 4, 0)] } with media := { flash with deeps := [(4, d)] } };
        s.bpm.retries.find? (fun e => e.1 == kCipher && e.2.1 == 4) = some (kCipher, 4, 0) ∧ 0 + 1000 ≤ s.nowNs ∧ getDeep s 4 = some d ∧
          chargeOk s.bpm kCipher 1 = true ∧ d.rd.why = .cmd 0 3 ∧ d.secs = { plane := 0, sector := 0, ver := 1, sub := 0 } :: []) ∧
      (let d : Deep := { rd := rd0, secs := [], cipher := true };
        let s := { withPool { retries := [(kCipher, 4, 0)], caps := [(kCipher, 1)], charges := [(kCipher, 1)], floors := [] } with media := { flash with deeps := [(4, d)] } };
        getDeep s 4 = some d ∧ chargeOk s.bpm kCipher 1 = false) ∧
      (let f : Fold := { zone := 2, vers := [1], todo := [0], waiting := true };
        let s := { foldable with media := { foldable.media with folds := [(4, f)] }, bpm := { ready := true, retries := [(kFold, 4, 0)] } };
        let t := { s with bpm := { s.bpm with caps := [(kFold, 63)], floors := [] } };
        (∀ u, u = s ∨ u = t → u.bpm.retries.find? (fun e => e.1 == kFold + 0 && e.2.1 == 4) = some (kFold, 4, 0) ∧ 0 + 10000 ≤ u.nowNs ∧ quadOut u 0 = false ∧
          0 = chQuad (((getZone u (getFold u 4).tenant (getFold u 4).zone).members.head?.map Member.ch).getD 0) ∧ (∃ r ∈ u.media.folds, r.1 = 4) ∧
          (getFold u 4).waiting = true) ∧ foldNeed s (getFold s 4) = 64 ∧ foldNeed t (getFold t 4) = 64 ∧ chargeOk s.bpm kFold 64 = true ∧
          chargeOk t.bpm kFold 64 = false) ∧
      (let x : Reloc := { src := 5, tgt := some 6, count := 2, waiting := true };
        let s := { withPool { retries := [(kReloc, 4, 0)], caps := [(kReloc, 1)], charges := [(kReloc, 1)], floors := [] } with media := { flash with relocs := [(4, x)] } };
        s.bpm.retries.find? (fun e => e.1 == kFold + 1 && e.2.1 == 4) = some (kReloc, 4, 0) ∧ 0 + 10000 ≤ s.nowNs ∧ quadOut s 0 = false ∧
          relQuad s (getReloc s 4) = 0 ∧ (∃ r ∈ s.media.relocs, r.1 = 4) ∧ (getReloc s 4).waiting = true ∧
          (getReloc s 4).next < (getReloc s 4).count ∧ (getReloc s 4).tgt.isSome = true ∧ (getReloc s 4).next ∉ (getReloc s 4).kept ∧
          chargeOk s.bpm kReloc 64 = false ∧ chargeOk { s.bpm with caps := [] } kReloc 64 = true) ∧
      quadOut { dev with rst := { qState := [(1, 2)] } } 1 = true := by
  refine ⟨by decide +kernel, by decide +kernel, by decide +kernel, by decide +kernel, by decide +kernel, by decide +kernel,
    ⟨?_, by decide +kernel, by decide +kernel, by decide +kernel, by decide +kernel⟩, by decide +kernel, by decide +kernel⟩
  rintro u (rfl | rfl) <;> decide +kernel

/-- A write-back that is due, and merge-buffer entries. -/
def withMep (m : Mep) : State := { withPool { head := 4096 } with mep := m }

theorem wit_MemoryIsScrubbed :
    (2 ≤ 3 ∧ 3 < 7 ∧ skimRuns (withMep {}) 3 = true ∧ sramPlace (skimMems 3) (getSkim (withMep {}) 3).pos = some (12, 0) ∧
        (withMep {}).mep.logHold = false ∧ (getSkim (withMep {}) 3).pos + 1 < sumBy Prod.snd (skimMems 3)) ∧
      (let s := withMep { skims := [(3, { pos := 5242879 })] };
        sramPlace (skimMems 3) (getSkim s 3).pos = some (12, 5242879) ∧ sumBy Prod.snd (skimMems 3) ≤ (getSkim s 3).pos + 1) ∧
      (∃ w, let s := withMep { pendFix := [(12, w, 4)] }
        s.mep.flipArmed = none ∧ 2 ≤ 12 ∧ w ≠ testAddr 12 0 ∧ s.mep.pendFix = [(12, w, 3 + 1)]) ∧
      (let x : Merge := { stack := 1, line := 7, mask := 1, sinceNs := 0 };
        let s := withMep { merges := [x] };
        s.mep.merges = [x] ∧ s.mep.flipArmed = none ∧ x.sinceNs + 1000 ≤ s.nowNs ∧ regionOf x.line ≠ 2) ∧
      (let x : Merge := { stack := 1, line := 7, mask := 1, sinceNs := 1000000000000 };
        (withMep { merges := [x] }).nowNs < x.sinceNs + 1000) := by
  refine ⟨by decide, by decide, ⟨testAddr 12 0 + 1, rfl, by decide, by omega, rfl⟩, by decide, by decide⟩

theorem wit_MemoriesAreWatched :
    (let s := { withMep {} with thm := { sens := (dieSens 6).map fun k => (k, { broken := true }) } };
      s.ckm.stopped = false ∧ 1 < 2 ∧ s.bpm.ready = true ∧ s.rst.pwr < 2 ∧ Tab.get 0 s.mep.bands 1 < refiBand (dieTemp s (5 + 1) / 4)) ∧
      (let s := withMep { skims := [(3, { active := true })] };
        (getSkim s 3).active = true ∧ (getSkim s 3).slow = false ∧ lapLimit s 3 < lapNs s (getSkim s 3)) ∧
      (let s := { withMep { hourCe := [(3, 5000)] } with nowNs := 4000000000000 };
        Tab.get 0 s.mep.hourNo 3 < (s.nowNs - s.boot.startNs) / 3600000000000 ∧ 0 < Tab.get 4096 s.mep.thresh 3 ∧
          Tab.get 4096 s.mep.thresh 3 ≤ Tab.get 0 s.mep.hourCe 3 ∧ Tab.get 0 s.mep.hourCe 4 < Tab.get 4096 s.mep.thresh 4) := by decide

theorem wit_TestAccessesReadBack :
    Writable dev .a 0 ∧ ((0x20010003#32).toNat &&& 0x1FE0FFF0 = 0 ∧ flag 0x20010003#32 29 = true) ∧
      ((0x10001#32).toNat &&& 0x7FF0FFFC = 0 ∧ fld 0x10001#32 0 2 = 1 ∧ fld 0x10001#32 16 4 < 2 ∧ dev.mep.flipArmed = none) ∧
      ((2#32).toNat &&& 0x7FF0FFFC = 0 ∧ fld 2#32 0 2 = 2 ∧ fld 2#32 16 4 < 2 ∧ badSymbols (getLine dev 0 dev.mep.testLine) = []) ∧
      (let s := withMep { lines := [(testKey 0 0, { dlo := 1 })] };
        badSymbols (getLine s (fld 2#32 16 4) s.mep.testLine) = [0] ∧ s.mep.logHold = false ∧ Writable s .a 0) := by decide

/-- `dev` with the thermal engine as given. -/
def withThm (t : Thm) : State := { dev with thm := t }

theorem wit_TheShutterFollowsTheLaw :
    (let s := withThm { tctl := 480 };
      s.ckm.stopped = false ∧ s.pins.porHeld = false ∧ s.boot.ready = true ∧ s.thm.warn = false ∧ s.thm.warnNs = 0 ∧
        4 * ((nth 95 s.thm.tNext 0 : Nat) : Int) ≤ s.thm.tctl ∧ s.thm.latch = false ∧ 4 * ((nth 118 s.thm.tNext 3 : Nat) : Int) ≤ s.thm.tctl) ∧
      (withThm { tctl := 200 }).thm.tctl < 4 * ((nth 118 (withThm { tctl := 200 }).thm.tNext 3 : Nat) : Int) := by decide

theorem wit_ThermalEvents :
    (dev.ckm.stopped = false ∧ dev.pins.porHeld = false ∧ 21 < 22 ∧ (getSens dev 21).broken = false) ∧
      (let s := withThm { sens := [(1, { broken := true })] };
        Writable s .a 0 ∧ 1 < 22 ∧ (2#32).toNat = 2 ^ 1 ∧ (getSens s 1).broken = true ∧
          ∃ j, j < 22 ∧ j ≠ 1 ∧ dieOf j = dieOf 1 ∧ (getSens s j).broken = false ∧ (getSens s j).excl = false) ∧
      (let s := withThm { warn := true, warnNs := 5, tPub := 367 };
        s.thm.warn = true ∧ s.thm.tPub < 4 * (s.thm.tWarn : Int) - 12 ∧ s.thm.warnNs + 10000000 ≤ s.nowNs) ∧
      (let s := withThm { warn := true, warnNs := 1000000000000 };
        s.nowNs < s.thm.warnNs + 10000000 ∧ 0 < s.thm.warnNs) ∧
      (let s := withThm { phase := 1 };
        s.thm.phase = 1 ∧ s.plp.phase = 0 ∧ s.thm.startNs + 1000000 ≤ s.nowNs) := by
  refine ⟨by decide, ⟨by decide, by decide, by decide, by decide, 0, by decide⟩, by decide, by decide, by decide⟩

/-! #### Power loss, keys, mailboxes, requests -/

/-- `dev` with the power-loss engine as given. -/
def withPlp (p : Plp) : State := { dev with plp := p }

theorem wit_PowerLossFlushes :
    (dev.ckm.stopped = false ∧ dev.plp.pwrfail = false ∧ dev.pins.porHeld = false ∧ dev.boot.ready = true ∧ dev.plp.phase = 0) ∧
      ((withPlp { phase := 1 }).plp.phase = 1 ∧ (withPlp { phase := 1 }).plp.cut = false ∧ (withPlp { phase := 1 }).plp.why = 0 ∧
        (withPlp { phase := 1, cut := true }).plp.cut = true) ∧
      (withPlp { phase := 2, pwrfail := true }).thm.latch = false ∧ (withPlp { phase := 2, pwrfail := true }).plp.pwrfail = true := by decide

theorem wit_JournalRecordsBecomeDurable :
    let c := { cmd 3 (pkt 7 0 2 0 0 0) .exec with released := true, journal := true }
    let s : State := { withCmds [c] with plp := { dev.plp with jRecs := 1 }, zones := [(zkey 0 2, { st := .opened })] }
    s.boot.ready = true ∧ s.ckm.stopped = false ∧ paused s = false ∧ 0 < s.plp.jRecs ∧ s.cmds = [c] ∧ c.journal = true ∧ c.ph = .exec ∧
      s.plp.phase = 0 ∧ (∀ e ∈ s.media.waitRoles, s.plp.jSeq + 1 < e.2.2) ∧ (dirtyLines s).length ≤ 1 ∧ Tab.wf {} s.zones = true ∧
      Tab.wf {} s.zonesSaved = true := by decide +kernel

/-- A request of agent 1 with an opcode, a TARGET, ARG0 and ARG1, DLEN and RLEN. -/
def request (op target a0 a1 dlen rlen : Nat) : Frame :=
  { bytes := leBytes 4 op ++ leBytes 4 target ++ leBytes 4 a0 ++ leBytes 4 a1 ++ List.replicate 16 0#8 ++ leBytes 4 dlen ++ List.replicate 12 0#8 ++
      leBytes 4 rlen ++ List.replicate 8 0#8 ++ [0xC3#8, 0#8, 0#8, 0#8], agent := 1 }

/-- `dev` whose mailbox 0 has this request in its backlog. -/
def withReq (f : Frame) : State := { dev with mbxs := [(0, { owner := 1, backlog := [f] })] }

/-- A KEY_LOAD descriptor: tenant 0, wrapping slot 1, these FLAGS and BLOB. -/
def descr (flags : Nat) (blob : List Byte) : List Byte := leBytes 2 0 ++ leBytes 1 1 ++ leBytes 1 flags ++ leBytes 4 0 ++ padTo 40 blob ++ leBytes 8 77 ++ leBytes 8 0

/-- A wrapping key of half the length, under which every block decrypts to A6 in each of its bytes: the unwrap is checked at once. -/
def halfKey : List Byte := List.replicate 16 0xF4#8

theorem unwrap_ok {s : State} {l k : List Byte} (h : (unwrapBlob s l).toOption = some k) : unwrapBlob s l = .ok k := by
  cases hx : unwrapBlob s l <;> simp_all [Except.toOption]

theorem unwrap_error {s : State} {l : List Byte} {e : Nat} (h : (match unwrapBlob s l with | .ok _ => none | .error e => some e) = some e) : unwrapBlob s l = .error e := by
  cases hx : unwrapBlob s l <;> simp_all

/-- `withReq` for KEY_LOAD, with that key in device slot 1, tenant 0's slot as given. -/
def withKeys (k : KeySlot) (z : Tab Zone) : State :=
  { withReq (request 0x86 0xFFFFFFFF 0 0 64 0) with cip := { dslots := [(1, { state := 1, key := halfKey })], tslots := [(0, k)] }, zones := z }

/-- A KEY_LOAD descriptor that evicts device slot 2. -/
def evictDev : List Byte := leBytes 2 0x402 ++ leBytes 1 0 ++ leBytes 1 2 ++ List.replicate 60 0#8

/-- A plain load of tenant slot 0, which no slot takes. -/
def plainTenant : List Byte := List.replicate 8 0#8 ++ List.replicate 32 0x11#8 ++ List.replicate 24 0#8

/-- A plain load of device slot 2. -/
def plainLoad : List Byte := leBytes 2 0x402 ++ leBytes 6 0 ++ List.replicate 32 0x11#8 ++ leBytes 8 0 ++ leBytes 8 77 ++ leBytes 8 0

/-- A tenant's load unwraps by the device slots alone. -/
theorem unwrap_congr {s t : State} (h : s.cip.dslots = t.cip.dslots) : unwrapBlob t (descr 0 []) = unwrapBlob s (descr 0 []) := by
  have hk : ∀ n, dslot s n = dslot t n := fun n => by simp only [dslot, h]
  have hw : kWrap (descr 0 []) ≠ 0 := by decide
  simp only [unwrapBlob, if_neg hw, hk]

/-- Tenant 0 holds data under a key with another KCV. -/
theorem otherKey (n : Nat) : ∃ v, let s := withKeys { loads := 1, kcv := v } [(2, { st := .opened })];
    keyCheck s (.pf0 0) (request 0x86 0xFFFFFFFF 0 0 64 0) (descr 0 []) = none ∧ unwrapBlob s (descr 0 []) = .ok (List.replicate 32 0xA6#8) ∧
      holdsData s (kTarget (descr 0 [])) = true ∧ (tslot s (kTarget (descr 0 []))).loads ≠ 0 ∧
      (tslot s (kTarget (descr 0 []))).kcv ≠ n := by
  have h : ∀ v, let s := withKeys { loads := 1, kcv := v } [(2, { st := .opened })];
      keyCheck s (.pf0 0) (request 0x86 0xFFFFFFFF 0 0 64 0) (descr 0 []) = none ∧
        s.cip.dslots = (withKeys {} []).cip.dslots ∧ holdsData s (kTarget (descr 0 [])) = true ∧
        (tslot s (kTarget (descr 0 []))).loads = 1 ∧ (tslot s (kTarget (descr 0 []))).kcv = v := fun v => ⟨rfl, rfl, rfl, rfl, rfl⟩
  obtain ⟨h1, h2, h3, h4, h5⟩ := h (n + 1)
  exact ⟨n + 1, h1, unwrap_congr h2 ▸ unwrap_ok (by decide +kernel), h3, by rw [h4]; decide, by rw [h5]; exact Nat.succ_ne_self n⟩

theorem wit_KeysAreLoaded :
    let f := request 0x86 0xFFFFFFFF 0 0 64 0
    let s := withKeys {} []
    let l := descr 0 []
    (AtRequest s (.pf0 0) f ∧ isOp 0x86 f = true) ∧
      (DataAt s (.pf0 0) f (.ok (descr 4 [])) (descr 4 []) ∧ kEvict (descr 4 []) = false ∧ keyCheck s (.pf0 0) f (descr 4 []) = some 1) ∧
      (DataAt s (.pf0 0) f (.ok plainTenant) plainTenant ∧ kEvict plainTenant = false ∧ keyCheck s (.pf0 0) f plainTenant = none ∧
        unwrapBlob s plainTenant = .error 6) ∧
      (DataAt s (.pf0 0) f (.ok l) l ∧ kEvict l = false ∧ keyCheck s (.pf0 0) f l = none ∧ kTenant l = true ∧ unwrapBlob s l = .ok (List.replicate 32 0xA6#8) ∧
        holdsData s (kTarget l) = false ∧ (tslot s (kTarget l)).state ≠ 1) ∧
      (let s := withKeys { state := 1, key := (List.replicate 32 0xA6#8) } [];
        keyCheck s (.pf0 0) f l = none ∧ unwrapBlob s l = .ok (List.replicate 32 0xA6#8) ∧ (tslot s (kTarget l)).state = 1 ∧ (tslot s (kTarget l)).key = (List.replicate 32 0xA6#8) ∧
          (tslot s (kTarget l)).loads = 0) ∧
      (∃ v, let s := withKeys { loads := 1, kcv := v } [(2, { st := .opened })];
        keyCheck s (.pf0 0) f l = none ∧ unwrapBlob s l = .ok (List.replicate 32 0xA6#8) ∧ holdsData s (kTarget l) = true ∧ (tslot s (kTarget l)).loads ≠ 0 ∧
          (tslot s (kTarget l)).kcv ≠ leNat (kcvOf (List.replicate 32 0xA6#8))) ∧
      (DataAt s (.pf0 0) f (.ok plainLoad) plainLoad ∧ kEvict plainLoad = false ∧ keyCheck s (.pf0 0) f plainLoad = none ∧ kTenant plainLoad = false ∧
        kWrap plainLoad = 0 ∧ unwrapBlob s plainLoad = .ok (List.replicate 32 0x11) ∧ (dslot s (kTarget plainLoad - 0x400)).state ≠ 1) ∧
      (dslot { s with cip := { dslots := [(2, { state := 1, key := List.replicate 32 0x11 })] } } (kTarget plainLoad - 0x400)).key =
        List.replicate 32 0x11 :=
  ⟨by decide +kernel, by decide +kernel, ⟨by decide +kernel, by decide +kernel, by decide +kernel, unwrap_error (by decide +kernel)⟩,
    ⟨by decide +kernel, by decide +kernel, by decide +kernel, by decide +kernel, unwrap_ok (by decide +kernel), by decide +kernel, by decide +kernel⟩,
    ⟨by decide +kernel, unwrap_ok (by decide +kernel), by decide +kernel, by decide +kernel, by decide +kernel⟩,
    otherKey _,
    ⟨by decide +kernel, by decide +kernel, by decide +kernel, by decide +kernel, by decide +kernel, unwrap_ok (by decide +kernel), by decide +kernel⟩, by decide +kernel⟩

theorem wit_KeysAreErased :
    (let f := request 0x86 0xFFFFFFFF 0 0 64 0;
      let l := descr 2 [];
      (∀ n, n = 0 ∨ n = 1 ∨ n = 2 ∨ n = 3 → let s := withKeys { state := n, keyId := 5 } [];
        AtRequest s (.pf0 0) f ∧ isOp 0x86 f = true ∧ DataAt s (.pf0 0) f (.ok l) l ∧ kEvict l = true ∧ keyCheck s (.pf0 0) f l = none ∧
          kTenant l = true ∧ (tslot s (kTarget l)).state = n) ∧
      (let s := withKeys {} [];
        DataAt s (.pf0 0) f (.ok (descr 2 [1#8])) (descr 2 [1#8]) ∧ kEvict (descr 2 [1#8]) = true ∧ keyCheck s (.pf0 0) f (descr 2 [1#8]) = some 1) ∧
      (let s : State := { withReq f with cip := { dslots := [(2, { state := 1 })] } };
        AtRequest s (.pf0 0) f ∧ DataAt s (.pf0 0) f (.ok evictDev) evictDev ∧ kEvict evictDev = true ∧ keyCheck s (.pf0 0) f evictDev = none ∧
          kTenant evictDev = false ∧ (dslot s (kTarget evictDev - 0x400)).state = 1)) ∧
      (let s : State := { withReq (request 0x86 0xFFFFFFFF 0 0 64 0) with
          plp := { jSeq := 1 }, cip := { tslots := [(0, { state := 3 })], evicting := [(0, 0, .pf0 0)] } };
        s.cip.evicting.find? (fun e => e.2.2 == .pf0 0) = some (0, 0, .pf0 0) ∧ 0 < s.plp.jSeq ∧ serving s (.pf0 0) = true ∧ keyIdle s 0 = true ∧
          cipherWork s 0 = false) ∧
      (let f := request 0x8B 0 1 0x53414E49 0 0;
        let s := withReq f;
        AtRequest s (.pf0 0) f ∧ isOp 0x8B f = true ∧ fArg f.bytes 0 = 1 ∧ sanRefused s 1 (fArg f.bytes 1) (fTarget f.bytes) = none ∧
          instOf s (fTarget f.bytes) < 0x3FFFFF ∧ fTarget f.bytes ∈ sanTenants s 1 (fTarget f.bytes)) ∧
      (let f := request 0x8B 0 1 7 0 0;
        AtRequest (withReq f) (.pf0 0) f ∧ sanRefused (withReq f) (fArg f.bytes 0) (fArg f.bytes 1) (fTarget f.bytes) = some 2) ∧
      (∀ k, k = 1 ∨ k = 4 →
        let x : San := { kind := k, tenant := 0, box := some (.pf0 0), jno := 0, left := [], total := 0 };
        let s : State := { withReq (request 0x8B 0 1 0x53414E49 0 0) with plp := { jSeq := 1 }, cip := { san := some x } };
        s.cip.san = some x ∧ x.jno < s.plp.jSeq ∧ serving s (.pf0 0) = true ∧ x.left.all (wiped s) = true ∧
          (sanTenants s x.kind x.tenant).all (keyIdle s) = true ∧ s.bpm.alloc = [] ∧
          (getMbx s (.pf0 0)).backlog.head? = some (request 0x8B 0 1 0x53414E49 0 0)) := by
  refine ⟨⟨?_, by decide +kernel, by decide +kernel⟩, by decide +kernel, by decide +kernel, by decide +kernel, ?_⟩
  · rintro n (rfl | rfl | rfl | rfl) <;> decide +kernel
  · rintro k (rfl | rfl) <;> decide +kernel

/-- `dev` with mailbox 0 as given. -/
def withBox (m : Mbx) : State := { dev with mbxs := [(0, m)] }

theorem wit_FramesMoveInOrder :
    let f := request 0x80 0xFFFFFFFF 0 0 0 4096
    (OwnsBox dev .a (.pf0 0) ∧ (1#32).toNat = 1 ∧ (getMbx dev (.pf0 0)).reqQ.length < 16 ∧ (getMbx dev (.pf0 0)).rspQ = []) ∧
      OwnsBox dev .a (.vf .a 1) ∧
      16 ≤ (getMbx (withBox { owner := 1, reqQ := List.replicate 16 f }) (.pf0 0)).reqQ.length ∧
      ((getMbx (withBox { owner := 1, rspQ := [f] }) (.pf0 0)).rspQ = f :: [] ∧ f.resets = false) ∧
      ((getMbx (withBox { owner := 1, reqQ := [f] }) (.pf0 0)).reqQ = f :: [] ∧ serving (withBox { owner := 1, reqQ := [f] }) (.pf0 0) = true ∧
        backlogCount (getMbx (withBox { owner := 1, reqQ := [f] }) (.pf0 0)) < 16 ∧ dev.adm.shutdown = false) ∧
      ({ dev with adm := { shutdown := true } } : State).adm.shutdown = true ∧
      ((getMbx (withBox { owner := 1, held := some { f with after := some 0 } }) (.pf0 0)).held = some { f with after := some 0 } ∧
        notDurable dev { f with after := some 0 } = true) ∧
      ((getMbx (withBox { owner := 1, held := some { f with data := [1#8] } }) (.pf0 0)).held = some { f with data := [1#8] } ∧
        notDurable dev { f with data := [1#8] } = false ∧ dev.boot.ready = true ∧
        canWrite dev (boxPath (agentPort 1) (.pf0 0)).1 (boxPath (agentPort 1) (.pf0 0)).2 = true) := by
  refine ⟨⟨⟨by decide, ?_⟩, by decide, by decide, by decide⟩, ⟨by decide, by simp⟩, by decide, by decide, by decide, by decide, by decide, by decide⟩
  rintro n h
  cases h
  decide

theorem wit_LocksAreTakenAndLeft :
    Reaches dev .a 0 ∧ (getMbx dev (.pf0 2)).owner = 0 ∧ (getMbx dev (.pf0 0)).owner = agentOf .a ∧ Writable dev .a 0 ∧ (1#32).toNat < 8 ∧
      (1#32).toNat = agentOf .a ∧ ((0x5A000001#32).toNat = 0x5A000000 + 1 ∧ 1 ≤ (getMbx dev (.pf0 1)).owner ∧ (getMbx dev (.pf0 1)).owner ≤ 3 ∧
        (getMbx dev (.pf0 1)).held = none) := by decide

theorem wit_QueriesReply :
    (let f := request 0x7F 0xFFFFFFFF 0 0 0 0;
      nextReq (withReq f) (.pf0 0) = some f ∧ reqError (withReq f) (.pf0 0) f = some 0xF0 ∧ knownOp (fOp f.bytes) = false) ∧
      (∀ op, op = 0x80 ∨ op = 0x81 ∨ op = 0x83 ∨ op = 0x89 ∨ op = 0x8D →
        let f := { request op 0xFFFFFFFF 0 0 0 0 with bytes := (request op 0xFFFFFFFF 0 0 0 0).bytes.set 60 0#8 };
        nextReq (withReq f) (.pf0 0) = some f ∧ reqError (withReq f) (.pf0 0) f = some 0xF2) ∧
      (∀ f, f = request 0x80 0xFFFFFFFF 0 0 0 4096 ∨ f = request 0x80 0xFFFFFFFF 2 0 0 4096 ∨ f = request 0x80 0 1 0 0 4096 ∨
          f = request 0x81 0 1 0 0 4096 ∨ f = request 0x81 0 0x77 0 0 4096 ∨ f = request 0x83 0 0 0 0 4096 ∨ f = request 0x83 0xFFFFFFFF 0 0 0 4096 ∨
          f = request 0x89 0xFFFFFFFF 0 0 0 0 →
        AtRequest (withReq f) (.pf0 0) f) ∧
      (logPage (withReq (request 0x81 0 1 0 0 4096)) 1 0 0).isSome = true ∧ logPage dev 0x77 0 0 = none ∧
      (let f := request 0x81 0xFFFFFFFF 0x11 0 0 4096;
        let x : EvRec := { num := 3, time := 5, pcycle := 0, boot := false, held := false, cont := false, sev := 1, source := 0, code := 3, payload := [] };
        let s := { withReq f with evr := { ring := [x], first := 3, next := 4, evNext := 4 } };
        AtRequest s (.pf0 0) f ∧ fArg f.bytes 0 = 0x11 ∧ eventPage s.evr (fArg f.bytes 1 == 1) (fArg f.bytes 2) (room f / 32) = (3, x) :: []) ∧
      (let f := request 0x8D 0xFFFFFFFF 0 0 0 0;
        let s := { withReq f with evr := { waiting := [{ num := 3, time := 5, pcycle := 0, boot := false, held := false, cont := false, sev := 1, source := 0, code := 3, payload := [] }] } };
        AtRequest s (.pf0 0) f ∧ logClearing s.evr = false ∧ s.hlt.known = true ∧ 0 < s.evr.waiting.length ∧ s.evr.waiting.length ≤ 8192) ∧
      (let f := request 0x8D 0xFFFFFFFF 0 0 0 0;
        let s := { withReq f with evr := { clearing := some (true, 1) } };
        AtRequest s (.pf0 0) f ∧ logClearing s.evr = true) := by
  refine ⟨by decide, ?_, ?_, by decide, by decide, by decide +kernel, by decide +kernel, by decide +kernel⟩
  · rintro op (rfl | rfl | rfl | rfl | rfl) <;> decide
  · rintro f (rfl | rfl | rfl | rfl | rfl | rfl | rfl | rfl) <;> decide +kernel

theorem wit_RequestsConfigure :
    (∀ l, l = [] ∨ l = imageOf (fieldBytes 0x105 20) →
      let f := request 0x82 0xFFFFFFFF 0 0 l.length 4096;
      AtRequest (withReq f) (.pf0 0) f ∧ DataAt (withReq f) (.pf0 0) f (.ok l) l) ∧
      parseImage [] = none ∧ parseImage (imageOf (fieldBytes 0x105 20)) = some ([{ id := 0x105, len := 4, val := 20 }], 0) ∧
      dirtyBytes dev ≤ dev.plp.dmaxMib * 1048576 ∧
      (let l := imageOf (fieldBytes 0x203 8);
        let f := request 0x84 0 0 0 l.length 4096;
        AtRequest (withReq f) (.pf0 0) f ∧ DataAt (withReq f) (.pf0 0) f (.ok l) l ∧ (getTen (withReq f) (fTarget f.bytes)).isSome = true) ∧
      (let l := imageOf (fieldBytes 0x203 8);
        let f := request 0x84 5 0 0 l.length 4096;
        let s : State := { withReq f with tenants := [], media := flash };
        AtRequest s (.pf0 0) f ∧ DataAt s (.pf0 0) f (.ok l) l ∧ parseImage l = some ([{ id := 0x203, len := 4, val := 8 }], 0) ∧
          Tab.wf none s.tenants = true ∧ tenants s = [] ∧ (newTenant.w + parityN newTenant) * 8 ≤ zonePool s ∧ instOf s (fTarget f.bytes) < 0x3FFFFF) ∧
      (let f := request 0x85 0 0 0 0 0;
        AtRequest (withReq f) (.pf0 0) f ∧ (∀ c ∈ (withReq f).cmds, c.tenant ≠ fTarget f.bytes) ∧
          ∃ c ∈ ({ withReq f with cmds := [cmd 3 (packet 8 0) .captured] } : State).cmds, c.tenant = fTarget f.bytes) ∧
      (∀ a v, a = 0xF ∨ a = 0x10F → v = 0x786E645F ∨ v = 0x5F5F5F5F →
        AtRequest (withReq (request 0x8A 0xFFFFFFFF a v 0 0)) (.pf0 0) (request 0x8A 0xFFFFFFFF a v 0 0) ∧
          fArg (request 0x8A 0xFFFFFFFF a v 0 0).bytes 0 = a) ∧
      (∀ q, q = 3 ∨ q = 4 → AtRequest (withReq (request 0x8C 0xFFFFFFFF q 0 0 0)) (.pf0 0) (request 0x8C 0xFFFFFFFF q 0 0 0)) ∧
      Tab.get 0 dev.rst.qState 3 ≠ 1 := by
  refine ⟨?_, by decide, by decide, by decide, by decide, by decide +kernel, ⟨by decide, by decide, _, List.mem_singleton.2 rfl, by decide⟩, ?_, ?_, by decide⟩
  · rintro l (rfl | rfl) <;> decide
  · rintro a v (rfl | rfl) (rfl | rfl) <;> decide
  · rintro q (rfl | rfl) <;> decide

/-! #### Resets, firmware, agent 3, clocks, power, boot, records -/

/-- `withReq` for a quadrant reset under way, in the given phase. -/
def withReset (ph : Nat) : State :=
  { withReq (request 0x8C 0xFFFFFFFF 3 0 0 0) with rst := { qState := [(3, 1)], qPhase := [(3, ph)], qWait := [(3, .pf0 0, 0)] } }

theorem wit_QuadrantResetsEnd :
    (running (withReset 7) = true ∧ Tab.get 0 (withReset 7).rst.qState 3 = 1 ∧ Tab.get 0 (withReset 7).rst.qPhase 3 = 7 ∧ fitsWithout (withReset 7) 3 = true) ∧
      (quadRuns (withReset 1) 3 = true ∧ (withReset 1).rst.qWait = [(3, .pf0 0, 0)] ∧
        (getMbx (withReset 1) (.pf0 0)).backlog.head? = some (request 0x8C 0xFFFFFFFF 3 0 0 0) ∧ (withReset 1).cmds = []) := by decide

/-- `withReq` with a staging in the given state by agent 1, with this much staged, of slot 1. -/
def withStage (f : Frame) (st : Nat) (data : List Byte) : State :=
  { withReq f with boot := { dev.boot with stState := st, stAgent := 1, stTarget := 1, stBytes := data.length, stData := data, dev0 := { present := true }, dev1 := { present := true }, next := 0 } }

/-- The start of an image that an image of 0xFF bytes allows to be activated live. -/
def liveImage : List Byte := List.replicate 6 0#8 ++ [1#8, 0#8] ++ List.replicate 8 0#8 ++ [0xFF#8, 0xFF#8] ++ List.replicate 14 0#8

theorem wit_ImagesAreStaged :
    (let f := request 0x87 0xFFFFFFFF 1 0 4 0;
      let s := withStage f 0 [];
      AtRequest s (.pf0 0) f ∧ DataAt s (.pf0 0) f (.ok [1#8, 2#8, 3#8, 4#8]) [1#8, 2#8, 3#8, 4#8] ∧ s.boot.ready = true ∧ s.boot.stopped = false ∧
        fArg f.bytes 0 = 1 ∧ fArg f.bytes 1 = 0 ∧ s.boot.stState = 0 ∧ 4 ≤ imageMax) ∧
      (∀ a o, (a = 0 ∧ o = 4) ∨ (a = 0 ∧ o = 8) ∨ (a = 2 ∧ o = 4) →
        let f := request 0x87 0xFFFFFFFF a o 4 0;
        let s := withStage f 1 [9#8, 9#8, 9#8, 9#8];
        AtRequest s (.pf0 0) f ∧ DataAt s (.pf0 0) f (.ok [1#8, 2#8, 3#8, 4#8]) [1#8, 2#8, 3#8, 4#8] ∧ fArg f.bytes 0 = a ∧ fArg f.bytes 1 = o ∧
          s.boot.stState = 1 ∧ s.boot.stAgent = f.agent ∧ s.boot.stBytes = 4 ∧ s.boot.stBytes + 4 ≤ imageMax) ∧
      (let f := request 0x87 0xFFFFFFFF 2 0 4 0;
        let s := { withStage f 2 [9#8] with boot := { (withStage f 2 [9#8]).boot with stBox := some (.pf0 0, 0) } };
        s.boot.stBox = some (.pf0 0, 0) ∧ s.boot.stState = 2 ∧ flushing s = false ∧ s.ckm.stopped = false ∧ (getMbx s (.pf0 0)).backlog.head? = some f ∧
          (getDev s.boot s.boot.stTarget).present = true) ∧
      (let s := withStage (request 0x80 0xFFFFFFFF 0 0 0 0) 0 [];
        Writable s .a 0 ∧ (getDev s.boot s.boot.rdDev).busy = false ∧ (getDev s.boot s.boot.rdDev).present = true) := by
  refine ⟨by decide, ?_, by decide, by decide⟩
  rintro a o (⟨rfl, rfl⟩ | ⟨rfl, rfl⟩ | ⟨rfl, rfl⟩) <;> decide

theorem wit_ImagesAreActivated :
    (let f := request 0x88 0xFFFFFFFF 0 0 0 0;
      let s := withStage f 3 liveImage;
      AtRequest s (.pf0 0) f ∧ fOp f.bytes = 0x88 ∧ fArg f.bytes 0 = 0 ∧ s.boot.stopped = false ∧ s.boot.stState = 3 ∧ liveOk s = true) ∧
      (∀ a, a = 1 ∨ a = 2 →
        let f := request 0x88 0xFFFFFFFF a 0 0 0;
        AtRequest (withStage f 3 []) (.pf0 0) f ∧ (withStage f 3 []).boot.stState = 3 ∧ fArg f.bytes 0 = a ∧ f.mute = false ∧
          (withStage f 1 []).boot.stState ≠ 3 ∧ AtRequest (withStage f 1 []) (.pf0 0) f) ∧
      (let s : State := { dev with rst := { warmPhase := 1 } };
        s.rst.warmPhase = 1 ∧ flushing s = false ∧ s.rst.warmNs + 10000000 ≤ s.nowNs ∧ s.boot.ready = true) ∧
      (let f := request 0x88 0xFFFFFFFF 0 0 0 0;
        let s : State := { withStage f 3 [] with rst := { actState := 1, actBox := some (.pf0 0, 0) } };
        s.rst.actState ≠ 0 ∧ flushing s = false ∧ s.ckm.stopped = false ∧ s.rst.actBox = some (.pf0 0, 0) ∧ (getMbx s (.pf0 0)).backlog.head? = some f) := by
  refine ⟨by decide +kernel, ?_, by decide, by decide⟩
  rintro a (rfl | rfl) <;> decide

theorem wit_TheEndpointAnswers :
    let f := request 0x80 0xFFFFFFFF 0 0 0 0
    let s : State := { dev with mctp := { eid := 8 } }
    (dev.pins.porHeld = false ∧ dev.ckm.stopped = false) ∧
      ((1#8).toNat % 4 < 2 ∧ 1 ≤ (254#8).toNat ∧ (254#8).toNat ≤ 254 ∧ 2 ≤ (2#8).toNat % 4 ∧ (0x55#8 ≠ 0#8 ∧ 0x55#8 ≠ 0x7E#8 ∧ 0x55#8 ≠ 0xFF#8)) ∧
      (s.mctp.eid ≠ 0 ∧ flushing s = false ∧ (getMbx s (.pf0 1)).owner = 3 ∧ (getMbx s (.pf0 1)).reqQ.length < 16 ∧ (getMbx s (.pf0 2)).owner = 0) ∧
      16 ≤ (getMbx { s with mbxs := [(1, { owner := 3, reqQ := List.replicate 16 f })] } (.pf0 1)).reqQ.length ∧
      (getMbx { s with mbxs := [(1, { owner := 3, rspQ := [f] })] } (.pf0 1)).rspQ = f :: [] ∧ f.resets = false ∧
      alertOn { s with mbxs := [(1, { owner := 3, ctl := 8, rspQ := [f] })] } = true ∧ alertOn s = false := by decide

/-- `dev` with the clocks as given. -/
def withCkm (c : Ckm) : State := { dev with ckm := c }

theorem wit_ReferencesAreJudged :
    (dev.pins.porHeld = false ∧ dev.ckm.stopped = false ∧ (refOf dev Port.a.other).st ≠ 0 ∧ (refOf dev .a).st = 2) ∧
      (let s := withCkm { refA := { st := 1, goodCmps := 3 }, refB := { st := 1, goodCmps := 3 } };
        (refOf s .a).st = 1 ∧ (refOf s .b).st = 1 ∧ inWindow s.ckm.tolPpm 65536 = true ∧ (refOf s .a).goodCmps = 3 ∧ (refOf s .b).goodCmps = 3 ∧ s.ckm.plls = [] ∧
          inWindow s.ckm.tolPpm 65000 = false ∧ (refOf s .a).st ≠ 2) ∧
      (let s := withCkm { refA := { st := 0 } };
        (refOf s .a).st = 0) ∧
      (let s := { withCkm { refA := { st := 1 }, refB := { st := 0 } } with boot := { phase := 2 } };
        s.ckm.stopped = false ∧ s.boot.ready = false ∧ s.boot.phase = 2 ∧ s.ckm.plls = [] ∧ (refOf s .a).st = 1 ∧ (refOf s Port.a.other).st = 0 ∧
          (refOf s .a).sinceNs + 100000000 ≤ s.nowNs) ∧
      (∀ n, n = 0 ∨ n = 9 ∨ n = 10 → (Tab.get {} (withCkm { plls := [(0, { on := true }), (9, { on := true }), (10, { on := true })] }).ckm.plls n).on = true) := by
  refine ⟨by decide, by decide, by decide, by decide, ?_⟩
  rintro n (rfl | rfl | rfl) <;> decide

theorem wit_GatesFollowRequests :
    Writable dev .a 0 ∧ ((0x113#32).toNat &&& 0xFFFFFEE0 = 0 ∧ flag 0x113#32 8 = true ∧ fld 0x113#32 0 5 ≤ 21) ∧
      ((0x1F#32).toNat &&& 0xFFFFFEE0 = 0 ∧ flag 0x1F#32 8 = false ∧ 21 < fld 0x1F#32 0 5) ∧
      (fld 0x8#32 0 5 ≤ 21 ∧ bit dev.ckm.gEn (fld 0x8#32 0 5) = true ∧ (∃ m, m < 22 ∧ gateParent m = some (fld 0x8#32 0 5) ∧ bit dev.ckm.gEn m = true)) ∧
      (bit dev.ckm.gEn (fld 0x15#32 0 5) = true ∧ (∀ m, m < 22 → gateParent m = some (fld 0x15#32 0 5) → bit dev.ckm.gEn m = false) ∧
        gateInUse (woken dev .a 3) (fld 0x15#32 0 5) = true) ∧
      (bit dev.ckm.gEn (fld 0x13#32 0 5) = true ∧ (∀ m, m < 22 → gateParent m = some (fld 0x13#32 0 5) → bit dev.ckm.gEn m = false) ∧
        gateInUse (woken dev .a 3) (fld 0x13#32 0 5) = false) := by
  refine ⟨by decide, by decide, by decide, ⟨by decide, by decide, 12, by decide⟩, by decide, by decide⟩

/-- `dev` with the resets and power states as given, no port up. -/
def withRst (r : Rst) : State := { dev with rst := r, pa := {}, pb := {} }

theorem wit_PowerStatesFollow :
    (running (withRst {}) = true ∧ 1 ≤ (withRst {}).rst.maxState ∧ (withRst {}).rst.pwr ≤ 1 ∧ quadIdle (withRst {}) 3 = true ∧
        max (withRst {}).rst.idleNs (Tab.get 0 (withRst {}).rst.qIdleNs 3) + max 1 (withRst {}).rst.p1Us * 1000 ≤ (withRst {}).nowNs) ∧
      (let s := withRst { pwr := 1 };
        running s = true ∧ 2 ≤ s.rst.maxState ∧ s.rst.pwr = 1 ∧ p2Idle s = true ∧ s.rst.idleNs + max 1 s.rst.p2Ms * 1000000 ≤ s.nowNs) ∧
      (let s := withRst { pwr := 2, maxState := 3 };
        running s = true ∧ 3 ≤ s.rst.maxState ∧ s.rst.pwr = 2 ∧ s.rst.waking = false ∧ dirtyBytes s = 0 ∧ (getPort s .a).linkUp = false ∧
          (getPort s .b).linkUp = false ∧ s.rst.idleNs + max 1 s.rst.p3S * 1000000000 ≤ s.nowNs) ∧
      (∀ p, p = 2 ∨ p = 3 → (withRst { pwr := p, waking := true }).rst.pwr = p ∧ 2 ≤ p ∧ (withRst { pwr := p, waking := true }).rst.waking = true) ∧
      Writable dev .a 0 ∧ (3#32).toNat < 4 ∧ dev.rst.pwr = 0 := by
  refine ⟨by decide, by decide, by decide, ?_, by decide⟩
  rintro p (rfl | rfl) <;> decide

theorem wit_ResetsRestart :
    (Reaches dev .a 0 ∧ (0xA5000001#32).toNat = 0xA5000001 ∧ dev.rst.warmPhase = 0 ∧ dev.thm.latch = false ∧ flushing dev = false ∧ dev.boot.ready = true) ∧
      (let s : State := { dev with boot := { phase := 3 } };
        Reaches s .a 0 ∧ s.rst.warmPhase = 0 ∧ s.thm.latch = false ∧ flushing s = false ∧ s.boot.ready = false) ∧
      (let s := withThm { latch := true };
        Reaches s .a 0 ∧ s.thm.latch = true ∧ s.thm.phase ≠ 3 ∧ s.rst.warmPhase = 0) ∧
      (let s := withThm { latch := true, phase := 3 };
        Reaches s .a 0 ∧ s.thm.latch = true ∧ s.thm.phase = 3 ∧ latchFree s = true ∧ s.rst.warmPhase = 0) ∧
      (let s := withThm { latch := true, phase := 3, sens := [(21, { temp := 420 })] };
        Reaches s .a 0 ∧ s.thm.latch = true ∧ s.thm.phase = 3 ∧ latchFree s = false ∧ s.rst.warmPhase = 0) ∧
      (let s : State := { dev with rst := { warmPhase := 2 } };
        s.rst.warmPhase = 2 ∧ s.plp.phase = 0 ∧ ∀ c ∈ s.cmds, c.granted = false) ∧
      (let s : State := { withCmds [{ cmd 3 (packet 8 0) .exec with granted := true }] with rst := { warmPhase := 2 } };
        s.rst.warmPhase = 2 ∧ s.plp.phase = 0 ∧ s.rst.warmNs + min 10000 s.rst.quiesceMs * 1000000 ≤ s.nowNs) ∧
      ((withPlp { phase := 1, why := 2 }).plp.phase = 1 ∧ (withPlp { phase := 1, why := 2 }).plp.why = 2) ∧ dev.pins.porHeld = false := by decide +kernel

/-- `dev` in a phase of the boot. -/
def inPhase (n : Nat) : State := { dev with boot := { phase := n, slot := 0, dev0 := {} }, bpm := {} }

theorem wit_TheBootProceeds :
    State.reset.pins.porHeld = true ∧ (withPlp { phase := 3 }).plp.phase = 3 ∧
      (∀ n, n = 1 ∨ n = 2 ∨ n = 6 ∨ n = 9 → booting (inPhase n) = true ∧ (inPhase n).boot.phase = n) ∧
      (let s := { inPhase 2 with ckm := { plls := (List.range 11).map fun n => (n, { on := true, lock := true, stable := true }) } };
        clocksUp s = true ∧ s.plp.pwrfail = false ∧ booting s = true) ∧ clocksUp (inPhase 2) = false ∧
      (candidateSlot (inPhase 6) = some 0 ∧ canFail (inPhase 6) 0 0x8F = true ∧ 0x8F ≠ 0x33) ∧
      (let s : State := { inPhase 9 with pa := {}, pb := {} };
        booting s = true ∧ s.boot.phase = 9 ∧ s.heldCommits = [] ∧ s.pa.vfs = [] ∧ s.pb.vfs = []) ∧
      (let s : State := { dev with boot := { dev.boot with svnPend := 2 } };
        s.boot.ready = true ∧ s.ckm.stopped = false ∧ s.pins.porHeld = false ∧ s.fuse.svn < s.boot.svnPend) := by
  refine ⟨by decide, by decide, ?_, by decide, by decide, by decide, by decide, by decide⟩
  rintro n (rfl | rfl | rfl | rfl) <;> decide

/-- A record with a number. -/
def rec' (n : Nat) : EvRec := { num := n, time := 5, pcycle := 0, boot := false, held := false, cont := false, sev := 1, source := 0, code := 3, payload := [] }

/-- `dev` with the event recorder as given. -/
def withEvr (e : Evr) : State := { dev with evr := e }

theorem wit_RecordsAreKept :
    (let s := withEvr { waiting := [rec' 3] };
      s.hlt.known = true ∧ 0 < s.evr.waiting.length ∧ s.evr.waiting.length ≤ 8192 ∧ s.evr.lastPersistMs + 1000 ≤ opMs s ∧ logClearing s.evr = false ∧
        s.ckm.stopped = false ∧ paused s = false) ∧
      (let s := withEvr { excess := [(5, 7)] };
        s.evr.excess = [(5, 7)] ∧ opMs s / 1000 ≠ s.evr.sec ∧ s.evr.frozen = false) ∧
      (Writable dev .a 0 ∧ ((0x103#32).toNat &&& 0xFFFFFEF8 = 0 ∧ flag 0x103#32 0 = true ∧ flag 0x103#32 2 = false) ∧ flag 0#32 0 = false ∧
        (flag 0x105#32 0 = true ∧ flag 0x105#32 2 = true ∧ dev.evr.frozen = false) ∧
        ((withEvr { frozen := true }).evr.frozen = true ∧ (withEvr { frozen := true }).evr.holdDropped = 0 ∧ (withEvr { frozen := true }).evr.clearing = none)) ∧
      ((withEvr { clearing := some (true, 2) }).evr.clearing = some (true, 2) ∧ Recordable (withEvr { clearing := some (true, 2) }) 0 0x0004) ∧
      ((withEvr { clearing := some (false, 2), frozen := true }).evr.clearing = some (false, 2) ∧
        (withEvr { clearing := some (false, 2), frozen := true }).evr.frozen = true) ∧ ({ dev with hlt := { known := false } } : State).hlt.known = false ∧
      (let s : State := { withEvr { ring := [rec' 3] } with pa := { upPort with win := { evrBusy := true, evrCursor := 3 } } };
        (getPort s .a).win.evrBusy = true ∧ (getPort s .a).win.evrSrc = false ∧
          s.evr.ring.find? (fun x => x.num == (getPort s .a).win.evrCursor) = some (rec' 3)) ∧
      (let s : State := { withEvr { ring := [rec' 3] } with pa := { upPort with win := { evrBusy := true, evrCursor := 4 } } };
        (getPort s .a).win.evrBusy = true ∧ (∀ r ∈ s.evr.ring, r.num ≠ (getPort s .a).win.evrCursor)) ∧
      (let s : State := { withEvr { log := [(9, rec' 3)] } with pa := { upPort with win := { evrBusy := true, evrSrc := true, evrCursor := 9 } } };
        (getPort s .a).win.evrBusy = true ∧ (getPort s .a).win.evrSrc = true ∧
          fetchRec s.evr (getPort s .a).win.evrSrc (getPort s .a).win.evrCursor = some (rec' 3)) ∧
      (leBytes 4 (crc32c ((List.replicate 32 1#8).take 28)).toNat ≠ (List.replicate 32 1#8).drop 28) ∧
      ((getPort { dev with pa := { upPort with win := { evrAuto := true } } } .a).win.evrAuto = true ∧ (getPort dev .a).win.evrAuto = false ∧ Reaches dev .a 0) :=
  ⟨by decide +kernel, by decide +kernel, by decide +kernel, by decide +kernel, by decide +kernel, by decide +kernel, by decide +kernel, by decide +kernel,
    by decide +kernel, by decide +kernel, by decide +kernel⟩

theorem wit_TheTapSelects : ¬(1 ≤ (0xFF#8).toNat ∧ (0xFF#8).toNat ≤ 5) := by decide

/-- A device whose next command is the fuse update, with a security version to burn. -/
def burning : State := { dev with pending := [.fuseUpdate], boot := { dev.boot with svnPend := 2 } }

theorem wit_FusesOnlyRise : ∃ t, step burning = .next t ∧ t.fuse ≠ burning.fuse ∧ burning.fuse.svn < t.fuse.svn := ⟨_, rfl, by decide, by decide⟩

theorem wit_ImagesReadBack : (∀ e ∈ [(0x105, 20), (0xFFFF, 0xFFFFFFFF)], e.1 < 65536 ∧ e.2 < 4294967296) ∧ 16 + 8 * 2 < 4294967296 := by decide

/-! ### Examples of the manual -/

/-- The example of R53 and Table 3.4: CAS_TAKEN 510 makes TRS 14 the next, with sequence 0xFE. -/
theorem test_sequence : 510 % 16 = 14 ∧ expectSeq 510 14 = 0xFE := by decide

/-- The example of R10: volume 6, LUN 2 of channel 77 is device LUN 2,490, of quadrant 2 and group 1. -/
theorem test_lun : lunCh 2490 = 77 ∧ lunVol 2490 = 6 ∧ 2490 % 4 = 2 ∧ chQuad 77 = 2 ∧ chGrp 77 = 2 * 4 + 1 := by decide

/-- The media address of Table 17.6: device LUN 2,490, plane 1, block 0x123, wordline 0x05A, sector 3. -/
theorem test_mediaAddr : mediaAddr (2490 * 16384 + 0x123) 1 0x05A 3 = 0x026E9048C16B := by decide

/-- The example of R112: zone LBA 0x3A37 is row 58, member 3, plane 1, sector 3. -/
theorem test_rowOf : rowOf { w := 16 } 0x3A37 = 58 ∧ memberOf { w := 16 } 0x3A37 = 3 ∧ planeSector { w := 16 } 0x3A37 0 = (1, 3) := by decide

/-- The example of R253: 20 ms of hold-up give D_max 4,500 MiB, 80,192 reserve buffers and 116 emergency blocks a channel. -/
theorem test_dmax : dmaxRaw 20 (3501088, 10) = 4500 ∧ reserveFor 4500 = 80192 ∧ echFor 4500 = 116 := by decide

/-- Table 16.3: the shutter hovering at T_ON, in quarter degrees. -/
theorem test_shutter :
    shutterStep 64 (-160) 399 400 440 = (64, -160) ∧ shutterStep 64 (-160) 401 400 440 = (62, 401) ∧ shutterStep 62 401 399 400 440 = (62, 401) ∧
      shutterStep 62 401 388 400 440 = (64, 388) := by decide

/-- The example of R397: FL77_DQ0, the tile's ball in row 1, column 1, is in row 83, column 19. -/
theorem test_tileBall : tileBall 77 1 1 = (83, 19) := by decide

/-- The words of Table 17.6, but for the CRC. -/
theorem test_record :
    (recBytes { num := 0x4A17, time := 0x0008A0F3C6D2, pcycle := 500, boot := false, held := false, cont := false, sev := 3, source := 0xB9BA, code := 0xB001
                payload := leBytes 6 0x026E9048C16B ++ leBytes 2 0 ++ leBytes 4 0x05400105 }).take 28 =
      leBytes 4 0xA0F3C6D2 ++ leBytes 4 0x01F40008 ++ leBytes 4 0xB9BA0300 ++ leBytes 4 0x4A17B001 ++ leBytes 4 0x9048C16B ++ leBytes 4 0x0000026E ++
        leBytes 4 0x05400105 := by decide

/-- The example of R327: 800 ppm are 52 counts. -/
theorem test_window : inWindow 800 65588 = true ∧ inWindow 800 65589 = false ∧ inWindow 800 65484 = true ∧ inWindow 800 65483 = false := by decide

/-- Table 13.11: the image sent, cut off at DLEN 76. -/
def image1311 : List Byte :=
  leBytes 4 0x58564346 ++ leBytes 2 1 ++ leBytes 2 0 ++ leBytes 4 80 ++ leBytes 4 0 ++ fieldBytes 1 10 ++ fieldBytes 0x212 2048 ++ fieldBytes 0x302 30000 ++
    fieldBytes 0x312 5000 ++ fieldBytes 0x306 300 ++ fieldBytes 1 0xFFFFFFFF ++ fieldBytes 0x103 40 ++ (fieldBytes 0x101 25).take 4

/-- Tenants 0 to 9 with bandwidth sills that sum to 200,000 MB/s, and tenant 10. -/
def sills : State :=
  { withReq (request 0x82 0xFFFFFFFF 0 0 76 4096) with
    tenants := (List.range 10).map (fun t => (t, some { std := { sillMbps := 20000 } })) ++ [(10, some {})], media := { flash with ucTotal := 100000000 }, adm := { capMbps := 220000 } }

/-- Table 13.12: the clamp report. -/
def report1312 : List Byte :=
  leBytes 2 0x103 ++ leBytes 2 0xFFFF ++ leBytes 4 1 ++ leBytes 4 40 ++ leBytes 4 50 ++ leBytes 2 0x302 ++ leBytes 2 10 ++ leBytes 4 2 ++
    leBytes 4 30000 ++ leBytes 4 20000 ++ leBytes 2 0x312 ++ leBytes 2 10 ++ leBytes 4 2 ++ leBytes 4 5000 ++ leBytes 4 0 ++
    leBytes 2 0x306 ++ leBytes 2 10 ++ leBytes 4 1 ++ leBytes 4 300 ++ leBytes 4 255

/-- The reply that waits in mailbox 0 after a command: its data and its frame. -/
def replyOf (i : Instr) (s : State) : Option (List Byte × List Byte) :=
  match exec i s with
  | .next u => (getMbx u (.pf0 0)).held.map fun r => (r.data, r.bytes)
  | _ => none

/-- The reply to the image of Table 13.11: VAL0 = 5, VAL1 = 4, VAL2 = 0x8000_0048, RWRITTEN 64. -/
theorem test_setConfig : replyOf (.setConfig (.pf0 0) (.ok image1311)) sills =
    some (report1312, replyBytes (request 0x82 0xFFFFFFFF 0 0 76 4096).bytes 0 [5, 4, 0x80000048] 64 64 1) := by decide +kernel

/-! ### Commands and words -/

/-- No row of the table gives bits: a word spells no command, and the queue stays as it is. -/
theorem test_noWords : decodeTableWord 32 0 = none ∧ State.reset.withFetchWord 32 0 = State.reset := ⟨rfl, rfl⟩

/-! ### Ill-formed commands are refused -/

theorem test_wf_fn : Instr.wf (.busMasterEnableSet .a 1025) = false ∧ Instr.wf (.busMasterEnableSet .a 1024) = true := by decide
theorem test_wf_tenant : Instr.wf (.read 1024 0 false) = false ∧ Instr.wf (.read 1023 0 false) = true := by decide
theorem test_wf_ring : Instr.wf (.completionPost .a 1 16) = false ∧ Instr.wf (.completionPost .a 0 0) = false ∧ Instr.wf (.completionPost .a 1 15) = true := by decide
theorem test_wf_vector : Instr.wf (.msixPendingSend .a 0 17) = false ∧ Instr.wf (.msixPendingSend .a 0 16) = true := by decide
theorem test_wf_channel : Instr.wf (.channelRetrain 128 ⟨0, []⟩) = false ∧ Instr.wf (.channelRetrain 0 ⟨61, []⟩) = false ∧
    Instr.wf (.channelRetrain 127 ⟨60, []⟩) = true ∧ Instr.wf (.zqCalibrationShort 0 8) = false ∧ Instr.wf (.zqCalibrationShort 127 7) = true := by decide
theorem test_wf_lun : Instr.wf (.arrayOpStart 4096) = false ∧ Instr.wf (.patrolVisit 1 16383) = false ∧ Instr.wf (.patrolVisit 1 16384) = true := by decide
theorem test_wf_quadrant : Instr.wf (.p1Entry 4) = false ∧ Instr.wf (.backOffRetry 2 0 ⟨0, false⟩) = false ∧ Instr.wf (.backOffRetry 1 3 ⟨0, false⟩) = true := by decide
theorem test_wf_box : Instr.wf (.health (.pf0 8)) = false ∧ Instr.wf (.health (.vf .a 0)) = false ∧ Instr.wf (.health (.vf .a 1)) = true := by decide
theorem test_wf_trs : Instr.wf (.trsWrite .a 0 0 [none]) = false ∧ Instr.wf (.trsWrite .a 1 0 []) = false ∧ Instr.wf (.trsWrite .a 1 1023 [none, none]) = false ∧
    Instr.wf (.trsWrite .a 1 1023 [none]) = true := by decide
theorem test_wf_write : Instr.wf (.registerWrite .a 0 .bar 0 0 0) = false ∧ Instr.wf (.registerWrite .a 0 .bar 0 9 0) = false ∧
    Instr.wf (.registerWrite .a 0 .bar 0 8 0) = true := by decide
theorem test_wf_die : Instr.wf (.coreHang 5 0 0) = false ∧ Instr.wf (.sensorTimeout 22) = false ∧ Instr.wf (.flagDwellExpiry 3) = false ∧
    Instr.wf (.skimRead 7 .clean) = false ∧ Instr.wf (.correctedWriteBack 16 0) = false ∧ Instr.wf (.hbmRefresh 2) = false ∧ Instr.wf (.ceRate 16) = false ∧
    Instr.wf (.pllFault 13 []) = false ∧ Instr.wf (.railUndervoltage 12) = false ∧ Instr.wf (.readyListRefill 16) = false ∧
    Instr.wf (.mctpLock 256) = false ∧ Instr.wf (.mbxLockRead .a 8) = false := by decide
end Sys2Proof.Tests
end

section
/-! PROOFS. Casements and completion rings: what a write of RNG_HEADn does (R63), what a memory write into the TRS range stores (R49), and
what the commit of a whole packet does, captured (R53), refused (R52), discarded or held (R55). -/

namespace Sys2Proof.Machine

/-! ### RNG_HEADn -/

/-- A write of RNG_HEADn that is applied, by cases (R63). -/
theorem exec_ringHeadWrite {s : State} {p : Port} {fn : Nat} (ring : Nat) (v : Word) (h : Writable s p fn) :
    exec (.ringHeadWrite p fn ring v) s =
      if (getRing s p fn ring).en = false then .next (woken s p 3)
      else if 2 ^ (getRing s p fn ring).sizeLog2 < ((getRing s p fn ring).posted + p32 - v.toNat) % p32 then
        .fault (.headPastPosted p fn ring)
      else .next (modRing (woken s p 3) p fn ring fun r => { r with head := v.toNat }) := by
  change execRingHeadWrite p fn ring v s = _
  simp [execRingHeadWrite, regWrite_writable _ h, getRing_woken]

/-- The free space of a ring whose head is a register value (R62). -/
theorem ringFree_head (r : Ring) (v : Word) :
    ringFree { r with head := v.toNat } = 2 ^ r.sizeLog2 - (r.posted + p32 - v.toNat) % p32 := by
  have hv : v.toNat % p32 = v.toNat := Nat.mod_eq_of_lt v.isLt
  simp only [ringFree, hv]

/-- Settles O3: the three clauses are the three branches of the write; the head is the ring's only field that it sets. -/
theorem ringHeadWrites : Obligations.RingHeadWrites := by
  unfold Obligations.RingHeadWrites
  intro s p fn ring v hw
  rw [exec_ringHeadWrite ring v hw]
  refine ⟨fun hen => if_pos hen, fun hen hle => ?_, fun hen hlt => ?_⟩
  · refine ⟨_, by rw [if_neg (by simp [hen]), if_neg (Nat.not_lt.mpr hle)], only_modRing _ _ _ _ _, fun n hn => ?_, ?_, ?_⟩
    · rw [getRing_modRing_ne _ _ _ _ _ _ hn, getRing_woken]
    · rw [getRing_modRing_self, getRing_woken]
    · rw [getRing_modRing_self, getRing_woken, ringFree_head]
  · rw [if_neg (by simp [hen]), if_pos hlt]

/-! ### What a memory write stores -/

/-- Read after write, any key. -/
theorem Tab.get_set {α : Type} [DecidableEq α] (d : α) (t : Tab α) (k j : Nat) (v : α) :
    Tab.get d (Tab.set d t k v) j = if j = k then v else Tab.get d t j := by
  split
  · subst_vars; exact Tab.get_set_self ..
  · exact Tab.get_set_ne _ _ _ _ _ ‹_›

/-- The first byte of a write goes to its offset, the rest is a write one byte further on. -/
theorem written_cons (o a : Nat) (b : Option Byte) (l : List (Option Byte)) :
    written o (b :: l) a = if a = o then b else written (o + 1) l a := by
  unfold written
  rcases Nat.lt_trichotomy a o with h | h | h
  · rw [if_neg (by omega), if_neg (by omega), if_neg (by omega)]
  · subst h; simp
  · obtain ⟨n, rfl⟩ : ∃ n, a = o + 1 + n := ⟨a - (o + 1), by omega⟩
    rw [if_pos (by omega), if_neg (by omega), if_pos (by omega), show o + 1 + n - o = n + 1 by omega,
      show o + 1 + n - (o + 1) = n by omega, List.getElem?_cons_succ]

/-- A write stores nothing below its offset. -/
theorem written_below {o a : Nat} (l : List (Option Byte)) (h : a < o) : written o l a = none := if_neg (by omega)

/-- A table into which a write puts something for each of its enabled bytes. -/
theorem get_foldl_enabled {α : Type} [DecidableEq α] (d : α) (g : Byte → α) (l : List (Option Byte)) (o a : Nat) (t : Tab α) :
    Tab.get d ((enabled o l).foldl (fun t e => Tab.set d t e.1 (g e.2)) t) a = ((written o l a).map g).getD (Tab.get d t a) := by
  induction l generalizing o t with
  | nil => simp [enabled, written]
  | cons b l ih =>
    rw [written_cons]
    cases b with
    | none =>
      rw [enabled, ih]
      split
      · subst_vars; rw [written_below l (by omega)]
      · rfl
    | some b =>
      rw [enabled, List.foldl_cons, ih, Tab.get_set]
      split
      · subst_vars; rw [written_below l (by omega)]; rfl
      · rfl

/-- The bytes of the TRS range after a write (R49): the enabled ones are the write's. -/
theorem get_storeSets_trs (c : Casement) (o a : Nat) (l : List (Option Byte)) :
    Tab.get 0#8 (storeSets c (enabled o l)).trs a = (written o l a).getD (Tab.get 0#8 c.trs a) := by
  refine (get_foldl_enabled 0#8 id l o a c.trs).trans ?_
  rw [Option.map_id_fun, id]

/-- The bytes of the TRS range that have been written (R54). -/
theorem get_storeSets_seen (c : Casement) (o a : Nat) (l : List (Option Byte)) :
    Tab.get false (storeSets c (enabled o l)).seen a = ((written o l a).isSome || Tab.get false c.seen a) := by
  refine (get_foldl_enabled false (fun _ => true) l o a c.seen).trans ?_
  cases written o l a <;> rfl

/-- The enabled bytes of a write include a byte just when the write puts something there. -/
theorem any_enabled (o a : Nat) (l : List (Option Byte)) : (enabled o l).any (fun e => e.1 == a) = (written o l a).isSome := by
  induction l generalizing o with
  | nil => simp [enabled, written]
  | cons b l ih =>
    rw [written_cons]
    cases b with
    | none =>
      rw [enabled, ih]
      split
      · subst_vars; rw [written_below l (by omega)]
      · rfl
    | some b =>
      rw [enabled, List.any_cons, ih]
      split
      · simp_all
      · simp [Ne.symm ‹_›]

/-- The enabled bytes of a write lie within it. -/
theorem enabled_within {o : Nat} {l : List (Option Byte)} {e : Nat × Byte} (h : e ∈ enabled o l) : o ≤ e.1 ∧ e.1 < o + l.length := by
  induction l generalizing o with
  | nil => simp [enabled] at h
  | cons b l ih =>
    rw [List.length_cons]
    cases b with
    | none => have := ih h; omega
    | some b =>
      rcases List.mem_cons.mp h with rfl | h
      · simp
      · have := ih h; omega

/-- DWORD 15 of TRS `k` reads as 0 once cleared, the other bytes keep their values (R52, R53). -/
theorem get_clearCommit (t : Tab Byte) (k a : Nat) :
    Tab.get 0#8 (clearCommit t k) a = if a / 4 = k * 16 + 15 then 0#8 else Tab.get 0#8 t a := by
  have h : a / 4 = k * 16 + 15 ↔ a = k * 64 + 60 ∨ a = k * 64 + 61 ∨ a = k * 64 + 62 ∨ a = k * 64 + 63 := by omega
  simp only [clearCommit, storeTrs, List.range, List.range.loop, List.map, List.foldl, Tab.get_set, h]
  grind

/-! ### A whole packet in a task register set -/

theorem packetBytes_cons (x : Word) (w : List Word) : packetBytes (x :: w) =
    some (BitVec.ofNat 8 x.toNat) :: some (BitVec.ofNat 8 (x.toNat / 256)) :: some (BitVec.ofNat 8 (x.toNat / 256 / 256)) ::
      some (BitVec.ofNat 8 (x.toNat / 256 / 256 / 256)) :: packetBytes w := rfl

theorem packetBytes_length (w : List Word) : (packetBytes w).length = 4 * w.length := by
  induction w with
  | nil => rfl
  | cons x w ih => simp only [packetBytes_cons, List.length_cons, ih]; omega

/-- Where a packet's bytes go: byte `i` of DWORD `d`, least significant byte first (R409). -/
theorem written_packetBytes {w : List Word} {d i : Nat} (o : Nat) (hd : d < w.length) (hi : i < 4) :
    written o (packetBytes w) (o + d * 4 + i) = some (BitVec.ofNat 8 (pktD w d / 256 ^ i)) := by
  induction w generalizing o d with
  | nil => simp at hd
  | cons x w ih =>
    rw [packetBytes_cons]
    cases d with
    | zero =>
      simp only [written_cons]
      obtain rfl | rfl | rfl | rfl : i = 0 ∨ i = 1 ∨ i = 2 ∨ i = 3 := by omega
      all_goals simp [pktD, nth, Nat.div_div_eq_div_mul]
    | succ d =>
      have h := ih (d := d) (o + 4) (by simpa using hd)
      rw [show o + 4 + d * 4 + i = o + (d + 1) * 4 + i by omega] at h
      simp only [written_cons]
      rw [if_neg (by omega), if_neg (by omega), if_neg (by omega), if_neg (by omega)]
      exact h

/-- Four bytes of a number below 2^32, least significant first, spell it. -/
theorem leNat_four {x : Nat} (h : x < 2 ^ 32) :
    leNat ((List.range 4).map fun i => BitVec.ofNat 8 (x / 256 ^ i)) = x := by
  simp [List.range, List.range.loop, leNat]
  omega

/-- The bytes of a packet that is written whole into TRS `k`, each at its offset. -/
abbrev packetAt (k : Nat) (w : List Word) : List (Nat × Byte) := enabled (k * 64) (packetBytes w)

section
variable {w : List Word} (hw : w.length = 16) (c : Casement) (k : Nat)
include hw

/-- Byte `i` of DWORD `d` of a task register set into which a packet has been written. -/
theorem get_trs_packet {d i : Nat} (hd : d < 16) (hi : i < 4) :
    Tab.get 0#8 (storeSets c (packetAt k w)).trs (k * 64 + d * 4 + i) = BitVec.ofNat 8 (pktD w d / 256 ^ i) := by
  rw [get_storeSets_trs, written_packetBytes _ (by omega) hi]; rfl

/-- A packet written into a task register set reads back. -/
theorem trsPacket_packet : trsPacket (storeSets c (packetAt k w)).trs k = w := by
  refine List.ext_getElem (by simp [trsPacket, hw]) fun d hd _ => ?_
  have hd' : d < 16 := by simpa [trsPacket] using hd
  have hb : (List.range 4).map (fun i => Tab.get 0#8 (storeSets c (packetAt k w)).trs (k * 64 + d * 4 + i)) =
      (List.range 4).map fun i => BitVec.ofNat 8 (pktD w d / 256 ^ i) :=
    List.map_congr_left fun i hi => get_trs_packet hw c k hd' (List.mem_range.mp hi)
  have hp : pktD w d = (w[d]'(by omega)).toNat := by simp [pktD, nth, hw, hd']
  simp only [trsPacket, List.getElem_map, List.getElem_range, trsWord, hb]
  rw [hp, leNat_four (BitVec.isLt _), BitVec.ofNat_toNat, BitVec.setWidth_eq]

/-- A packet written whole lacks no byte that R54 demands of its commit. -/
theorem packetWhole_packet : packetWhole (storeSets c (packetAt k w)) k = true := by
  refine List.all_eq_true.mpr fun a ha => ?_
  have ha : a < 60 := List.mem_range.mp ha
  rw [show k * 64 + a = k * 64 + a / 4 * 4 + a % 4 by omega, get_storeSets_seen,
    written_packetBytes _ (by omega) (Nat.mod_lt _ (by omega))]
  rfl

/-- A packet whose DWORD 15 holds the commit key commits (R50). -/
theorem isCommit_packet (hkey : pktD w 15 % 256 = 0xC3) :
    isCommit (packetAt k w) (storeSets c (packetAt k w)).trs k = true := by
  have h0 := written_packetBytes (d := 15) (i := 0) (k * 64) (by omega : 15 < w.length) (by omega)
  have h1 := written_packetBytes (d := 15) (i := 1) (k * 64) (by omega : 15 < w.length) (by omega)
  have hc := get_trs_packet hw c k (d := 15) (i := 0) (by omega) (by omega)
  have hb : BitVec.ofNat 8 (pktD w 15) = 0xC3#8 := BitVec.eq_of_toNat_eq (by simpa using hkey)
  simp only [Nat.reduceMul, Nat.add_zero, Nat.pow_zero, Nat.div_one, hb] at h0 hc
  simp [isCommit, any_enabled, h0, h1, hc]

/-- The set sequence of a packet, as the commit check reads it (Table 3.2). -/
theorem seq_packet : (Tab.get 0#8 (storeSets c (packetAt k w)).trs (k * 64 + 61)).toNat = pktD w 15 / 256 % 256 := by
  have h := get_trs_packet hw c k (d := 15) (i := 1) (by omega) (by omega)
  simp only [Nat.reduceMul, Nat.pow_one, Nat.add_assoc, Nat.reduceAdd] at h
  simp [h]

/-- Every byte of a packet written at the start of TRS `k` falls in that set. -/
theorem mem_packet_trs {e : Nat × Byte} (he : e ∈ packetAt k w) : e.1 / 64 = k := by
  have h := enabled_within he
  rw [packetBytes_length, hw] at h
  omega

theorem inTrs_packet_self : inTrs k (packetAt k w) = packetAt k w :=
  List.filter_eq_self.mpr fun _ he => beq_iff_eq.mpr (mem_packet_trs hw k he)

theorem inTrs_packet_ne {j : Nat} (h : j ≠ k) : inTrs j (packetAt k w) = [] :=
  List.filter_eq_nil_iff.mpr fun _ he => by simpa [mem_packet_trs hw k he] using Ne.symm h

theorem packetAt_ne_nil : packetAt k w ≠ [] := fun h => by
  have hany : (packetAt k w).any (fun e => e.1 == k * 64 + 0 * 4 + 0) = true := by
    rw [any_enabled, written_packetBytes _ (by omega) (by omega)]; rfl
  simp [h] at hany

/-- The one task register set that the write of a whole packet acts on (R49). -/
theorem sets_packet (hk : k < 16) : ((List.range 16).filter fun j => !(inTrs j (packetAt k w)).isEmpty) = [k] := by
  have hone : ∀ k < 16, (List.range 16).filter (· == k) = [k] := by decide
  have hj : ∀ j, (!(inTrs j (packetAt k w)).isEmpty) = (j == k) := fun j => by
    by_cases h : j = k
    · subst h; rw [inTrs_packet_self hw]; simp [packetAt_ne_nil hw]
    · rw [inTrs_packet_ne hw k h]; simp [h]
  simp only [hj, hone k hk]

end

/-- The state in which the commit of a packet in TRS `k` is judged: the request has arrived and its bytes are stored. -/
def packetStored (s : State) (p : Port) (fn k : Nat) (w : List Word) : State :=
  modCas (woken s p 1) p fn fun c => storeSets c (packetAt k w)

theorem getCas_packetStored (s : State) (p : Port) (fn k : Nat) (w : List Word) :
    getCas (packetStored s p fn k w) p fn = storeSets (getCas s p fn) (packetAt k w) := by
  rw [packetStored, getCas_modCas_self, getCas_woken]

theorem only_packetStored (s : State) (p : Port) (fn k : Nat) (w : List Word) :
    Only [portPart p] (woken s p 1) (packetStored s p fn k w) := only_modCas _ _ _ _

/-- A packet's write, before its commit is judged, changes its port and the reset and power block only. -/
theorem packetStored_same (s : State) (p : Port) (fn k : Nat) (w : List Word) :
    Only [portPart p, .rst] s (packetStored s p fn k w) :=
  (only_woken s p 1).trans ((only_packetStored s p fn k w).mono (by simp))

/-- The write of a whole packet into a casement that holds no valid commit: its bytes are stored, its commit is judged, and what has its
turn is captured (R49, R51). -/
theorem exec_packet {s : State} {p : Port} {fn k : Nat} {w : List Word} {i : Instr} (hr : Reaches s p fn)
    (hv : (getCas s p fn).valid = []) (hw : w.length = 16) (hk : k < 16)
    (hi : i = .trsCommit p fn (k * 64) (packetBytes w) ∨ i = .trsWrite p fn (k * 64) (packetBytes w)) :
    exec i s = captureAll p fn 16 (commitTrs (packetStored s p fn k w) p fn k (packetAt k w)) := by
  have hx : exec i s = writeTrs p fn (k * 64) (packetBytes w) s := by rcases hi with rfl | rfl <;> rfl
  have hin : (packetAt k w).filter (fun e => decide (e.1 < 1024)) = packetAt k w :=
    List.filter_eq_self.mpr fun e he => by have := mem_packet_trs hw k he; simp; omega
  have hearly : earlyCommit (woken s p 1) p fn (packetAt k w) [k] = none := by
    simp [earlyCommit, packetWhole_packet hw]
  simp only [hx, writeTrs, hostAccess_reaches 1 _ hr, sets_packet hw k hk, hin, hearly]
  simp [getCas_woken, hv, inTrs_packet_self hw k, packetStored]

/-! ### The commit check of a whole packet -/

@[simp] theorem packetStored_boot (s : State) (p : Port) (fn k : Nat) (w : List Word) : (packetStored s p fn k w).boot = s.boot :=
  packetStored_same s p fn k w .boot (by cases p <;> simp [portPart])

@[simp] theorem packetStored_adm (s : State) (p : Port) (fn k : Nat) (w : List Word) : (packetStored s p fn k w).adm = s.adm :=
  packetStored_same s p fn k w .adm (by cases p <;> simp [portPart])

@[simp] theorem packetStored_cmds (s : State) (p : Port) (fn k : Nat) (w : List Word) : (packetStored s p fn k w).cmds = s.cmds :=
  packetStored_same s p fn k w .cmds (by cases p <;> simp [portPart])

@[simp] theorem packetStored_tenants (s : State) (p : Port) (fn k : Nat) (w : List Word) :
    (packetStored s p fn k w).tenants = s.tenants :=
  packetStored_same s p fn k w .tenants (by cases p <;> simp [portPart])

@[simp] theorem packetStored_heldCommits (s : State) (p : Port) (fn k : Nat) (w : List Word) :
    (packetStored s p fn k w).heldCommits = s.heldCommits :=
  packetStored_same s p fn k w .heldCommits (by cases p <;> simp [portPart])

/-- The state in which the commit of a packet in TRS `k` stands as a valid one. -/
def packetValid (s : State) (p : Port) (fn k : Nat) (w : List Word) : State :=
  modCas (packetStored s p fn k w) p fn fun c => { c with valid := c.valid ++ [k] }

theorem casOpen_packetValid (s : State) (p : Port) (fn k : Nat) (w : List Word) :
    casOpen (packetValid s p fn k w) fn = casOpen s fn := by simp [packetValid, casOpen, hasTenant, getTen]

theorem packetValid_boot (s : State) (p : Port) (fn k : Nat) (w : List Word) : (packetValid s p fn k w).boot = s.boot := by
  simp [packetValid]

theorem packetValid_cmds (s : State) (p : Port) (fn k : Nat) (w : List Word) : (packetValid s p fn k w).cmds = s.cmds := by
  simp [packetValid]

theorem getTen_packetValid (s : State) (p : Port) (fn k t : Nat) (w : List Word) : getTen (packetValid s p fn k w) t = getTen s t := by
  simp [packetValid, getTen]

theorem packetValid_trs (s : State) (p : Port) (fn k : Nat) (w : List Word) : (getCas (packetValid s p fn k w) p fn).trs =
    (storeSets (getCas s p fn) (packetAt k w)).trs := by
  rw [packetValid, getCas_modCas_self, getCas_packetStored]

theorem packetValid_seen (s : State) (p : Port) (fn k : Nat) (w : List Word) : (getCas (packetValid s p fn k w) p fn).seen =
    (storeSets (getCas s p fn) (packetAt k w)).seen := by
  rw [packetValid, getCas_modCas_self, getCas_packetStored]

/-- A valid commit changes nothing of its casement but the bytes stored and the commits that wait. -/
theorem getCas_packetValid (s : State) (p : Port) (fn k : Nat) (w : List Word) : getCas (packetValid s p fn k w) p fn =
    { getCas s p fn with valid := (getCas s p fn).valid ++ [k], trs := (getCas (packetValid s p fn k w) p fn).trs
                         seen := (getCas (packetValid s p fn k w) p fn).seen } := by
  rw [packetValid, getCas_modCas_self, getCas_packetStored]; rfl

theorem packetValid_valid (s : State) (p : Port) (fn k : Nat) (w : List Word) :
    (getCas (packetValid s p fn k w) p fn).valid = (getCas s p fn).valid ++ [k] := by rw [getCas_packetValid]

theorem packetValid_taken (s : State) (p : Port) (fn k : Nat) (w : List Word) :
    (getCas (packetValid s p fn k w) p fn).taken = (getCas s p fn).taken := by rw [getCas_packetValid]

theorem only_packetValid (s : State) (p : Port) (fn k : Nat) (w : List Word) :
    Only [portPart p] (woken s p 1) (packetValid s p fn k w) :=
  (only_packetStored s p fn k w).trans (only_modCas _ _ _ _)

/-- The error bits of CAS_STATUS after a commit out of sequence in TRS `k` (R52). -/
def noteSeqErr (k : Nat) (c : Casement) : Casement := { c with seqErr := true, seqErrTrs := k }

/-- A commit that is judged bad: its DWORD 15 is cleared, and what else `f` says of it is noted. -/
def packetRefused (s : State) (p : Port) (fn k : Nat) (w : List Word) (f : Casement → Casement) : State :=
  modCas (packetStored s p fn k w) p fn fun c => f { c with trs := clearCommit c.trs k }

/-- A packet whose commit is judged bad leaves its casement as it was, but for the bytes stored and what `f` notes. -/
theorem getCas_packetRefused (s : State) (p : Port) (fn k : Nat) (w : List Word) (f : Casement → Casement) :
    getCas (packetRefused s p fn k w f) p fn = f { storeSets (getCas s p fn) (packetAt k w) with
      trs := clearCommit (storeSets (getCas s p fn) (packetAt k w)).trs k } := by
  rw [packetRefused, getCas_modCas_self, getCas_packetStored]

theorem only_packetRefused (s : State) (p : Port) (fn k : Nat) (w : List Word) (f : Casement → Casement) :
    Only [portPart p] (woken s p 1) (packetRefused s p fn k w f) := (only_packetStored s p fn k w).trans (only_modCas _ _ _ _)

section
variable {w : List Word} (hw : w.length = 16) (hkey : pktD w 15 % 256 = 0xC3) (s : State) (p : Port) (fn k : Nat)
include hw hkey

/-- The commit check of a whole packet, by cases (R51, R52, R55): without a tenant, out of sequence, or valid. -/
theorem commitTrs_packet : commitTrs (packetStored s p fn k w) p fn k (packetAt k w) =
    if s.boot.ready = true ∧ hasTenant s fn = false then packetRefused s p fn k w id
    else if pktD w 15 / 256 % 256 ≠ expectSeq (getCas s p fn).taken k then
      packetRefused s p fn k w (noteSeqErr k)
    else if s.boot.ready = true then packetValid s p fn k w
    else { packetValid s p fn k w with heldCommits := s.heldCommits ++ [(p, fn, k)] } := by
  have hten : hasTenant (packetStored s p fn k w) fn = hasTenant s fn := by simp [hasTenant, getTen]
  have htaken (c : Casement) (l : List (Nat × Byte)) : (storeSets c l).taken = c.taken := rfl
  simp [commitTrs, getCas_packetStored, isCommit_packet hw, hkey, seq_packet hw, hten, htaken, packetRefused, packetValid, noteSeqErr]

end

/-! ### Capture -/

/-- Nothing is captured while the casement is not open or the set whose turn it is holds no valid commit (R51, R55). -/
theorem captureAll_stops {s : State} {p : Port} {fn : Nat} (n : Nat)
    (h : casOpen s fn = false ∨ (getCas s p fn).taken % 16 ∉ (getCas s p fn).valid) : captureAll p fn n s = .next s := by
  cases n with
  | zero => rfl
  | succ n => rcases h with h | h <;> simp [captureAll, h]

/-- An open casement captures the valid commit whose turn it is, and goes on (R51). -/
theorem captureAll_takes {s : State} {p : Port} {fn : Nat} (n : Nat) (ho : casOpen s fn = true)
    (hv : (getCas s p fn).taken % 16 ∈ (getCas s p fn).valid)
    (ht : tagBusy s (fn - 1) (pTag (trsPacket (getCas s p fn).trs ((getCas s p fn).taken % 16))) = false) :
    captureAll p fn (n + 1) s = captureAll p fn n (captureOne s p fn) := by
  simp [captureAll, ho, hv, ht]

/-- The command that a capture accepts (R53, R70). -/
theorem captureOne_cmds (s : State) (p : Port) (fn : Nat) : ∃ c, (captureOne s p fn).cmds = s.cmds ++ [c] ∧
    c.tenant = fn - 1 ∧ c.seq = (tenD s (fn - 1)).nextAccept ∧
    c.pkt = trsPacket (getCas s p fn).trs ((getCas s p fn).taken % 16) ∧ c.ph = .captured ∧ c.port = p ∧
    c.committed = (pOp c.pkt == opAbort) :=
  ⟨_, congrArg (· ++ [_]) (modCas_cmds s p fn _), rfl, rfl, rfl, rfl, rfl, rfl⟩

/-- What a capture does to its casement (R53, R56). -/
theorem getCas_captureOne (s : State) (p : Port) (fn : Nat) : getCas (captureOne s p fn) p fn =
    { getCas s p fn with
      trs := clearCommit (getCas s p fn).trs ((getCas s p fn).taken % 16)
      seen := unsee (getCas s p fn).seen ((getCas s p fn).taken % 16)
      valid := (getCas s p fn).valid.filter (· != (getCas s p fn).taken % 16)
      taken := (getCas s p fn).taken + 1
      firstUnmirroredNs := if (getCas s p fn).unmirrored = 0 then s.nowNs else (getCas s p fn).firstUnmirroredNs
      unmirrored := (getCas s p fn).unmirrored + 1 } := getCas_modCas_self s p fn _

/-- A capture takes the tenant's next acceptance sequence number (R58). -/
theorem getTen_captureOne (s : State) (p : Port) (fn : Nat) : getTen (captureOne s p fn) (fn - 1) =
    (getTen s (fn - 1)).map fun x => { x with nextAccept := x.nextAccept + 1 } := by
  refine (getTen_modTen_self _ (fn - 1) fun x => { x with nextAccept := x.nextAccept + 1 }).trans ?_
  simp [getTen]

/-- A command that is accepted joins the commands, and its tenant is rewritten. -/
theorem only_acceptCmd (s : State) (t : Nat) (f : Tenant → Tenant) (l : List Cmd) :
    Only [.cmds, .tenants] s { modTen s t f with cmds := l } := by
  intro q hq; cases q <;> simp at hq <;> rfl

theorem only_captureOne (s : State) (p : Port) (fn : Nat) : Only [portPart p, .cmds, .tenants] s (captureOne s p fn) :=
  ((only_modCas s p fn _).mono (by simp)).trans ((only_acceptCmd _ (fn - 1) _ _).mono (by simp))

/-! ### Commits that are captured -/

/-- The bytes of the TRS range after a packet in TRS `k` whose DWORD 15 has been cleared again. -/
theorem get_clearCommit_packet (c : Casement) (k a : Nat) (w : List Word) :
    Tab.get 0#8 (clearCommit (storeSets c (packetAt k w)).trs k) a =
      if a / 4 = k * 16 + 15 then 0#8 else (written (k * 64) (packetBytes w) a).getD (Tab.get 0#8 c.trs a) := by
  rw [get_clearCommit, get_storeSets_trs]

/-- At its turn a task register set expects CAS_TAKEN modulo 256 (R51). -/
theorem expectSeq_turn (taken : Nat) : expectSeq taken (taken % 16) = taken % 256 := by
  unfold expectSeq; omega

section
variable {s : State} {p : Port} {fn k : Nat} {w : List Word} (hv : (getCas s p fn).valid = []) (hw : w.length = 16)
  (hturn : (getCas s p fn).taken % 16 = k)
include hturn

theorem packetValid_turn : (getCas (packetValid s p fn k w) p fn).taken % 16 = k := by rw [packetValid_taken, hturn]

include hw in
theorem trsPacket_packetValid :
    trsPacket (getCas (packetValid s p fn k w) p fn).trs ((getCas (packetValid s p fn k w) p fn).taken % 16) = w := by
  rw [packetValid_turn hturn, packetValid_trs, trsPacket_packet hw]

include hv in
theorem captureOne_packetValid_valid : (getCas (captureOne (packetValid s p fn k w) p fn) p fn).valid = [] := by
  rw [getCas_captureOne, packetValid_turn hturn, packetValid_valid, hv]; simp

include hv hw in
/-- A whole packet committed at its turn, in sequence and with a free tag, is captured, and nothing else is. -/
theorem exec_packet_captured {i : Instr} (hr : Reaches s p fn) (ho : casOpen s fn = true) (hkey : pktD w 15 % 256 = 0xC3)
    (hseq : pktD w 15 / 256 % 256 = (getCas s p fn).taken % 256) (htag : tagBusy s (fn - 1) (pTag w) = false)
    (hi : i = .trsCommit p fn (k * 64) (packetBytes w) ∨ i = .trsWrite p fn (k * 64) (packetBytes w)) :
    exec i s = .next (captureOne (packetValid s p fn k w) p fn) := by
  have hk : k < 16 := hturn ▸ Nat.mod_lt _ (by omega)
  obtain ⟨⟨hready, -⟩, hten⟩ : (s.boot.ready = true ∧ s.adm.casStopped = false) ∧ hasTenant s fn = true := by
    simpa [casOpen] using ho
  have hcheck := commitTrs_packet hw hkey s p fn k
  rw [if_neg (by simp [hten]), if_neg (by rw [hseq, ← hturn, expectSeq_turn]; simp), if_pos hready] at hcheck
  rw [exec_packet hr hv hw hk hi, hcheck, captureAll_takes 15]
  · exact captureAll_stops 15 (.inr (by simp [captureOne_packetValid_valid hv hturn]))
  · rw [casOpen_packetValid, ho]
  · simp [packetValid_turn hturn, packetValid_valid]
  · rw [trsPacket_packetValid hw hturn, tagBusy, packetValid_cmds]; exact htag

end

/-- Settles O8: the commit is valid, its turn has come, and the one capture leaves no valid commit. -/
theorem commitIsCaptured : Obligations.CommitIsCaptured := by
  unfold Obligations.CommitIsCaptured
  intro s p fn w x i hr hready hcas hfn hx hv hw hkey hseq htag hi
  have ho : casOpen s fn = true := by simp [casOpen, hasTenant, hready, hcas, hfn, hx]
  generalize hturn : (getCas s p fn).taken % 16 = k at hi ⊢
  have hten : getTen (packetValid s p fn k w) (fn - 1) = some x := by rw [getTen_packetValid, hx]
  obtain ⟨c, hcmds, hcten, hcseq, hcpkt, hcph, hcport, hccom⟩ := captureOne_cmds (packetValid s p fn k w) p fn
  rw [packetValid_cmds] at hcmds
  rw [trsPacket_packetValid hw hturn] at hcpkt
  refine ⟨_, c, exec_packet_captured hv hw hturn hr ho hkey hseq htag hi,
    ((only_packetValid s p fn k w).mono (by simp)).trans (only_captureOne _ p fn), hcmds, hcten, ?seq, hcpkt, hcph, hcport, ?committed,
    ?tenant, ?tag, ?taken, captureOne_packetValid_valid hv hturn, ?rings, fun a => ?bytes⟩
  case seq => rw [hcseq, tenD, hten]; rfl
  case committed => rw [hccom, hcpkt]; rfl
  case tenant => rw [getTen_captureOne, hten]; rfl
  case tag => simp [tagBusy, hcmds, hcten, hcpkt]
  case taken => rw [getCas_captureOne, packetValid_taken]
  case rings => rw [getCas_captureOne, getCas_packetValid]
  case bytes => rw [getCas_captureOne, packetValid_turn hturn, packetValid_trs, get_clearCommit_packet]

/-! ### Commits that are not captured -/

/-- A casement that held no valid commit captures nothing when one is refused (R52, R55). -/
theorem captureAll_packetRefused {s : State} {p : Port} {fn k : Nat} {w : List Word} (f : Casement → Casement)
    (hf : ∀ c, (f c).valid = c.valid) (hv : (getCas s p fn).valid = []) :
    captureAll p fn 16 (packetRefused s p fn k w f) = .next (packetRefused s p fn k w f) :=
  captureAll_stops 16 (.inr (by simp [getCas_packetRefused, hf, storeSets, hv]))

/-- A commit that joins those held before READY changes their list only (R46). -/
theorem only_heldCommits (s : State) {p : Port} (l : List (Port × Nat × Nat)) :
    Only [portPart p, .heldCommits] s { s with heldCommits := l } := by
  intro q hq; cases q <;> simp at hq <;> rfl

/-- Settles O9: a refused commit is not valid, so nothing is captured; before READY the casement is not open. -/
theorem wrongSequenceIsRefused : Obligations.WrongSequenceIsRefused := by
  unfold Obligations.WrongSequenceIsRefused
  intro s p fn k w i hr hv hw hk hkey hi hbad
  rw [exec_packet hr hv hw hk hi, commitTrs_packet hw hkey]
  by_cases hten : s.boot.ready = true ∧ hasTenant s fn = false
  case pos =>
    rw [if_pos hten, captureAll_packetRefused id (fun _ => rfl) hv]
    refine ⟨_, rfl, fun a => ?seen, fun _ _ => ⟨only_packetRefused _ _ _ _ _ _, ?cas, fun a => ?bytes⟩, fun h => ?_, fun h => ?_⟩
    case seen => rw [getCas_packetRefused]; exact get_storeSets_seen ..
    case cas => rw [getCas_packetRefused]; rfl
    case bytes => rw [getCas_packetRefused]; exact get_clearCommit_packet ..
    all_goals simp [hten] at h
  rw [if_neg hten]
  by_cases hseq : pktD w 15 / 256 % 256 = expectSeq (getCas s p fn).taken k
  case neg =>
    rw [if_pos hseq, captureAll_packetRefused (noteSeqErr k) (fun _ => rfl) hv]
    refine ⟨_, rfl, fun a => ?seen, fun h h' => absurd ⟨h, h'⟩ hten,
      fun _ _ => ⟨only_packetRefused _ _ _ _ _ _, ?cas, fun a => ?bytes⟩, fun _ h => absurd h hseq⟩
    case seen => rw [getCas_packetRefused]; exact get_storeSets_seen ..
    case cas => rw [getCas_packetRefused]; rfl
    case bytes => rw [getCas_packetRefused]; exact get_clearCommit_packet ..
  case pos =>
    have hready : s.boot.ready = false := by
      rcases hbad with h | h | h
      · exact h
      · simpa [h] using hten
      · exact absurd hseq h
    rw [if_neg (not_not_intro hseq), if_neg (by simp [hready]), captureAll_stops 16 (.inl (by simp [casOpen, packetValid_boot, hready]))]
    refine ⟨_, rfl, fun a => ?seen, fun h => ?_, fun _ h => absurd hseq h, fun _ _ => ⟨?only, rfl, ?cas, fun a => ?bytes⟩⟩
    case seen => exact (congrArg (Tab.get false · a) (packetValid_seen ..)).trans (get_storeSets_seen ..)
    case only => exact ((only_packetValid s p fn k w).mono (by simp)).trans (only_heldCommits _ _)
    case cas => refine (getCas_packetValid s p fn k w).trans ?_; rw [hv]; rfl
    case bytes => exact (congrArg (Tab.get 0#8 · a) (packetValid_trs ..)).trans (get_storeSets_trs ..)
    simp [hready] at h

end Sys2Proof.Machine
end

section
/-! PROOFS. The fuses (R349, R356) and configuration images (R316 to R318). -/

namespace Sys2Proof.Machine

/-! ### Bits -/

/-- The model's bits are the library's. -/
theorem bit_eq_testBit (x i : Nat) : bit x i = x.testBit i := by
  rw [bit, Nat.testBit_eq_decide_div_mod_eq]; rfl

@[simp] theorem bit_or (x y i : Nat) : bit (x ||| y) i = (bit x i || bit y i) := by
  simp [bit_eq_testBit]

theorem setBit_of_clear {x i : Nat} (h : bit x i = false) : setBit x i = 2 ^ i + x := by
  rw [setBit, h, if_neg (by simp), Nat.add_comm]

@[simp] theorem bit_setBit_self (x i : Nat) : bit (setBit x i) i = true := by
  cases h : bit x i with
  | true => simp [setBit, h]
  | false => rw [setBit_of_clear h, bit_eq_testBit, Nat.testBit_two_pow_add_eq, ← bit_eq_testBit, h]; rfl

/-- Setting a bit that is clear carries into no other. -/
theorem bit_setBit_ne (x : Nat) {i j : Nat} (hij : i ≠ j) : bit (setBit x i) j = bit x j := by
  cases h : bit x i with
  | true => simp [setBit, h]
  | false =>
    rw [setBit_of_clear h]
    rcases Nat.lt_or_gt_of_ne hij with hlt | hgt
    · obtain ⟨k, rfl⟩ := Nat.exists_eq_add_of_lt hlt
      have hev : x / 2 ^ i % 2 = 0 := by simpa [bit] using h
      have hdiv (y : Nat) : y / 2 ^ (i + k + 1) = y / 2 ^ i / 2 / 2 ^ k := by
        rw [Nat.div_div_eq_div_mul, Nat.div_div_eq_div_mul, ← Nat.mul_assoc, ← Nat.pow_succ, ← Nat.pow_add, Nat.add_right_comm]
      rw [bit, bit, hdiv, hdiv, Nat.add_div_left x (Nat.two_pow_pos i), show (x / 2 ^ i).succ / 2 = x / 2 ^ i / 2 by omega]
    · rw [bit_eq_testBit, bit_eq_testBit, Nat.testBit_two_pow_add_gt hgt]

/-! ### The fuse update -/

/-- FUSE_UPDATE after READY raises the anti-rollback counter and adds revocations, and writes no other fuse (R356). -/
theorem fuse_fuseUpdate (s : State) : Fx (if s.boot.ready ∧ s.ckm.stopped = false ∧ s.pins.porHeld = false then { s.fuse with
    svn := max s.fuse.svn s.boot.svnPend, keyRevoked := s.fuse.keyRevoked ||| s.boot.revokePend } else s.fuse) (exec .fuseUpdate s) := by
  change Fx _ (execFuseUpdate s)
  unfold execFuseUpdate
  by_cases h : s.boot.ready = true ∧ s.ckm.stopped = false ∧ s.pins.porHeld = false
  · rw [if_pos h, if_neg (by simpa using h)]
    dsimp only
    rw [Fx_next]
    split <;> split <;> simp [setBootEvt_fuse]
  · rw [if_neg h, if_pos (by simpa [Decidable.or_iff_not_imp_left] using h), Fx_next]

/-- Settles O59: every command but FUSE_UPDATE leaves the fuses (`exec_fuse`), and FUSE_UPDATE takes a maximum and an or. -/
theorem fusesOnlyRise : Obligations.FusesOnlyRise := by
  unfold Obligations.FusesOnlyRise
  intro s t hstep
  have same : t.fuse = s.fuse → s.fuse.svn ≤ t.fuse.svn ∧ (∀ k, bit s.fuse.keyRevoked k = true → bit t.fuse.keyRevoked k = true) ∧
      t.fuse.keyPresent = s.fuse.keyPresent ∧ t.fuse.serial = s.fuse.serial ∧
      (t.fuse ≠ s.fuse → s.boot.ready = true ∧ ∃ rest, s.pending = .fuseUpdate :: rest) := fun h => by simp [h]
  unfold step at hstep
  split at hstep
  case h_1 => injection hstep with hstep; exact same (hstep ▸ tick_fuse s)
  case h_2 i rest hp =>
    by_cases hi : i = .fuseUpdate
    · subst hi
      have hf := fuse_fuseUpdate { s with pending := rest }
      rw [hstep, Fx_next] at hf
      dsimp only at hf
      split at hf
      case isTrue h => exact ⟨hf ▸ Nat.le_max_left _ _, fun k hk => by simp [hf, hk], by simp [hf], by simp [hf], fun _ => ⟨h.1, rest, hp⟩⟩
      case isFalse => exact same hf
    · have hf := exec_fuse i { s with pending := rest } hi
      rw [hstep, Fx_next] at hf
      exact same hf

/-! ### Configuration images -/

@[simp] theorem leBytes_length (n x : Nat) : (leBytes n x).length = n := by
  induction n generalizing x with
  | zero => rfl
  | succ n ih => rw [leBytes, List.length_cons, ih]

/-- Bytes least significant first spell the number back, cut to their count. -/
theorem leNat_leBytes (n x : Nat) : leNat (leBytes n x) = x % 256 ^ n := by
  induction n generalizing x with
  | zero => simp [leBytes, leNat, Nat.mod_one]
  | succ n ih =>
    rw [Nat.pow_succ', Nat.mod_mul, leBytes, leNat, ih, BitVec.toNat_ofNat]

/-- A field lying at its offset reads back, whatever stands before and after it. -/
theorem leAt_leBytes (l r : List Byte) (n x : Nat) (h : x < 256 ^ n) : leAt (l ++ (leBytes n x ++ r)) l.length n = x := by
  simp [leAt, slice, leNat_leBytes, Nat.mod_eq_of_lt h]

/-- The same at an offset given as a number. -/
theorem leAt_leBytes_at {l r m : List Byte} {o n x : Nat} (hm : m = l ++ (leBytes n x ++ r)) (ho : o = l.length) (h : x < 256 ^ n) :
    leAt m o n = x := by subst hm ho; exact leAt_leBytes l r n x h

/-- The fields of an image body, as GET_CONFIG lays them out one after another. -/
def bodyOf (l : List (Nat × Nat)) : List Byte := l.flatMap fun e => fieldBytes e.1 e.2

theorem fieldBytes_length (id v : Nat) : (fieldBytes id v).length = 8 := by simp [fieldBytes]

theorem bodyOf_cons (e : Nat × Nat) (l : List (Nat × Nat)) : bodyOf (e :: l) = fieldBytes e.1 e.2 ++ bodyOf l := rfl

theorem bodyOf_length (l : List (Nat × Nat)) : (bodyOf l).length = 8 * l.length := by
  induction l with
  | nil => rfl
  | cons e l ih => rw [bodyOf_cons, List.length_append, fieldBytes_length, ih, List.length_cons]; omega

/-- What the parser makes of a field that GET_CONFIG wrote (R316). -/
def fieldOf (e : Nat × Nat) : CfgField := { id := e.1, len := 4, val := e.2 }

/-- The fields behind whatever comes before them are parsed one after another to the end of the image. -/
theorem parseFields_bodyOf (l : List (Nat × Nat)) (hl : ∀ e ∈ l, e.1 < 65536 ∧ e.2 < 4294967296) (pre : List Byte) (fuel : Nat)
    (hf : l.length ≤ fuel) : parseFields (pre ++ bodyOf l) (pre.length + 8 * l.length) fuel pre.length =
      (l.map fieldOf, pre.length + 8 * l.length) := by
  induction l generalizing pre fuel with
  | nil => cases fuel <;> simp [parseFields, bodyOf]
  | cons e l ih =>
    obtain ⟨fuel, rfl⟩ : ∃ k, fuel = k + 1 := ⟨fuel - 1, by simp at hf; omega⟩
    obtain ⟨hid, hv⟩ := hl e (by simp)
    have hlay : pre ++ bodyOf (e :: l) = pre ++ (leBytes 2 e.1 ++ (leBytes 2 4 ++ (leBytes 4 e.2 ++ bodyOf l))) := by
      simp [bodyOf_cons, fieldBytes]
    have h0 : leAt (pre ++ bodyOf (e :: l)) pre.length 2 = e.1 := leAt_leBytes_at hlay rfl hid
    have h2 : leAt (pre ++ bodyOf (e :: l)) (pre.length + 2) 2 = 4 :=
      leAt_leBytes_at (l := pre ++ leBytes 2 e.1) (by rw [hlay, List.append_assoc]) (by simp) (by omega)
    have h4 : leAt (pre ++ bodyOf (e :: l)) (pre.length + 4) 4 = e.2 :=
      leAt_leBytes_at (l := pre ++ leBytes 2 e.1 ++ leBytes 2 4) (r := bodyOf l) (by rw [hlay]; simp) (by simp) hv
    have hrest := ih (fun x hx => hl x (by simp [hx])) (pre ++ fieldBytes e.1 e.2) fuel (by simpa using hf)
    rw [List.length_append, fieldBytes_length, List.append_assoc, ← bodyOf_cons,
      show pre.length + 8 + 8 * l.length = pre.length + 8 * (e :: l).length by simp; omega] at hrest
    have hstep : pre.length + 4 + cdiv 4 4 * 4 = pre.length + 8 := by simp [cdiv]
    simp only [parseFields, h2, hstep, Nat.min_self, h4, h0, hrest]
    rw [if_neg (by simp; omega)]
    rfl

/-- Settles O60: the header's four words read back, and `parseFields_bodyOf` reads the body behind it. -/
theorem imagesReadBack : Obligations.ImagesReadBack := by
  unfold Obligations.ImagesReadBack
  intro l hl hlen
  change parseImage (imageOf (bodyOf l)) = some (l.map fieldOf, 0)
  have hlay : imageOf (bodyOf l) = leBytes 4 0x58564346 ++ (leBytes 2 1 ++ (leBytes 2 0 ++ (leBytes 4 (16 + 8 * l.length) ++
      (leBytes 4 0 ++ bodyOf l)))) := by simp [imageOf, bodyOf_length]
  have hsize : (imageOf (bodyOf l)).length = 16 + 8 * l.length := by rw [hlay]; simp [bodyOf_length]; omega
  have hmagic : leAt (imageOf (bodyOf l)) 0 4 = 0x58564346 := leAt_leBytes_at (l := []) hlay rfl (by omega)
  have hversion : leAt (imageOf (bodyOf l)) 4 2 = 1 := leAt_leBytes_at (l := leBytes 4 0x58564346) hlay (by simp) (by omega)
  have hdecl : leAt (imageOf (bodyOf l)) 8 4 = 16 + 8 * l.length :=
    leAt_leBytes_at (l := leBytes 4 0x58564346 ++ leBytes 2 1 ++ leBytes 2 0) (r := leBytes 4 0 ++ bodyOf l) (by rw [hlay]; simp) (by simp) hlen
  have hfields := parseFields_bodyOf l hl
    (leBytes 4 0x58564346 ++ leBytes 2 1 ++ leBytes 2 0 ++ leBytes 4 (16 + 8 * l.length) ++ leBytes 4 0) ((16 + 8 * l.length) / 4) (by omega)
  have hpre : leBytes 4 0x58564346 ++ leBytes 2 1 ++ leBytes 2 0 ++ leBytes 4 (16 + 8 * l.length) ++ leBytes 4 0 ++ bodyOf l =
      imageOf (bodyOf l) := by rw [hlay]; simp
  rw [hpre] at hfields
  simp only [List.length_append, leBytes_length, Nat.reduceAdd] at hfields
  unfold parseImage
  rw [hmagic, hversion, hdecl, hsize, if_neg (by omega)]
  simp only [Nat.min_self, hfields]
  rw [if_neg (by omega)]

end Sys2Proof.Machine
end

section
/-! PROOFS. What a write in the TRS range does when it commits nothing, and the two undefined cases of R54. -/

namespace Sys2Proof.Machine

theorem foldl_eq_self {α β : Type} {f : β → α → β} {b : β} {l : List α} (h : ∀ x ∈ l, f b x = b) : l.foldl f b = b := by
  induction l with
  | nil => rfl
  | cons x l ih =>
    rw [List.foldl_cons, h x List.mem_cons_self]
    exact ih fun y hy => h y (List.mem_cons_of_mem _ hy)

/-- The enabled bytes of a write are what it puts in each byte. -/
theorem mem_enabled {o a : Nat} {b : Byte} {l : List (Option Byte)} : (a, b) ∈ enabled o l ↔ written o l a = some b := by
  induction l generalizing o with
  | nil => simp [enabled, written]
  | cons x l ih =>
    rw [written_cons]
    cases x with
    | none =>
      rw [enabled, ih]
      split
      · subst_vars; simp [written_below l (Nat.lt_succ_self _)]
      · rfl
    | some x =>
      rw [enabled, List.mem_cons, ih]
      split
      · subst_vars; simp [written_below l (Nat.lt_succ_self _), eq_comm]
      · simp [*]

/-- A write puts nothing in a task register set just when none of its enabled bytes falls there. -/
theorem inTrs_enabled_eq_nil {o k : Nat} {l : List (Option Byte)} :
    inTrs k (enabled o l) = [] ↔ ∀ a, a / 64 = k → written o l a = none := by
  constructor
  · intro h a ha
    cases hw : written o l a with
    | none => rfl
    | some b => exact absurd (List.filter_eq_nil_iff.mp h (a, b) (mem_enabled.mpr hw)) (by simp [ha])
  · intro h
    refine List.filter_eq_nil_iff.mpr fun e he hk => ?_
    have := mem_enabled.mp he
    rw [h e.1 (by simpa using hk)] at this
    simp at this

/-- The task register sets that a write acts on (R49). -/
def setsOf (off : Nat) (bytes : List (Option Byte)) : List Nat :=
  (List.range 16).filter fun k => !(inTrs k (enabled off bytes)).isEmpty

theorem mem_setsOf {off k : Nat} {bytes : List (Option Byte)} :
    k ∈ setsOf off bytes ↔ k < 16 ∧ ∃ a, a / 64 = k ∧ (written off bytes a).isSome = true := by
  have h := inTrs_enabled_eq_nil (o := off) (k := k) (l := bytes)
  simp only [setsOf, List.mem_filter, List.mem_range, Bool.not_eq_true', List.isEmpty_eq_false_iff, ne_eq, h, Option.isSome_iff_ne_none,
    Classical.not_forall, exists_prop]

/-- Whether a write commits TRS `k` is read off what it puts in bytes 0 and 1 of DWORD 15 (R50). -/
theorem isCommit_write (c : Casement) (off k : Nat) (bytes : List (Option Byte)) :
    isCommit (inTrs k (enabled off bytes)) (storeSets c (enabled off bytes)).trs k =
      (decide (written off bytes (k * 64 + 60) = some 0xC3#8) && (written off bytes (k * 64 + 61)).isSome) := by
  have hin (a : Nat) (ha : a / 64 = k) : (inTrs k (enabled off bytes)).any (fun e => e.1 == a) = (written off bytes a).isSome := by
    rw [← any_enabled, inTrs, List.any_filter]
    refine congrArg (enabled off bytes).any (funext fun e => ?_)
    by_cases he : e.1 = a <;> simp [he, ha]
  rw [isCommit, hin _ (by omega), hin _ (by omega), get_storeSets_trs]
  have hbeq (x y : Byte) : (x == y) = decide (x = y) := rfl
  cases written off bytes (k * 64 + 60) <;> simp [Bool.and_comm, hbeq]

/-- A write whose bytes all fall in one task register set acts on that set alone. -/
theorem setsOf_single {off k : Nat} {bytes : List (Option Byte)} (hin : off + bytes.length ≤ 1024)
    (hone : ∀ a, (written off bytes a).isSome = true → a / 64 = k) (hsome : ∃ a, (written off bytes a).isSome = true) :
    k ∈ setsOf off bytes ∧ ∀ j ∈ setsOf off bytes, j = k := by
  obtain ⟨a, ha⟩ := hsome
  obtain ⟨b, hb⟩ := Option.isSome_iff_exists.mp ha
  have hlt := enabled_within (mem_enabled.mpr hb)
  refine ⟨mem_setsOf.mpr ⟨?_, a, hone a ha, ha⟩, fun j hj => ?_⟩
  · have := hone a ha
    dsimp only at hlt
    omega
  · obtain ⟨-, c, hc, hcs⟩ := mem_setsOf.mp hj
    exact hc.symm.trans (hone c hcs)

section
variable {s : State} {p : Port} {fn off : Nat} {bytes : List (Option Byte)} {i : Instr} (hr : Reaches s p fn)
  (hin : off + bytes.length ≤ 1024) (hi : i = .trsWrite p fn off bytes ∨ i = .trsCommit p fn off bytes)
include hr hin hi

/-- A write that reaches the TRS range, by cases: an uncaptured valid commit in its way, an early commit, or its bytes stored. -/
theorem exec_trs : exec i s =
    match (setsOf off bytes).find? fun k => (getCas s p fn).valid.contains k with
    | some k => .fault (.trsOverwrite p fn k)
    | none =>
      match earlyCommit (woken s p 1) p fn (enabled off bytes) (setsOf off bytes) with
      | some k => .fault (.commitEarly p fn k)
      | none => captureAll p fn 16 ((setsOf off bytes).foldl (fun s k => commitTrs s p fn k (inTrs k (enabled off bytes)))
          (modCas (woken s p 1) p fn fun c => storeSets c (enabled off bytes))) := by
  have hx : exec i s = writeTrs p fn off bytes s := by rcases hi with rfl | rfl <;> rfl
  have hall : (enabled off bytes).filter (fun e => decide (e.1 < 1024)) = enabled off bytes :=
    List.filter_eq_self.mpr fun e he => by have := enabled_within he; simp; omega
  rw [hx, writeTrs, hostAccess_reaches 1 _ hr]
  simp only [getCas_woken, hall]
  rfl

/-- A write that commits no task register set stores its bytes, and nothing is captured. -/
theorem exec_trs_stores
    (hfree : ∀ k ∈ (getCas s p fn).valid, (k = (getCas s p fn).taken % 16 → casOpen s fn = false) ∧ ∀ a, a / 64 = k → written off bytes a = none)
    (hno : ∀ k, (written off bytes (k * 64 + 60) = some 0xC3#8 ∧ (written off bytes (k * 64 + 61)).isSome = true) → False) :
    exec i s = .next (modCas (woken s p 1) p fn fun c => storeSets c (enabled off bytes)) := by
  have hcom (c : Casement) (k : Nat) : isCommit (inTrs k (enabled off bytes)) (storeSets c (enabled off bytes)).trs k = false := by
    rw [isCommit_write, Bool.eq_false_iff]
    intro h
    exact hno k (by simpa using h)
  have hover : ((setsOf off bytes).find? fun k => (getCas s p fn).valid.contains k) = none := by
    refine List.find?_eq_none.mpr fun k hk hv => ?_
    obtain ⟨-, a, ha, hw⟩ := mem_setsOf.mp hk
    rw [(hfree k (by simpa using hv)).2 a ha] at hw
    simp at hw
  have hearly : earlyCommit (woken s p 1) p fn (enabled off bytes) (setsOf off bytes) = none :=
    List.find?_eq_none.mpr fun k _ => by simp [hcom]
  rw [exec_trs hr hin hi, hover, hearly]
  dsimp only
  rw [foldl_eq_self fun k _ => by rw [commitTrs]; simp [hcom]]
  refine captureAll_stops 16 ?_
  have hvalid : (getCas (modCas (woken s p 1) p fn fun c => storeSets c (enabled off bytes)) p fn).valid = (getCas s p fn).valid := by
    rw [getCas_modCas_self, getCas_woken]; rfl
  have htaken : (getCas (modCas (woken s p 1) p fn fun c => storeSets c (enabled off bytes)) p fn).taken = (getCas s p fn).taken := by
    rw [getCas_modCas_self, getCas_woken]; rfl
  have hopen : casOpen (modCas (woken s p 1) p fn fun c => storeSets c (enabled off bytes)) fn = casOpen s fn := by
    have hsame := (only_woken s p 1).trans ((only_modCas (woken s p 1) p fn fun c => storeSets c (enabled off bytes)).mono
      (m := [portPart p, .rst]) (by simp))
    have hb : (modCas (woken s p 1) p fn fun c => storeSets c (enabled off bytes)).boot = s.boot := hsame .boot (by cases p <;> simp [portPart])
    have ha : (modCas (woken s p 1) p fn fun c => storeSets c (enabled off bytes)).adm = s.adm := hsame .adm (by cases p <;> simp [portPart])
    have ht : (modCas (woken s p 1) p fn fun c => storeSets c (enabled off bytes)).tenants = s.tenants :=
      hsame .tenants (by cases p <;> simp [portPart])
    simp only [casOpen, hasTenant, getTen, hb, ha, ht]
  rw [hvalid, htaken, hopen]
  by_cases hv : (getCas s p fn).taken % 16 ∈ (getCas s p fn).valid
  · exact .inl ((hfree _ hv).1 rfl)
  · exact .inr hv

end

/-- A search that can only find one element finds it. -/
theorem find?_only {α : Type} {l : List α} {f : α → Bool} {k : α} (hk : k ∈ l) (hf : f k = true) (h : ∀ j ∈ l, j = k) :
    l.find? f = some k := by
  cases hx : l.find? f with
  | none => exact absurd hf (List.find?_eq_none.mp hx k hk)
  | some j => rw [h j (List.mem_of_find?_eq_some hx)]

/-- Settles O7: `exec_trs_stores` for the first clause; for the faults the write's one task register set is the one that the two
searches of `exec_trs` meet. -/
theorem trsWritesStore : Obligations.TrsWritesStore := by
  unfold Obligations.TrsWritesStore
  intro s p fn off bytes i hr hin hi
  refine ⟨fun hfree hno => ?_, fun k hone => ⟨fun hv hsome => ?_, fun hv h60 h61 hmiss => ?_⟩⟩
  · refine ⟨_, exec_trs_stores hr hin hi hfree fun k hk => ?_, only_modCas _ _ _ _, fun a => ?_, fun a => ?_, ?_⟩
    · obtain ⟨h60, h61⟩ := hk
      rcases hno k with h | h | h
      · simp [h] at h60
      · simp [h] at h61
      · exact h h60
    · rw [getCas_modCas_self, getCas_woken, get_storeSets_trs]
    · rw [getCas_modCas_self, getCas_woken, get_storeSets_seen]
    · rw [getCas_modCas_self, getCas_woken]; rfl
  · obtain ⟨hk, honly⟩ := setsOf_single hin hone hsome
    rw [exec_trs hr hin hi, find?_only hk (by simpa using hv) honly]
  · obtain ⟨hk, honly⟩ := setsOf_single hin hone ⟨_, h61⟩
    obtain ⟨a, ha, hnone, hunseen⟩ := hmiss
    have hpart : packetWhole (storeSets (getCas s p fn) (enabled off bytes)) k = false := by
      refine List.all_eq_false.mpr ⟨a, List.mem_range.mpr ha, ?_⟩
      rw [get_storeSets_seen, hnone, hunseen]
      simp
    have hover : ((setsOf off bytes).find? fun k => (getCas s p fn).valid.contains k) = none :=
      List.find?_eq_none.mpr fun j hj => by rw [honly j hj]; simpa using hv
    have hearly : earlyCommit (woken s p 1) p fn (enabled off bytes) (setsOf off bytes) = some k :=
      find?_only hk (by rw [getCas_woken, isCommit_write, hpart]; simp [h60, h61]) honly
    rw [exec_trs hr hin hi, hover, hearly]

end Sys2Proof.Machine
end

section
/-! PROOFS. The parts of the state that its updates leave, and completion rings: control, messages, entries and the mirror
(R56, R61 to R66, R38). -/

namespace Sys2Proof.Machine

/-! ### One part rewritten -/

theorem only_out (s : State) (x : List Out) : Only [.out] s { s with out := x } := by
  intro q hq; cases q <;> simp at hq <;> rfl

theorem only_retire (s : State) (t seq : Nat) : Only [.cmds, .genCtr] s (retire s t seq) := by
  intro q hq; cases q <;> simp at hq <;> rfl

theorem only_hlt_postNs (s : State) (h : Hlt) (n : Option Nat) : Only [.hlt, .postNs] s { s with hlt := h, postNs := n } := by
  intro q hq; cases q <;> simp at hq <;> rfl

/-! ### Messages -/

/-- A vector that falls due is sent, or waits in the PBA while it is held (R38). -/
theorem signalled_fireVec (s : State) (p : Port) (fn v : Nat) : Signalled s (fireVec s p fn v) p fn v := by
  refine ⟨fun h => ?_, fun h => ?_⟩
  · rw [fireVec_held h, getFn_modFn_self]
    exact ⟨by simp, by simp⟩
  · rw [fireVec_sent h, getFn_emit]
    exact ⟨rfl, rfl⟩

/-- A state with the same vectors and the same output is signalled alike. -/
theorem Signalled.congr {s t u : State} {p : Port} {fn v : Nat} (h : Signalled s t p fn v) (hv : (getFn u p fn).vecs = (getFn t p fn).vecs)
    (ho : u.out = t.out) : Signalled s u p fn v := by
  unfold Signalled at h ⊢
  rw [hv, ho]; exact h

/-- A vector falls due alike in a state that differs in its casement only. -/
theorem Signalled.of_cas {s s' t : State} {p : Port} {fn v : Nat} {c : Casement} (h : Signalled s' t p fn v)
    (hf : getFn s' p fn = { getFn s p fn with cas := c }) (hp : (getPort s' p).d3hot = (getPort s p).d3hot) (ho : s'.out = s.out) :
    Signalled s t p fn v := by
  unfold Signalled Held at h ⊢
  rw [hf, hp, ho] at h
  exact h

theorem d3hot_modCas (s : State) (p : Port) (fn : Nat) (f : Casement → Casement) :
    (getPort (modCas s p fn f) p).d3hot = (getPort s p).d3hot := by
  rw [modCas, modFn, getPort_modPort_self]
  split <;> rfl

theorem vecs_modCas (s : State) (p : Port) (fn : Nat) (f : Casement → Casement) :
    (getFn (modCas s p fn f) p fn).vecs = (getFn s p fn).vecs := by
  rw [modCas, getFn_modFn_self]

/-- A ring's message is its vector falling due (R66). -/
theorem signalled_signalRing (s : State) (p : Port) (fn n : Nat) : Signalled s (signalRing s p fn n) p fn n :=
  (signalled_fireVec s p fn n).congr (vecs_modCas _ _ _ _) (modPort_out _ _ _)

theorem getRing_signalRing_self (s : State) (p : Port) (fn n : Nat) :
    getRing (signalRing s p fn n) p fn n = { getRing s p fn n with unsig := 0 } := by
  rw [signalRing, getRing_modRing_self, getRing_fireVec]

theorem getRing_signalRing_ne (s : State) (p : Port) (fn : Nat) {n m : Nat} (h : m ≠ n) :
    getRing (signalRing s p fn n) p fn m = getRing s p fn m := by
  rw [signalRing, getRing_modRing_ne _ _ _ _ _ _ h, getRing_fireVec]

/-- A function that can write has nothing but its masks to hold a vector back. -/
theorem canWrite_eq_true {s : State} {p : Port} {fn : Nat} : canWrite s p fn = true ↔
    (getPort s p).linkUp = true ∧ (getFn s p fn).bme = true ∧ (getPort s p).d3hot = false ∧ s.ckm.stopped = false := by
  simp [canWrite, and_assoc]

/-- Settles O4: the timer is one `signalRing`; a pending message whose holds are gone is one `emit`. -/
theorem ringInterrupts : Obligations.RingInterrupts := by
  unfold Obligations.RingInterrupts
  intro s p fn v
  refine ⟨fun hien htime hunsig hdue => ?_, fun hpend hfree hup hclk => ?_⟩
  · have hx : exec (.ringInterruptTimer p fn v) s = .next (signalRing s p fn v) := by
      change execRingInterruptTimer p fn v s = _
      simp [execRingInterruptTimer, hien, htime, hunsig, hdue]
    exact ⟨_, hx, only_signalRing _ _ _ _, getRing_signalRing_self _ _ _ _, signalled_signalRing _ _ _ _⟩
  · simp only [Held, not_or, Bool.not_eq_true, Bool.not_eq_false] at hfree
    obtain ⟨hmask, hfn, hbme, hd3⟩ := hfree
    have hx : exec (.msixPendingSend p fn v) s = .next (emit (modFn s p fn fun f =>
        { f with vecs := Tab.upd {} f.vecs v fun e => { e with pend := false } }) (.msix p fn v)) := by
      change execMsixPendingSend p fn v s = _
      simp [execMsixPendingSend, hpend, hmask, hfn, canWrite_eq_true.mpr ⟨hup, hbme, hd3, hclk⟩]
    refine ⟨_, hx, ((only_modPort _ _ _).mono (by simp)).trans ((only_emit _ _).mono (by simp)), by simp, ?_, fun n hn => ?_⟩
    · rw [getFn_emit, getFn_modFn_self, Tab.get_upd_self]
    · rw [getFn_emit, getFn_modFn_self, Tab.get_upd_ne _ _ _ _ _ hn]

/-! ### The mirror -/

theorem writeMirror_some {s : State} {p : Port} {fn : Nat} {r : Ring} (h : mirrorRing (getCas s p fn) = some r) :
    writeMirror s p fn = modCas (emit s (.mirror p fn (ringBase r + 2 ^ r.sizeLog2 * 32) ((getCas s p fn).taken % p32) (casStatus s p fn)))
      p fn fun c => { c with unmirrored := 0, mirrored := c.taken } := by
  simp only [writeMirror, h]

/-- Settles O6: the mirror write that is due is one `writeMirror`. -/
theorem mirrorIsWritten : Obligations.MirrorIsWritten := by
  unfold Obligations.MirrorIsWritten
  intro s p fn r hcan hun hdue hr
  have hx : exec (.mirrorWrite p fn) s = .next (writeMirror s p fn) := by
    change execMirrorWrite p fn s = _
    simp [execMirrorWrite, hcan, hun, hdue]
  refine ⟨_, hx, only_writeMirror _ _ _, ?_, ?_⟩
  · rw [writeMirror_some hr, modCas, modFn_out, emit_out]
  · rw [writeMirror_some hr, getCas_modCas_self, getCas_emit]

/-! ### Ring control -/

/-- What a write of RNG_CTLn leaves in the ring's registers, `P` and the head as they were. -/
def ctlRing (v : Word) (r : Ring) : Ring :=
  { r with
    en := flag v 0, sizeLog2 := fld v 8 5, ien := flag v 2, mirror := flag v 3, icnt := fld v 16 8, itime := fld v 24 8
    unsig := if flag v 2 then r.unsig else 0 }

/-- What an enabling write of RNG_CTLn leaves in the ring (R61). -/
def enabledRing (v : Word) (r : Ring) : Ring :=
  let ok := decide (6 ≤ fld v 8 5) && decide (fld v 8 5 ≤ 16)
  { ctlRing v r with
    en := ok, cfgErr := !ok, posted := if ok then 0 else r.posted, head := if ok then 0 else r.head }

/-- A write of RNG_CTLn that is applied, by cases (R61, R64): reserved bits, a ring enabled, a size changed while enabled, and the rest. -/
theorem writeRngCtl_eq {s : State} {p : Port} {fn : Nat} (ring : Nat) (v : Word) (h : Writable s p fn) (hv : v.toNat &&& 0xE0E2 = 0) :
    writeRngCtl p fn ring v s =
      if (getRing s p fn ring).en = false ∧ flag v 0 = true then
        .next (settleRing (modRing (woken s p 3) p fn ring (enabledRing v)) p fn ring (mirrorAt (getCas s p fn)))
      else if (getRing s p fn ring).en = true ∧ flag v 0 = true ∧ fld v 8 5 ≠ (getRing s p fn ring).sizeLog2 then
        .fault (.ringChangedWhileEnabled p fn ring)
      else .next (settleRing (modRing (woken s p 3) p fn ring (ctlRing v)) p fn ring (mirrorAt (getCas s p fn))) := by
  simp only [writeRngCtl, regWrite_writable _ h, getRing_woken, getCas_woken, rngCtlRsv, hv, ne_eq, not_true_eq_false, if_false,
    Bool.and_eq_true, Bool.not_eq_true', decide_eq_true_eq, and_assoc]
  rfl

/-- The state after a change of RNG_CTLn in which a mirror that moved has been noted. -/
def noteMirror (s : State) (p : Port) (fn : Nat) (was : Option Nat) : State :=
  if mirrorAt (getCas s p fn) = was then s else modCas s p fn fun c => { c with mirrored := 0 }

theorem settleRing_eq (s : State) (p : Port) (fn ring : Nat) (was : Option Nat) : settleRing s p fn ring was =
    if (getRing (noteMirror s p fn was) p fn ring).ien = true ∧
        (getRing (noteMirror s p fn was) p fn ring).icnt + 1 ≤ (getRing (noteMirror s p fn was) p fn ring).unsig then
      signalRing (noteMirror s p fn was) p fn ring
    else noteMirror s p fn was := by
  simp only [settleRing, Bool.and_eq_true, decide_eq_true_eq]
  rfl

section
variable (s : State) (p : Port) (fn n : Nat) (was : Option Nat)

theorem getRing_noteMirror : getRing (noteMirror s p fn was) p fn n = getRing s p fn n := by
  unfold noteMirror
  split
  · rfl
  · rw [getRing_modCas _ _ _ _ _ rfl]

theorem vecs_noteMirror : (getFn (noteMirror s p fn was) p fn).vecs = (getFn s p fn).vecs := by
  unfold noteMirror
  split
  · rfl
  · exact vecs_modCas _ _ _ _

theorem only_noteMirror : Only [portPart p] s (noteMirror s p fn was) := by
  unfold noteMirror
  split
  · exact Only.refl _ _
  · exact only_modCas _ _ _ _

end

/-- The state after a change of a ring in which a mirror that moved has been noted differs in its casement only. -/
theorem getFn_noteMirror_modRing (s : State) (p : Port) (fn n : Nat) (f : Ring → Ring) (was : Option Nat) :
    ∃ c, getFn (noteMirror (modRing s p fn n f) p fn was) p fn = { getFn s p fn with cas := c } := by
  unfold noteMirror
  split
  · exact ⟨_, by rw [modRing, modCas, getFn_modFn_self]⟩
  · exact ⟨_, by rw [modCas, getFn_modFn_self, modRing, modCas, getFn_modFn_self]⟩

theorem d3hot_noteMirror_modRing (s : State) (p : Port) (fn n : Nat) (f : Ring → Ring) (was : Option Nat) :
    (getPort (noteMirror (modRing s p fn n f) p fn was) p).d3hot = (getPort s p).d3hot := by
  unfold noteMirror
  split
  · rw [modRing, d3hot_modCas]
  · rw [d3hot_modCas, modRing, d3hot_modCas]

theorem out_noteMirror_modRing (s : State) (p : Port) (fn n : Nat) (f : Ring → Ring) (was : Option Nat) :
    (noteMirror (modRing s p fn n f) p fn was).out = s.out := by
  unfold noteMirror
  split
  · exact modPort_out _ _ _
  · exact (modPort_out _ _ _).trans (modPort_out _ _ _)

@[simp] theorem out_woken (s : State) (p : Port) (cause : Nat) : (woken s p cause).out = s.out :=
  only_woken s p cause .out (by cases p <;> simp [portPart])

section
variable (s : State) (p : Port) (fn ring : Nat) (f : Ring → Ring) (was : Option Nat)

/-- A change of a ring's control register touches its port and what it sends. -/
theorem only_settleRing : Only [portPart p, .out] s (settleRing (modRing s p fn ring f) p fn ring was) := by
  have h := (only_modRing s p fn ring f).trans (only_noteMirror (modRing s p fn ring f) p fn was)
  rw [settleRing_eq]
  split
  · exact (h.mono (by simp)).trans (only_signalRing _ _ _ _)
  · exact h.mono (by simp)

/-- The other rings stay. -/
theorem getRing_settleRing_ne {n : Nat} (hn : n ≠ ring) :
    getRing (settleRing (modRing s p fn ring f) p fn ring was) p fn n = getRing s p fn n := by
  rw [settleRing_eq]
  split
  · rw [getRing_signalRing_ne _ _ _ hn, getRing_noteMirror, getRing_modRing_ne _ _ _ _ _ _ hn]
  · rw [getRing_noteMirror, getRing_modRing_ne _ _ _ _ _ _ hn]

/-- A ring that owes its message at once has no unsignalled entry left (R66). -/
theorem settleRing_owes (h : (f (getRing s p fn ring)).ien = true ∧ (f (getRing s p fn ring)).icnt + 1 ≤ (f (getRing s p fn ring)).unsig) :
    getRing (settleRing (modRing s p fn ring f) p fn ring was) p fn ring = { f (getRing s p fn ring) with unsig := 0 } ∧
      Signalled s (settleRing (modRing s p fn ring f) p fn ring was) p fn ring := by
  obtain ⟨c, hc⟩ := getFn_noteMirror_modRing s p fn ring f was
  rw [settleRing_eq, if_pos (by rw [getRing_noteMirror, getRing_modRing_self]; exact h)]
  refine ⟨?_, (signalled_signalRing _ p fn ring).of_cas hc (d3hot_noteMirror_modRing _ _ _ _ _ _) (out_noteMirror_modRing _ _ _ _ _ _)⟩
  rw [getRing_signalRing_self, getRing_noteMirror, getRing_modRing_self]

/-- A ring that owes no message sends none. -/
theorem settleRing_quiet (h : ¬((f (getRing s p fn ring)).ien = true ∧ (f (getRing s p fn ring)).icnt + 1 ≤ (f (getRing s p fn ring)).unsig)) :
    getRing (settleRing (modRing s p fn ring f) p fn ring was) p fn ring = f (getRing s p fn ring) ∧
      (settleRing (modRing s p fn ring f) p fn ring was).out = s.out := by
  rw [settleRing_eq, if_neg (by rw [getRing_noteMirror, getRing_modRing_self]; exact h)]
  exact ⟨by rw [getRing_noteMirror, getRing_modRing_self], out_noteMirror_modRing _ _ _ _ _ _⟩

end

/-- A write of RNG_CTLn makes the ring owe its message just when IEN is 1 and ICNT + 1 entries are unsignalled. -/
theorem ctlRing_owes (v : Word) (r : Ring) : ((ctlRing v r).ien = true ∧ (ctlRing v r).icnt + 1 ≤ (ctlRing v r).unsig) ↔
    (flag v 2 = true ∧ fld v 16 8 + 1 ≤ r.unsig) := by
  cases h : flag v 2 <;> simp [ctlRing, h]

theorem exec_ringEnable {s : State} {p : Port} {fn : Nat} (ring : Nat) {v : Word} (h : Writable s p fn) (hv : v.toNat &&& 0xE0E2 = 0)
    (hen : (getRing s p fn ring).en = false) (hf : flag v 0 = true) : exec (.ringEnable p fn ring v) s =
      .next (settleRing (modRing (woken s p 3) p fn ring (enabledRing v)) p fn ring (mirrorAt (getCas s p fn))) :=
  (writeRngCtl_eq ring v h hv).trans (if_pos ⟨hen, hf⟩)

/-- A write of RNG_CTLn that keeps or clears EN. -/
theorem exec_ringControl {s : State} {p : Port} {fn ring : Nat} {v : Word} {c : Instr} (h : Writable s p fn) (hv : v.toNat &&& 0xE0E2 = 0)
    (hc : c = .ringDisable p fn ring v ∧ flag v 0 = false ∨
      c = .ringIenClear p fn ring v ∧ flag v 0 = true ∧ (getRing s p fn ring).en = true ∧ fld v 8 5 = (getRing s p fn ring).sizeLog2) :
    exec c s = .next (settleRing (modRing (woken s p 3) p fn ring (ctlRing v)) p fn ring (mirrorAt (getCas s p fn))) := by
  have hx : exec c s = writeRngCtl p fn ring v s := by rcases hc with ⟨rfl, -⟩ | ⟨rfl, -⟩ <;> rfl
  rw [hx, writeRngCtl_eq ring v h hv]
  rcases hc with ⟨-, h0⟩ | ⟨-, h0, hen, hsz⟩
  · rw [if_neg (by simp [h0]), if_neg (by simp [h0])]
  · rw [if_neg (by simp [hen]), if_neg (by simp [hsz])]

/-- Settles O2: both kinds of write are a changed ring that is settled; `settleRing_owes` and `settleRing_quiet` tell the message. -/
theorem ringsAreControlled : Obligations.RingsAreControlled := by
  unfold Obligations.RingsAreControlled
  refine ⟨fun s p fn ring v hw hen h0 hv => ?_, fun s p fn ring v c hc hw hv => ?_⟩
  · have howes := settleRing_owes (woken s p 3) p fn ring (enabledRing v) (mirrorAt (getCas s p fn))
    have hquiet := settleRing_quiet (woken s p 3) p fn ring (enabledRing v) (mirrorAt (getCas s p fn))
    have hiff := ctlRing_owes v (getRing s p fn ring)
    simp only [getRing_woken, out_woken] at howes hquiet
    refine ⟨_, exec_ringEnable ring hw hv hen h0, only_settleRing _ _ _ _ _ _,
      fun n hn => (getRing_settleRing_ne _ _ _ _ _ _ hn).trans (getRing_woken ..), fun h => ?_, fun h => ?_, ?_⟩
    · obtain ⟨hr, hs⟩ := howes (hiff.mpr h)
      exact ⟨by rw [hr], hs⟩
    · obtain ⟨hr, ho⟩ := hquiet (fun h' => h (hiff.mp h'))
      exact ⟨by rw [hr]; rfl, ho⟩
    · obtain ⟨u, hr⟩ : ∃ u, getRing (settleRing (modRing (woken s p 3) p fn ring (enabledRing v)) p fn ring (mirrorAt (getCas s p fn))) p fn ring =
          { enabledRing v (getRing s p fn ring) with unsig := u } := by
        by_cases h : flag v 2 = true ∧ fld v 16 8 + 1 ≤ (getRing s p fn ring).unsig
        · exact ⟨0, (howes (hiff.mpr h)).1⟩
        · exact ⟨_, (hquiet (fun h' => h (hiff.mp h'))).1⟩
      rw [hr]
      refine ⟨rfl, rfl, rfl, rfl, rfl, fun h => ?_, fun h => ?_⟩
      · simp [enabledRing, h]
      · have hok : (decide (6 ≤ fld v 8 5) && decide (fld v 8 5 ≤ 16)) = false := by rw [← Bool.decide_and]; exact decide_eq_false h
        simp [enabledRing, hok]
  · have howes := settleRing_owes (woken s p 3) p fn ring (ctlRing v) (mirrorAt (getCas s p fn))
    have hquiet := settleRing_quiet (woken s p 3) p fn ring (ctlRing v) (mirrorAt (getCas s p fn))
    have hiff := ctlRing_owes v (getRing s p fn ring)
    simp only [getRing_woken, out_woken] at howes hquiet
    refine ⟨_, exec_ringControl hw hv hc, only_settleRing _ _ _ _ _ _,
      fun n hn => (getRing_settleRing_ne _ _ _ _ _ _ hn).trans (getRing_woken ..), fun h => (howes (hiff.mpr h)).2,
      fun h => (hquiet (fun h' => h (hiff.mp h'))).2, ?_⟩
    by_cases h : flag v 2 = true ∧ fld v 16 8 + 1 ≤ (getRing s p fn ring).unsig
    · rw [(howes (hiff.mpr h)).1, if_neg (by simp [h])]; rfl
    · rw [(hquiet (fun h' => h (hiff.mp h'))).1]
      by_cases h2 : flag v 2 = true
      · rw [if_pos ⟨h2, fun h' => h ⟨h2, h'⟩⟩]; simp [ctlRing, h2]
      · rw [if_neg (fun h' => h2 h'.1)]; simp [ctlRing, h2]

/-! ### Posting a completion -/

/-- The state in which a completion's entry is written: the mirror goes before an entry it does not cover yet (R57). -/
def mirroredFor (s : State) (c : Cmd) : State :=
  if !c.redirected && decide ((getCas s c.outPort c.outFn).mirrored < c.capNo) then writeMirror s c.outPort c.outFn else s

theorem only_mirroredFor (s : State) (c : Cmd) : Only [portPart c.outPort, .out] s (mirroredFor s c) := by
  unfold mirroredFor
  split
  · exact only_writeMirror _ _ _
  · exact Only.refl _ _

theorem getRing_mirroredFor (s : State) (c : Cmd) (n : Nat) :
    getRing (mirroredFor s c) c.outPort c.outFn n = getRing s c.outPort c.outFn n := by
  unfold mirroredFor
  split
  · exact getRing_writeMirror _ _ _ _
  · rfl

/-- The entry of a completion as it is sent, its ring's `P` raised, and its interrupt counted. -/
def entryPosted (s : State) (c : Cmd) : State :=
  let r := getRing s c.outPort c.outFn c.outRing
  let idx := r.posted % 2 ^ r.sizeLog2
  countEntry (modRing (emit (mirroredFor s c) (.entry c.outPort c.outFn c.outRing idx (ringBase r + idx * 32)
      (entryWords (mirroredFor s c) c c.outRing (if r.posted / 2 ^ r.sizeLog2 % 2 = 0 then 1 else 0))))
    c.outPort c.outFn c.outRing fun r => { r with posted := r.posted + 1 }) c.outPort c.outFn c.outRing

theorem postEntry_eq (s : State) (c : Cmd) : postEntry s c = retire { entryPosted s c with
    hlt := { (entryPosted s c).hlt with tel := bump (entryPosted s c).hlt.tel (if c.outPort = .a then 4 else 5) 1 }
    postNs := some (entryPosted s c).nowNs } c.tenant c.seq := by
  have h := getRing_mirroredFor s c c.outRing
  unfold entryPosted
  rw [← h]
  rfl

theorem only_entryPosted (s : State) (c : Cmd) : Only [portPart c.outPort, .out] s (entryPosted s c) :=
  (((only_mirroredFor s c).trans ((only_emit _ _).mono (by simp))).trans ((only_modRing _ _ _ _ _).mono (by simp))).trans
    (only_countEntry _ _ _ _)

theorem entryPosted_posted (s : State) (c : Cmd) : (getRing (entryPosted s c) c.outPort c.outFn c.outRing).posted =
    (getRing s c.outPort c.outFn c.outRing).posted + 1 := by
  rw [entryPosted, countEntry_posted, getRing_modRing_self, getRing_emit, getRing_mirroredFor]

/-- A ring is what its port holds. -/
theorem getRing_of_ports {s t : State} (ha : t.pa = s.pa) (hb : t.pb = s.pb) (p : Port) (fn n : Nat) : getRing t p fn n = getRing s p fn n := by
  have hp : getPort t p = getPort s p := by cases p <;> assumption
  simp only [getRing, getCas, getFn, hp]

/-- No command of a retired key is left. -/
theorem retire_gone (s : State) (t seq : Nat) : ∀ x ∈ (retire s t seq).cmds, ¬(x.tenant = t ∧ x.seq = seq) := by
  intro x hx
  simp only [retire, dropCmd, List.mem_map, List.mem_filter] at hx
  obtain ⟨y, ⟨-, hy⟩, rfl⟩ := hx
  split <;> simpa [Decidable.imp_iff_not_or] using hy

/-- The fields of an entry that Table 3.3 places in its DWORDs. -/
theorem entryWords_fields (s : State) (c : Cmd) (ring phase : Nat) (hph : phase < 2) :
    pktD (entryWords s c ring phase) 0 = c.status % 65536 * 65536 + pTag c.pkt ∧ pktQ (entryWords s c ring phase) 1 = c.result % 2 ^ 64 ∧
      pktD (entryWords s c ring phase) 4 = c.seq % p32 ∧ bit (pktD (entryWords s c ring phase) 5) 17 = c.redirected ∧
      bit (pktD (entryWords s c ring phase) 7) 0 = decide (phase = 1) := by
  have htag : pTag c.pkt < 65536 := Nat.mod_lt _ (by decide)
  have hport : c.port.num < 2 := by cases c.port <;> decide
  refine ⟨?_, ?_, ?_, ?_, ?_⟩
  · simp [pktD, nth, entryWords, mk]; omega
  · simp [pktQ, pktD, nth, entryWords, p32]; omega
  · simp [pktD, nth, entryWords, p32]
  · have hten : c.tenant % 1024 < 1024 := Nat.mod_lt _ (by decide)
    cases h : c.redirected <;> simp [pktD, nth, entryWords, mk, b2n, bit, h] <;> omega
  · have hring : ring % 16 < 16 := Nat.mod_lt _ (by decide)
    obtain rfl | rfl : phase = 0 ∨ phase = 1 := by omega
    all_goals simp [pktD, nth, entryWords, mk, bit]

/-- Settles O5: the entry of `entryPosted` is in the output, and `retire` drops the command. -/
theorem completionIsPosted : Obligations.CompletionIsPosted := by
  unfold Obligations.CompletionIsPosted
  intro s p fn ring c hen hfree hcan hstop hnext
  have hx : exec (.completionPost p fn ring) s = .next (postEntry s c) := by
    change execCompletionPost p fn ring s = _
    simp [execCompletionPost, hen, hfree, hcan, hstop, hnext]
  obtain ⟨rfl, rfl, rfl⟩ := nextFor_some hnext
  have honly := only_entryPosted s c
  have hhlt : (entryPosted s c).hlt = s.hlt := honly .hlt (by cases c.outPort <;> simp [portPart])
  rw [postEntry_eq] at hx
  obtain ⟨h0, h1, h4, h5, h7⟩ := entryWords_fields (mirroredFor s c) c c.outRing
    (if (getRing s c.outPort c.outFn c.outRing).posted / 2 ^ (getRing s c.outPort c.outFn c.outRing).sizeLog2 % 2 = 0 then 1 else 0)
    (by split <;> omega)
  refine ⟨_, _, hx, ?only, countEntry_out _ _ _ _ _ ?sent, h0, h1, h4, h5, h7.trans ?phase, ?posted, retire_gone _ _ _, ?tel⟩
  case only =>
    exact ((honly.mono (by simp)).trans ((only_hlt_postNs _ _ _).mono (by simp))).trans ((only_retire _ _ _).mono (by simp))
  case sent => rw [modRing, modCas, modFn_out, emit_out]; exact List.mem_append_right _ (List.mem_singleton_self _)
  case phase => split <;> simp [*]
  case posted => exact (congrArg Ring.posted (getRing_of_ports rfl rfl _ _ _)).trans (entryPosted_posted s c)
  case tel => simp only [retire, dropCmd, hhlt]

end Sys2Proof.Machine
end

section
/-! PROOFS. What decoding, ABORT and the context step do to the commands, and what a generated completion leaves to the others
(R62, R72, R73, R86, R105, R141). -/

namespace Sys2Proof.Machine

/-! ### Frames -/

theorem only_tenants (s : State) (x : Tab (Option Tenant)) : Only [.tenants] s { s with tenants := x } := by
  intro q hq; cases q <;> simp at hq <;> rfl

theorem only_cmds (s : State) (x : List Cmd) : Only [.cmds] s { s with cmds := x } := by
  intro q hq; cases q <;> simp at hq <;> rfl

theorem only_adm (s : State) (x : Adm) : Only [.adm] s { s with adm := x } := by
  intro q hq; cases q <;> simp at hq <;> rfl

theorem only_bpm (s : State) (x : Bpm) : Only [.bpm] s { s with bpm := x } := by
  intro q hq; cases q <;> simp at hq <;> rfl

theorem only_cip (s : State) (x : Cip) : Only [.cip] s { s with cip := x } := by
  intro q hq; cases q <;> simp at hq <;> rfl

theorem only_plp (s : State) (x : Plp) : Only [.plp] s { s with plp := x } := by
  intro q hq; cases q <;> simp at hq <;> rfl

theorem only_media (s : State) (x : Media) : Only [.media] s { s with media := x } := by
  intro q hq; cases q <;> simp at hq <;> rfl

theorem only_mep (s : State) (x : Mep) : Only [.mep] s { s with mep := x } := by
  intro q hq; cases q <;> simp at hq <;> rfl

theorem only_zones (s : State) (x : Tab Zone) : Only [.zones] s { s with zones := x } := by
  intro q hq; cases q <;> simp at hq <;> rfl

theorem only_vers (s : State) (x : Tab Ver) : Only [.vers] s { s with vers := x } := by
  intro q hq; cases q <;> simp at hq <;> rfl

theorem only_freeCtr (s : State) (x : Nat) : Only [.freeCtr] s { s with freeCtr := x } := by
  intro q hq; cases q <;> simp at hq <;> rfl

theorem only_mbxs (s : State) (x : Tab Mbx) : Only [.mbxs] s { s with mbxs := x } := by
  intro q hq; cases q <;> simp at hq <;> rfl

theorem only_rst (s : State) (x : Rst) : Only [.rst] s { s with rst := x } := by
  intro q hq; cases q <;> simp at hq <;> rfl

theorem only_boot (s : State) (x : BootSt) : Only [.boot] s { s with boot := x } := by
  intro q hq; cases q <;> simp at hq <;> rfl

theorem only_thm (s : State) (x : Thm) : Only [.thm] s { s with thm := x } := by
  intro q hq; cases q <;> simp at hq <;> rfl

theorem only_hlt (s : State) (x : Hlt) : Only [.hlt] s { s with hlt := x } := by
  intro q hq; cases q <;> simp at hq <;> rfl

theorem only_ckm (s : State) (x : Ckm) : Only [.ckm] s { s with ckm := x } := by
  intro q hq; cases q <;> simp at hq <;> rfl

theorem only_tap (s : State) (x : Tap) : Only [.tap] s { s with tap := x } := by
  intro q hq; cases q <;> simp at hq <;> rfl

theorem only_modCmd (s : State) (t seq : Nat) (f : Cmd → Cmd) : Only [.cmds] s (modCmd s t seq f) := only_cmds _ _

theorem only_modTen (s : State) (t : Nat) (f : Tenant → Tenant) : Only [.tenants] s (modTen s t f) := only_tenants _ _

theorem only_modTCls (s : State) (t : Nat) (c : Cls) (f : TCls → TCls) : Only [.tenants] s (modTCls s t c f) := only_tenants _ _

theorem only_admCnt (s : State) (t : Nat) (c : Cls) (k n : Nat) : Only [.tenants] s (admCnt s t c k n) := only_tenants _ _

/-- The parts that an event's record may change. -/
theorem only_genericEv (s : State) (sev cls inst b off v : Nat) : Only [.pa, .pb, .out, .evr] s (genericEv s sev cls inst b off v) :=
  only_logEv _ _ _ _ _

/-- A bit of an EVT register that is set changes what its setter changes, and is recorded. -/
theorem only_raiseEvt {l : List Part} (s : State) (old b : Nat) (put : State → Nat → State) (sev cls inst off : Nat)
    (h : ∀ u v, Only l u (put u v)) : Only ([.pa, .pb, .out, .evr] ++ l) s (raiseEvt s old b put sev cls inst off) := by
  unfold raiseEvt
  split
  · exact Only.refl _ _
  · exact ((h _ _).mono (by simp +contextual)).trans ((only_genericEv _ _ _ _ _ _ _).mono (by simp))

/-! ### The command that a completion is not about -/

theorem getCmd_of_cmds {s u : State} (h : u.cmds = s.cmds) (t seq : Nat) : getCmd u t seq = getCmd s t seq := by
  unfold getCmd; rw [h]

theorem cmds_of_only {l : List Part} {s u : State} (h : Only l s u) (hl : Part.cmds ∉ l) : u.cmds = s.cmds := h .cmds hl

/-- A command is the same in a state that leaves the commands alone. -/
theorem getCmd_of_only {l : List Part} {s u : State} (h : Only l s u) (hl : Part.cmds ∉ l) (t seq : Nat) :
    getCmd u t seq = getCmd s t seq := getCmd_of_cmds (cmds_of_only h hl) t seq

theorem Completes.of_getCmd {s u : State} {t seq st r : Nat} (h : Completes s t seq st r) (hg : getCmd u t seq = getCmd s t seq) :
    Completes u t seq st r := by
  unfold Completes; rw [hg]; exact h

theorem getCmd_endEntry_ne (s : State) {t seq t' seq' : Nat} (st r : Nat) (c : Cmd) (h : ¬(t' = t ∧ seq' = seq)) :
    getCmd (endEntry s t seq st r c) t' seq' = getCmd s t' seq' := by
  unfold endEntry
  split
  · exact getCmd_modCmd_ne s t seq t' seq' _ h (by simp)
  · exact getCmd_modCmd_ne { s with bpm := uncharge s.bpm t c.charge } t seq t' seq' _ h (by simp)

/-- Generating one command's completion leaves every other command as it is. -/
theorem getCmd_genCompl_ne (s : State) {t seq t' seq' : Nat} (st r : Nat) (h : ¬(t' = t ∧ seq' = seq)) :
    getCmd (genCompl s t seq st r) t' seq' = getCmd s t' seq' := by
  unfold genCompl
  split
  · rfl
  · rename_i c hc
    split
    · rfl
    · dsimp only
      split
      · rw [getCmd_of_only (only_sweepVers _) (by simp), getCmd_endEntry_ne s st r c h]
      · exact getCmd_endEntry_ne s st r c h

/-- A command as its generated completion leaves it (R62, R218). -/
def ended (st r gen : Nat) (c : Cmd) : Cmd :=
  { c with ph := .gen, status := st, result := r, genNo := gen, gate := .none, charge := if c.committed then c.charge else 0 }

/-- What a command's generated completion keeps of it. -/
theorem getCmd_genCompl_self {s : State} {t seq : Nat} {c : Cmd} (st r : Nat) (h : getCmd s t seq = some c) (hp : c.ph ≠ .gen) :
    getCmd (genCompl s t seq st r) t seq = some (ended st r s.genCtr c) := by
  have hend : getCmd (endEntry s t seq st r c) t seq = some (ended st r s.genCtr c) := by
    unfold endEntry
    split
    · exact getCmd_modCmd_self (ended st r s.genCtr) h fun _ => ⟨rfl, rfl⟩
    · exact getCmd_modCmd_self (s := { s with bpm := uncharge s.bpm t c.charge }) (ended st r s.genCtr) h fun _ => ⟨rfl, rfl⟩
  simp only [genCompl, h, if_neg hp]
  split
  · rw [getCmd_of_only (only_sweepVers _) (by simp), hend]
  · exact hend

/-! ### Steps -/

/-- Settles O1: both clauses are `step`'s two branches. -/
theorem stepRunsCommand : Obligations.StepRunsCommand := by
  unfold Obligations.StepRunsCommand
  exact ⟨fun s c rest h => by rw [step, h], fun s h => by rw [step, h]⟩

/-! ### Decoding -/

/-- The opcode of each decode row (Table 4.4). -/
theorem decodeRow_eq {op t seq : Nat} {rival : Bool} {i : Instr} (h : decodeRow op t seq rival = some i) (s : State) :
    exec i s = decideOp op t seq rival s ∧ op ≠ 0x09 ∧ op ≠ 0 ∧ op ≤ 0x0D := by
  unfold decodeRow at h
  split at h <;> first
    | exact ⟨by injection h with h; subst h; rfl, by decide, by decide, by decide⟩
    | cases h

/-- A command that is its port's next to be decoded is decided. -/
theorem decideOp_atDecode {s : State} {t seq : Nat} {c : Cmd} {rival : Bool} (h : AtDecode s t seq c) :
    decideOp (cOp c) t seq rival s = .next (decideCmd s c rival) := by
  obtain ⟨hc, hph, hnext, hfl⟩ := h
  obtain ⟨ht, hs⟩ := getCmd_key hc
  simp [decideOp, hc, hph, hnext, hfl, ht, hs]

theorem exec_atDecode {s : State} {t seq : Nat} {c : Cmd} {rival : Bool} {i : Instr} (h : AtDecode s t seq c)
    (hi : decodeRow (cOp c) t seq rival = some i) : exec i s = .next (decideCmd s c rival) :=
  (decodeRow_eq hi s).1.trans (decideOp_atDecode h)

/-- A command whose ring is enabled passes the ring check (R65). -/
theorem ringStage_enabled {s : State} {c : Cmd} (h : (getRing s c.port c.fn (pRing c.pkt)).en = true) : ringStage s c = none := by
  simp [ringStage, h]

/-- A command that fails before admission completes with the status, its RESULT open for an opcode that Table 4.11 has none for. -/
theorem failEarly_other {s : State} {c : Cmd} (st : Nat) (h9 : cOp c ≠ 0x09) (h0 : cOp c ≠ 0) (hD : cOp c ≤ 0x0D) :
    failEarly s c st = genCompl s c.tenant c.seq st (noEffectResult (cOp c)) :=
  if_neg (by simp only [opAbort]; omega)

theorem failEarly_open {s : State} {c : Cmd} (st : Nat) (h : cOp c = 0x09 ∨ cOp c = 0 ∨ 0x0D < cOp c) :
    failEarly s c st = genCompl { s with freeCtr := s.freeCtr + 1 } c.tenant c.seq st (Config.abortResult s.freeCtr).toNat :=
  if_pos h

theorem decideCmd_decodeFails {s : State} {c : Cmd} {st : Nat} (rival : Bool) (hr : (getRing s c.port c.fn (pRing c.pkt)).en = true)
    (h : decodeCheck (tenD s c.tenant) c.pkt = some st) : decideCmd s c rival = failEarly s c st := by
  simp [decideCmd, ringStage_enabled hr, h]

theorem decideCmd_stateFails {s : State} {c : Cmd} {st : Nat} (rival : Bool) (hr : (getRing s c.port c.fn (pRing c.pkt)).en = true)
    (h : decodeCheck (tenD s c.tenant) c.pkt = none) (h' : stateCheck s (cOp c) = some st) :
    decideCmd s c rival = genCompl s c.tenant c.seq st (noEffectResult (cOp c)) := by
  simp [decideCmd, ringStage_enabled hr, h, h']

/-- The grant of a context (R141): counted, noted where it is the last of its kind, and the command queued. -/
theorem decideCmd_granted {s : State} {c : Cmd} {rival : Bool} (hr : (getRing s c.port c.fn (pRing c.pkt)).en = true)
    (h : decodeCheck (tenD s c.tenant) c.pkt = none) (h' : stateCheck s (cOp c) = none)
    (hx : contextStep (admCnt s c.tenant (cCls c) 0 1) c.tenant (cCls c) c.port rival = none) :
    decideCmd s c rival =
      modCmd (noteGrant (admCnt (admCnt s c.tenant (cCls c) 0 1) c.tenant (cCls c) 1 1) c.tenant (cCls c) c.port) c.tenant c.seq
        fun x => { x with
          granted := true
          grantNs := (noteGrant (admCnt (admCnt s c.tenant (cCls c) 0 1) c.tenant (cCls c) 1 1) c.tenant (cCls c) c.port).nowNs
          ph := .queued
          sawThrottle := decide
            ((noteGrant (admCnt (admCnt s c.tenant (cCls c) 0 1) c.tenant (cCls c) 1 1) c.tenant (cCls c) c.port).adm.shutter < 64) } := by
  simp [decideCmd, ringStage_enabled hr, h, h', hx]

/-- A noted grant changes the note of the last context taken, and nothing else (R142). -/
theorem noteGrant_eq (s : State) (t : Nat) (c : Cls) (p : Port) :
    ∃ k, noteGrant s t c p = { s with adm := { s.adm with lastCtx := k } } := by
  unfold noteGrant
  dsimp only
  generalize (if inUse s t c + 1 = (getCls s t c).ctxSill then some (some (t, c))
    else if (getCls s t c).ctxSill ≤ inUse s t c ∧ ctxFree s = 1 then some none else none) = k
  cases k with
  | none => exact ⟨s.adm.lastCtx, rfl⟩
  | some k => exact ⟨_, rfl⟩

/-- Settles O10: the granted branch of `decideCmd`, whose only parts are the counters, the note of the grant and the command's record. -/
theorem commandsAreQueued : Obligations.CommandsAreQueued := by
  unfold Obligations.CommandsAreQueued
  intro s t seq rival c i hat hi hen hdec hst hctx
  obtain ⟨rfl, rfl⟩ := getCmd_key hat.1
  have hx := exec_atDecode hat hi
  rw [decideCmd_granted hen hdec hst hctx] at hx
  obtain ⟨k, hk⟩ := noteGrant_eq (admCnt (admCnt s c.tenant (cCls c) 0 1) c.tenant (cCls c) 1 1) c.tenant (cCls c) c.port
  rw [hk] at hx
  refine ⟨_, hx, ?only, getCmd_modCmd_self _ hat.1 (by simp), rfl, fun t' seq' hne => getCmd_modCmd_ne _ _ _ _ _ _ hne (by simp)⟩
  case only =>
    exact ((((only_admCnt s _ _ _ _).trans (only_admCnt _ _ _ _ _)).mono (by simp)).trans ((only_adm _ _).mono (by simp))).trans
      ((only_modCmd _ _ _ _).mono (by simp))

/-- An opcode outside 0x01 to 0x0D is the first check that fails (R86). -/
theorem decodeCheck_invalidOpcode (x : Tenant) (p : List Word) (h : pOp p = 0 ∨ 0x0D < pOp p) : decodeCheck x p = some 0x1001 := by
  unfold decodeCheck
  rw [if_pos (by simpa using h)]
  rfl

/-- Settles O11: a failed check is one generated completion (`decideCmd_decodeFails`, `decideCmd_stateFails`). -/
theorem failedChecksComplete : Obligations.FailedChecksComplete := by
  unfold Obligations.FailedChecksComplete
  intro s t seq c hat hen
  obtain ⟨rfl, rfl⟩ := getCmd_key hat.1
  have hph : c.ph ≠ .gen := by simp [hat.2.1]
  refine ⟨fun st rival i hi hfail => ?_, fun hop => ?_⟩
  · obtain ⟨-, h9, h0, hD⟩ := decodeRow_eq hi s
    have hx : exec i s = .next (genCompl s c.tenant c.seq st (noEffectResult (cOp c))) := by
      rw [exec_atDecode hat hi]
      rcases hfail with hd | ⟨hd, hst⟩
      · rw [decideCmd_decodeFails rival hen hd, failEarly_other st h9 h0 hD]
      · rw [decideCmd_stateFails rival hen hd hst]
    exact ⟨_, hx, only_genCompl _ _ hat.1, completes_genCompl hat.1 hph⟩
  · have hx : exec (.invalidOpcode c.tenant c.seq) s = .next (decideCmd s c false) := by
      obtain ⟨hc, hcap, hnext, hfl⟩ := hat
      change execInvalidOpcode c.tenant c.seq s = _
      simp [execInvalidOpcode, hc, hcap, hnext, hfl, hop]
    have hfree : getCmd { s with freeCtr := s.freeCtr + 1 } c.tenant c.seq = some c := hat.1
    have hread : isReader (cOp c) = false := by simp [isReader, opRead, opVerify, opCopy]; omega
    rw [decideCmd_decodeFails false hen (decodeCheck_invalidOpcode _ _ hop), failEarly_open _ (.inr hop)] at hx
    refine ⟨_, hx, ?_, completes_genCompl hfree hph⟩
    have honly := only_genCompl 0x1001 (Config.abortResult s.freeCtr).toNat hfree
    rw [endParts, hread, if_neg (by simp)] at honly
    exact ((only_freeCtr s _).mono (by simp)).trans (honly.mono (by simp))

/-! ### ABORT -/

/-- An ABORT that passes its checks is resolved (R72). -/
theorem exec_abort {s : State} {t seq : Nat} {c : Cmd} (hc : getCmd s t seq = some c) (hph : c.ph = .captured) (hop : cOp c = 0x09)
    (hfl : flushing s = false) (hen : (getRing s c.port c.fn (pRing c.pkt)).en = true) (hdec : decodeCheck (tenD s t) c.pkt = none) :
    exec (.abort t seq) s = .next (resolveAbort s c) := by
  change execAbort t seq s = _
  simp [execAbort, hc, hph, hop, hfl, ringStage_enabled hen, hdec, opAbort]

/-- Completing a command that is no reader changes its entry, charge and place in the order of completions. -/
theorem only_genCompl_notReader {s : State} {t seq : Nat} {c : Cmd} (st r : Nat) (h : getCmd s t seq = some c)
    (hr : isReader (cOp c) = false) : Only [.cmds, .bpm, .genCtr] s (genCompl s t seq st r) := by
  have := only_genCompl st r h
  rwa [endParts, hr, if_neg (by simp)] at this

/-- What is left of an ABORT once its target is known: it is noted for what it waits, and its completion generated. -/
theorem abort_ends {s : State} {t seq : Nat} {c : Cmd} (f : Cmd → Cmd) (st r : Nat) (hc : getCmd s t seq = some c) (hph : c.ph = .captured)
    (hop : cOp c = 0x09) (hf : ∀ x, (f x).tenant = x.tenant ∧ (f x).seq = x.seq ∧ (f x).ph = x.ph ∧ (f x).pkt = x.pkt) :
    Only [.cmds, .bpm, .genCtr] s (genCompl (modCmd s t seq f) t seq st r) ∧ Completes (genCompl (modCmd s t seq f) t seq st r) t seq st r ∧
      ∀ t' seq', ¬(t' = t ∧ seq' = seq) → getCmd (genCompl (modCmd s t seq f) t seq st r) t' seq' = getCmd s t' seq' := by
  have hkey : ∀ x, (f x).tenant = x.tenant ∧ (f x).seq = x.seq := fun x => ⟨(hf x).1, (hf x).2.1⟩
  have hm := getCmd_modCmd_self f hc hkey
  obtain ⟨-, -, hfph, hfpkt⟩ := hf c
  have hread : isReader (cOp (f c)) = false := by rw [cOp, hfpkt, ← cOp, hop]; rfl
  refine ⟨((only_modCmd _ _ _ _).mono (by simp)).trans (only_genCompl_notReader _ _ hm hread), completes_genCompl hm (by rw [hfph, hph]; simp),
    fun t' seq' hne => ?_⟩
  rw [getCmd_genCompl_ne _ _ _ hne, getCmd_modCmd_ne _ _ _ _ _ _ hne hkey]

/-- A queued command that is caught ends ABORTED, and no other command changes (R73). -/
theorem catchCmd_queued {s : State} {x : Cmd} (hx : getCmd s x.tenant x.seq = some x) (hph : x.ph = .queued) :
    Only (.tenants :: endParts x) s (catchCmd s x) ∧ Completes (catchCmd s x) x.tenant x.seq 0x4001 (noEffectResult (cOp x)) ∧
      ∀ t seq, ¬(t = x.tenant ∧ seq = x.seq) → getCmd (catchCmd s x) t seq = getCmd s t seq := by
  have heq : catchCmd s x = genCompl (modCmd (admCnt s x.tenant (cCls x) 10 1) x.tenant x.seq fun y => { y with queueUs := waitUs s x })
      x.tenant x.seq 0x4001 (noEffectResult (cOp x)) := by
    simp [catchCmd, endQueued, hph]
    rfl
  have hm : getCmd (modCmd (admCnt s x.tenant (cCls x) 10 1) x.tenant x.seq fun y => { y with queueUs := waitUs s x }) x.tenant x.seq =
      some { x with queueUs := waitUs s x } := getCmd_modCmd_self _ hx (by simp)
  have hend : (.cmds : Part) ∈ endParts x := by unfold endParts; split <;> simp
  rw [heq]
  refine ⟨?_, completes_genCompl hm (by simp [hph]), fun t seq hne => ?_⟩
  · have honly := only_genCompl 0x4001 (noEffectResult (cOp x)) hm
    exact ((only_admCnt _ _ _ _ _).mono (by simp)).trans (((only_modCmd _ _ _ _).mono (by simp [hend])).trans (honly.mono fun q hq => .tail _ hq))
  · rw [getCmd_genCompl_ne _ _ _ hne, getCmd_modCmd_ne _ _ _ _ _ _ hne (by simp)]; rfl

/-- Settles O12: the three ends of an ABORT (Table 3.6) are `abort_ends` on the state as it is, or on the state that `catchCmd` leaves. -/
theorem abortResolves : Obligations.AbortResolves := by
  unfold Obligations.AbortResolves
  intro s t seq c hc hph hop hfl hen hdec
  obtain ⟨rfl, rfl⟩ := getCmd_key hc
  have hx := exec_abort hc hph hop hfl hen hdec
  refine ⟨fun hnone => ?_, fun x hfind hgx => ⟨fun hlate => ?_, fun hcom hq => ?_⟩⟩
  · have hfind : (s.cmds.find? fun x => x.tenant == c.tenant && pTag x.pkt == bits (pD10 c.pkt) 0 16 && decide (x.seq < c.seq)) = none :=
      List.find?_eq_none.mpr fun x hxm => by
        simp only [Bool.and_eq_true, beq_iff_eq, decide_eq_true_eq, not_and]
        exact fun h h' => absurd h.2 (hnone x hxm h.1 h')
    simp only [resolveAbort, hfind] at hx
    obtain ⟨honly, hdone, -⟩ := abort_ends (fun x => { x with committed := true }) 0x4004 0xFFFFFFFFFFFFFFFF hc hph hop (by simp)
    exact ⟨_, hx, honly, hdone⟩
  · have hcaught : (!x.committed && x.ph != .gen) = false := by rcases hlate with h | h <;> simp [h]
    have hlt : x.seq < c.seq := by have := List.find?_some hfind; simp at this; exact this.2
    simp only [resolveAbort, hfind, hcaught] at hx
    obtain ⟨honly, hdone, hother⟩ := abort_ends (fun y => { y with waitFor := some x.seq, reserve := true, committed := true }) 0x4003
      (x.seq % p32) hc hph hop (by simp)
    exact ⟨_, hx, honly, hdone, (hother _ _ (by omega)).trans hgx⟩
  · have hcaught : (!x.committed && x.ph != .gen) = true := by simp [hcom, hq]
    have hsel := List.find?_some hfind
    simp only [Bool.and_eq_true, beq_iff_eq, decide_eq_true_eq] at hsel
    obtain ⟨⟨hten, -⟩, hlt⟩ := hsel
    simp only [resolveAbort, hfind, hcaught] at hx
    rw [← hten] at hgx
    obtain ⟨honly, hdone, hother⟩ := catchCmd_queued hgx hq
    have hc' : getCmd (catchCmd s x) c.tenant c.seq = some c := (hother _ _ (by omega)).trans hc
    obtain ⟨honly', hdone', hother'⟩ := abort_ends (fun y => { y with waitFor := some x.seq, reserve := true, committed := true }) 0x4002
      (x.seq % p32) hc' hph hop (by simp)
    refine ⟨_, hx, honly.trans (honly'.mono ?_), hdone', (hten ▸ hdone).of_getCmd (hother' _ _ (by omega))⟩
    unfold endParts
    split <;> simp

end Sys2Proof.Machine
end

section
/-! PROOFS. The test access port (R400), reset values, configuration writes (R32, R44) and the faults of Table 1.10 (R8). -/

namespace Sys2Proof.Machine

/-! ### The test access port -/

theorem only_tapTakes (s : State) (op : Nat) (reg : List Bool) (float hold : Bool) : Only [.tap] s (tapTakes s op reg float hold) :=
  only_tap _ _

/-- Settles O57: each instruction is one `tapTakes`, and two of them send what it selects. -/
theorem theTapSelects : Obligations.TheTapSelects := by
  unfold Obligations.TheTapSelects
  intro s cells op
  have hsend : ∀ u o, Only [.tap] s u → Only [.tap, .out] s (emit u o) := fun u o h =>
    (h.mono (by simp)).trans ((only_emit u o).mono (by simp))
  refine ⟨⟨_, rfl, only_tapTakes _ _ _ _ _, rfl, ?_, ?_⟩, ⟨_, rfl, hsend _ _ (only_tapTakes _ _ _ _ _), rfl, rfl⟩,
    ⟨_, rfl, hsend _ _ ((only_tap s _).trans (only_tapTakes _ _ _ _ _)), rfl, rfl, rfl⟩, ⟨_, rfl, only_tapTakes _ _ _ _ _, rfl, ?_, rfl⟩,
    ⟨_, rfl, only_tapTakes _ _ _ _ _, rfl, ?_, ?_, rfl⟩, ⟨_, rfl, only_tapTakes _ _ _ _ _, rfl, ?_, ?_, rfl⟩, fun h =>
      ⟨tapTakes s op.toNat [false] false false, if_neg h, only_tapTakes _ _ _ _ _, rfl, ?_, ?_, rfl⟩⟩ <;>
    simp [tapTakes]

/-- Settles O58: `State.reset` is the state of default fields. -/
theorem resetValues : Obligations.ResetValues := by
  unfold Obligations.ResetValues
  refine ⟨rfl, rfl, rfl, fun p => ?_, fun p fn n => ?_, fun n => rfl, rfl, rfl, rfl, rfl, rfl, rfl, rfl, rfl, rfl, rfl, fun m => rfl, rfl, rfl,
    rfl, rfl, rfl, rfl, rfl, rfl, rfl⟩
  · cases p <;> exact ⟨rfl, rfl, rfl⟩
  · have hfn : getFn State.reset p fn = {} := by
      unfold getFn
      cases p <;> split <;> rfl
    simp [getRing, getCas, hfn]

/-! ### Configuration writes -/

/-- A configuration request that reaches its function is applied to the woken state (R44). -/
theorem cfgAccess_reaches {s : State} {p : Port} {fn : Nat} (k : State → Res) (h : CfgReaches s p fn) :
    cfgAccess p fn s k = k (woken s p 3) := by
  obtain ⟨hup, hclk, hfn⟩ := h
  simp [cfgAccess, woken, hup, hclk, hfn]

theorem getPort_woken (s : State) (p q : Port) (cause : Nat) :
    getPort (woken s p cause) q = if q = p then { getPort s q with inL1 := false } else getPort s q := by
  have hw : ∀ u : State, getPort (wake u cause) q = getPort u q := fun u => by
    have h := only_wake u cause
    cases q
    · exact h .pa (by simp)
    · exact h .pb (by simp)
  rw [woken, hw]
  split
  · subst_vars; exact getPort_modPort_self _ _ _
  · exact getPort_modPort_ne _ _ _ _ ‹_›

/-- Nothing is redirected when no function is removed (R45). -/
theorem removeVfs_nil (s : State) (p : Port) (r : List Reached) (cause : Nat) : removeVfs s p [] r cause = s := by
  have hnone (l : List Cmd) : l.filter (fun _ => false) = [] := List.filter_eq_nil_iff.mpr fun _ _ => Bool.false_ne_true
  simp [removeVfs, redirectAll, hnone]

/-- A NumVFs that is not lowered below an enabled VF removes none (R32). -/
theorem vfList_above {s : State} {p : Port} {v : Nat} (h : (getPort s p).vfEn = false ∨ (getPort s p).numVfs ≤ v) :
    (vfList s p).filter (v < ·) = [] := by
  refine List.filter_eq_nil_iff.mpr fun f hf => ?_
  unfold vfList at hf
  split at hf
  · obtain ⟨i, hi, rfl⟩ := List.mem_map.mp hf
    have := List.mem_range.mp hi
    simp_all
    omega
  · simp at hf

theorem vfList_woken (s : State) (p : Port) (cause : Nat) : vfList (woken s p cause) p = vfList s p := by
  simp [vfList, getPort_woken]

/-- Settles O17: each write is one update of the woken state; `vfList_above` shows that a raised NumVFs removes no function. -/
theorem configurationWrites : Obligations.ConfigurationWrites := by
  unfold Obligations.ConfigurationWrites
  intro s p fn v r
  refine ⟨fun h => ⟨?set, ?clear⟩, fun h => ⟨?d3hot, ?d0, ?enable, fun hv => ?ignored, fun hn hv => ?raised⟩⟩
  case set => change execBusMasterEnableSet p fn s = _; exact cfgAccess_reaches _ h
  case clear => change execBusMasterEnableClear p fn s = _; exact cfgAccess_reaches _ h
  case d3hot => change execPf0D3hot p s = _; exact cfgAccess_reaches _ h
  case d0 => change execPf0D3hotExit p s = _; exact cfgAccess_reaches _ h
  case enable => change execVfEnableWrite p true r s = _; exact cfgAccess_reaches _ h
  case ignored => change execNumvfsWrite p v r s = _; exact (cfgAccess_reaches _ h).trans (if_pos hv)
  case raised =>
    change execNumvfsWrite p v r s = _
    refine (cfgAccess_reaches _ h).trans ((if_neg (Nat.not_lt.mpr hv)).trans ?_)
    rw [vfList_woken, vfList_above hn, removeVfs_nil]

/-! ### Internal faults -/

/-- A record that is taken after a change of the state that the recorder does not see. -/
theorem Recorded.of_evr {s s' u : State} {sev source code : Nat} {pl : List Byte} (h : Recorded s' u sev source code pl)
    (he : s'.evr = s.evr) : Recorded s u sev source code pl := by
  unfold Recorded at h ⊢
  rw [← he]
  exact h

theorem Recordable.of_same {s s' : State} {source code : Nat} (h : Recordable s source code) (he : s'.evr = s.evr) (ho : opMs s' = opMs s) :
    Recordable s' source code := by
  unfold Recordable at h ⊢
  rw [he, ho]
  exact h

/-- Recording an event leaves what the recorder's parts do not hold. -/
theorem media_logEv (s : State) (sev source code : Nat) (pl : List Byte) : (logEv s sev source code pl).media = s.media :=
  only_logEv s sev source code pl .media (by simp)

/-- The state in which one more spare of a quadrant's link is in use (R8). -/
def linkWorse (s : State) (q : Nat) : State :=
  { s with media := { s.media with links := Tab.set 0 s.media.links q (Tab.get 0 s.media.links q + 1) } }

/-- A lane fault of a link that is not narrowed yet is recorded with the link worse by one (R8). -/
theorem exec_d2dLaneFault {s : State} {q : Nat} (lane : Nat) (hq : q < 4) (hu : Tab.get 0 s.media.links q < 3) :
    exec (.d2dLaneFault q lane) s = .next (if Tab.get 0 s.media.links q < 2 then
      logEv (linkWorse s q) 2 (src 0xA q) 0xA001 (leBytes 1 lane ++ leBytes 1 (1 - Tab.get 0 s.media.links q))
      else logEv (linkWorse s q) 3 (src 0xA q) 0xA002 (leBytes 1 lane)) := by
  change execD2dLaneFault q lane s = _
  unfold execD2dLaneFault
  dsimp only
  rw [if_neg (by omega)]
  split <;> rfl

/-- A recorded lane fault: the link is worse by one, and the record is there. -/
theorem linkWorse_recorded {s : State} {q : Nat} (sev code : Nat) (pl : List Byte) (h : Recordable s (0xA000 + q) code) :
    Tab.get 0 (logEv (linkWorse s q) sev (0xA000 + q) code pl).media.links q = Tab.get 0 s.media.links q + 1 ∧
      Only [.pa, .pb, .out, .evr, .media] s (logEv (linkWorse s q) sev (0xA000 + q) code pl) ∧
      Recorded s (logEv (linkWorse s q) sev (0xA000 + q) code pl) sev (0xA000 + q) code pl := by
  have hrec : Recordable (linkWorse s q) (0xA000 + q) code := h.of_same rfl rfl
  refine ⟨?_, ((only_media s _).mono (by simp)).trans ((only_logEv _ _ _ _ _).mono (by simp)),
    (logEv_recorded _ _ _ _ _ hrec).of_evr rfl⟩
  rw [media_logEv]
  exact Tab.get_set_self 0 s.media.links q (Tab.get 0 s.media.links q + 1)

/-- Settles O20: `exec_d2dLaneFault` with its record, and a hang is one record. -/
theorem faultsAreAnswered : Obligations.FaultsAreAnswered := by
  unfold Obligations.FaultsAreAnswered
  refine ⟨fun s q lane die core items => ⟨fun hq hu hrec => ?_, fun hq hu hrec => ?_, fun hq hu => ?_, fun hcore hrec => ?_⟩,
    fun s p fn off rd hup hclk hun => ?_⟩
  · have hx := exec_d2dLaneFault lane hq (by omega : Tab.get 0 s.media.links q < 3)
    rw [if_pos hu] at hx
    exact ⟨_, hx, linkWorse_recorded 2 0xA001 _ hrec⟩
  · have hx := exec_d2dLaneFault lane hq (by omega : Tab.get 0 s.media.links q < 3)
    rw [if_neg (by omega)] at hx
    obtain ⟨hlink, honly, hr⟩ := linkWorse_recorded (s := s) 3 0xA002 (leBytes 1 lane) hrec
    exact ⟨_, hx, by rw [show src 0xA q = 0xA000 + q from rfl, hlink, hu], honly, hr⟩
  · exact if_pos (.inr hu)
  · have hx : exec (.coreHang die core items) s = .next (logEv s 2 (src 0xF (die * 0x100 + core)) 0xF001 (leBytes 4 items)) :=
      if_neg (Nat.not_le.mpr hcore)
    have hsrc : src 0xF (die * 0x100 + core) = 0xF000 + die * 256 + core := by simp only [src]; omega
    rw [hsrc] at hx
    exact ⟨_, hx, only_logEv _ _ _ _ _, logEv_recorded _ _ _ _ _ hrec⟩
  · have hun' : unsupported s p fn off = true := by
      simp only [unsupported, Bool.or_eq_true, Bool.not_eq_true', decide_eq_true_eq, or_assoc]
      exact hun
    change execUnsupportedRequest p fn off rd s = _
    simp [execUnsupportedRequest, hup, hclk, hun', emit]

end Sys2Proof.Machine
end

section
/-! PROOFS. The thermal control period and the other thermal events (R364 to R374): what each of their operations leaves, and what it sets. -/

namespace Sys2Proof.Machine

/-! ### Frames, put together -/

/-- One operation after another changes what the first may change, if the second changes no more. -/
theorem Only.andThen {l m : List Part} {s t u : State} (h : Only l s t) (h' : Only m t u) (hm : ∀ q, q ∈ m → q ∈ l) : Only l s u :=
  h.trans (h'.mono hm)

theorem Only.ite {l : List Part} {s t u : State} {p : Prop} [Decidable p] (ht : Only l s t) (hu : Only l s u) :
    Only l s (if p then t else u) := by
  split
  · exact ht
  · exact hu

/-- What the state holds of the functions of a port and what it sends: the parts that a message may change. -/
theorem only_fireVec_ports (s : State) (p : Port) (fn v : Nat) : Only [.pa, .pb, .out] s (fireVec s p fn v) :=
  (only_fireVec s p fn v).mono (by cases p <;> simp [portPart])

theorem only_modMbx (s : State) (b : Box) (f : Mbx → Mbx) : Only [.mbxs] s (modMbx s b f) := only_mbxs _ _

theorem only_fireBox (s : State) (b : Box) : Only [.pa, .pb, .out] s (fireBox s b) := by
  cases b with
  | pf0 n => exact only_firePf0 _ _
  | vf p fn => exact only_fireVec_ports _ _ _ _

theorem only_setIst (s : State) (b : Box) (i : Nat) : Only [.mbxs, .pa, .pb, .out] s (setIst s b i) := by
  have h := (only_modMbx s b fun m => { m with ist := setBit m.ist i }).mono (m := [.mbxs, .pa, .pb, .out]) (by simp)
  exact Only.ite h (Only.ite (h.andThen (only_fireBox _ _) (by simp)) h)

theorem only_noticeTo (s : State) (code v1 v2 v3 : Nat) (b : Box) : Only [.mbxs, .pa, .pb, .out] s (noticeTo s code v1 v2 v3 b) := by
  have h : ∀ f i, Only [.mbxs, .pa, .pb, .out] s (setIst (modMbx s b f) b i) := fun f i =>
    ((only_modMbx s b f).mono (by simp)).trans (only_setIst _ _ _)
  exact Only.ite (Only.refl _ _) (Only.ite (h _ _) (h _ _))

theorem only_noticePf0 (s : State) (code v1 v2 v3 : Nat) : Only [.mbxs, .pa, .pb, .out] s (noticePf0 s code v1 v2 v3) :=
  only_foldl _ (fun u n => only_noticeTo u code v1 v2 v3 (.pf0 n)) _ _

/-! ### Bits -/

/-- A bit that is set stays set when another is set. -/
theorem bit_setBit_of {x i j : Nat} (h : bit x j = true) : bit (setBit x i) j = true := by
  by_cases hij : i = j
  · rw [hij]; exact bit_setBit_self x j
  · rw [bit_setBit_ne x hij]; exact h

theorem setBit_of_set {x i : Nat} (h : bit x i = true) : setBit x i = x := if_pos h

/-! ### Thermal events and flags -/

/-- A THM_EVT bit is set, whatever is recorded of it (R369, R381). -/
theorem thm_setThmEvt (s : State) (b inst : Nat) : (setThmEvt s b inst).thm = { s.thm with evt := setBit s.thm.evt b } := by
  have hrec : ∀ (u : State) (a c i k o v : Nat), (genericEv u a c i k o v).thm = u.thm := fun u a c i k o v =>
    only_genericEv u a c i k o v .thm (by simp)
  unfold setThmEvt raiseEvt
  dsimp only
  split
  · rw [hrec]
  · split
    · rw [setBit_of_set ‹_›]
    · rw [hrec]

theorem only_setThmEvt (s : State) (b inst : Nat) : Only [.thm, .pa, .pb, .out, .evr] s (setThmEvt s b inst) :=
  Only.ite (((only_thm s _).mono (by simp)).andThen (only_genericEv _ _ _ _ _ _ _) (by simp))
    ((only_raiseEvt s _ _ _ _ _ _ _ fun u v => only_thm u _).mono (by simp))

theorem only_flagChanged (s : State) (b before : Nat) : Only [.thm, .pa, .pb, .out, .evr, .mbxs, .rst] s (flagChanged s b before) :=
  ((((only_setThmEvt s b 0xFFF).mono (by simp)).andThen (only_firePf0 _ _) (by simp)).andThen (only_noticePf0 _ _ _ _ _) (by simp)).andThen
    (only_wake _ _) (by simp)

theorem thm_flagChanged (s : State) (b before : Nat) : (flagChanged s b before).thm = { s.thm with evt := setBit s.thm.evt b } := by
  unfold flagChanged
  rw [only_wake _ _ .thm (by simp), only_noticePf0 _ _ _ _ _ .thm (by simp), only_firePf0 _ _ .thm (by simp), thm_setThmEvt]

/-- The block of the thermal registers without what the flags but WARN, the sensors and the temperatures of a period rewrite. -/
def ruling (x : Thm) : Thm :=
  { x with
    sens := [], cnts := [], evt := 0, tctl := 0, tctlDie := 0, tctlSens := 0, tmax := 0, tmaxSens := 0
    throttle := false, throttleNs := 0, full := false, fullNs := 0, phase := 0, shutCnt := 0 }

/-- What every step of a control period leaves that does not decide the shutter, WARN or a shutdown. -/
structure Ruled (s t : State) : Prop where
  thm : ruling t.thm = ruling s.thm
  evt : ∀ i, bit s.thm.evt i = true → bit t.thm.evt i = true
  adm : t.adm = s.adm
  pins : t.pins = s.pins

theorem Ruled.refl (s : State) : Ruled s s := ⟨rfl, fun _ h => h, rfl, rfl⟩

theorem Ruled.trans {s t u : State} (h : Ruled s t) (h' : Ruled t u) : Ruled s u :=
  ⟨h'.thm.trans h.thm, fun i hi => h'.evt i (h.evt i hi), h'.adm.trans h.adm, h'.pins.trans h.pins⟩

/-- A field that `ruling` does not clear stays. -/
theorem Ruled.field {s t : State} {α : Type} (h : Ruled s t) (f : Thm → α) (hf : ∀ x, f (ruling x) = f x) : f t.thm = f s.thm := by
  rw [← hf t.thm, h.thm, hf]

/-- A step that touches nothing thermal. -/
theorem Ruled.of_only {l : List Part} {s t : State} (h : Only l s t) (hl : Part.thm ∉ l ∧ Part.adm ∉ l ∧ Part.pins ∉ l) : Ruled s t := by
  have hthm : t.thm = s.thm := h .thm hl.1
  exact ⟨by rw [hthm], fun i hi => by rw [hthm]; exact hi, h .adm hl.2.1, h .pins hl.2.2⟩

theorem Ruled.ite {s t u : State} {p : Prop} [Decidable p] (ht : Ruled s t) (hu : Ruled s u) : Ruled s (if p then t else u) := by
  split
  · exact ht
  · exact hu

theorem Ruled.foldl {α : Type} (f : State → α → State) (h : ∀ s x, Ruled s (f s x)) (xs : List α) (s : State) : Ruled s (xs.foldl f s) := by
  induction xs generalizing s with
  | nil => exact Ruled.refl s
  | cons x xs ih => exact (h s x).trans (ih _)

theorem ruled_setThmEvt (s : State) (b inst : Nat) : Ruled s (setThmEvt s b inst) := by
  have h := only_setThmEvt s b inst
  refine ⟨by rw [thm_setThmEvt]; rfl, fun i hi => by rw [thm_setThmEvt]; exact bit_setBit_of hi, h .adm (by simp), h .pins (by simp)⟩

theorem ruled_flagChanged (s : State) (b before : Nat) : Ruled s (flagChanged s b before) := by
  have h := only_flagChanged s b before
  refine ⟨by rw [thm_flagChanged]; rfl, fun i hi => by rw [thm_flagChanged]; exact bit_setBit_of hi, h .adm (by simp), h .pins (by simp)⟩

theorem ruled_logEv (s : State) (sev source code : Nat) (pl : List Byte) : Ruled s (logEv s sev source code pl) :=
  .of_only (only_logEv _ _ _ _ _) (by simp)

/-- Whether WARN is what the temperature of the period and its dwell make it (R369). -/
def warnWant (s : State) : Bool :=
  if s.thm.warn then decide (4 * (s.thm.tWarn : Int) - 12 ≤ s.thm.tPub) else decide (4 * (s.thm.tWarn : Int) ≤ s.thm.tPub)

/-- The state with WARN at `w` since `n`. -/
def setWarn (s : State) (w : Bool) (n : Nat) : State := { s with thm := { s.thm with warn := w, warnNs := n } }

/-- WARN stays, or changes with its event (R369). -/
theorem stepFlag_warn (s : State) : stepFlag s 0 =
    if warnWant s = s.thm.warn ∨ ¬(s.thm.warnNs = 0 ∨ s.thm.warnNs + 10000000 ≤ s.nowNs) then s
    else flagChanged (setWarn s (warnWant s) s.nowNs) 0 (flagBits s) := rfl

/-- THROTTLE and FULL follow the period without WARN (R369). -/
theorem ruled_stepFlag (s : State) {f : Nat} (hf : f ≠ 0) : Ruled s (stepFlag s f) := by
  refine Ruled.ite (Ruled.refl s) (Ruled.trans ?_ (ruled_flagChanged _ _ _))
  match f with
  | 0 => exact absurd rfl hf
  | 1 => exact ⟨rfl, fun _ h => h, rfl, rfl⟩
  | f + 2 => exact ⟨rfl, fun _ h => h, rfl, rfl⟩

/-! ### Sensors -/

theorem ruled_breakSensor (s : State) (k reason : Nat) : Ruled s (breakSensor s k reason) := by
  unfold breakSensor
  split
  · exact Ruled.refl s
  · refine Ruled.trans ?_ (ruled_logEv _ _ _ _ _)
    exact ⟨rfl, fun i hi => bit_setBit_of hi, rfl, rfl⟩

theorem ruled_modSens (s : State) (k : Nat) (f : Sens → Sens) : Ruled s (modSens s k f) := ⟨rfl, fun _ h => h, rfl, rfl⟩

theorem ruled_convert (s : State) (k : Nat) (v : Option Int) : Ruled s (convert s k v) := by
  cases v with
  | none => exact Ruled.refl s
  | some t => exact Ruled.ite ((ruled_modSens _ _ _).trans (ruled_breakSensor _ _ _)) (ruled_modSens _ _ _)

theorem ruled_derive (s : State) : Ruled s (derive' s) := by
  unfold derive'
  refine Ruled.trans ?_ (Ruled.foldl _ (fun u d => Ruled.ite (ruled_setThmEvt u 5 (0x100 + d)) (Ruled.refl u)) _ _)
  exact ⟨rfl, fun _ h => h, rfl, rfl⟩

/-- The conversions of a period, with the sensors that they break (R365), and T_CTL derived from them. -/
def sensed (conv : List (Option Int)) (s : State) : State :=
  let s := { s with thm := { s.thm with sens := Tab.mapv {} (fun _ x => { x with exclOn := x.excl }) s.thm.sens } }
  let s := (List.range 22).foldl (fun s k => convert s k (nth none conv k)) s
  derive' ((List.range 22).foldl (fun s k => if stuck s k then breakSensor s k 3 else s) s)

theorem ruled_sensed (conv : List (Option Int)) (s : State) : Ruled s (sensed conv s) := by
  unfold sensed
  dsimp only
  refine Ruled.trans (Ruled.trans (Ruled.trans ?_ (Ruled.foldl _ (fun u k => ruled_convert u k _) _ _))
    (Ruled.foldl _ (fun u k => Ruled.ite (ruled_breakSensor u k 3) (Ruled.refl u)) _ _)) (ruled_derive _)
  exact ⟨rfl, fun _ h => h, rfl, rfl⟩

/-! ### A shutdown -/

theorem only_genCompl_any (s : State) (t seq st r : Nat) :
    Only [.cmds, .bpm, .genCtr, .vers, .pa, .pb, .out, .evr] s (genCompl s t seq st r) := by
  cases h : getCmd s t seq with
  | none =>
    have hx : genCompl s t seq st r = s := by simp [genCompl, h]
    rw [hx]; exact Only.refl _ _
  | some c =>
    refine (only_genCompl st r h).mono fun q hq => ?_
    unfold endParts at hq
    split at hq
    · exact hq
    · have hsub : ∀ q ∈ ([.cmds, .bpm, .genCtr] : List Part), q ∈ ([.cmds, .bpm, .genCtr, .vers, .pa, .pb, .out, .evr] : List Part) := by decide
      exact hsub q hq

theorem only_countWait (s : State) (t : Nat) (c : Cls) (us : Nat) : Only [.tenants] s (countWait s t c us) :=
  (only_admCnt _ _ _ _ _).trans (only_modTCls _ _ _ _)

theorem only_endBlockWait (s : State) (c : Cmd) : Only [.tenants, .cmds] s (endBlockWait s c) := by
  unfold endBlockWait
  split
  · exact Only.refl _ _
  · exact (((only_admCnt _ _ _ _ _).trans (only_modTCls _ _ _ _)).mono (by simp)).andThen (only_modCmd _ _ _ _) (by simp)

/-- What a refusal counts and notes before its completion is generated (R146). -/
def refusalNoted (s : State) (c : Cmd) (status : Nat) : State :=
  let cls := cCls c
  let us := waitUs s c
  let k := if status = stThermal then 6 else if status = stUcFull then 7 else 9
  let s := admCnt s c.tenant cls k 1
  let s := if status = stUcFull ∧ heldBy s c = .dirty then admCnt s c.tenant cls 8 1 else s
  let s := if c.blockNs.isSome then endBlockWait s c else countWait s c.tenant cls us
  modCmd s c.tenant c.seq fun x => { x with queueUs := us }

theorem refuseQueued_eq (s : State) (c : Cmd) (status : Nat) :
    refuseQueued s c status = genCompl (refusalNoted s c status) c.tenant c.seq status (noEffectResult (cOp c)) := rfl

theorem only_refusalNoted (s : State) (c : Cmd) (status : Nat) : Only [.tenants, .cmds] s (refusalNoted s c status) := by
  have h := (only_admCnt s c.tenant (cCls c) (if status = stThermal then 6 else if status = stUcFull then 7 else 9) 1).mono
    (m := [.tenants, .cmds]) (by simp)
  refine Only.andThen (Only.trans (Only.ite (h.andThen (only_admCnt _ _ _ _ _) (by simp)) h)
    (Only.ite (only_endBlockWait _ _) ((only_countWait _ _ _ _).mono (by simp)))) (only_modCmd _ _ _ _) (by simp)

theorem only_refuseQueued (s : State) (c : Cmd) (status : Nat) :
    Only [.tenants, .cmds, .bpm, .genCtr, .vers, .pa, .pb, .out, .evr] s (refuseQueued s c status) :=
  ((only_refusalNoted s c status).mono (by simp)).andThen (only_genCompl_any _ _ _ _ _) (by simp)

theorem ruled_thermalStopped (s : State) : Ruled s (thermalStopped s) := by
  unfold thermalStopped
  dsimp only
  refine Ruled.trans ?_ (ruled_logEv _ _ _ _ _)
  exact ⟨rfl, fun _ h => h, rfl, rfl⟩

/-- What step 1 of a shutdown sets (R374). -/
def tripped (s : State) : State :=
  { s with
    pins := { s.pins with thermtripN := false }
    thm := { s.thm with
      shut := true, phase := 1, latch := true, startNs := s.nowNs, shutTctl := s.thm.tPub
      shutDie := s.thm.tctlDie, shutSens := s.thm.tctlSens }
    adm := { s.adm with shutdown := true, stop := true }
    rst := { s.rst with warmPhase := 0 } }

/-- Commands are refused, and an activation is abandoned (R344, R374). -/
def tripTold (s : State) : State :=
  let u := flagChanged (tripped s) 3 (flagBits s)
  let u := if u.rst.actState = 0 then u else { u with rst := { u.rst with actState := 0, actResult := 3, actBox := none } }
  (u.cmds.filter fun c => c.ph == .queued).foldl (fun s c => refuseQueued s c stThermal) u

/-- A flush under way becomes step 4 of the shutdown; where none is to come, the device stops (R374). -/
def tripFlush (s : State) : State :=
  if s.plp.phase = 1 then { s with thm := { s.thm with phase := 2 }, plp := { s.plp with why := 1 } }
  else if s.plp.phase = 2 then thermalStopped s
  else if s.boot.ready then s
  else thermalStopped { s with plp := { s.plp with phase := 2 } }

theorem beginShutdown_eq (s : State) : beginShutdown s = tripFlush (tripTold s) := by
  unfold beginShutdown tripFlush tripTold tripped
  dsimp only

theorem ruled_tripFlush (s : State) : Ruled s (tripFlush s) := by
  refine Ruled.ite ?_ (Ruled.ite (ruled_thermalStopped _) (Ruled.ite (Ruled.refl _) ?_))
  · exact ⟨rfl, fun _ h => h, rfl, rfl⟩
  · exact Ruled.trans (.of_only (only_plp _ _) (by simp)) (ruled_thermalStopped _)

theorem ruled_tripTold (s : State) : Ruled (tripped s) (tripTold s) := by
  unfold tripTold
  dsimp only
  refine Ruled.trans (Ruled.trans (ruled_flagChanged (tripped s) 3 (flagBits s)) (Ruled.ite (Ruled.refl _) ?_))
    (Ruled.foldl _ (fun u c => Ruled.of_only (only_refuseQueued u c stThermal) (by simp)) _ _)
  exact .of_only (only_rst _ _) (by simp)

/-- A shutdown is its first step, and what leaves that as it is (R374). -/
theorem ruled_beginShutdown (s : State) : Ruled (tripped s) (beginShutdown s) := by
  rw [beginShutdown_eq]
  exact (ruled_tripTold s).trans (ruled_tripFlush _)

/-! ### The control period -/

/-- What the shutter step publishes: the shutter and its T_SET by the law, for admission too (R371, R372). -/
def shuttered (s : State) : State :=
  let r := shutterStep s.thm.shutter s.thm.tSet s.thm.tPub (4 * s.thm.tOn) (4 * s.thm.tFull)
  { s with thm := { s.thm with shutter := r.1, tSet := r.2, rate := r.1 }, adm := { s.adm with shutter := r.1 } }

theorem ruled_thmCnt (s : State) (k n : Nat) : Ruled s (thmCnt s k n) := ⟨rfl, fun _ h => h, rfl, rfl⟩

theorem ruled_stepShutter (s : State) : Ruled (shuttered s) (stepShutter s) := by
  unfold stepShutter
  refine Ruled.trans (Ruled.trans ?_ (Ruled.ite (ruled_thmCnt _ 0 1) (Ruled.refl _))) (Ruled.ite (ruled_thmCnt _ 1 1) (Ruled.refl _))
  split <;> exact ⟨rfl, fun _ h => h, rfl, rfl⟩

theorem ruled_stepChannels (s : State) : Ruled s (stepChannels s) := by
  unfold stepChannels
  refine Ruled.trans (Ruled.foldl _ (fun u c => Ruled.ite (Ruled.refl u) (Ruled.ite (Ruled.refl u) ?_)) _ _) (ruled_thmCnt _ 4 _)
  exact .of_only (only_media _ _) (by simp)

/-- The thresholds and the T_CTL that a period publishes (R364, R368). -/
def periodBegun (s : State) : State :=
  let n := s.thm.tNext
  { s with
    thm := { s.thm with
      tPub := s.thm.tctl, tPubDie := s.thm.tctlDie, tPubSens := s.thm.tctlSens
      tWarn := nth 95 n 0, tOn := nth 100 n 1, tFull := nth 110 n 2, tShut := nth 118 n 3 }
    media := { s.media with fpcMax := s.media.fpcNext, fpcChMax := s.media.fpcChNext } }

/-- The state in which a period's flags are judged. -/
def periodRuled (s : State) : State := stepChannels (stepShutter (periodBegun s))

/-- The state in which a period's shutdown is judged. -/
def periodFlagged (s : State) : State := (List.range 3).foldl stepFlag (periodRuled s)

theorem periodFlagged_eq (s : State) : periodFlagged s = stepFlag (stepFlag (stepFlag (periodRuled s) 0) 1) 2 := by
  rw [periodFlagged, show List.range 3 = [0, 1, 2] from rfl, List.foldl_cons, List.foldl_cons, List.foldl_cons, List.foldl_nil]

/-- A control period, step by step (R364 to R374). -/
theorem exec_thermalControlPeriod {s : State} (conv : List (Option Int)) (hclk : s.ckm.stopped = false) (hpor : s.pins.porHeld = false)
    (hready : s.boot.ready = true) : exec (.thermalControlPeriod conv) s = .next (sensed conv
      (if decide (4 * ((periodFlagged s).thm.tShut : Int) ≤ (periodFlagged s).thm.tPub) && !(periodFlagged s).thm.latch then
        beginShutdown (periodFlagged s) else periodFlagged s)) := by
  change execThermalControlPeriod conv s = _
  unfold execThermalControlPeriod sensed periodFlagged periodRuled periodBegun
  rw [if_neg (by simp [hclk, hpor, hready])]

theorem ruled_periodRuled (s : State) : Ruled (shuttered (periodBegun s)) (periodRuled s) :=
  (ruled_stepShutter _).trans (ruled_stepChannels _)

/-- WARN's step leaves all but WARN; WARN is `w` since `n`. -/
theorem ruled_stepFlag_warn (s : State) : ∃ w n, Ruled (setWarn s w n) (stepFlag s 0) ∧
    (s.thm.warn = false → s.thm.warnNs = 0 → 4 * (s.thm.tWarn : Int) ≤ s.thm.tPub → w = true ∧ bit (stepFlag s 0).thm.evt 0 = true) := by
  rw [stepFlag_warn]
  by_cases h : warnWant s = s.thm.warn ∨ ¬(s.thm.warnNs = 0 ∨ s.thm.warnNs + 10000000 ≤ s.nowNs)
  · rw [if_pos h]
    refine ⟨s.thm.warn, s.thm.warnNs, Ruled.refl s, fun hw hn ht => ?_⟩
    simp [warnWant, hw, hn, ht] at h
  · rw [if_neg h]
    refine ⟨_, _, ruled_flagChanged (setWarn s (warnWant s) s.nowNs) 0 _, fun hw hn ht => ⟨by simp [warnWant, hw, ht], ?_⟩⟩
    rw [thm_flagChanged]; exact bit_setBit_self _ _

/-- What a period has decided before its shutdown is judged: shutter and T_SET, WARN, and nothing of a shutdown. -/
structure Decided (s u : State) : Prop where
  tPub : u.thm.tPub = s.thm.tctl
  shutter : (u.thm.shutter, u.thm.tSet) = shutterStep s.thm.shutter s.thm.tSet s.thm.tctl (4 * ((nth 100 s.thm.tNext 1 : Nat) : Int))
    (4 * ((nth 110 s.thm.tNext 2 : Nat) : Int))
  adm : u.adm.shutter = u.thm.shutter
  warn : s.thm.warn = false → s.thm.warnNs = 0 → 4 * ((nth 95 s.thm.tNext 0 : Nat) : Int) ≤ s.thm.tctl → u.thm.warn = true ∧ bit u.thm.evt 0 = true

/-- The steps that follow keep what was decided. -/
theorem Decided.of_ruled {s u v : State} (h : Decided s u) (hr : Ruled u v) : Decided s v := by
  have hpub : v.thm.tPub = u.thm.tPub := hr.field Thm.tPub fun _ => rfl
  have hsh : v.thm.shutter = u.thm.shutter := hr.field Thm.shutter fun _ => rfl
  have hset : v.thm.tSet = u.thm.tSet := hr.field Thm.tSet fun _ => rfl
  have hwarn : v.thm.warn = u.thm.warn := hr.field Thm.warn fun _ => rfl
  refine ⟨hpub.trans h.tPub, by rw [hsh, hset, h.shutter], by rw [hr.adm, hsh, h.adm], fun hw hn ht => ?_⟩
  obtain ⟨h1, h2⟩ := h.warn hw hn ht
  exact ⟨hwarn.trans h1, hr.evt 0 h2⟩

/-- A shutdown's first step decides nothing else. -/
theorem Decided.tripped {s u : State} (h : Decided s u) : Decided s (tripped u) := ⟨h.tPub, h.shutter, h.adm, h.warn⟩

/-- The flags of a period after what its shutter step decided. -/
theorem Decided.of_flags {s r f p : State} {w : Bool} {n : Nat} (hrule : Ruled (shuttered (periodBegun s)) r) (hwarn : Ruled (setWarn r w n) f)
    (hset : r.thm.warn = false → r.thm.warnNs = 0 → 4 * (r.thm.tWarn : Int) ≤ r.thm.tPub → w = true ∧ bit f.thm.evt 0 = true)
    (hflags : Ruled f p) : Decided s p ∧ p.thm.tShut = nth 118 s.thm.tNext 3 ∧ p.thm.latch = s.thm.latch ∧ p.thm.shut = s.thm.shut ∧
      p.pins = s.pins := by
  have hall := hwarn.trans hflags
  have hfield : ∀ {α : Type} (g : Thm → α), (∀ x w n, g { x with warn := w, warnNs := n } = g x) → (∀ x, g (ruling x) = g x) →
      g p.thm = g (shuttered (periodBegun s)).thm := fun g h1 h2 =>
    (hall.field g h2).trans ((h1 _ _ _).trans (hrule.field g h2))
  have hadm : p.adm = (shuttered (periodBegun s)).adm := hall.adm.trans hrule.adm
  have hsh := hfield Thm.shutter (fun _ _ _ => rfl) (fun _ => rfl)
  refine ⟨⟨hfield Thm.tPub (fun _ _ _ => rfl) (fun _ => rfl), ?_, by rw [hadm, hsh]; rfl, fun h1 h2 h3 => ?_⟩,
    hfield Thm.tShut (fun _ _ _ => rfl) (fun _ => rfl), hfield Thm.latch (fun _ _ _ => rfl) (fun _ => rfl),
    hfield Thm.shut (fun _ _ _ => rfl) (fun _ => rfl), hall.pins.trans hrule.pins⟩
  · rw [hsh, hfield Thm.tSet (fun _ _ _ => rfl) (fun _ => rfl)]; rfl
  · have e3 : r.thm.tWarn = nth 95 s.thm.tNext 0 := hrule.field Thm.tWarn fun _ => rfl
    have e4 : r.thm.tPub = s.thm.tctl := hrule.field Thm.tPub fun _ => rfl
    obtain ⟨hw1, hb⟩ := hset ((hrule.field Thm.warn fun _ => rfl).trans h1) ((hrule.field Thm.warnNs fun _ => rfl).trans h2)
      (by rw [e3, e4]; exact h3)
    exact ⟨(hall.field Thm.warn fun _ => rfl).trans hw1, hflags.evt 0 hb⟩

/-- What is decided when a period's shutdown is judged. -/
theorem decided_periodFlagged (s : State) : Decided s (periodFlagged s) ∧ (periodFlagged s).thm.tShut = nth 118 s.thm.tNext 3 ∧
    (periodFlagged s).thm.latch = s.thm.latch ∧ (periodFlagged s).thm.shut = s.thm.shut ∧ (periodFlagged s).pins = s.pins := by
  obtain ⟨w, n, hwarn, hset⟩ := ruled_stepFlag_warn (periodRuled s)
  refine Decided.of_flags (ruled_periodRuled s) hwarn hset ?_
  rw [periodFlagged_eq]
  exact (ruled_stepFlag _ (by simp)).trans (ruled_stepFlag _ (by simp))

/-- Settles O37: what a period decides is there when its shutdown is judged, and `Ruled` carries it and the shutdown to the end. -/
theorem theShutterFollowsTheLaw : Obligations.TheShutterFollowsTheLaw := by
  unfold Obligations.TheShutterFollowsTheLaw
  intro s conv hclk hpor hready
  obtain ⟨hdec, htrip, hlatch, hshut, hpins⟩ := decided_periodFlagged s
  refine ⟨_, exec_thermalControlPeriod conv hclk hpor hready, ?_⟩
  rw [htrip, hdec.tPub, hlatch]
  generalize periodFlagged s = f at hdec htrip hlatch hshut hpins
  split
  next h =>
    simp only [Bool.and_eq_true, decide_eq_true_eq, Bool.not_eq_true'] at h
    have hr := (ruled_beginShutdown f).trans (ruled_sensed conv _)
    have hd := hdec.tripped.of_ruled hr
    exact ⟨hd.tPub, hd.shutter, hd.adm, hd.warn,
      fun _ _ => ⟨hr.field Thm.shut fun _ => rfl, hr.field Thm.latch fun _ => rfl, by rw [hr.pins]; rfl, by rw [hr.adm]; rfl⟩,
      fun hlt => absurd h.1 (by omega)⟩
  next h =>
    have hr := ruled_sensed conv f
    have hd := hdec.of_ruled hr
    exact ⟨hd.tPub, hd.shutter, hd.adm, hd.warn, fun hl ht => absurd (by simp [hl, ht]) h,
      fun _ => ⟨(hr.field Thm.shut fun _ => rfl).trans hshut, hr.pins.trans hpins⟩⟩

/-! ### The other thermal events -/

/-- What a step leaves alone, a list of them does. -/
theorem foldl_field {α β : Type} (g : State → β) (f : State → α → State) (h : ∀ s x, g (f s x) = g s) (l : List α) (s : State) :
    g (l.foldl f s) = g s := by
  induction l generalizing s with
  | nil => rfl
  | cons x l ih => exact (ih _).trans (h s x)

/-- A list of steps of which only one does anything. -/
theorem foldl_single {f : State → Nat → State} {k : Nat} (l : List Nat) (s : State) (hk : k ∈ l) (hl : l.Nodup)
    (h : ∀ u j, j ≠ k → f u j = u) : l.foldl f s = f s k := by
  have hidle : ∀ (l : List Nat) (u : State), k ∉ l → l.foldl f u = u := fun l u hnot => by
    induction l generalizing u with
    | nil => rfl
    | cons j l ih =>
      rw [List.foldl_cons, h u j (fun hj => hnot (hj ▸ List.mem_cons_self ..))]
      exact ih u fun hm => hnot (List.mem_cons_of_mem _ hm)
  induction l generalizing s with
  | nil => simp at hk
  | cons j l ih =>
    obtain ⟨hj, hl'⟩ := List.nodup_cons.mp hl
    rw [List.foldl_cons]
    rcases List.mem_cons.mp hk with rfl | hk'
    · exact hidle l _ hj
    · rw [h s j fun hjk => hj (hjk ▸ hk')]
      exact ih s hk' hl'

/-- Deriving T_CTL leaves the sensors and the counters (R366). -/
theorem sens_derive (s : State) : (derive' s).thm.sens = s.thm.sens ∧ (derive' s).thm.cnts = s.thm.cnts := by
  have h : ∀ (u : State) d, (if allBroken u d then setThmEvt u 5 (0x100 + d) else u).thm.sens = u.thm.sens ∧
      (if allBroken u d then setThmEvt u 5 (0x100 + d) else u).thm.cnts = u.thm.cnts := fun u d => by
    split
    · rw [thm_setThmEvt]; exact ⟨rfl, rfl⟩
    · exact ⟨rfl, rfl⟩
  unfold derive'
  dsimp only
  refine ⟨?_, ?_⟩
  · rw [foldl_field (fun u => u.thm.sens) _ (fun u d => (h u d).1)]
  · rw [foldl_field (fun u => u.thm.cnts) _ (fun u d => (h u d).2)]

/-- A sensor that is not broken yet is broken, counted and noted (R365). -/
theorem thm_breakSensor {s : State} {k : Nat} (reason : Nat) (h : (getSens s k).broken = false) :
    (breakSensor s k reason).thm.sens = Tab.upd {} s.thm.sens k (fun x => { x with broken := true, reason := reason }) ∧
      (breakSensor s k reason).thm.cnts = bump s.thm.cnts 3 1 ∧ (breakSensor s k reason).thm.evt = setBit s.thm.evt 4 := by
  simp only [breakSensor, h, Bool.false_eq_true, if_false]
  rw [only_logEv _ _ _ _ _ .thm (by simp)]
  exact ⟨rfl, rfl, rfl⟩

theorem getSens_of_sens {s u : State} (h : u.thm.sens = s.thm.sens) (k : Nat) : getSens u k = getSens s k := by
  unfold getSens; rw [h]

theorem getSens_modSens_self (s : State) (k : Nat) (f : Sens → Sens) : getSens (modSens s k f) k = f (getSens s k) :=
  Tab.get_upd_self ..

theorem getSens_modSens_ne (s : State) {k j : Nat} (f : Sens → Sens) (h : j ≠ k) : getSens (modSens s k f) j = getSens s j :=
  Tab.get_upd_ne _ _ _ _ _ h

theorem only_startFlush (s : State) (why : Nat) : Only [.plp, .adm, .bpm, .mep, .rst, .media] s (startFlush s why) := by
  unfold startFlush abandonReads
  dsimp only
  split <;> intro q hq <;> cases q <;> simp at hq <;> rfl

/-- Settles O38: a sensor broken, one excluded, WARN cleared by its own step, and the flush of a shutdown. -/
theorem thermalEvents : Obligations.ThermalEvents := by
  unfold Obligations.ThermalEvents
  intro s p k v hclk hpor
  refine ⟨fun hk hb => ?timeout, fun hw hk hv hb hj => ?exclude, fun hwarn ht hn => ?dwell, fun hwarn hn h0 => ?early, fun h1 h2 h3 => ?drain⟩
  case timeout =>
    have hx : exec (.sensorTimeout k) s = .next (derive' (breakSensor s k 2)) := if_neg (by simp [hclk, hpor, hk])
    obtain ⟨hs, hc⟩ := sens_derive (breakSensor s k 2)
    obtain ⟨hsens, hcnts, hevt⟩ := thm_breakSensor 2 hb
    have hself : getSens (derive' (breakSensor s k 2)) k = { getSens s k with broken := true, reason := 2 } := by
      rw [getSens_of_sens hs, getSens, hsens, Tab.get_upd_self, getSens]
    refine ⟨_, hx, by rw [hself], by rw [hself], ?_, ?_, fun j hjk => ?_⟩
    · exact (ruled_derive _).evt 4 (by rw [hevt]; exact bit_setBit_self _ _)
    · rw [hc, hcnts, get_bump_self]
    · rw [getSens_of_sens hs, getSens, hsens, Tab.get_upd_ne _ _ _ _ _ hjk, getSens]
  case exclude => 
    have hrsv : ∀ k < 22, 2 ^ k &&& 0xFFC00000 = 0 := by decide
    have hflag : ∀ j, flag v j = decide (j = k) := fun j => by
      rw [flag, hv, bit_eq_testBit, Nat.testBit_two_pow]
      exact decide_eq_decide.mpr eq_comm
    have hsens : ∀ j, getSens (woken s p 3) j = getSens s j := fun j =>
      getSens_of_sens (by rw [only_woken s p 3 .thm (by cases p <;> simp [portPart])]) j
    have hother : (dieSens (dieOf k)).any (fun j => j != k && !(getSens s j).broken && !(getSens s j).excl) = true := by
      obtain ⟨j, hj22, hjk, hdie, hjb, hje⟩ := hj
      exact List.any_eq_true.mpr ⟨j, List.mem_filter.mpr ⟨List.mem_range.mpr hj22, by simp [hdie]⟩, by simp [hjk, hjb, hje]⟩
    have hx : exec (.sensorExclude p v) s = .next (modSens (woken s p 3) k fun x => { x with excl := true }) := by
      change execSensorExclude p v s = _
      rw [execSensorExclude, regWrite_writable _ hw, if_neg (by rw [hv, hrsv k hk]; simp),
        foldl_single (k := k) _ _ (List.mem_range.mpr hk) List.nodup_range (fun u j hjk => by simp [hflag, hjk])]
      simp [hflag, hsens, hb, hother]
    refine ⟨_, hx, only_thm _ _, ?_, fun j hjk => ?_⟩
    · rw [getSens_modSens_self, hsens]
    · rw [getSens_modSens_ne _ _ hjk, hsens]
  case dwell =>
    have hwant : warnWant s = false := by
      simp only [warnWant, hwarn, if_true, decide_eq_false_iff_not]; omega
    have hx : exec (.flagDwellExpiry 0) s = .next (flagChanged (setWarn s false s.nowNs) 0 (flagBits s)) := by
      change execFlagDwellExpiry 0 s = _
      rw [execFlagDwellExpiry, if_neg (by simp [hclk, hpor]), stepFlag_warn, if_neg (by rw [hwant, hwarn]; simp [hn]), hwant]
    refine ⟨_, hx, ?_⟩
    rw [thm_flagChanged]
    exact ⟨rfl, rfl, rfl, rfl, rfl⟩
  case early =>
    change execFlagDwellExpiry 0 s = _
    rw [execFlagDwellExpiry, if_neg (by simp [hclk, hpor]), stepFlag_warn, if_pos (.inr (by omega))]
  case drain =>
    have hx : exec (.shutdownDrainEnd []) s = .next { startFlush s 1 with thm := { (startFlush s 1).thm with phase := 2 } } := if_pos ⟨h1, h2, h3⟩
    have hs := only_startFlush s 1
    exact ⟨_, hx, rfl, rfl, rfl, rfl, rfl, rfl, hs .cmds (by simp), hs .zones (by simp), hs .vers (by simp)⟩

end Sys2Proof.Machine
end

section
/-! PROOFS. Power loss (R249 to R264) and the journal (R265 to R267). -/

namespace Sys2Proof.Machine

/-! ### Tables -/

/-- What a table rewritten value by value lists. -/
theorem Tab.mem_mapv {α : Type} [DecidableEq α] (d : α) (f : Nat → α → α) {t : Tab α} {e : Nat × α} (h : e ∈ Tab.mapv d f t) :
    ∃ v, (e.1, v) ∈ t ∧ e.2 = f e.1 v := by
  induction t with
  | nil => simp [Tab.mapv] at h
  | cons x t ih =>
    obtain ⟨k, v⟩ := x
    simp only [Tab.mapv] at h
    split at h
    · obtain ⟨w, hw, he⟩ := ih h
      exact ⟨w, List.mem_cons_of_mem _ hw, he⟩
    · rcases List.mem_cons.mp h with rfl | h
      · exact ⟨v, List.mem_cons_self .., rfl⟩
      · obtain ⟨w, hw, he⟩ := ih h
        exact ⟨w, List.mem_cons_of_mem _ hw, he⟩

/-- A table lists only keys above one that it does not list first. -/
theorem Tab.get_cons_above {α : Type} (d : α) {t : Tab α} {k : Nat} {v : α} (h : Tab.above k t = true) {j : Nat} (hj : j ≤ k) :
    Tab.get d ((k, v) :: t) j = if j = k then v else d := by
  simp only [Tab.get]
  by_cases hjk : j = k
  · rw [if_pos hjk.symm, if_pos hjk]
  · rw [if_neg (Ne.symm hjk), if_neg hjk]
    exact Tab.get_above d t j (Tab.above_mono t j k hj h)

/-- Two tables in canonical form that read alike are the same. -/
theorem Tab.ext_of_wf {α : Type} [DecidableEq α] (d : α) {t u : Tab α} (ht : Tab.wf d t = true) (hu : Tab.wf d u = true)
    (h : ∀ k, Tab.get d t k = Tab.get d u k) : t = u := by
  induction t generalizing u with
  | nil =>
    cases u with
    | nil => rfl
    | cons y u =>
      obtain ⟨j, w⟩ := y
      simp only [Tab.wf, Bool.and_eq_true, decide_eq_true_eq] at hu
      have := h j
      rw [Tab.get_nil, Tab.get_cons_above d hu.1.2 (Nat.le_refl j), if_pos rfl] at this
      exact absurd this.symm hu.1.1
  | cons x t ih =>
    obtain ⟨k, v⟩ := x
    simp only [Tab.wf, Bool.and_eq_true, decide_eq_true_eq] at ht
    obtain ⟨⟨hv, hk⟩, ht⟩ := ht
    cases u with
    | nil =>
      have := h k
      rw [Tab.get_nil, Tab.get_cons_above d hk (Nat.le_refl k), if_pos rfl] at this
      exact absurd this hv
    | cons y u =>
      obtain ⟨j, w⟩ := y
      simp only [Tab.wf, Bool.and_eq_true, decide_eq_true_eq] at hu
      obtain ⟨⟨hw, hj⟩, hu⟩ := hu
      have hkj : k = j := by
        rcases Nat.lt_trichotomy k j with hlt | heq | hlt
        · have := h k
          rw [Tab.get_cons_above d hk (Nat.le_refl k), if_pos rfl, Tab.get_cons_above d hj (Nat.le_of_lt hlt), if_neg (by omega)] at this
          exact absurd this hv
        · exact heq
        · have := h j
          rw [Tab.get_cons_above d hj (Nat.le_refl j), if_pos rfl, Tab.get_cons_above d hk (Nat.le_of_lt hlt), if_neg (by omega)] at this
          exact absurd this.symm hw
      subst hkj
      have hvw : v = w := by
        have := h k
        simpa [Tab.get] using this
      subst hvw
      have htail : t = u := ih ht hu fun i => by
        by_cases hi : i ≤ k
        · rw [Tab.get_above d t i (Tab.above_mono t i k hi hk), Tab.get_above d u i (Tab.above_mono u i k hi hj)]
        · have := h i
          simpa [Tab.get, show k ≠ i by omega] using this
      rw [htail]

/-! ### The emergency flush -/

/-- The versions of a flush are those before it, but for whether they lie in an emergency extent (R258). -/
def EmergOnly (s t : State) : Prop := ∀ v, getVer t v = { getVer s v with emerg := (getVer t v).emerg }

theorem EmergOnly.refl (s : State) : EmergOnly s s := fun _ => rfl

theorem EmergOnly.trans {s t u : State} (h : EmergOnly s t) (h' : EmergOnly t u) : EmergOnly s u := fun v => by
  rw [h' v, h v]

theorem EmergOnly.foldl {α : Type} (f : State → α → State) (h : ∀ s x, EmergOnly s (f s x)) (l : List α) (s : State) :
    EmergOnly s (l.foldl f s) := by
  induction l generalizing s with
  | nil => exact EmergOnly.refl s
  | cons x l ih => exact (h s x).trans (ih _)

theorem emergOnly_modVer (s : State) (v : Nat) : EmergOnly s (modVer s v fun x => { x with emerg := true }) := fun w => by
  unfold getVer modVer
  by_cases h : w = v
  · subst h; rw [Tab.get_upd_self]
  · rw [Tab.get_upd_ne _ _ _ _ _ h]

/-- Programming the versions listed marks versions, and keeps account of the extents (R258). -/
theorem programEmerg_spec (s : State) (order : List Nat) : EmergOnly s (programEmerg s order) ∧
    Only [.vers, .plp, .hlt] s (programEmerg s order) ∧
    (programEmerg s order).plp = { s.plp with emergExts := (programEmerg s order).plp.emergExts, emergAvail := (programEmerg s order).plp.emergAvail } ∧
    (programEmerg s order).hlt = { s.hlt with telLife := (programEmerg s order).hlt.telLife } := by
  have hf : ∀ (l : List EmExt) (u : State), EmergOnly u (l.foldl (fun s e => e.vers.foldl (fun s v => modVer s v fun x => { x with emerg := true }) s) u) ∧
      Only [.vers] u (l.foldl (fun s e => e.vers.foldl (fun s v => modVer s v fun x => { x with emerg := true }) s) u) := fun l u =>
    ⟨EmergOnly.foldl _ (fun u e => EmergOnly.foldl _ (fun u v => emergOnly_modVer u v) _ _) _ _,
      only_foldl _ (fun u (e : EmExt) => only_foldl _ (fun u v => only_vers u _) _ _) _ _⟩
  unfold programEmerg
  dsimp only
  obtain ⟨hv, ho⟩ := hf (order.foldl (emPut s) []) s
  generalize List.foldl _ s _ = t at hv ho
  refine ⟨hv, ?_, ?_, ?_⟩
  · exact (ho.mono (by simp)).trans fun q hq => by cases q <;> simp at hq <;> rfl
  · rw [ho .plp (by simp)]
  · rw [ho .hlt (by simp)]

theorem takeFlush_spec (s : State) : EmergOnly s (takeFlush s) ∧ Only [.vers, .plp, .hlt] s (takeFlush s) ∧
    (takeFlush s).plp = { s.plp with emergExts := (takeFlush s).plp.emergExts, emergAvail := (takeFlush s).plp.emergAvail } ∧
    (takeFlush s).hlt = { s.hlt with telLife := (takeFlush s).hlt.telLife } := programEmerg_spec s (flushOrder s)

theorem only_persistOnce (s : State) (l : List Bool) : Only [.evr] s (persistOnce l s) := only_evr _ _

theorem only_persistAll (s : State) : Only [.evr] s (persistAll s) :=
  Only.ite (Only.refl _ _) ((only_persistOnce _ _).trans (only_persistOnce _ _))

/-- What a flush has saved when it ends, before its record (R259). -/
def flushSaved (s t : State) : State :=
  { t with
    zonesSaved := t.zones
    hltSaved := t.hlt
    savedMs := opMs t
    tablesSaved := t.media.tables
    flushEnd := true
    plp := { t.plp with
      phase := 2, last := if t.plp.why = 1 then 3 else 1, lastUs := (s.nowNs - s.plp.startNs) / 1000, lastMib := t.plp.dAtFlush
      flushes := satAdd 0xFFFF t.plp.flushes 1, jRecs := 0, jSeq := t.plp.jSeq + 1 }
    media := { t.media with chans := Tab.mapv {} (fun _ c => { c with wp := true }) t.media.chans } }

theorem endFlush_eq (s : State) : endFlush s = logEv (flushSaved s (persistAll (takeFlush s))) 1 (src 0xD 0) 0xD001
    (leBytes 4 (flushSaved s (persistAll (takeFlush s))).plp.dAtFlush ++ leBytes 4 ((s.nowNs - s.plp.startNs) / 1000) ++
      leBytes 1 (flushSaved s (persistAll (takeFlush s))).plp.why) := rfl

/-- What the end of a flush leaves, what it saves and what it writes down (R259, R262). -/
structure FlushEnds (s u : State) : Prop where
  only : Only [.pa, .pb, .out, .evr, .vers, .plp, .hlt, .hltSaved, .savedMs, .tablesSaved, .zonesSaved, .flushEnd, .media] s u
  emerg : EmergOnly s u
  plp : u.plp.phase = 2 ∧ u.plp.last = (if s.plp.why = 1 then 3 else 1) ∧ u.plp.lastMib = s.plp.dAtFlush ∧
    u.plp.flushes = satAdd 0xFFFF s.plp.flushes 1
  flushEnd : u.flushEnd = true
  zones : u.zonesSaved = s.zones
  hlt : u.hltSaved = { s.hlt with telLife := u.hltSaved.telLife }
  tables : u.tablesSaved = s.media.tables
  wp : ∀ e ∈ u.media.chans, e.2.wp = true

theorem flushEnds_endFlush (s : State) : FlushEnds s (endFlush s) := by
  obtain ⟨hem, honly, hplp, hhlt⟩ := takeFlush_spec s
  have hall : Only [.vers, .plp, .hlt, .evr] s (persistAll (takeFlush s)) := (honly.mono (by simp)).andThen (only_persistAll _) (by simp)
  have hv : EmergOnly s (persistAll (takeFlush s)) := fun v => by
    have h : getVer (persistAll (takeFlush s)) v = getVer (takeFlush s) v := by
      unfold getVer; rw [only_persistAll _ .vers (by simp)]
    rw [h]; exact hem v
  have h1 : (persistAll (takeFlush s)).plp = (takeFlush s).plp := only_persistAll _ .plp (by simp)
  have h2 : (persistAll (takeFlush s)).hlt = (takeFlush s).hlt := only_persistAll _ .hlt (by simp)
  rw [hplp] at h1
  rw [hhlt] at h2
  rw [endFlush_eq]
  generalize persistAll (takeFlush s) = t at *
  have hlog := only_logEv (flushSaved s t) 1 (src 0xD 0) 0xD001
    (leBytes 4 (flushSaved s t).plp.dAtFlush ++ leBytes 4 ((s.nowNs - s.plp.startNs) / 1000) ++ leBytes 1 (flushSaved s t).plp.why)
  generalize logEv (flushSaved s t) 1 _ _ _ = u at hlog
  have hplp : u.plp = (flushSaved s t).plp := hlog .plp (by simp)
  have hsaved : u.hltSaved = t.hlt := hlog .hltSaved (by simp)
  have hchans : u.media.chans = (flushSaved s t).media.chans := by rw [hlog .media (by simp)]
  constructor
  case only =>
    refine (hall.mono (by simp)).trans (Only.trans (t := flushSaved s t) ?_ (hlog.mono (by simp)))
    intro q hq; cases q <;> simp at hq <;> rfl
  case emerg =>
    intro v
    have h : getVer u v = getVer t v := by
      unfold getVer; rw [hlog .vers (by simp)]; rfl
    rw [h]; exact hv v
  case plp => rw [hplp, flushSaved, h1]; exact ⟨rfl, rfl, rfl, rfl⟩
  case flushEnd => exact hlog .flushEnd (by simp)
  case zones => exact (hlog .zonesSaved (by simp)).trans (hall .zones (by simp))
  case hlt => rw [hsaved, h2]
  case tables =>
    have h : u.tablesSaved = t.media.tables := hlog .tablesSaved (by simp)
    rw [h, hall .media (by simp)]
  case wp =>
    intro e he
    rw [hchans] at he
    obtain ⟨c, -, hc⟩ := Tab.mem_mapv _ _ he
    rw [hc]

/-! ### Power loss -/

/-- READY, in the 1 ms between the start of a thermal shutdown and its flush (R374). -/
def shutdownDraining : State :=
  { ({} : State) with ckm := { stopped := false }, pins := { porHeld := false }, boot := { ready := true }, thm := { phase := 1 } }

/-- Refutes O39: while a thermal shutdown is about to begin its flush (step 3 of Table 16.5), PWRFAIL_N is only noted; no flush
begins at once. -/
theorem not_powerLossFlushes : ¬ Obligations.PowerLossFlushes := by
  unfold Obligations.PowerLossFlushes
  intro h
  obtain ⟨hassert, -⟩ := h shutdownDraining rfl
  obtain ⟨u, hx, -, hphase, -⟩ := hassert rfl rfl rfl rfl
  have hu : exec .pwrfailAssert shutdownDraining =
      .next { shutdownDraining with plp := { shutdownDraining.plp with pwrfail := true } } := rfl
  rw [hu] at hx
  cases hx
  exact absurd hphase (by decide)

/-! ### Roles that wait for a block -/

theorem only_noticeTenant (s : State) (t code v1 v2 v3 : Nat) : Only [.mbxs, .pa, .pb, .out] s (noticeTenant s t code v1 v2 v3) :=
  only_foldl _ (fun u _ => Only.ite (only_noticeTo u code v1 v2 v3 _) (Only.refl _ _)) _ _

/-- What the health of the media and its notices may change. -/
abbrev healthParts : List Part := [.hlt, .pa, .pb, .out, .evr, .mbxs]

theorem only_setHltEvt (s : State) (b inst sev : Nat) : Only healthParts s (setHltEvt s b inst sev) := by
  have h := (only_hlt s { s.hlt with evt := setBit s.hlt.evt b }).mono (m := healthParts) (by simp)
  exact Only.ite (Only.refl _ _) (Only.ite ((h.andThen (only_genericEv _ _ _ _ _ _ _) (by simp)).andThen (only_firePf0 _ _) (by simp)) h)

theorem only_checkReadOnly (s : State) : Only healthParts s (checkReadOnly s) := by
  unfold checkReadOnly
  refine Only.ite ?_ (Only.refl _ _)
  dsimp only
  have h := ((only_hlt s { s.hlt with readOnly := true, evt := setBit s.hlt.evt 0 }).mono (m := healthParts) (by simp)).andThen
    (only_genericEv _ 1 0xE 0xFFF 0 0x300004 (setBit s.hlt.evt 0)) (by simp)
  exact ((Only.ite (h.andThen (only_firePf0 _ _) (by simp)) h).andThen (only_noticePf0 _ _ _ _ _) (by simp)).andThen
    (only_foldl _ (fun u e => only_noticeTenant u _ _ _ _ _) _ _) (by simp)

/-- A group that loses spares (R203). -/
theorem only_loseSpares (s : State) (g n : Nat) : Only (.media :: healthParts) s (loseSpares s g n) ∧
    (loseSpares s g n).media.waitRoles = s.media.waitRoles := by
  generalize hw : ({ s with media := { s.media with spareRem := Tab.upd 0 s.media.spareRem g (· - n) } } : State) = w
  have hset : ∀ (p : Prop) [Decidable p] (u : State) b i v, Only healthParts u (if p then setHltEvt u b i v else u) := fun p _ u b i v =>
    Only.ite (only_setHltEvt _ _ _ _) (Only.refl _ _)
  have h : Only healthParts w (loseSpares s g n) := by
    subst hw
    exact ((hset _ _ _ _ _).trans (hset _ _ _ _ _)).trans (only_checkReadOnly _)
  refine ⟨Only.trans (t := w) (by subst hw; exact (only_media s _).mono (by simp)) (h.mono (by simp)), ?_⟩
  rw [h .media (by simp)]; subst hw; rfl

/-- A role that is filled, or that waits for a block of its own channel: its request then waits for no record (R202). -/
theorem fillRole_spec (s : State) (c : Nat) (r : Role) : Only (.media :: healthParts) s (fillRole s c r) ∧
    ∀ e ∈ (fillRole s c r).media.waitRoles, e ∈ s.media.waitRoles ∨ e.2.2 = 0 := by
  have hgive : ∀ u : State, Only [.media] s u → u.media.waitRoles = s.media.waitRoles →
      Only (.media :: healthParts) s (loseSpares u (chGrp c) 1) ∧
        ∀ e ∈ (loseSpares u (chGrp c) 1).media.waitRoles, e ∈ s.media.waitRoles ∨ e.2.2 = 0 := fun u h hw => by
    obtain ⟨ho, hr⟩ := only_loseSpares u (chGrp c) 1
    refine ⟨(h.mono (by simp)).trans ho, fun e he => ?_⟩
    rw [hr, hw] at he
    exact .inl he
  have hsame : Only (.media :: healthParts) s s ∧ ∀ e ∈ s.media.waitRoles, e ∈ s.media.waitRoles ∨ e.2.2 = 0 :=
    ⟨Only.refl _ _, fun e he => .inl he⟩
  unfold fillRole
  dsimp only
  split
  · exact hsame
  · split
    · exact hgive _ (only_media _ _) rfl
    · split
      · exact hsame
      · split
        · exact hgive _ (only_media _ _) rfl
        · split
          · exact hgive _ ((only_media _ _).trans (only_media _ _)) rfl
          · refine ⟨(only_media _ _).mono (by simp), fun e he => ?_⟩
            rcases List.mem_append.mp he with h | h
            · exact .inl h
            · exact .inr (by rw [List.mem_singleton.mp h])

/-- The requests that stay are those that are not due; a filled role's own waits for no record (R202, R265). -/
theorem fillWaiting_spec (s : State) : Only (.media :: healthParts) s (fillWaiting s fun _ => true) ∧
    ∀ e ∈ (fillWaiting s fun _ => true).media.waitRoles, e ∈ s.media.waitRoles ∧ s.plp.jSeq < e.2.2 ∨ e.2.2 = 0 := by
  have hfold : ∀ (l : List (Nat × Role × Nat)) (u : State), Only (.media :: healthParts) u (l.foldl (fun s e => fillRole s e.1 e.2.1) u) ∧
      ∀ e ∈ (l.foldl (fun s e => fillRole s e.1 e.2.1) u).media.waitRoles, e ∈ u.media.waitRoles ∨ e.2.2 = 0 := fun l => by
    induction l with
    | nil => exact fun u => ⟨Only.refl _ _, fun e he => .inl he⟩
    | cons x l ih =>
      intro u
      obtain ⟨h1, h2⟩ := fillRole_spec u x.1 x.2.1
      obtain ⟨h3, h4⟩ := ih (fillRole u x.1 x.2.1)
      exact ⟨h1.trans h3, fun e he => (h4 e he).elim (h2 e) .inr⟩
  obtain ⟨h1, h2⟩ := hfold (s.media.waitRoles.filter fun e => decide (e.2.2 ≤ s.plp.jSeq))
    { s with media := { s.media with waitRoles := s.media.waitRoles.filter fun e => !decide (e.2.2 ≤ s.plp.jSeq) } }
  have heq : (fillWaiting s fun _ => true) = (s.media.waitRoles.filter fun e => decide (e.2.2 ≤ s.plp.jSeq)).foldl (fun s e => fillRole s e.1 e.2.1)
      { s with media := { s.media with waitRoles := s.media.waitRoles.filter fun e => !decide (e.2.2 ≤ s.plp.jSeq) } } := by
    simp only [fillWaiting, Bool.true_and]
  rw [heq]
  refine ⟨((only_media s _).mono (by simp)).trans h1, fun e he => (h2 e he).imp_left fun hm => ?_⟩
  obtain ⟨hm, hlt⟩ := List.mem_filter.mp hm
  exact ⟨hm, by simpa using hlt⟩

/-- Where no request is due, nothing is filled. -/
theorem fillWaiting_none {s : State} (h : ∀ e ∈ s.media.waitRoles, s.plp.jSeq < e.2.2) : (fillWaiting s fun _ => true) = s := by
  have h1 : (s.media.waitRoles.filter fun e => decide (e.2.2 ≤ s.plp.jSeq)) = [] :=
    List.filter_eq_nil_iff.mpr fun e he => by have := h e he; simp; omega
  have h2 : (s.media.waitRoles.filter fun e => !decide (e.2.2 ≤ s.plp.jSeq)) = s.media.waitRoles :=
    List.filter_eq_self.mpr fun e he => by have := h e he; simp; omega
  simp only [fillWaiting, Bool.true_and, h1, h2, List.foldl_nil]

/-! ### The journal -/

/-- Writing lines back makes the copies of those lines the lines themselves. -/
theorem get_writeBack {α : Type} [DecidableEq α] (d : α) (z : Tab α) (l : List Nat) (t : Tab α) (k : Nat) :
    Tab.get d (l.foldl (fun t k => Tab.set d t k (Tab.get d z k)) t) k = if k ∈ l then Tab.get d z k else Tab.get d t k := by
  induction l generalizing t with
  | nil => simp
  | cons j l ih =>
    rw [List.foldl_cons, ih]
    by_cases hkl : k ∈ l
    · simp [hkl]
    · by_cases hkj : k = j
      · subst hkj; simp [hkl]
      · simp [hkl, hkj, Tab.get_set_ne _ _ _ _ _ hkj]

theorem wf_writeBack {α : Type} [DecidableEq α] (d : α) (z : Tab α) (l : List Nat) {t : Tab α} (h : Tab.wf d t = true) :
    Tab.wf d (l.foldl (fun t k => Tab.set d t k (Tab.get d z k)) t) = true := by
  induction l generalizing t with
  | nil => exact h
  | cons j l ih => exact ih (Tab.wf_set d t j _ h)

/-- A key that a table does not list reads as its default. -/
theorem Tab.get_of_not_mem {α : Type} (d : α) {t : Tab α} {k : Nat} (h : k ∉ Tab.keys t) : Tab.get d t k = d := by
  induction t with
  | nil => rfl
  | cons e t ih =>
    obtain ⟨j, v⟩ := e
    simp only [Tab.keys, List.map_cons, List.mem_cons, not_or] at h
    simp only [Tab.get]
    rw [if_neg (Ne.symm h.1)]
    exact ih h.2

/-- A line that is not dirty is in the system area as it is. -/
theorem get_of_not_dirty {s : State} {k : Nat} (h : k ∉ dirtyLines s) : Tab.get {} s.zonesSaved k = Tab.get {} s.zones k := by
  refine Decidable.byContradiction fun hne => ?_
  refine h (List.mem_filter.mpr ⟨List.mem_eraseDups.mpr (List.mem_append.mpr ?_), decide_eq_true (Ne.symm hne)⟩)
  refine Decidable.byContradiction fun hk => ?_
  rw [not_or] at hk
  exact hne (by rw [Tab.get_of_not_mem _ hk.1, Tab.get_of_not_mem _ hk.2])

/-- Settles O40: one completion and `fillWaiting` follow a page; a CHECKPOINT is one staged record; the lines written back are the dirty ones. -/
theorem journalRecordsBecomeDurable : Obligations.JournalRecordsBecomeDurable := by
  unfold Obligations.JournalRecordsBecomeDurable
  intro s c hready hclk hpaused
  refine ⟨fun hrecs hcmds hj hph => ?page, if_pos (by simp), fun hplp => ?checkpoint, fun n hplp hn hz hzs => ?writeback⟩
  case page =>
    generalize hw : ({ s with plp := { s.plp with jRecs := 0, jSeq := s.plp.jSeq + 1 } } : State) = w
    have hc : getCmd w c.tenant c.seq = some c := by subst hw; simp [getCmd, hcmds]
    have hdone : journalDone w = genCompl w c.tenant c.seq 0 c.result := by
      have : w.cmds = [c] := by subst hw; exact hcmds
      simp [journalDone, this, hj, hph, stSuccess]
    have hx : exec (.journalPageProgram true) s = .next (fillWaiting (genCompl w c.tenant c.seq 0 c.result) fun _ => true) := by
      change execJournalPageProgram true s = _
      rw [execJournalPageProgram, if_neg (by simp [hready, hclk, hpaused]; omega), hw, hdone]
    have hsw : Only [.plp] s w := by subst hw; exact only_plp _ _
    have hg := only_genCompl 0 c.result hc
    have hgplp : (genCompl w c.tenant c.seq 0 c.result).plp = { s.plp with jRecs := 0, jSeq := s.plp.jSeq + 1 } := by
      rw [hg .plp (by unfold endParts; split <;> simp)]; subst hw; rfl
    have hgmedia : (genCompl w c.tenant c.seq 0 c.result).media = s.media := by
      rw [hg .media (by unfold endParts; split <;> simp)]; subst hw; rfl
    have hcompl := completes_genCompl (st := 0) (r := c.result) hc (by rw [hph]; simp)
    obtain ⟨hf, hroles⟩ := fillWaiting_spec (genCompl w c.tenant c.seq 0 c.result)
    rw [hgplp, hgmedia] at hroles
    refine ⟨_, hx, (hf .plp (by simp)).trans hgplp, hcompl.of_getCmd (getCmd_of_only hf (by simp) _ _), fun hnone => ?_, hroles⟩
    rw [fillWaiting_none (by rw [hgplp, hgmedia]; exact hnone)]
    exact (hsw.mono (by simp)).andThen hg (by simp +contextual)
  case checkpoint =>
    exact ⟨_, if_neg (by simp [hready, hclk, hpaused, hplp]), only_plp _ _, rfl⟩
  case writeback =>
    refine ⟨_, if_neg (by simp [hready, hclk, hpaused, hplp]), fun q hq => by cases q <;> simp at hq <;> rfl, ?_⟩
    refine Tab.ext_of_wf {} (wf_writeBack _ _ _ hzs) hz fun k => ?_
    rw [get_writeBack, List.take_of_length_le hn]
    split
    · rfl
    · exact get_of_not_dirty ‹_›

end Sys2Proof.Machine
end

section
/-! PROOFS. Resets: the device warm reset and the power-on reset (R338, R339, R375, R398, R403). -/

namespace Sys2Proof.Machine

/-! ### Reset and power block -/

/-- A wake leaves the steps of a warm reset (R337). -/
theorem rst_woken (s : State) (p : Port) (cause : Nat) :
    (woken s p cause).rst.warmPhase = s.rst.warmPhase ∧ (woken s p cause).rst.warmCount = s.rst.warmCount := by
  have h : ∀ u : State, (wake u cause).rst.warmPhase = u.rst.warmPhase ∧ (wake u cause).rst.warmCount = u.rst.warmCount := fun u => by
    unfold wake
    dsimp only
    split
    · exact ⟨rfl, rfl⟩
    · split <;> exact ⟨rfl, rfl⟩
  have h' := h (modPort s p fun q => { q with inL1 := false })
  rw [modPort_rst] at h'
  exact h'

/-- Whether the latch can be released depends on the sensors only (R375). -/
theorem latchFree_of_thm {s t : State} (h : t.thm = s.thm) : latchFree t = latchFree s := by
  have hg : getSens t = getSens s := funext fun k => getSens_of_sens (by rw [h]) k
  unfold latchFree allBroken
  rw [hg]

section
variable {s : State} {p : Port} {v : Word}

/-- A write of RST_CTL with its key, where no warm reset is under way, by cases (R339, R375). -/
theorem exec_warm_key (h : Reaches s p 0) (hv : v.toNat = 0xA5000001) (hw : s.rst.warmPhase = 0) : exec (.warm p v) s = .next
    (if s.thm.latch then
      if s.thm.phase = 3 ∧ latchFree s then warmReset (woken s p 3) 2 else setThmEvt (woken s p 3) 6 0xFFF
    else if flushing s then woken s p 3 else beginWarm (woken s p 3) 2) := by
  have hthm : (woken s p 3).thm = s.thm := only_woken s p 3 .thm (by cases p <;> simp [portPart])
  have hkey : ¬(fld v 24 8 ≠ 0xA5 ∨ (!flag v 0) = true ∨ (woken s p 3).rst.warmPhase ≠ 0) := by
    simp [fld, flag, hv, (rst_woken s p 3).1, hw, bits, bit]
  change execWarm p v s = _
  rw [execWarm, hostAccess_reaches _ _ h]
  rw [if_neg (by rw [hv]; decide), if_neg hkey, hthm, woken_flushing, latchFree_of_thm hthm]
  (repeat' split) <;> rfl

/-- A write of RST_CTL without its key does nothing (R339). -/
theorem exec_warm_noKey (h : Reaches s p 0) (hv : v.toNat = 1) : exec (.warm p v) s = .next (woken s p 3) := by
  change execWarm p v s = _
  rw [execWarm, hostAccess_reaches _ _ h]
  rw [if_neg (by rw [hv]; decide), if_pos (.inl (by simp [fld, hv, bits]))]

end

/-! ### What a power-on reset keeps -/

theorem only_devPut (s : State) (v id : Nat) :
    Only [.plp, .adm, .media, .bpm, .hlt, .hltSaved, .cfgSvid, .cfgSsid, .ckm, .thm, .mctp] s (devPut s v id) := by
  intro q hq
  unfold devPut
  cases q <;> simp at hq <;> split <;> rfl

theorem only_tenPut (s : State) (t v id : Nat) : Only [.tenants, .bpm] s (tenPut s t v id) := by
  have hten : ∀ f, Only [.tenants, .bpm] s (modTen s t f) := fun f => (only_modTen s t f).mono (by simp)
  unfold tenPut
  split
  case h_9 => exact (only_bpm _ _).mono (by simp)
  case h_10 => exact (only_bpm _ _).mono (by simp)
  case h_11 =>
    split
    · exact (only_modTCls _ _ _ _).mono (by simp)
    · exact Only.refl _ _
  all_goals exact hten _

/-- What a configuration that comes back may change (R322). -/
abbrev cfgParts : List Part :=
  [.plp, .adm, .media, .bpm, .hlt, .hltSaved, .cfgSvid, .cfgSsid, .ckm, .thm, .mctp, .tenants, .cip, .cfgOpen]

theorem only_putAll {l : List Part} (put : State → Nat → Nat → State) (h : ∀ u v id, Only l u (put u v id)) (ids vals : List Nat) (s : State) :
    Only l s (putAll put ids vals s) := only_foldl _ (fun u _ => h u _ _) _ _

theorem only_restoreCfg (s : State) : Only cfgParts s (restoreCfg s) := by
  unfold restoreCfg
  split
  · exact Only.refl _ _
  next c _ =>
    have h0 : Only cfgParts s { s with cfgOpen := none } := fun q hq => by cases q <;> simp at hq <;> rfl
    dsimp only
    split
    · exact h0
    · have h1 := h0.andThen (only_putAll devPut only_devPut devIds c.dev _) (by simp)
      have hten : ∀ (u : State) (e : Nat × List Nat), Only [.tenants, .bpm] u
          (if (getTen u e.1).isSome then putAll (fun s v id => tenPut s e.1 v id) tenIds e.2 u else u) := fun u _ =>
        Only.ite (only_putAll _ (fun w v id => only_tenPut w _ v id) _ _ _) (Only.refl _ _)
      have h2 := h1.andThen (only_foldl _ hten c.tens _) (by simp)
      exact h2.trans fun q hq => by cases q <;> simp at hq <;> rfl

/-- No version's data is left in HBM after a reset (R268). -/
theorem getVer_resetKept_hbm (s : State) (v : Nat) : (getVer (resetKept s) v).hbm = false := by
  have h : ∀ t : Tab Ver, (Tab.get {} (Tab.mapv {} (fun _ x => resetVer x) t) v).hbm = false := fun t => by
    induction t with
    | nil => rfl
    | cons e t ih =>
      obtain ⟨k, x⟩ := e
      simp only [Tab.mapv]
      split
      · exact ih
      · simp only [Tab.get]
        split
        · rfl
        · exact ih
  exact h s.vers

/-- What a power-on reset keeps of the pins, the fuses, the system area and the boot flash (R338, R322). -/
theorem powerOff_keeps (s : State) : (powerOff s).pins.testEn = s.pins.testEn ∧ (powerOff s).fuse = s.fuse ∧
    (powerOff s).zonesSaved = s.zonesSaved ∧ (powerOff s).formatted = s.formatted ∧ (powerOff s).boot.dev0.mem = s.boot.dev0.mem ∧
    (powerOff s).boot.dev1.mem = s.boot.dev1.mem := by
  have honly := only_restoreCfg s
  unfold powerOff
  generalize restoreCfg s = t at honly
  have hboot : t.boot = s.boot := honly .boot (by simp)
  have hpins : t.pins = s.pins := honly .pins (by simp)
  refine ⟨?_, honly .fuse (by simp), honly .zonesSaved (by simp), honly .formatted (by simp), ?_, ?_⟩
  · rw [← hpins]; rfl
  · rw [← hboot]; rfl
  · rw [← hboot]; rfl

/-- Settles O54: RST_CTL by the cases of `exec_warm_key`; a flush, a rail and TEST_EN end in `warmReset` or `powerOff`, which keep what they
keep by definition. -/
theorem resetsRestart : Obligations.ResetsRestart := by
  unfold Obligations.ResetsRestart
  refine ⟨fun s p v => ⟨fun h hv hw hl hf hr => ?begin, exec_warm_noKey, fun h hv hw hc => ?atOnce, fun h hv hw hl hd => ?denied,
    fun hw hp hq => ?quiesce, fun hp hw => ?flushed⟩, fun s rail hpor => ⟨fun hr => ?rail, ?testEn⟩⟩
  case begin =>
    have hx := exec_warm_key h hv hw
    have hwk := only_woken s p 3
    have hplp : (woken s p 3).plp = s.plp := hwk .plp (by cases p <;> simp [portPart])
    have hboot : (woken s p 3).boot = s.boot := hwk .boot (by cases p <;> simp [portPart])
    have hadm : (woken s p 3).adm = s.adm := hwk .adm (by cases p <;> simp [portPart])
    have hph : s.plp.phase ≠ 2 := by simp [flushing] at hf; exact hf.2
    have hb : beginWarm (woken s p 3) 2 = { woken s p 3 with
        rst := { (woken s p 3).rst with warmPhase := 2, nextCause := 2, warmNs := (woken s p 3).nowNs }
        adm := { (woken s p 3).adm with shutdown := true } } := by
      rw [beginWarm, if_neg (by simp [hplp, hboot, hr, hph])]
    rw [if_neg (by simp [hl]), if_neg (by simp [hf]), hb] at hx
    refine ⟨_, hx, ?_, rfl, rfl, by rw [hadm]⟩
    exact (hwk.mono (by simp)).trans fun q hq => by cases q <;> simp at hq <;> rfl
  case atOnce =>
    have hx := exec_warm_key h hv hw
    have hwk := only_woken s p 3
    have hres : ∃ u, exec (.warm p v) s = .next u ∧ u = warmReset (woken s p 3) 2 := by
      rcases hc with ⟨hl, hf, hr⟩ | ⟨hl, hph, hfree⟩
      · rw [if_neg (by simp [hl]), if_neg (by simp [hf]), beginWarm, if_pos] at hx
        · exact ⟨_, hx, rfl⟩
        · have hboot : (woken s p 3).boot = s.boot := hwk .boot (by cases p <;> simp [portPart])
          simp [hboot, hr]
      · rw [if_pos hl, if_pos ⟨hph, hfree⟩] at hx
        exact ⟨_, hx, rfl⟩
    obtain ⟨u, hu, rfl⟩ := hres
    have hfuse : (woken s p 3).fuse = s.fuse := hwk .fuse (by cases p <;> simp [portPart])
    exact ⟨_, hu, rfl, congrArg (fun n => satAdd 0xFFFF n 1) (rst_woken s p 3).2, rfl, rfl, rfl, rfl, hfuse, rfl, rfl⟩
  case denied =>
    have hx := exec_warm_key h hv hw
    have hwk := only_woken s p 3
    rw [if_pos hl, if_neg (by rintro ⟨h1, h2⟩; rcases hd with h | h <;> simp_all)] at hx
    have hset := only_setThmEvt (woken s p 3) 6 0xFFF
    have hrst : (setThmEvt (woken s p 3) 6 0xFFF).rst = (woken s p 3).rst := hset .rst (by simp)
    refine ⟨_, hx, by rw [thm_setThmEvt]; exact bit_setBit_self _ _, by rw [hrst, (rst_woken s p 3).1, hw], ?_⟩
    exact (hset .boot (by simp)).trans (hwk .boot (by cases p <;> simp [portPart]))
  case quiesce =>
    generalize ht : ({ s with rst := { s.rst with warmPhase := 3 } } : State) = t
    have hq' : (!(s.cmds.any fun c => c.granted)) = true ∨ s.rst.warmNs + min 10000 s.rst.quiesceMs * 1000000 ≤ s.nowNs :=
      hq.imp_left fun h => by simpa using h
    have hx : exec (.quiesceTimeout []) s = .next (startFlush t 2) := by
      subst ht; exact if_pos ⟨hw, hp, hq'⟩
    have hs := only_startFlush t 2
    have hrst : (startFlush t 2).rst.warmPhase = t.rst.warmPhase := by
      unfold startFlush; dsimp only; split <;> rfl
    refine ⟨_, hx, by rw [hrst]; subst ht; rfl, rfl, rfl, rfl, (hs .cmds (by simp)).trans (by subst ht; rfl)⟩
  case flushed =>
    have hx : exec .flushEnd s = .next (warmReset (endFlush s) s.rst.nextCause) := by
      change execFlushEnd s = _
      simp [execFlushEnd, hp, hw]
    have honly := (flushEnds_endFlush s).only
    generalize endFlush s = t at hx honly
    have hrst : t.rst = s.rst := honly .rst (by simp)
    have hboot : t.boot = s.boot := honly .boot (by simp)
    refine ⟨_, hx, rfl, ?_, rfl, rfl, rfl, rfl, rfl, honly .fuse (by simp), ?_, ?_, honly .pending (by simp), honly .nowNs (by simp)⟩
    · rw [← hrst]; rfl
    · rw [← hboot]; rfl
    · rw [← hboot]; rfl
  case rail =>
    have hx : exec (.railUndervoltage rail) s = .next { powerOff s with pins := { (powerOff s).pins with railBad := setBit s.pins.railBad rail } } := by
      change execRailUndervoltage rail s = _
      rw [execRailUndervoltage, if_neg (Nat.not_lt.mpr hr)]
      simp [hpor]
    obtain ⟨-, hfuse, hzones, hfmt, hd0, hd1⟩ := powerOff_keeps s
    exact ⟨_, hx, rfl, bit_setBit_self _ _, rfl, rfl, hfuse, hzones, hd0, hd1, hfmt, rfl, rfl, rfl, rfl, getVer_resetKept_hbm _⟩
  case testEn =>
    generalize ht : ({ s with pins := { s.pins with testEn := true } } : State) = t
    have hx : exec .testEnAssert s = .next (powerOff t) := by
      subst ht
      change execTestEnAssert s = _
      simp [execTestEnAssert, hpor]
    obtain ⟨htest, hfuse, hzones, -⟩ := powerOff_keeps t
    refine ⟨_, hx, rfl, htest.trans ?_, rfl, hfuse.trans ?_, hzones.trans ?_⟩ <;> subst ht <;> rfl

end Sys2Proof.Machine
end

section
/-! PROOFS. The boot (R346 to R356): its phases, its candidates, READY and the fuses. -/

namespace Sys2Proof.Machine

/-! ### Phases -/

theorem only_toPhase (s : State) (p : Nat) : Only [.boot] s (toPhase s p) := only_boot _ _

theorem only_enterRead (s : State) : Only [.boot] s (enterRead s) := (only_boot s _).trans (only_toPhase _ _)

theorem only_addTime (s : State) (p us : Nat) : Only [.boot] s (addTime s p us) := only_boot _ _

/-- A phase but the fifth that ends as it should is timed; one whose needs are not there stays (R352). -/
theorem exec_bootPhaseDone {s : State} (us : Nat) (hb : booting s = true) (h5 : s.boot.phase ≠ 5) (h9 : s.boot.phase < 9) :
    exec (.bootPhaseDone us .done) s = .next (if (phaseDone s).boot.phase = s.boot.phase ∧ (!(phaseDone s).boot.stopped) = true then s
      else addTime (phaseDone s) s.boot.phase us) := by
  change execBootPhaseDone us .done s = _
  unfold execBootPhaseDone
  dsimp only
  rw [if_neg (by simp [hb]; omega), if_neg h5]
  split <;> rfl

theorem exec_bootPhaseDone_fuses {s : State} (us bad : Nat) (huk : Bool) (hb : booting s = true) (h1 : s.boot.phase = 1) :
    exec (.bootPhaseDone us (.fuses bad huk)) s = .next (addTime (fusesRead s bad huk) 1 us) := by
  change execBootPhaseDone us (.fuses bad huk) s = _
  unfold execBootPhaseDone
  dsimp only
  rw [if_neg (by simp [hb, h1]), if_pos h1, if_neg (by simp [h1, fusesRead, toPhase]), h1]

/-! ### Boot events and locks -/

theorem only_setBootEvt (s : State) (b inst : Nat) : Only [.boot, .pa, .pb, .out, .evr] s (setBootEvt s b inst) :=
  Only.ite (((only_boot s _).mono (by simp)).andThen (only_genericEv _ _ _ _ _ _ _) (by simp))
    ((only_raiseEvt s _ _ _ _ _ _ _ fun u v => only_boot u _).mono (by simp))

/-- A BOOT_EVT bit is set, whatever is recorded of it. -/
theorem boot_setBootEvt (s : State) (b inst : Nat) : (setBootEvt s b inst).boot = { s.boot with evt := setBit s.boot.evt b } := by
  have hrec : ∀ (u : State) (a c i k o v : Nat), (genericEv u a c i k o v).boot = u.boot := fun u a c i k o v =>
    only_genericEv u a c i k o v .boot (by simp)
  unfold setBootEvt raiseEvt
  dsimp only
  split
  · rw [hrec]
  · split
    · rw [setBit_of_set ‹_›]
    · rw [hrec]

theorem only_freeLocks (s : State) : Only [.mbxs] s (freeLocks s) := only_foldl _ (fun u n => only_modMbx u (.pf0 n) _) _ _

/-- The eight PF0 locks are free (R298). -/
theorem owner_freeLocks (s : State) {n : Nat} (hn : n < 8) : (getMbx (freeLocks s) (.pf0 n)).owner = 0 := by
  have h : ∀ (l : List Nat) (u : State), (n ∈ l ∨ (getMbx u (.pf0 n)).owner = 0) →
      (getMbx (l.foldl (fun s n => modMbx s (.pf0 n) fun m => { m with owner := 0 }) u) (.pf0 n)).owner = 0 := fun l => by
    induction l with
    | nil => exact fun u h => h.elim (fun h => absurd h (by simp)) id
    | cons j l ih =>
      refine fun u h => ih _ ?_
      by_cases hj : boxKey (.pf0 n) = boxKey (.pf0 j)
      · right; simp [getMbx, modMbx, hj]
      · rcases h with h | h
        · rcases List.mem_cons.mp h with rfl | h
          · exact absurd rfl hj
          · exact .inl h
        · right; simp [getMbx, modMbx, Tab.get_upd_ne _ _ _ _ _ hj]; exact h
  exact h _ _ (.inl (List.mem_range.mpr hn))

/-! ### Candidates -/

/-- Which slot is the candidate depends on the reset's cause, the devices' bytes, BOOT_NEXT and the slots tried (R351). -/
theorem candidateSlot_congr {s t : State} (hc : t.rst = s.rst) (h0 : t.boot.dev0 = s.boot.dev0) (h1 : t.boot.dev1 = s.boot.dev1)
    (hn : t.boot.next = s.boot.next) (ht : t.boot.tried = s.boot.tried) : candidateSlot t = candidateSlot s := by
  have hseq : trailerSeq t.boot = trailerSeq s.boot := funext fun d => by
    unfold trailerSeq getDev
    rw [h0, h1]
  unfold candidateSlot candOrder
  rw [hc, hseq, hn, ht]

/-- What a candidate that fails leaves before the next is taken (R351, R355). -/
def candFailed (s : State) (d code : Nat) : State :=
  let t := showSlot s d code
  setBootEvt { t with boot := { t.boot with tried := t.boot.tried ++ [d], lastFail := code, fellBack := true, slot := 3, fwVer := 0 } } 1 d

theorem failCandidate_eq (s : State) {d code : Nat} (h : code ≠ 0x33) : failCandidate s d code =
    match candidateSlot (candFailed s d code) with
    | some _ => enterRead (candFailed s d code)
    | none => stopBoot (candFailed s d code) 0x53 := by
  simp only [failCandidate, if_neg h]
  rfl

theorem boot_candFailed (s : State) (d code : Nat) : ∃ sl e, (candFailed s d code).boot = { s.boot with
    slots := sl, tried := s.boot.tried ++ [d], lastFail := code, fellBack := true, slot := 3, fwVer := 0, evt := e } ∧
    (Tab.get {} sl d).result = code ∧ bit e 1 = true :=
  ⟨_, _, boot_setBootEvt _ 1 d, by rw [showSlot]; simp, bit_setBit_self _ _⟩

/-- What a failed candidate leaves: its slot's result, and the next candidate read, or the boot stopped (R351, R354). -/
theorem failCandidate_spec (s : State) {d code : Nat} (h : code ≠ 0x33) (hrun : s.boot.stopped = false) :
    ∃ b, b = (failCandidate s d code).boot ∧ b.tried = s.boot.tried ++ [d] ∧ b.lastFail = code ∧ b.fellBack = true ∧ b.fwVer = 0 ∧
      (Tab.get {} b.slots d).result = code ∧ bit b.evt 1 = true ∧
      (candidateSlot (failCandidate s d code) = none → b.stopped = true ∧ b.code = 0x53) ∧
      (∀ e, candidateSlot (failCandidate s d code) = some e → b.phase = 3 ∧ b.stopped = false) := by
  obtain ⟨sl, e, hboot, hsl, he⟩ := boot_candFailed s d code
  rw [failCandidate_eq s h]
  generalize candFailed s d code = t at hboot
  have htried : t.boot.tried ≠ [] := by rw [hboot]; simp
  cases hc : candidateSlot t with
  | some x =>
    have hb : (enterRead t).boot = { t.boot with phase := 3, code := 0 } := by
      simp [enterRead, toPhase, htried]
    have hsame : candidateSlot (enterRead t) = some x := by
      rw [← hc]
      exact candidateSlot_congr rfl (by rw [hb]) (by rw [hb]) (by rw [hb]) (by rw [hb])
    refine ⟨_, rfl, ?_⟩
    dsimp only
    rw [hb, hsame, hboot]
    exact ⟨rfl, rfl, rfl, rfl, hsl, he, fun h => absurd h (by simp), fun _ _ => ⟨rfl, hrun⟩⟩
  | none =>
    have hf := only_freeLocks { t with boot := { t.boot with stopped := true, code := 0x53 } }
    have hb : (stopBoot t 0x53).boot = { t.boot with stopped := true, code := 0x53 } := hf .boot (by simp)
    have hsame : candidateSlot (stopBoot t 0x53) = none := by
      rw [← hc]
      exact candidateSlot_congr (hf .rst (by simp)) (by rw [hb]) (by rw [hb]) (by rw [hb]) (by rw [hb])
    refine ⟨_, rfl, ?_⟩
    dsimp only
    rw [hb, hsame, hboot]
    exact ⟨rfl, rfl, rfl, rfl, hsl, he, fun _ => ⟨rfl, rfl⟩, fun e h => absurd h (by simp)⟩

/-! ### READY -/

theorem only_dropOrphans (s : State) (p : Port) : Only [portPart p] s (dropOrphans s p) := by
  have h : ∀ (u : State) (e : Nat × Fn), Only [portPart p] u (if hasTenant u e.1 then u
      else modCas u p e.1 fun c => { c with trs := c.valid.foldl clearCommit c.trs, valid := [] }) := fun u e =>
    Only.ite (Only.refl _ _) (only_modCas _ _ _ _)
  exact only_foldl _ h _ _

/-- READY without commits held: the locks are free, and the running slot is the next boot's (R351, R354). -/
theorem exec_bootReady {s : State} (hb : booting s = true) (h9 : s.boot.phase = 9) (hheld : s.heldCommits = []) :
    ∃ t u, t.boot = { s.boot with ready := true, code := 0x90, next := s.boot.slot } ∧ Only [.boot, .rst] s t ∧
      Only [.pa, .pb, .out, .evr] (freeLocks t) u ∧ exec .bootReady s = .next u := by
  generalize ht : ({ s with
      boot := { s.boot with ready := true, code := 0x90, next := s.boot.slot }
      rst := { s.rst with idleNs := s.nowNs } } : State) = t
  have hst : Only [.boot, .rst] s t := by subst ht; intro q hq; cases q <;> simp at hq <;> rfl
  have hlog := only_logEv (freeLocks t) 1 0 0x0005 (leBytes 4 s.boot.fwVer ++ leBytes 1 s.rst.cause ++
      leBytes 1 s.boot.slot ++ leBytes 2 0 ++ leBytes 4 ((s.nowNs - s.boot.startNs) / 1000000))
  generalize hw : logEv (freeLocks t) 1 0 0x0005 _ = w at hlog
  have hdrop : Only [.pa, .pb] w (dropOrphans (dropOrphans w .a) .b) :=
    ((only_dropOrphans w .a).mono (by simp [portPart])).trans ((only_dropOrphans _ .b).mono (by simp [portPart]))
  have hall : Only [.pa, .pb, .out, .evr] (freeLocks t) (dropOrphans (dropOrphans w .a) .b) := hlog.andThen hdrop (by simp)
  have hnone : (dropOrphans (dropOrphans w .a) .b).heldCommits = [] :=
    (hall .heldCommits (by simp)).trans ((only_freeLocks t .heldCommits (by simp)).trans ((hst .heldCommits (by simp)).trans hheld))
  have hlift : liftHeld (dropOrphans (dropOrphans w .a) .b) = dropOrphans (dropOrphans w .a) .b := by
    unfold liftHeld
    rw [hnone, List.foldl_nil, ← hnone]
  refine ⟨t, _, by subst ht; rfl, hst, hall, ?_⟩
  change execBootReady s = _
  unfold execBootReady
  rw [if_pos ⟨hb, h9⟩]
  dsimp only
  rw [ht, hw, hnone, hlift, captureHeld]

theorem stopped_of_booting {s : State} (h : booting s = true) : s.boot.stopped = false := by
  simp only [booting, Bool.and_eq_true, Bool.not_eq_true'] at h
  obtain ⟨⟨⟨-, hstopped⟩, -⟩, -⟩ := h
  exact hstopped

/-- Settles O55: phases by `exec_bootPhaseDone`, a candidate by `failCandidate_spec`, the fuses by `boot_setBootEvt`. -/
theorem theBootProceeds : Obligations.TheBootProceeds := by
  unfold Obligations.TheBootProceeds
  intro s us code d
  refine ⟨fun hpor => ?on, fun hp => if_pos (.inl hp), fun hb h1 => ?first, fun bad huk hb h1 => ?fuses, fun hb h2 hclk hpf => ?clocks,
    fun hb h2 hclk => ?wait, fun hb h6 => ?pool, fun hb hc hf h33 => ?cand, fun hb h9 hheld => ?ready, fun hready hclk hpor => ?update⟩
  case on =>
    exact ⟨_, if_pos hpor, fun q hq => by cases q <;> simp at hq <;> rfl, rfl, rfl, rfl⟩
  case first =>
    have hpd : phaseDone s = toPhase { s with cip := { s.cip with hukOk := true } } 2 := by simp [phaseDone, h1]
    have hx := exec_bootPhaseDone us hb (by omega) (by omega)
    rw [hpd, h1, if_neg (by simp [toPhase])] at hx
    exact ⟨_, hx, ((only_cip s _).mono (by simp)).trans (((only_toPhase _ 2).trans (only_addTime _ _ _)).mono (by simp)), rfl, rfl,
      by simp [addTime, toPhase]⟩
  case fuses =>
    refine ⟨_, exec_bootPhaseDone_fuses us bad huk hb h1, ?_, rfl, rfl, rfl, rfl⟩
    exact ((only_cip s _).mono (by simp)).trans (((only_toPhase _ 2).trans ((only_boot _ _).trans (only_addTime _ _ _))).mono (by simp))
  case clocks =>
    have hpd : phaseDone s = enterRead s := by simp [phaseDone, h2, hclk, hpf]
    have hx := exec_bootPhaseDone us hb (by omega) (by omega)
    rw [hpd, h2, if_neg (by simp [enterRead, toPhase])] at hx
    exact ⟨_, hx, (only_enterRead s).trans (only_addTime _ _ _), rfl⟩
  case wait =>
    have hpd : phaseDone s = s := by simp [phaseDone, h2, hclk]
    have hx := exec_bootPhaseDone us hb (by omega) (by omega)
    have hrun := stopped_of_booting hb
    rwa [hpd, if_pos ⟨rfl, by simp [hrun]⟩] at hx
  case pool =>
    have hpd : phaseDone s = toPhase (buildPool s) 7 := by simp [phaseDone, h6]
    have hx := exec_bootPhaseDone us hb (by omega) (by omega)
    rw [hpd, h6, if_neg (by simp [toPhase])] at hx
    exact ⟨_, hx, ((only_bpm s _).mono (by simp)).trans (((only_toPhase _ 7).trans (only_addTime _ _ _)).mono (by simp)), rfl, rfl,
      by simp [addTime, toPhase, buildPool, poolSize], rfl⟩
  case cand =>
    have hx : exec (.bootCandidateFail code) s = .next (failCandidate s d code) := by
      change execBootCandidateFail code s = _
      simp [execBootCandidateFail, hc, hb, hf]
    have hrun := stopped_of_booting hb
    obtain ⟨b, rfl, h1, h2, h3, h4, h5, h6, h7, h8⟩ := failCandidate_spec s (d := d) h33 hrun
    exact ⟨_, hx, h1, h2, h3, h4, h5, h6, h7, h8⟩
  case ready =>
    obtain ⟨t, u, hboot, hst, hu, hx⟩ := exec_bootReady hb h9 hheld
    have hub : u.boot = { s.boot with ready := true, code := 0x90, next := s.boot.slot } :=
      (hu .boot (by simp)).trans ((only_freeLocks t .boot (by simp)).trans hboot)
    refine ⟨_, hx, by rw [hub], by rw [hub], by rw [hub], fun n hn => ?_, ?_, ?_⟩
    · have h : getMbx u (.pf0 n) = getMbx (freeLocks t) (.pf0 n) := by unfold getMbx; rw [hu .mbxs (by simp)]
      rw [h, owner_freeLocks t hn]
    · exact (hu .cmds (by simp)).trans ((only_freeLocks t .cmds (by simp)).trans (hst .cmds (by simp)))
    · exact (hu .zones (by simp)).trans ((only_freeLocks t .zones (by simp)).trans (hst .zones (by simp)))
  case update =>
    generalize ht : ({ s with
        fuse := { s.fuse with svn := max s.fuse.svn s.boot.svnPend, keyRevoked := s.fuse.keyRevoked ||| s.boot.revokePend }
        boot := { s.boot with revokePend := 0 } } : State) = t
    generalize hw : (if decide (s.fuse.svn < s.boot.svnPend) then setBootEvt t 2 s.boot.slot else t) = w
    have hx : exec .fuseUpdate s = .next (if s.boot.revokePend &&& (15 - (s.fuse.keyRevoked &&& 15)) = 0 then w else setBootEvt w 3 s.boot.slot) := by
      change execFuseUpdate s = _
      subst hw ht
      exact if_neg (by simp [hready, hclk, hpor])
    have hst : Only [.fuse, .boot, .evr, .pa, .pb, .out] s t := by subst ht; intro q hq; cases q <;> simp at hq <;> rfl
    have hset : ∀ (v : State) b i, Only [.boot, .evr, .pa, .pb, .out] v (setBootEvt v b i) := fun v b i =>
      (only_setBootEvt v b i).mono (by simp)
    have htw : Only [.boot, .evr, .pa, .pb, .out] t w := by subst hw; exact Only.ite (hset _ _ _) (Only.refl _ _)
    have hwu := htw.trans (Only.ite (p := s.boot.revokePend &&& (15 - (s.fuse.keyRevoked &&& 15)) = 0) (Only.refl _ w) (hset w 3 s.boot.slot))
    refine ⟨_, hx, hst.andThen hwu (by simp), (hwu .fuse (by simp)).trans (by subst ht; rfl), fun hlt => ?_⟩
    have hbit : bit w.boot.evt 2 = true := by
      subst hw
      rw [if_pos (by simp [hlt]), boot_setBootEvt]
      exact bit_setBit_self _ _
    split
    · exact hbit
    · rw [boot_setBootEvt]; exact bit_setBit_of hbit

end Sys2Proof.Machine
end

section
/-! PROOFS. Clock gates (R334, R335), power states (R336, R337), references and PLLs (R325 to R331). -/

namespace Sys2Proof.Machine

/-! ### Bits cleared -/

theorem setBit_clrBit_of_set {x i : Nat} (h : bit x i = true) : bit (x - 2 ^ i) i = false ∧ setBit (x - 2 ^ i) i = x := by
  have hge : 2 ^ i ≤ x := Nat.ge_two_pow_of_testBit (by rwa [← bit_eq_testBit])
  have hclear : bit (x - 2 ^ i) i = false := by
    have h2 := Nat.testBit_two_pow_add_eq (x - 2 ^ i) i
    rw [Nat.add_sub_cancel' hge, ← bit_eq_testBit, ← bit_eq_testBit, h] at h2
    simpa using h2
  exact ⟨hclear, by rw [setBit_of_clear hclear, Nat.add_sub_cancel' hge]⟩

@[simp] theorem bit_clrBit_self (x i : Nat) : bit (clrBit x i) i = false := by
  unfold clrBit
  split
  · exact (setBit_clrBit_of_set ‹_›).1
  next h => simpa using h

theorem bit_clrBit_ne (x : Nat) {i j : Nat} (hij : i ≠ j) : bit (clrBit x i) j = bit x j := by
  unfold clrBit
  split
  next h =>
    have h2 := bit_setBit_ne (x - 2 ^ i) hij
    rwa [(setBit_clrBit_of_set h).2, eq_comm] at h2
  · rfl

/-- A bit that is clear stays clear when another is cleared. -/
theorem bit_clrBit_of_clear {x i j : Nat} (h : bit x j = false) : bit (clrBit x i) j = false := by
  by_cases hij : i = j
  · rw [hij]; exact bit_clrBit_self x j
  · rw [bit_clrBit_ne x hij]; exact h

/-! ### Clock gates -/

/-- Turning a node on turns on it and its parents; no bit that was on goes off (R334). -/
theorem gateOn_spec (fuel : Nat) (s : State) (n : Nat) : Only [.ckm] s (gateOn fuel s n) ∧
    (gateOn fuel s n).ckm.gRefused = s.ckm.gRefused ∧ (gateOn fuel s n).ckm.gLast = s.ckm.gLast ∧
    (∀ i, bit s.ckm.gEn i = true → bit (gateOn fuel s n).ckm.gEn i = true) ∧
    (∀ i, bit s.ckm.gHostOff i = false → bit (gateOn fuel s n).ckm.gHostOff i = false) ∧
    (0 < fuel → bit (gateOn fuel s n).ckm.gEn n = true ∧ bit (gateOn fuel s n).ckm.gHostOff n = false) := by
  induction fuel generalizing s n with
  | zero => exact ⟨Only.refl _ _, rfl, rfl, fun _ h => h, fun _ h => h, fun h => absurd h (by simp)⟩
  | succ fuel ih =>
    generalize ht : ({ s with ckm := { s.ckm with gEn := setBit s.ckm.gEn n, gHostOff := clrBit s.ckm.gHostOff n } } : State) = t
    have hon : ∀ i, bit s.ckm.gEn i = true → bit t.ckm.gEn i = true := fun i h => by subst ht; exact bit_setBit_of h
    have hoff : ∀ i, bit s.ckm.gHostOff i = false → bit t.ckm.gHostOff i = false := fun i h => by subst ht; exact bit_clrBit_of_clear h
    have hself : bit t.ckm.gEn n = true ∧ bit t.ckm.gHostOff n = false := by
      subst ht; exact ⟨bit_setBit_self _ _, bit_clrBit_self _ _⟩
    have hst : Only [.ckm] s t := by subst ht; exact only_ckm _ _
    have hr : t.ckm.gRefused = s.ckm.gRefused ∧ t.ckm.gLast = s.ckm.gLast := by subst ht; exact ⟨rfl, rfl⟩
    have hsame : ∀ u, u = t → Only [.ckm] s u ∧ u.ckm.gRefused = s.ckm.gRefused ∧ u.ckm.gLast = s.ckm.gLast ∧
        (∀ i, bit s.ckm.gEn i = true → bit u.ckm.gEn i = true) ∧ (∀ i, bit s.ckm.gHostOff i = false → bit u.ckm.gHostOff i = false) ∧
        (0 < fuel + 1 → bit u.ckm.gEn n = true ∧ bit u.ckm.gHostOff n = false) := fun u hu => by
      subst hu; exact ⟨hst, hr.1, hr.2, hon, hoff, fun _ => hself⟩
    simp only [gateOn]
    rw [ht]
    split
    · exact hsame _ rfl
    next p _ =>
      split
      · exact hsame _ rfl
      · obtain ⟨h1, h2, h3, h4, h5, -⟩ := ih t p
        exact ⟨hst.trans h1, h2.trans hr.1, h3.trans hr.2, fun i h => h4 i (hon i h), fun i h => h5 i (hoff i h),
          fun _ => ⟨h4 n hself.1, h5 n hself.2⟩⟩

/-- A node's parent runs once the node has been turned on (R334). -/
theorem gateOn_parent {fuel : Nat} (s : State) {n q : Nat} (h : gateParent n = some q) : bit (gateOn (fuel + 2) s n).ckm.gEn q = true := by
  rw [gateOn]
  simp only [h]
  split
  · assumption
  · exact ((gateOn_spec (fuel + 1) _ q).2.2.2.2.2 (by simp)).1

/-- A request is noted with the node it names (R334). -/
def gateAsked (s : State) (n : Nat) : State := { s with ckm := { s.ckm with gLast := n, gDone := true } }

/-- A node is turned off (R334). -/
def gateOff (s : State) (n : Nat) : State := { s with ckm := { s.ckm with gEn := clrBit s.ckm.gEn n, gHostOff := setBit s.ckm.gHostOff n } }

section
variable {s : State} {p : Port} {v : Word}

/-- A request to turn a node on (R334). -/
theorem exec_clockGateOn (h : Writable s p 0) (hrsv : v.toNat &&& 0xFFFFFEE0 = 0) (hon : flag v 8 = true) (hn : fld v 0 5 ≤ 21) :
    ∃ cause, exec (.clockGateOn p v) s = .next (gateOn 3 (gateAsked (woken s p cause) (fld v 0 5)) (fld v 0 5)) := by
  refine ⟨if flag v 8 && pwrGated s (fld v 0 5) then 10 else 3, ?_⟩
  change writeClkgReq p v s = _
  rw [writeClkgReq, regWriteBy_writable _ _ h, if_neg (by simp [hrsv])]
  dsimp only
  rw [if_neg (Nat.not_lt.mpr hn), if_pos hon]
  rfl

/-- A request to turn a node off, by cases (R334). -/
theorem exec_clockGateOff (h : Writable s p 0) (hrsv : v.toNat &&& 0xFFFFFEE0 = 0) (hoff : flag v 8 = false) :
    exec (.clockGateOff p v) s = .next
      (if 21 < fld v 0 5 then gateRefuse (gateAsked (woken s p 3) (fld v 0 5)) 3
      else if !bit (woken s p 3).ckm.gEn (fld v 0 5) then gateAsked (woken s p 3) (fld v 0 5)
      else if (List.range 22).any fun m => gateParent m == some (fld v 0 5) && bit (woken s p 3).ckm.gEn m then
        gateRefuse (gateAsked (woken s p 3) (fld v 0 5)) 1
      else if gateInUse (woken s p 3) (fld v 0 5) then gateRefuse (gateAsked (woken s p 3) (fld v 0 5)) 2
      else gateOff (gateAsked (woken s p 3) (fld v 0 5)) (fld v 0 5)) := by
  have huse : gateInUse (gateAsked (woken s p 3) (fld v 0 5)) (fld v 0 5) = gateInUse (woken s p 3) (fld v 0 5) := rfl
  change writeClkgReq p v s = _
  rw [writeClkgReq, regWriteBy_writable _ _ h, if_neg (by simp [hrsv])]
  simp only [hoff, Bool.false_and, Bool.false_eq_true, if_false]
  change (if 21 < fld v 0 5 then _ else if _ then _ else if _ then _ else if gateInUse (gateAsked (woken s p 3) (fld v 0 5)) (fld v 0 5) then _ else _) = _
  rw [huse]
  (repeat' split) <;> rfl

end

/-- Settles O52: a node on is `gateOn`, one off a cleared bit or a refusal. -/
theorem gatesFollowRequests : Obligations.GatesFollowRequests := by
  unfold Obligations.GatesFollowRequests
  intro s p v hw hrsv
  have hckm : ∀ c, (woken s p c).ckm = s.ckm := fun c => only_woken s p c .ckm (by cases p <;> simp [portPart])
  refine ⟨fun hon hn => ?on, fun hoff => ?off⟩
  case on =>
    obtain ⟨c, hx⟩ := exec_clockGateOn hw hrsv hon hn
    obtain ⟨h1, h2, h3, -, -, h6⟩ := gateOn_spec 3 (gateAsked (woken s p c) (fld v 0 5)) (fld v 0 5)
    obtain ⟨h7, h8⟩ := h6 (by simp)
    have hask : Only [portPart p, .rst, .ckm] s (gateAsked (woken s p c) (fld v 0 5)) :=
      ((only_woken s p c).mono (by simp)).andThen (only_ckm _ _) (by simp)
    exact ⟨_, hx, hask.andThen h1 (by simp), h7, h8, h2.trans (by rw [← hckm c]; rfl), h3, fun q hq => gateOn_parent _ hq⟩
  case off =>
    have hx := exec_clockGateOff hw hrsv hoff
    have href : ∀ r, (gateRefuse (gateAsked (woken s p 3) (fld v 0 5)) r).ckm =
        { s.ckm with gLast := fld v 0 5, gDone := true, gRefused := true, gReason := r } := fun r => by
      rw [← hckm 3]; rfl
    refine ⟨fun hn => ⟨_, by rw [hx, if_pos hn], href 3⟩, fun hn hen => ?_⟩
    rw [if_neg (Nat.not_lt.mpr hn), hckm, if_neg (by simp [hen])] at hx
    refine ⟨fun hch => ?_, fun hch => ?_⟩
    · obtain ⟨m, hm, hpar, hrun⟩ := hch
      have hany : ((List.range 22).any fun m => gateParent m == some (fld v 0 5) && bit s.ckm.gEn m) = true :=
        List.any_eq_true.mpr ⟨m, List.mem_range.mpr hm, by simp [hpar, hrun]⟩
      exact ⟨_, by rw [hx, if_pos hany], href 1⟩
    · have hno : ¬((List.range 22).any fun m => gateParent m == some (fld v 0 5) && bit s.ckm.gEn m) = true := by
        simp only [List.any_eq_true, List.mem_range, Bool.and_eq_true, beq_iff_eq, not_exists, not_and]
        exact fun m hm hpar => by simp [hch m hm hpar]
      rw [if_neg hno] at hx
      refine ⟨fun huse => ⟨_, by rw [hx, if_pos huse], href 2⟩, fun huse => ⟨_, by rw [hx, if_neg (by simp [huse])], ?_, ?_, ?_, fun m _ hne => ?_⟩⟩
      · exact ((only_woken s p 3).mono (by simp)).andThen ((only_ckm _ _).trans (only_ckm _ _)) (by simp)
      · exact bit_clrBit_self _ _
      · exact bit_setBit_self _ _
      · rw [← hckm 3]; exact bit_clrBit_ne _ (Ne.symm hne)

/-! ### Power states -/

theorem only_modPll (s : State) (p : Nat) (f : Pll → Pll) : Only [.ckm] s (modPll s p f) := only_ckm _ _

/-- A list of distinct PLLs rewritten: each one listed once, the others not at all. -/
theorem plls_foldl_modPll (f : Pll → Pll) (l : List Nat) (s : State) (hl : l.Nodup) (n : Nat) :
    Tab.get {} (l.foldl (fun s p => modPll s p f) s).ckm.plls n =
      if n ∈ l then f (Tab.get {} s.ckm.plls n) else Tab.get {} s.ckm.plls n := by
  induction l generalizing s with
  | nil => rfl
  | cons p l ih =>
    obtain ⟨hp, hl⟩ := List.nodup_cons.mp hl
    rw [List.foldl_cons, ih _ hl]
    by_cases hnp : n = p
    · subst hnp
      rw [if_neg hp, if_pos (List.mem_cons_self ..)]
      exact Tab.get_upd_self ..
    · have hmem : n ∈ p :: l ↔ n ∈ l := by simp [hnp]
      have hget : Tab.get {} (modPll s p f).ckm.plls n = Tab.get {} s.ckm.plls n := Tab.get_upd_ne _ _ _ _ _ hnp
      simp only [hmem, hget]

/-- A list of PLLs rewritten touches nothing but the clocks. -/
theorem only_foldl_modPll (f : Pll → Pll) (l : List Nat) (s : State) : Only [.ckm] s (l.foldl (fun s p => modPll s p f) s) :=
  only_foldl _ (fun u p => only_modPll u p f) _ _

/-- Settles O53: each entry and the wake are one rewriting of the reset and power block. -/
theorem powerStatesFollow : Obligations.PowerStatesFollow := by
  unfold Obligations.PowerStatesFollow
  intro s q us p v
  refine ⟨fun hrun hq hmax hpwr hidle ht => ?p1, fun hrun hmax hpwr hidle ht => ?p2, fun hrun hmax hpwr hw hd ha hb ht => ?p3,
    fun hpwr hc => ?wake, fun hw hv => ?max⟩
  case p1 => exact ⟨_, if_pos ⟨hq, hrun, hmax, hpwr, hidle, ht⟩, only_rst _ _, rfl, bit_setBit_self _ _⟩
  case p2 =>
    exact ⟨_, if_pos ⟨hrun, hmax, hpwr, hidle, ht⟩, fun q hq => by cases q <;> simp at hq <;> rfl, rfl, rfl⟩
  case p3 =>
    have hquiet : ∀ r, ((getPort s r).linkUp = false ∨ (getPort s r).inL1 = true) → (!(getPort s r).linkUp || (getPort s r).inL1) = true :=
      fun r h => by rcases h with h | h <;> simp [h]
    have hp := only_persistAll s
    refine ⟨_, if_pos ⟨hrun, hmax, hpwr, by simp [hw], hd, hquiet .a ha, hquiet .b hb, ht⟩, ?_, rfl, hp .zones (by simp), hp .hlt (by simp), ?_, rfl⟩
    · exact (hp.mono (by simp)).trans fun q hq => by cases q <;> simp at hq <;> rfl
    · have hm : (persistAll s).media = s.media := hp .media (by simp)
      rw [← hm]
  case wake =>
    generalize hl : (if s.rst.pwr = 2 then (List.range 10).map (· + 1) else corePlls) = l
    have hnodup : l.Nodup := by subst hl; split <;> decide
    have hmem : ∀ n, (1 ≤ n → n ≤ 10 → n ∈ l) ∧ (10 < n → n ∉ l) := fun n => by
      subst hl
      split
      · simp only [List.mem_map, List.mem_range]
        exact ⟨fun h1 h2 => ⟨n - 1, by omega, by omega⟩, fun h => by rintro ⟨a, ha, rfl⟩; omega⟩
      · simp only [corePlls, List.mem_range]
        exact ⟨fun h1 h2 => by omega, fun h => by omega⟩
    have hx : exec (.wakeComplete q us) s = .next { relock s l with rst := { (relock s l).rst with
        pwr := 0, qGated := 0, waking := false, lastWakeUs := min 0xFFFF us, wakeCause := if s.rst.waking then s.rst.wakeCause else q
        idleNs := (relock s l).nowNs
        wakesP2 := if (relock s l).rst.pwr = 2 then satAdd 0xFFFF (relock s l).rst.wakesP2 1 else (relock s l).rst.wakesP2
        wakesP3 := if (relock s l).rst.pwr = 3 then satAdd 0xFFFF (relock s l).rst.wakesP3 1 else (relock s l).rst.wakesP3 } } := by
      subst hl; exact if_pos ⟨hpwr, hc⟩
    have ho : Only [.ckm] s (relock s l) := only_foldl_modPll _ _ _
    have hr : (relock s l).rst = s.rst := ho .rst (by simp)
    have hpll := fun n => plls_foldl_modPll (fun x => { x with relocks := if x.on then satAdd 255 x.relocks 1 else x.relocks }) l s hnodup n
    refine ⟨_, hx, (ho.mono (by simp)).trans ((only_rst _ _).mono (by simp)), rfl, rfl, rfl, rfl, fun n h1 h2 => ?_, fun n h => ?_, fun h => ?_,
      fun h => ?_⟩
    · exact (hpll n).trans (if_pos ((hmem n).1 h1 h2))
    · exact (hpll n).trans (if_neg ((hmem n).2 h))
    · dsimp only; rw [hr, h]; exact ⟨rfl, rfl⟩
    · dsimp only; rw [hr, h]; exact ⟨rfl, rfl⟩
  case max =>
    have hfld : fld v 0 2 = v.toNat := by simp [fld, bits]; omega
    have hrsv : v.toNat &&& 0xFFFFFFFC = 0 := by
      have : ∀ n < 4, n &&& 0xFFFFFFFC = 0 := by decide
      exact this _ hv
    generalize hc : (if fld v 0 2 < s.rst.pwr then 11 else 3) = c
    have hx : exec (.maxState p v) s = .next { woken s p c with rst := { (woken s p c).rst with maxState := v.toNat } } := by
      change execMaxState p v s = _
      rw [execMaxState, regWriteBy_writable _ _ hw, if_neg (by simp [hrsv]), hc, hfld]
    refine ⟨_, hx, ((only_woken s p c).mono (by simp)).andThen (only_rst _ _) (by simp), rfl, fun h => ?_⟩
    have hwk : (woken s p c).rst = { s.rst with idleNs := s.nowNs } := by
      simp [woken, wake, h]
    dsimp only
    rw [hwk]

end Sys2Proof.Machine
end

section
/-! PROOFS. References and PLLs (R325, R326, R328 to R331). -/

namespace Sys2Proof.Machine

/-! ### What vectors leave of the ports -/

/-- What a host sees of the ports but for their MSI-X vectors: a port's own fields, and each function's. -/
def hostView (s : State) (q : Port) : PortSt × (Nat → Fn) :=
  ({ getPort s q with pf0 := {}, vfs := [] }, fun n => { getFn s q n with vecs := [] })

theorem hostView_of_ports {s t : State} (ha : t.pa = s.pa) (hb : t.pb = s.pb) : hostView t = hostView s := by
  have h : getPort t = getPort s := by funext q; cases q <;> assumption
  unfold hostView getFn
  rw [h]

theorem hostView_of_only {l : List Part} {s t : State} (h : Only l s t) (ha : Part.pa ∉ l) (hb : Part.pb ∉ l) : hostView t = hostView s :=
  hostView_of_ports (h .pa ha) (h .pb hb)

theorem linkUp_of_hostView {s t : State} (h : hostView t = hostView s) (q : Port) : (getPort t q).linkUp = (getPort s q).linkUp :=
  congrArg (fun v => (v q).1.linkUp) h

theorem hostView_fireVec (s : State) (p : Port) (fn v : Nat) : hostView (fireVec s p fn v) = hostView s := by
  by_cases h : Held s p fn v
  · rw [fireVec_held h]
    funext q
    by_cases hq : q = p
    · subst hq
      refine Prod.ext ?_ (funext fun n => ?_)
      · simp only [hostView, modFn, getPort_modPort_self]
        split <;> rfl
      · by_cases hn : n = fn
        · subst hn; simp only [hostView, getFn_modFn_self]
        · simp only [hostView, getFn_modFn_ne _ _ _ _ _ hn]
    · have hp := fun f => getPort_modPort_ne s p q f hq
      simp only [hostView, modFn, getFn, hp]
  · rw [fireVec_sent h]
    exact hostView_of_ports rfl rfl

theorem hostView_firePf0 (s : State) (v : Nat) : hostView (firePf0 s v) = hostView s := by
  unfold firePf0
  dsimp only
  split <;> split <;> simp only [hostView_fireVec]

theorem hostView_rawEv (s : State) (sev source code : Nat) (pl : List Byte) : hostView (rawEv s sev source code pl) = hostView s := by
  unfold rawEv
  dsimp only
  have hstored : ∀ u : State, u.pa = s.pa → u.pb = s.pb → hostView (if sev ≥ 3 then firePf0 { u with evr := { u.evr with stErr := true } } 8 else u) = hostView s := by
    intro u ha hb
    split
    · exact (hostView_firePf0 _ _).trans (hostView_of_ports ha hb)
    · exact hostView_of_ports ha hb
  exact hstored _ (by split <;> rfl) (by split <;> rfl)

theorem hostView_logEv (s : State) (sev source code : Nat) (pl : List Byte) : hostView (logEv s sev source code pl) = hostView s := by
  have hsec : hostView (endSecond s) = hostView s := by
    unfold endSecond
    split
    · rfl
    · exact foldl_field hostView _ (fun u x => by rw [hostView_rawEv]; rfl) _ _
  rw [← hsec]
  unfold logEv logUpTo
  dsimp only
  split
  · rfl
  · rw [hostView_rawEv]; rfl

/-! ### References -/

@[simp] theorem refOf_modRef_self (s : State) (r : Port) (f : RefSt → RefSt) : refOf (modRef s r f) r = f (refOf s r) := by
  cases r <;> rfl

@[simp] theorem refOf_modRef_other (s : State) (r : Port) (f : RefSt → RefSt) : refOf (modRef s r f) r.other = refOf s r.other := by
  cases r <;> rfl

theorem only_modRef (s : State) (r : Port) (f : RefSt → RefSt) : Only [.ckm] s (modRef s r f) := by
  cases r <;> exact only_ckm _ _

/-- What a step leaves of the clock block: the references' monitors, and every event that was noted. -/
structure RefsKept (s t : State) : Prop where
  refA : t.ckm.refA = s.ckm.refA
  refB : t.ckm.refB = s.ckm.refB
  evt : ∀ i, bit s.ckm.evt i = true → bit t.ckm.evt i = true
  stopped : t.ckm.stopped = s.ckm.stopped

theorem RefsKept.refl (s : State) : RefsKept s s := ⟨rfl, rfl, fun _ h => h, rfl⟩

theorem RefsKept.trans {s t u : State} (h : RefsKept s t) (h' : RefsKept t u) : RefsKept s u :=
  ⟨h'.refA.trans h.refA, h'.refB.trans h.refB, fun i hi => h'.evt i (h.evt i hi), h'.stopped.trans h.stopped⟩

theorem RefsKept.of_ckm {s t : State} (h : t.ckm = s.ckm) : RefsKept s t :=
  ⟨by rw [h], by rw [h], fun i hi => by rw [h]; exact hi, by rw [h]⟩

theorem RefsKept.ite {s t u : State} {p : Prop} [Decidable p] (ht : RefsKept s t) (hu : RefsKept s u) : RefsKept s (if p then t else u) := by
  split
  · exact ht
  · exact hu

theorem RefsKept.refOf {s t : State} (h : RefsKept s t) (r : Port) : refOf t r = refOf s r := by
  cases r
  · exact h.refA
  · exact h.refB

theorem refsKept_modPll (s : State) (p : Nat) (f : Pll → Pll) : RefsKept s (modPll s p f) := ⟨rfl, rfl, fun _ h => h, rfl⟩

theorem refsKept_foldl {α : Type} (f : State → α → State) (h : ∀ s x, RefsKept s (f s x)) (l : List α) (s : State) : RefsKept s (l.foldl f s) := by
  induction l generalizing s with
  | nil => exact RefsKept.refl s
  | cons x l ih => exact (h s x).trans (ih _)

/-! ### Events -/

theorem only_setCkmEvt (s : State) (b inst : Nat) : Only [.ckm, .pa, .pb, .out, .evr] s (setCkmEvt s b inst) :=
  Only.ite (((only_ckm s _).mono (by simp)).andThen (only_genericEv _ _ _ _ _ _ _) (by simp))
    ((only_raiseEvt s _ _ _ _ _ _ _ fun u v => only_ckm u _).mono (by simp))

/-- A CKM_EVT bit is set, whatever is recorded of it. -/
theorem ckm_setCkmEvt (s : State) (b inst : Nat) : (setCkmEvt s b inst).ckm = { s.ckm with evt := setBit s.ckm.evt b } := by
  have hrec : ∀ (u : State) (a c i k o v : Nat), (genericEv u a c i k o v).ckm = u.ckm := fun u a c i k o v =>
    only_genericEv u a c i k o v .ckm (by simp)
  unfold setCkmEvt raiseEvt
  dsimp only
  split
  · rw [hrec]
  · split
    · rw [setBit_of_set ‹_›]
    · rw [hrec]

theorem refsKept_setCkmEvt (s : State) (b inst : Nat) : RefsKept s (setCkmEvt s b inst) := by
  constructor <;> rw [ckm_setCkmEvt]
  exact fun i hi => bit_setBit_of hi

/-! ### The core source -/

/-- The core source is named, and holdover ends (R328). -/
def coreNamed (s : State) (r : Port) : State := { s with ckm := { s.ckm with coreSrc := r == .b, holdover := false } }

/-- What a core PLL does when its input is a reference: it starts the first time, and keeps lock at a switch (R328). -/
def coreTakes (first : Bool) (r : Port) (x : Pll) : Pll :=
  if first then { x with on := true, src := r == .b, lock := true, stable := false, fault := false, relocks := satAdd 255 x.relocks 1 }
  else { x with src := r == .b, stable := false }

theorem setCore_eq (s : State) (r : Port) : setCore s r =
    corePlls.foldl (fun u p => modPll u p (coreTakes (!(Tab.get {} s.ckm.plls 0).on) r)) (coreNamed s r) := by
  unfold setCore coreTakes startPll coreNamed
  dsimp only
  split <;> rfl

theorem refsKept_setCore (s : State) (r : Port) : RefsKept s (setCore s r) := by
  rw [setCore_eq]
  exact RefsKept.trans (t := coreNamed s r) ⟨rfl, rfl, fun _ h => h, rfl⟩ (refsKept_foldl _ (fun u p => refsKept_modPll u p _) _ _)

theorem only_setCore (s : State) (r : Port) : Only [.ckm] s (setCore s r) := by
  rw [setCore_eq]
  exact Only.trans (t := coreNamed s r) (only_ckm _ _) (only_foldl_modPll _ _ _)

theorem refsKept_switchCore (s : State) (r : Port) : RefsKept s (switchCore s r) := (refsKept_setCore s r).trans (refsKept_setCkmEvt _ _ _)

theorem only_switchCore (s : State) (r : Port) : Only [.ckm, .pa, .pb, .out, .evr] s (switchCore s r) :=
  ((only_setCore s r).mono (by simp)).trans (only_setCkmEvt _ _ _)

/-- The core PLLs after the core source is set (R328). -/
theorem plls_setCore (s : State) (r : Port) (n : Nat) : Tab.get {} (setCore s r).ckm.plls n =
    if n < 11 then coreTakes (!(Tab.get {} s.ckm.plls 0).on) r (Tab.get {} s.ckm.plls n) else Tab.get {} s.ckm.plls n := by
  have hnodup : corePlls.Nodup := List.nodup_range
  rw [setCore_eq, plls_foldl_modPll _ _ _ hnodup]
  simp only [corePlls, List.mem_range]
  rfl

theorem coreSrc_foldl_modPll (f : Pll → Pll) (l : List Nat) (s : State) : (l.foldl (fun s p => modPll s p f) s).ckm.coreSrc = s.ckm.coreSrc ∧
    (l.foldl (fun s p => modPll s p f) s).ckm.holdover = s.ckm.holdover :=
  ⟨foldl_field (fun u => u.ckm.coreSrc) (fun s p => modPll s p f) (fun _ _ => rfl) _ _, foldl_field (fun u => u.ckm.holdover) (fun s p => modPll s p f) (fun _ _ => rfl) _ _⟩

theorem coreSrc_setCore (s : State) (r : Port) : (setCore s r).ckm.coreSrc = (r == .b) ∧ (setCore s r).ckm.holdover = false := by
  rw [setCore_eq]
  exact coreSrc_foldl_modPll _ _ _

/-! ### A reference lost -/

/-- A link goes down with its reference (R327). -/
def linkLost (s : State) (r : Port) : State :=
  modPort s r fun q => { q with lossDue := q.linkUp || q.lossDue, linkUp := false, speed := 0, width := 0, flit := false }

theorem hostView_setCkmEvt (s : State) (b inst : Nat) : hostView (setCkmEvt s b inst) = hostView s := by
  have hrec : ∀ (u : State) (a c i k o v : Nat), hostView (genericEv u a c i k o v) = hostView u := fun u a c i k o v => hostView_logEv _ _ _ _ _
  unfold setCkmEvt raiseEvt
  dsimp only
  split
  · rw [hrec]; rfl
  · split
    · rfl
    · rw [hrec]; rfl

theorem hostView_switchCore (s : State) (r : Port) : hostView (switchCore s r) = hostView s :=
  (hostView_setCkmEvt _ _ _).trans (hostView_of_only (only_setCore s r) (by simp) (by simp))

theorem refsKept_wake (s : State) (c : Nat) : RefsKept s (wake s c) := .of_ckm (only_wake s c .ckm (by simp))

theorem hostView_wake (s : State) (c : Nat) : hostView (wake s c) = hostView s := hostView_of_only (only_wake s c) (by simp) (by simp)

/-- The core source follows the deselection of a reference (R328). -/
def coreFollows (s : State) (r : Port) : State :=
  if coreRef s ≠ r then s else if (refOf s r.other).st = 2 then switchCore s r.other else { s with ckm := { s.ckm with holdover := true } }

theorem refsKept_coreFollows (s : State) (r : Port) : RefsKept s (coreFollows s r) :=
  .ite (.refl s) (.ite (refsKept_switchCore s _) ⟨rfl, rfl, fun _ h => h, rfl⟩)

theorem hostView_coreFollows (s : State) (r : Port) : hostView (coreFollows s r) = hostView s := by
  unfold coreFollows
  split
  · rfl
  · split
    · exact hostView_switchCore _ _
    · rfl

theorem deselect_eq (s : State) (r : Port) (st : Nat) : deselect s r st =
    wake (coreFollows (modPll (linkLost (firePf0 (setCkmEvt (modRef s r fun x => { x with st := st, goodCmps := 0, desel := satAdd 0xFFFF x.desel 1 })
      r.num (refInst r)) 12) r) (11 + r.num) fun x => { x with on := false, lock := false, stable := false }) r) 9 := rfl

/-- A missing Selected reference is deselected and counted, its port's link goes down, and the other reference stays (R326, R327). -/
theorem deselect_spec (s : State) (r : Port) (st : Nat) : (refOf (deselect s r st) r).st = st ∧
    (refOf (deselect s r st) r).desel = satAdd 0xFFFF (refOf s r).desel 1 ∧ bit (deselect s r st).ckm.evt r.num = true ∧
    (getPort (deselect s r st) r).linkUp = false ∧ refOf (deselect s r st) r.other = refOf s r.other := by
  rw [deselect_eq]
  generalize h1 : modRef s r (fun x => { x with st := st, goodCmps := 0, desel := satAdd 0xFFFF x.desel 1 }) = s1
  generalize h2 : firePf0 (setCkmEvt s1 r.num (refInst r)) 12 = s2
  generalize h3 : coreFollows (modPll (linkLost s2 r) (11 + r.num) fun x => { x with on := false, lock := false, stable := false }) r = s3
  have hfire : RefsKept (setCkmEvt s1 r.num (refInst r)) s2 := h2 ▸ .of_ckm (only_firePf0 _ _ .ckm (by simp))
  have hlost : RefsKept s2 s3 :=
    h3 ▸ (RefsKept.of_ckm (modPort_ckm _ _ _)).trans ((refsKept_modPll _ _ _).trans (refsKept_coreFollows _ _))
  have hend : RefsKept s2 (wake s3 9) := hlost.trans (refsKept_wake _ _)
  have hrefs : RefsKept s1 (wake s3 9) := (refsKept_setCkmEvt _ _ _).trans (hfire.trans hend)
  have hlink : (getPort (wake s3 9) r).linkUp = false := by
    rw [linkUp_of_hostView (hostView_wake _ _), ← h3, linkUp_of_hostView (hostView_coreFollows _ _)]
    exact congrArg PortSt.linkUp (getPort_modPort_self _ _ _)
  have hevt : bit (setCkmEvt s1 r.num (refInst r)).ckm.evt r.num = true := by rw [ckm_setCkmEvt]; exact bit_setBit_self _ _
  refine ⟨?_, ?_, hend.evt _ (hfire.evt _ hevt), hlink, ?_⟩
  · rw [hrefs.refOf, ← h1, refOf_modRef_self]
  · rw [hrefs.refOf, ← h1, refOf_modRef_self]
  · rw [hrefs.refOf, ← h1, refOf_modRef_other]

/-! ### A reference selected -/

/-- A reference is Selected and monitored: its port's PHY PLL starts (R326, R328). -/
def selected (s : State) (r : Port) : State :=
  let t := startPll (setCkmEvt (modRef s r fun x => { x with st := 2, goodCmps := 4 }) (2 + r.num) (refInst r)) (11 + r.num) r
  { t with ckm := { t.ckm with unmonitored := false } }

/-- The core PLLs start on a reference, or switch to it out of holdover (R328). -/
def coreOn (s : State) (r : Port) : State :=
  if !(Tab.get {} s.ckm.plls 0).on then setCore s r else if s.ckm.holdover then switchCore s r else s

theorem selectRef_eq (s : State) (r : Port) : selectRef s r = wake (coreOn (selected s r) r) 9 := rfl

theorem refsKept_coreOn (s : State) (r : Port) : RefsKept s (coreOn s r) := .ite (refsKept_setCore s r) (.ite (refsKept_switchCore s r) (.refl s))

theorem refsKept_selected (s : State) (r : Port) :
    RefsKept (setCkmEvt (modRef s r fun x => { x with st := 2, goodCmps := 4 }) (2 + r.num) (refInst r)) (selected s r) :=
  ⟨rfl, rfl, fun _ h => h, rfl⟩

/-- A reference that is Selected: its monitor, its event, and the other reference as it was (R326). -/
theorem selectRef_refs (s : State) (r : Port) : refOf (selectRef s r) r = { refOf s r with st := 2, goodCmps := 4 } ∧
    refOf (selectRef s r) r.other = refOf s r.other ∧ bit (selectRef s r).ckm.evt (2 + r.num) = true ∧
    (∀ i, bit s.ckm.evt i = true → bit (selectRef s r).ckm.evt i = true) ∧ (selectRef s r).ckm.stopped = s.ckm.stopped := by
  rw [selectRef_eq]
  generalize h1 : modRef s r (fun x => { x with st := 2, goodCmps := 4 }) = s1
  have hs : RefsKept (setCkmEvt s1 (2 + r.num) (refInst r)) (wake (coreOn (selected s r) r) 9) :=
    h1 ▸ (refsKept_selected s r).trans ((refsKept_coreOn _ _).trans (refsKept_wake _ _))
  have hk : RefsKept s1 (wake (coreOn (selected s r) r) 9) := (refsKept_setCkmEvt _ _ _).trans hs
  have hevt : bit (setCkmEvt s1 (2 + r.num) (refInst r)).ckm.evt (2 + r.num) = true := by rw [ckm_setCkmEvt]; exact bit_setBit_self _ _
  have hmod : s1.ckm.evt = s.ckm.evt ∧ s1.ckm.stopped = s.ckm.stopped := by subst h1; cases r <;> exact ⟨rfl, rfl⟩
  refine ⟨?_, ?_, hs.evt _ hevt, fun i hi => hk.evt i (hmod.1 ▸ hi), hk.stopped.trans hmod.2⟩
  · rw [hk.refOf, ← h1, refOf_modRef_self]
  · rw [hk.refOf, ← h1, refOf_modRef_other]

theorem core_selected (s : State) (r : Port) : (selected s r).ckm.coreSrc = s.ckm.coreSrc ∧ (selected s r).ckm.holdover = s.ckm.holdover ∧
    Tab.get {} (selected s r).ckm.plls 0 = Tab.get {} s.ckm.plls 0 := by
  generalize h1 : modRef s r (fun x => { x with st := 2, goodCmps := 4 }) = s1
  have hmod : s1.ckm.coreSrc = s.ckm.coreSrc ∧ s1.ckm.holdover = s.ckm.holdover ∧ s1.ckm.plls = s.ckm.plls := by
    subst h1; cases r <;> exact ⟨rfl, rfl, rfl⟩
  obtain ⟨hsrc, hhold, hplls⟩ := hmod
  have hphy : 0 ≠ 11 + r.num := by omega
  simp only [selected, startPll, modPll, h1, ckm_setCkmEvt, Tab.get_upd_ne _ _ _ _ _ hphy, hsrc, hhold, hplls, and_self]

/-- The core source after a selection: the first reference that is Selected (R328). -/
theorem selectRef_first (s : State) (r : Port) (h : (Tab.get {} s.ckm.plls 0).on = false) : (selectRef s r).ckm.coreSrc = (r == .b) ∧
    (selectRef s r).ckm.holdover = false ∧ (Tab.get {} (selectRef s r).ckm.plls 0).on = true := by
  have hoff : (Tab.get {} (selected s r).ckm.plls 0).on = false := by rw [(core_selected s r).2.2, h]
  rw [selectRef_eq, only_wake _ _ .ckm (by simp), coreOn, if_pos (by simp [hoff])]
  refine ⟨(coreSrc_setCore _ _).1, (coreSrc_setCore _ _).2, ?_⟩
  rw [plls_setCore, hoff]
  rfl

theorem selectRef_later (s : State) (r : Port) (h : (Tab.get {} s.ckm.plls 0).on = true) (hh : s.ckm.holdover = false) :
    (selectRef s r).ckm.coreSrc = s.ckm.coreSrc := by
  obtain ⟨hsrc, hhold, hpll⟩ := core_selected s r
  rw [selectRef_eq, only_wake _ _ .ckm (by simp), coreOn, if_neg (by simp [hpll, h]), if_neg (by simp [hhold, hh]), hsrc]

/-! ### Comparisons -/

/-- The state once the counts of a comparison are taken (R325). -/
def compared (s : State) (n m : Nat) : State :=
  modRef (modRef s .a fun x => { x with cmp := min 0x1FFFF n }) .b fun x => { x with cmp := min 0x1FFFF m }

/-- A comparison in window counts for both references (R326). -/
def counted (s : State) : State :=
  modRef (modRef s .a fun x => { x with goodCmps := min 8 (x.goodCmps + 1) }) .b fun x => { x with goodCmps := min 8 (x.goodCmps + 1) }

theorem judgePlls_early (s : State) (ha : (refOf s .a).goodCmps < 8) (hb : (refOf s .b).goodCmps < 8) : judgePlls s = s := by
  have hcore : (refOf s (coreRef s)).goodCmps < 8 := by unfold coreRef; split <;> assumption
  unfold judgePlls
  dsimp only
  rw [if_neg (by omega)]
  simp only [List.foldl_cons, List.foldl_nil]
  rw [if_neg (show ¬8 ≤ (refOf s .a).goodCmps by omega), if_neg (by omega)]

theorem passCmp_both (s : State) (ha : (refOf s .a).st = 1) (hb : (refOf s .b).st = 1) (ga : (refOf s .a).goodCmps = 3)
    (gb : (refOf s .b).goodCmps = 3) : passCmp s = selectRef (selectRef (counted s) .a) .b := by
  obtain ⟨hself, hother, -⟩ := selectRef_refs (counted s) .a
  obtain ⟨hself', hother', -⟩ := selectRef_refs (selectRef (counted s) .a) .b
  have hca : refOf (counted s) .a = { refOf s .a with goodCmps := min 8 ((refOf s .a).goodCmps + 1) } := rfl
  have hcb : refOf (counted s) .b = { refOf s .b with goodCmps := min 8 ((refOf s .b).goodCmps + 1) } := rfl
  have hb' : refOf (selectRef (counted s) .a) .b = refOf (counted s) .b := hother
  have ha' : refOf (selectRef (selectRef (counted s) .a) .b) .a = refOf (selectRef (counted s) .a) .a := hother'
  have hfold : passCmp s = judgePlls ([Port.a, Port.b].foldl (fun s r =>
    if (refOf s r).st = 1 ∧ 4 ≤ (refOf s r).goodCmps then selectRef s r else s) (counted s)) := rfl
  rw [hfold, List.foldl_cons, if_pos (by simp [hca, ha, ga]), List.foldl_cons, if_pos (by simp [hb', hcb, hb, gb]), List.foldl_nil]
  exact judgePlls_early _ (by simp [ha', hself]) (by simp [hself'])

theorem restart_running (s : State) (h : s.ckm.stopped = false) : restart s = s := if_neg (by simp [h])

theorem exec_refclkComparison (s : State) (n m : Nat) (la lb : Bool) (hpor : s.pins.porHeld = false) (ha : s.ckm.refA.st = 1)
    (hb : s.ckm.refB.st = 1) : exec (.refclkComparison n m la lb) s = .next (if inWindow s.ckm.tolPpm n && inWindow s.ckm.tolPpm m then
      restart (passCmp (compared s n m)) else failCmp (compared s n m) la lb) := by
  change execRefclkComparison n m la lb s = _
  rw [execRefclkComparison, if_neg (by simp [hpor, ha, hb]), apply_ite Host.Outcome.next]
  rfl

/-- The fourth comparison in window selects both references, REFCLKA first as core source (R326, R328). -/
theorem fourthComparison_selects (s : State) (n m : Nat) (hpor : s.pins.porHeld = false) (hrun : s.ckm.stopped = false)
    (ha : (refOf s .a).st = 1) (hb : (refOf s .b).st = 1) (hn : inWindow s.ckm.tolPpm n = true) (hm : inWindow s.ckm.tolPpm m = true)
    (ga : (refOf s .a).goodCmps = 3) (gb : (refOf s .b).goodCmps = 3) (hplls : s.ckm.plls = []) :
    ∃ u, exec (.refclkComparison n m true true) s = .next u ∧ (refOf u .a).st = 2 ∧ (refOf u .b).st = 2 ∧ u.ckm.coreSrc = false ∧
      (refOf u .a).cmp = min 0x1FFFF n ∧ (refOf u .b).cmp = min 0x1FFFF m ∧ bit u.ckm.evt 2 = true ∧ bit u.ckm.evt 3 = true := by
  generalize hc : compared s n m = c
  have hca : refOf c .a = { refOf s .a with cmp := min 0x1FFFF n } := hc ▸ rfl
  have hcb : refOf c .b = { refOf s .b with cmp := min 0x1FFFF m } := hc ▸ rfl
  have hpass := passCmp_both c (hca ▸ ha) (hcb ▸ hb) (hca ▸ ga) (hcb ▸ gb)
  have hcounted : (counted c).ckm.plls = [] ∧ (counted c).ckm.stopped = false := by subst hc; exact ⟨hplls, hrun⟩
  obtain ⟨hself, hother, hevt, -, hstop⟩ := selectRef_refs (counted c) .a
  obtain ⟨hself', hother', hevt', hold', hstop'⟩ := selectRef_refs (selectRef (counted c) .a) .b
  have hfirst := selectRef_first (counted c) .a (by rw [hcounted.1]; rfl)
  obtain ⟨hsrc, hhold, hon⟩ := hfirst
  have hlater := selectRef_later (selectRef (counted c) .a) .b hon hhold
  have hx := exec_refclkComparison s n m true true hpor ha hb
  rw [hn, hm, hc, hpass] at hx
  have ha2 : refOf (selectRef (selectRef (counted c) .a) .b) .a = refOf (selectRef (counted c) .a) .a := hother'
  have hb2 : refOf (selectRef (counted c) .a) .b = refOf (counted c) .b := hother
  refine ⟨_, hx, ?_⟩
  rw [Bool.and_self, if_pos rfl, restart_running _ (by rw [hstop', hstop, hcounted.2])]
  refine ⟨by rw [ha2, hself], by rw [hself'], hlater.trans hsrc, ?_, ?_, hold' _ hevt, hevt'⟩
  · rw [ha2, hself]; exact congrArg RefSt.cmp hca
  · rw [hself', hb2]; exact congrArg RefSt.cmp hcb

/-- A window out of tolerance starts the counts of two Judging references again (R326). -/
theorem badComparison_restarts (s : State) (n m : Nat) (hpor : s.pins.porHeld = false) (ha : s.ckm.refA.st = 1) (hb : s.ckm.refB.st = 1)
    (hn : inWindow s.ckm.tolPpm n = false) : ∃ u, exec (.refclkComparison n m true true) s = .next u ∧ Only [.ckm] s u ∧
      (refOf u .a).st = 1 ∧ (refOf u .b).st = 1 ∧ (refOf u .a).goodCmps = 0 ∧ (refOf u .b).goodCmps = 0 := by
  have hx := exec_refclkComparison s n m true true hpor ha hb
  rw [hn, Bool.false_and, if_neg Bool.false_ne_true] at hx
  have hfail : failCmp (compared s n m) true true =
      modRef (modRef (compared s n m) .a fun x => { x with goodCmps := 0 }) .b fun x => { x with goodCmps := 0 } := by
    simp [failCmp, compared, modRef, refOf, ha, hb, coreRef, Port.other]
    split <;> simp
  refine ⟨_, hx, ?_⟩
  rw [hfail]
  exact ⟨(only_modRef _ _ _).trans ((only_modRef _ _ _).trans ((only_modRef _ _ _).trans (only_modRef _ _ _))), ha, hb, rfl, rfl⟩

/-! ### A boot on one reference -/

/-- The PLLs of a boot on one reference, taken as stable after their lock (R330). -/
def bootPlls (r : Port) : List Nat := corePlls ++ [11 + r.num]

/-- The clocks of a boot on one reference, before the PLLs are taken as stable (R330). -/
def singleSource (s : State) (r : Port) : State :=
  let t := setCore { s with ckm := { s.ckm with unmonitored := true } } r
  if (Tab.get {} t.ckm.plls (11 + r.num)).on then t else startPll t (11 + r.num) r

/-- The clocks of a boot on one reference (R330). -/
def singleBoot (s : State) (r : Port) : State :=
  setCkmEvt ((bootPlls r).foldl (fun s p => modPll s p fun x => { x with stable := true }) (singleSource s r)) 6 0

theorem exec_singleReferenceBoot (s : State) (r : Port) (hpor : s.pins.porHeld = false) (hrun : s.ckm.stopped = false)
    (hready : s.boot.ready = false) (hphase : s.boot.phase = 2) (hplls : s.ckm.plls = []) (hr : (refOf s r).st = 1)
    (ho : (refOf s r.other).st = 0) (ht : (refOf s r).sinceNs + 100000000 ≤ s.nowNs) :
    exec .singleReferenceBoot s = .next (singleBoot s r) := by
  have hoff : ¬(corePlls.all fun p => (Tab.get {} s.ckm.plls p).stable) = true := by rw [hplls]; decide
  change execSingleReferenceBoot s = _
  rw [execSingleReferenceBoot, if_neg (by simp only [hpor, hrun, hready, hphase, hoff]; decide)]
  cases r
  · exact if_pos ⟨by rw [hr]; decide, ho, ht⟩
  · have hna : ¬(refOf s .a).st ≠ 0 := fun h => h ho
    rw [if_neg fun h => hna h.1]
    exact if_pos ⟨by rw [hr]; decide, ho, ht⟩

theorem unmonitored_foldl_modPll (f : Pll → Pll) (l : List Nat) (s : State) :
    (l.foldl (fun s p => modPll s p f) s).ckm.unmonitored = s.ckm.unmonitored :=
  foldl_field (fun u => u.ckm.unmonitored) (fun s p => modPll s p f) (fun _ _ => rfl) _ _

theorem singleSource_core (s : State) (r : Port) : (singleSource s r).ckm.unmonitored = true ∧ (singleSource s r).ckm.coreSrc = (r == .b) := by
  have h : ∀ u : State, u.ckm.unmonitored = true → (setCore u r).ckm.unmonitored = true ∧ (setCore u r).ckm.coreSrc = (r == .b) := by
    intro u hu
    refine ⟨?_, (coreSrc_setCore _ _).1⟩
    rw [setCore_eq]
    exact (unmonitored_foldl_modPll _ _ _).trans hu
  unfold singleSource
  dsimp only
  split <;> exact h _ rfl

theorem singleBoot_spec (s : State) (r : Port) : clocksUp (singleBoot s r) = true ∧ (singleBoot s r).ckm.unmonitored = true ∧
    (singleBoot s r).ckm.coreSrc = (r == .b) ∧ bit (singleBoot s r).ckm.evt 6 = true := by
  obtain ⟨hmon, hsrc⟩ := singleSource_core s r
  have hnodup : (bootPlls r).Nodup := by cases r <;> decide
  generalize hf : (bootPlls r).foldl (fun s p => modPll s p fun x => { x with stable := true }) (singleSource s r) = t
  have hplls := plls_foldl_modPll (fun x => { x with stable := true }) (bootPlls r) (singleSource s r) hnodup
  have hcore := coreSrc_foldl_modPll (fun x => { x with stable := true }) (bootPlls r) (singleSource s r)
  have hun := unmonitored_foldl_modPll (fun x => { x with stable := true }) (bootPlls r) (singleSource s r)
  rw [hf] at hplls hcore hun
  have heq : singleBoot s r = setCkmEvt t 6 0 := by rw [← hf]; rfl
  rw [heq]
  refine ⟨List.all_eq_true.mpr fun n hn => ?_, ?_, ?_, ?_⟩ <;> rw [ckm_setCkmEvt]
  · have hmem : n ∈ bootPlls r := List.mem_append_left _ hn
    rw [hplls, if_pos hmem]
  · exact hun.trans hmon
  · exact hcore.1.trans hsrc
  · exact bit_setBit_self _ _

/-! ### Faults of the clocks -/

/-- A core PLL's fault: what is noted before the warm reset (R329). -/
def pllNoted (s : State) (n : Nat) : State :=
  wake (setCkmEvt (modPll s n fun x => { x with fault := true, stable := false, lock := false }) 5 n) 9

/-- The fault of a core PLL that serves the whole device ends in the warm reset of cause 6 (R329). -/
theorem exec_pllFault_core (s : State) (n : Nat) (hpor : s.pins.porHeld = false) (hrun : s.ckm.stopped = false)
    (hn : n = 0 ∨ n = 9 ∨ n = 10) (hon : (Tab.get {} s.ckm.plls n).on = true) :
    exec (.pllFault n []) s = .next (warmReset (pllNoted s n) 6) := by
  change execPllFault n [] s = _
  rw [execPllFault, if_neg (by simp only [hpor, hrun, hon, Bool.false_eq_true, Bool.not_true, false_or, or_false]; omega),
    if_neg (by omega), if_neg (by omega)]
  rfl

/-- Settles O51: each event's equation, and what a deselection, a selection and the start of PLLs leave of the references (`RefsKept`). -/
theorem referencesAreJudged : Obligations.ReferencesAreJudged := by
  unfold Obligations.ReferencesAreJudged
  intro s r n m hpor
  refine ⟨fun hrun ho => ⟨fun hr => ?_, fun hr => ?_⟩, fun hrun ha hb => ⟨fun hn hm ga gb hplls => ?_, fun hn => ?_⟩, fun hr => ?_,
    fun hrun hready hphase hplls hr ho ht => ?_, fun hrun hn hon => ?_, fun hrun => ?_⟩
  · refine ⟨_, ?_, deselect_spec s r 0⟩
    change execRefclkMissing r s = _
    rw [execRefclkMissing, if_neg (by simp [hpor, hrun, ho]), if_pos hr]
  · change execRefclkMissing r s = _
    rw [execRefclkMissing, if_neg (by simp [hpor, hrun, ho]), if_neg hr]
  · exact fourthComparison_selects s n m hpor hrun ha hb hn hm ga gb hplls
  · exact badComparison_restarts s n m hpor ha hb hn
  · change execRefclkEdgesReturn r s = _
    rw [execRefclkEdgesReturn, if_neg (by simp [hpor, hr])]
  · exact ⟨_, exec_singleReferenceBoot s r hpor hrun hready hphase hplls hr ho ht, singleBoot_spec s r⟩
  · refine ⟨_, exec_pllFault_core s n hpor hrun hn hon, rfl, rfl, rfl, rfl, ?_⟩
    rw [warmReset_fuse, pllNoted, wake_fuse, setCkmEvt_fuse, modPll_fuse]
  · exact ⟨_, if_neg (by simp [hpor, hrun]), rfl, rfl, rfl, rfl, rfl, rfl, rfl⟩

end Sys2Proof.Machine
end

section
/-! PROOFS. The persisted log, the frozen ring, and the fetches of event records (R386 to R389, R392, R393). -/

namespace Sys2Proof.Machine

/-! ### Persist writes -/

theorem log_writePage_getLast (e : Evr) (l : List EvRec) (x : EvRec) (h : l.getLast? = some x) :
    ∃ n, (writePage e l).log.getLast? = some (n, x) := by
  have hadd : ∃ n, (((List.range l.length).map fun i => (e.logNext + i) % p32).zip l).getLast? = some (n, x) := by
    have hne : l ≠ [] := by rintro rfl; simp at h
    have hlen : 0 < l.length := List.length_pos_iff.mpr hne
    refine ⟨(e.logNext + (l.length - 1)) % p32, ?_⟩
    rw [List.getLast?_eq_getElem?] at h ⊢
    have hsize : (((List.range l.length).map fun i => (e.logNext + i) % p32).zip l).length = l.length := by simp
    rw [hsize, List.getElem?_zip_eq_some]
    exact ⟨by rw [List.getElem?_map, List.getElem?_range (by omega)]; rfl, h⟩
  obtain ⟨n, hn⟩ := hadd
  exact ⟨n, by simp only [writePage, List.getLast?_append, hn, Option.some_or]⟩

/-- The last of more than one page's records is left for the next page. -/
theorem getLast?_drop_page (l : List EvRec) (h : 512 < l.length) : (l.drop 512).getLast? = l.getLast? := by
  rw [List.getLast?_drop, if_neg (by omega)]

theorem log_writePages_getLast (n : Nat) (e : Evr) (l : List EvRec) (x : EvRec) (hx : l.getLast? = some x) (hl : l.length ≤ 512 * n) :
    ∃ k, (writePages n e l).log.getLast? = some (k, x) := by
  have hne : l.isEmpty = false := by cases l <;> simp at hx ⊢
  induction n generalizing e l with
  | zero => have := List.isEmpty_eq_false_iff.mp hne; have := List.length_pos_iff.mpr this; omega
  | succ n ih =>
    rw [writePages, hne, if_neg Bool.false_ne_true]
    by_cases hpage : l.length ≤ 512
    · rw [List.take_of_length_le hpage, List.drop_of_length_le hpage]
      have hdone : ∀ k e', writePages k e' [] = e' := fun k e' => by cases k <;> rfl
      rw [hdone]
      exact log_writePage_getLast e l x hx
    · have hlong : 512 < l.length := by omega
      refine ih _ (l.drop 512) (by rw [getLast?_drop_page l hlong, hx]) (by rw [List.length_drop]; omega) ?_
      rw [List.isEmpty_eq_false_iff, ← List.length_pos_iff, List.length_drop]
      omega

/-- Whichever pages fail, the last record that waited is the last of the log (R388). -/
theorem log_tryPages_getLast (fails : List Bool) (e : Evr) (l : List EvRec) (x : EvRec) (hx : l.getLast? = some x) (hl : l.length ≤ 8192) :
    ∃ k, (tryPages fails e l).log.getLast? = some (k, x) := by
  have hne : l.isEmpty = false := by cases l <;> simp at hx ⊢
  induction fails generalizing e l with
  | nil => exact log_writePages_getLast 16 e l x hx hl
  | cons fail fails ih =>
    rw [tryPages, hne, if_neg Bool.false_ne_true]
    cases fail with
    | true => exact ih _ _ hx hl hne
    | false =>
      rw [if_neg Bool.false_ne_true]
      by_cases hpage : l.length ≤ 512
      · rw [List.take_of_length_le hpage, List.drop_of_length_le hpage]
        have hdone : ∀ e', tryPages fails e' [] = e' := fun e' => by cases fails <;> rfl
        rw [hdone]
        exact log_writePage_getLast e l x hx
      · have hlong : 512 < l.length := by omega
        refine ih _ (l.drop 512) (by rw [getLast?_drop_page l hlong, hx]) (by rw [List.length_drop]; omega) ?_
        rw [List.isEmpty_eq_false_iff, ← List.length_pos_iff, List.length_drop]
        omega

/-- What a persist write leaves of the recorder: the ring, and what CLR and FREEZE hold. -/
structure RingKept (e e' : Evr) : Prop where
  ring : e'.ring = e.ring
  next : e'.next = e.next
  frozen : e'.frozen = e.frozen

theorem RingKept.trans {e e' e'' : Evr} (h : RingKept e e') (h' : RingKept e' e'') : RingKept e e'' :=
  ⟨h'.ring.trans h.ring, h'.next.trans h.next, h'.frozen.trans h.frozen⟩

theorem ringKept_writePage (e : Evr) (l : List EvRec) : RingKept e (writePage e l) := ⟨rfl, rfl, rfl⟩

theorem ringKept_writePages (n : Nat) (e : Evr) (l : List EvRec) : RingKept e (writePages n e l) := by
  induction n generalizing e l with
  | zero => exact ⟨rfl, rfl, rfl⟩
  | succ n ih =>
    rw [writePages]
    split
    · exact ⟨rfl, rfl, rfl⟩
    · exact (ringKept_writePage _ _).trans (ih _ _)

theorem ringKept_tryPages (fails : List Bool) (e : Evr) (l : List EvRec) : RingKept e (tryPages fails e l) := by
  induction fails generalizing e l with
  | nil => exact ringKept_writePages _ _ _
  | cons fail fails ih =>
    rw [tryPages]
    split
    · exact ⟨rfl, rfl, rfl⟩
    · split
      · exact (ringKept_writePage _ _).trans (ih _ _)
      · exact (ringKept_writePage _ _).trans (ih _ _)

theorem ringKept_persistOnce (fails : List Bool) (s : State) : RingKept s.evr (persistOnce fails s).evr :=
  RingKept.trans (ringKept_tryPages fails s.evr (s.evr.waiting.take 8192)) ⟨rfl, rfl, rfl⟩

theorem ringKept_persistAll (s : State) : RingKept s.evr (persistAll s).evr := by
  unfold persistAll
  split
  · exact ⟨rfl, rfl, rfl⟩
  · exact (ringKept_persistOnce _ _).trans (ringKept_persistOnce _ _)

/-! ### What a new record leaves of the recorder -/

/-- A new record leaves the log and a clear under way, and a frozen ring as it is (R392). -/
structure Noted (e e' : Evr) : Prop where
  log : e'.log = e.log
  logFirst : e'.logFirst = e.logFirst
  clearing : e'.clearing = e.clearing
  frozen : e'.frozen = e.frozen
  ring : e.frozen = true → e'.ring = e.ring ∧ e'.first = e.first

theorem Noted.refl (e : Evr) : Noted e e := ⟨rfl, rfl, rfl, rfl, fun _ => ⟨rfl, rfl⟩⟩

theorem Noted.trans {e e' e'' : Evr} (h : Noted e e') (h' : Noted e' e'') : Noted e e'' :=
  ⟨h'.log.trans h.log, h'.logFirst.trans h.logFirst, h'.clearing.trans h.clearing, h'.frozen.trans h.frozen, fun hf =>
    ⟨(h'.ring (h.frozen.trans hf)).1.trans (h.ring hf).1, (h'.ring (h.frozen.trans hf)).2.trans (h.ring hf).2⟩⟩

theorem noted_storeRec (e : Evr) (r : EvRec) : Noted e (storeRec e r) := by
  unfold storeRec
  dsimp only
  split
  · split <;> exact ⟨rfl, rfl, rfl, rfl, fun _ => ⟨rfl, rfl⟩⟩
  · exact ⟨rfl, rfl, rfl, rfl, fun h => absurd h ‹_›⟩

theorem noted_rawEv (s : State) (sev source code : Nat) (pl : List Byte) : Noted s.evr (rawEv s sev source code pl).evr := by
  unfold rawEv
  dsimp only
  have hend : ∀ u : State, Noted s.evr u.evr → Noted s.evr (if sev ≥ 3 then firePf0 { u with evr := { u.evr with stErr := true } } 8 else u).evr := by
    intro u hu
    split
    · rw [firePf0_evr]; exact hu.trans ⟨rfl, rfl, rfl, rfl, fun _ => ⟨rfl, rfl⟩⟩
    · exact hu
  refine hend _ ?_
  split
  · exact (noted_storeRec _ _).trans (noted_storeRec _ _)
  · exact noted_storeRec _ _

/-- EVR_REPEATS counts the occurrences suppressed (R386). -/
def repeatCounted (s : State) (x : Nat × Nat) : State := { s with evr := { s.evr with repeatCnt := satAdd 0xFFFFFFFF s.evr.repeatCnt x.2 } }

/-- The REPEAT record of one pair of SOURCE and CODE (R386). -/
def repeated (s : State) (x : Nat × Nat) : State :=
  rawEv (repeatCounted s x) 1 0 0x0003
    (leBytes 2 x.1 ++ leBytes 2 (x.1 / 65536) ++ leBytes 4 x.2)

/-- The counters of a new second of operating time (R386). -/
def newSecond (s : State) : State := { s with evr := { s.evr with excess := [], seen := [], sec := opMs s / 1000 } }

theorem endSecond_eq (s : State) : endSecond s = if s.evr.sec = opMs s / 1000 then s else s.evr.excess.foldl repeated (newSecond s) := rfl

theorem noted_repeated (s : State) (x : Nat × Nat) : Noted s.evr (repeated s x).evr :=
  Noted.trans (e' := (repeatCounted s x).evr) ⟨rfl, rfl, rfl, rfl, fun _ => ⟨rfl, rfl⟩⟩ (noted_rawEv (repeatCounted s x) _ _ _ _)

theorem noted_foldl_repeated (l : List (Nat × Nat)) (s : State) : Noted s.evr (l.foldl repeated s).evr := by
  induction l generalizing s with
  | nil => exact .refl _
  | cons x l ih => exact (noted_repeated s x).trans (ih _)

theorem noted_endSecond (s : State) : Noted s.evr (endSecond s).evr := by
  rw [endSecond_eq]
  split
  · exact .refl _
  · have hnew : Noted s.evr (newSecond s).evr := ⟨rfl, rfl, rfl, rfl, fun _ => ⟨rfl, rfl⟩⟩
    exact hnew.trans (noted_foldl_repeated _ _)

theorem noted_logEv (s : State) (sev source code : Nat) (pl : List Byte) : Noted s.evr (logEv s sev source code pl).evr := by
  unfold logEv logUpTo
  dsimp only
  refine (noted_endSecond s).trans ?_
  generalize endSecond s = t
  split
  · exact ⟨rfl, rfl, rfl, rfl, fun _ => ⟨rfl, rfl⟩⟩
  · exact Noted.trans (e' := { t.evr with seen := bump t.evr.seen (source * 65536 + code) 1 }) ⟨rfl, rfl, rfl, rfl, fun _ => ⟨rfl, rfl⟩⟩
      (noted_rawEv { t with evr := { t.evr with seen := bump t.evr.seen (source * 65536 + code) 1 } } _ _ _ _)

/-! ### REPEAT records -/

theorem excess_rawEv (s : State) (source code : Nat) (pl : List Byte) : (rawEv s 1 source code pl).evr.excess = s.evr.excess := by
  have hst : ∀ e r, (storeRec e r).excess = e.excess := by
    intro e r
    unfold storeRec
    dsimp only
    split
    · split <;> rfl
    · rfl
  unfold rawEv
  dsimp only
  rw [if_neg (by decide)]
  split
  · exact (hst _ _).trans (hst _ _)
  · exact hst _ _

/-- The second that ends with one suppressed pair: its REPEAT record (R386). -/
theorem endSecond_one (s : State) (e : Nat × Nat) (he : s.evr.excess = [e]) (hs : opMs s / 1000 ≠ s.evr.sec) :
    endSecond s = repeated (newSecond s) e := by
  rw [endSecond_eq, if_neg (Ne.symm hs), he]
  rfl

/-! ### Freeze and clear -/

/-- SRC and AUTOINC of a port's window (R389). -/
def ctlTaken (s : State) (p : Port) (v : Word) : State :=
  modPort (woken s p 3) p fun q => { q with win := { q.win with evrSrc := flag v 8, evrAuto := flag v 1 } }

theorem evr_ctlTaken (s : State) (p : Port) (v : Word) : (ctlTaken s p v).evr = s.evr :=
  (modPort_evr _ _ _).trans (only_woken s p 3 .evr (by cases p <;> simp [portPart]))

theorem win_ctlTaken (s : State) (p : Port) (v : Word) :
    (getPort (ctlTaken s p v) p).win.evrSrc = flag v 8 ∧ (getPort (ctlTaken s p v) p).win.evrAuto = flag v 1 := by
  simp [ctlTaken]

theorem only_ctlTaken (s : State) (p : Port) (v : Word) : Only [portPart p, .evr] (woken s p 3) (ctlTaken s p v) :=
  (only_modPort _ _ _).mono (by simp)

/-- What a write of EVR_CTL does once SRC and AUTOINC are taken (R392, R393). -/
def ctlActs (t : State) (p : Port) (v : Word) : State :=
  let u := if flag v 0 then { t with evr := { t.evr with frozen := true } } else unfreeze t
  if !flag v 2 then u
  else if !t.evr.frozen then { u with evr := { u.evr with stDenied := true } }
  else if u.evr.clearing.isSome then u
  else { u with evr := { u.evr with clearing := some (flag v 8, p.num + 1) } }

/-- The outcome of a write of EVR_CTL once SRC and AUTOINC are taken; `was` is FREEZE before it. -/
def ctlNext (t : State) (was : Bool) (p : Port) (v : Word) : Res :=
  let u := if flag v 0 then { t with evr := { t.evr with frozen := true } } else unfreeze t
  if !flag v 2 then .next u
  else if !was then .next { u with evr := { u.evr with stDenied := true } }
  else if u.evr.clearing.isSome then .next u
  else .next { u with evr := { u.evr with clearing := some (flag v 8, p.num + 1) } }

theorem ctlNext_eq (t : State) (p : Port) (v : Word) : ctlNext t t.evr.frozen p v = .next (ctlActs t p v) := by
  unfold ctlNext ctlActs
  dsimp only
  generalize (if flag v 0 = true then { t with evr := { t.evr with frozen := true } } else unfreeze t) = u
  split
  · rfl
  · split
    · rfl
    · split <;> rfl

theorem writeEvrCtl_writable (s : State) (p : Port) (v : Word) (hw : Writable s p 0) (hv : v.toNat &&& 0xFFFFFEF8 = 0) :
    writeEvrCtl p v s = .next (ctlActs (ctlTaken s p v) p v) := by
  rw [writeEvrCtl, regWrite_writable _ hw, if_neg (by omega)]
  have hwas : (woken s p 3).evr.frozen = (ctlTaken s p v).evr.frozen := by rw [ctlTaken, modPort_evr]
  change ctlNext (ctlTaken s p v) (woken s p 3).evr.frozen p v = _
  rw [hwas]
  exact ctlNext_eq _ p v

/-- FREEZE becomes 0 with nothing dropped: what was held is in the ring (R392). -/
theorem unfreeze_held (s : State) (h : s.evr.frozen = true) (hd : s.evr.holdDropped = 0) : Only [.evr] s (unfreeze s) ∧
    (unfreeze s).evr.frozen = false ∧ (unfreeze s).evr.hold = [] ∧ (∀ r ∈ s.evr.hold, r ∈ (unfreeze s).evr.ring) ∧
    (unfreeze s).evr.evNext = s.evr.evNext := by
  have hfrozen : ¬(!s.evr.frozen) = true := by rw [h]; decide
  rw [unfreeze, if_neg hfrozen]
  dsimp only
  rw [if_pos hd]
  exact ⟨only_evr _ _, rfl, rfl, fun r hr => List.mem_append_right _ hr, rfl⟩

/-- The log emptied, or the ring once its waiting records are persisted (R393). -/
def cleared (s : State) (isLog : Bool) : State :=
  if isLog then { s with evr := { s.evr with log := [], logFirst := s.evr.logNext, logStarts := [], logPages := [], logPage := 0, clearing := none } }
  else { persistAll s with evr := { (persistAll s).evr with ring := [], first := (persistAll s).evr.next, clearing := none } }

theorem exec_evrClearDone (s : State) (isLog : Bool) (a : Nat) (hc : s.evr.clearing = some (isLog, a)) (hk : s.hlt.known = true) :
    exec .evrClearDone s = .next (logEv (cleared s isLog) 2 0 0x0004 (leBytes 1 a ++ leBytes 1 (b2n isLog) ++ leBytes 2 0 ++
      leBytes 4 (if isLog then (cleared s isLog).evr.logFirst else (cleared s isLog).evr.first))) := by
  change execEvrClearDone s = _
  unfold execEvrClearDone
  rw [hc]
  dsimp only
  rw [hk]
  cases isLog <;> rfl

theorem only_cleared (s : State) (isLog : Bool) : Only [.evr, .pa, .pb, .out] s (cleared s isLog) := by
  unfold cleared
  split
  · exact (only_evr _ _).mono (by simp)
  · exact ((only_persistAll s).mono (by simp)).andThen (only_evr _ _) (by simp)

/-! ### Fetches -/

/-- A fetch that finds its record ends by what the source's storage holds (R389). -/
def fetched (s : State) (f : RecFetch) (r : EvRec) : State :=
  match f.found with
  | .stored l => if leBytes 4 (crc32c (l.take 28)).toNat = l.drop 28 then endFetch s f.port 1 (recBytes r) else endFetch s f.port 3 l
  | .pageLost => if (getPort s f.port).win.evrSrc then badPage s f.port (getPort s f.port).win.evrCursor else endFetch s f.port 1 (recBytes r)
  | .intact => endFetch s f.port 1 (recBytes r)

theorem exec_evrFetchDone (s : State) (f : RecFetch) (hb : (getPort s f.port).win.evrBusy = true) (r : EvRec)
    (hr : fetchRec s.evr (getPort s f.port).win.evrSrc (getPort s f.port).win.evrCursor = some r) :
    exec (.evrFetchDone f) s = .next (fetched s f r) := by
  change execEvrFetchDone f s = _
  unfold execEvrFetchDone
  dsimp only
  rw [hb, hr, if_neg (by decide), fetched]
  cases f.found <;> rfl

theorem exec_evrFetchDone_none (s : State) (f : RecFetch) (hb : (getPort s f.port).win.evrBusy = true)
    (hr : fetchRec s.evr (getPort s f.port).win.evrSrc (getPort s f.port).win.evrCursor = none) :
    exec (.evrFetchDone f) s = .next (endFetch s f.port 2 (List.replicate 32 0)) := by
  change execEvrFetchDone f s = _
  unfold execEvrFetchDone
  dsimp only
  rw [hb, hr, if_neg (by decide)]

/-- A log page is noted as unreadable; the data of the fetch is a free value (R389). -/
def pageFound (s : State) (pos : Nat) : State :=
  { s with
    freeCtr := s.freeCtr + 8
    evr := { s.evr with badPages := if s.evr.badPages.contains (pageOf s.evr pos) then s.evr.badPages else s.evr.badPages ++ [pageOf s.evr pos] } }

theorem only_pageFound (s : State) (pos : Nat) : Only [.evr, .freeCtr] s (pageFound s pos) := fun q hq => by
  cases q <;> simp at hq <;> rfl

theorem badPage_eq (s : State) (p : Port) (pos : Nat) : badPage s p pos =
    endFetch (pageFound s pos) p 4 ((List.range 8).flatMap fun i => leBytes 4 (Config.openField (s.freeCtr + i))) := rfl

theorem mem_badPages_pageFound (s : State) (pos : Nat) : pageOf s.evr pos ∈ (pageFound s pos).evr.badPages := by
  unfold pageFound
  dsimp only
  split
  · exact List.contains_iff_mem.mp ‹_›
  · simp

theorem badPage_spec (s : State) (p : Port) (pos : Nat) : Only [portPart p, .evr, .freeCtr] s (badPage s p pos) ∧
    (getPort (badPage s p pos) p).win.evrResult = 4 ∧ (getPort (badPage s p pos) p).win.evrDone = true ∧
    (getPort (badPage s p pos) p).win.evrBusy = false ∧ pageOf s.evr pos ∈ (badPage s p pos).evr.badPages ∧
    (badPage s p pos).evr.log = s.evr.log ∧ (badPage s p pos).evr.ring = s.evr.ring := by
  rw [badPage_eq, endFetch, getPort_modPort_self, modPort_evr]
  exact ⟨((only_pageFound s pos).mono (by simp)).andThen (only_modPort _ _ _) (by simp), rfl, rfl, rfl, mem_badPages_pageFound s pos, rfl, rfl⟩

theorem win_woken (s : State) (p : Port) (c : Nat) : (getPort (woken s p c) p).win = (getPort s p).win := by
  rw [getPort_woken, if_pos rfl]

/-- A read of EVR_DATA7 returns bytes 28 to 31, and with AUTOINC 1 fetches at the next position (R389). -/
theorem exec_evrData7Read (s : State) (p : Port) (h : Reaches s p 0) : exec (.evrData7Read p) s = .next
    (if (getPort s p).win.evrAuto then startFetch (emit (woken s p 3) (.value p (BitVec.ofNat 32 (leAt (getPort s p).win.evrData 28 4)))) p
      ((getPort s p).win.evrCursor + 1)
    else emit (woken s p 3) (.value p (BitVec.ofNat 32 (leAt (getPort s p).win.evrData 28 4)))) := by
  change execEvrData7Read p s = _
  rw [execEvrData7Read, hostAccess_reaches _ _ h, apply_ite Host.Outcome.next, ← win_woken s p 3]

@[simp] theorem getPort_emit (s : State) (o : Out) (p : Port) : getPort (emit s o) p = getPort s p := by cases p <;> rfl

theorem only_startFetch (s : State) (p : Port) (c : Nat) : Only [portPart p] s (startFetch s p c) := only_modPort _ _ _

theorem win_startFetch (s : State) (p : Port) (c : Nat) : (getPort (startFetch s p c) p).win =
    { (getPort s p).win with evrCursor := c % p32, evrDone := false, evrBusy := true } := by
  rw [startFetch, getPort_modPort_self]

/-- Settles O56. -/
theorem recordsAreKept : Obligations.RecordsAreKept := by
  unfold Obligations.RecordsAreKept
  refine ⟨fun s p v => ⟨fun hk hw hl hd hc hstop hp => ?_, fun e he hs hf => ?_, fun hw hv => ⟨fun h0 h2 => ?_, fun h0 h2 hf hd => ?_,
    fun h0 h2 hf => ?_, fun h0 h2 hf hc => ?_⟩, fun a ha hk => ?_, fun a ha hk hf => ?_, fun hk => ?_⟩, fun s p v => ⟨fun hw => ?_, fun hb hs =>
    ⟨fun r hr => ?_, fun hno x => ?_⟩, fun r hb hr => ⟨fun l hl => ?_, fun hs => ?_⟩, fun hr => ?_⟩⟩
  · have hne : s.evr.waiting ≠ [] := List.length_pos_iff.mp hw
    obtain ⟨x, hx⟩ : ∃ x, s.evr.waiting.getLast? = some x := ⟨_, List.getLast?_eq_some_getLast hne⟩
    have htake : s.evr.waiting.take 8192 = s.evr.waiting := List.take_of_length_le hl
    obtain ⟨k, hlast⟩ := log_tryPages_getLast (Config.logFails s.freeCtr) s.evr (s.evr.waiting.take 8192) x (htake.symm ▸ hx) (htake.symm ▸ hl)
    have hx' : exec .eventPersistWrite s = .next (persistOnce (Config.logFails s.freeCtr) { s with freeCtr := s.freeCtr + 1 }) := by
      change execEventPersistWrite s = _
      rw [execEventPersistWrite, if_pos (by simp [hk, hne, hd, hc, hstop, hp])]
    exact ⟨_, x, k, hx', ((only_freeCtr _ _).mono (by simp)).andThen (only_persistOnce _ _) (by simp), List.drop_of_length_le hl, hx, hlast,
      (ringKept_persistOnce _ _).ring, rfl⟩
  · refine ⟨endSecond s, rfl, (only_endSecond s).mono (by simp), ?_, ?_⟩
    · rw [endSecond_one s e he hs, repeated, excess_rawEv]; rfl
    · rw [endSecond_one s e he hs]
      exact rawEv_recorded_of _ _ _ _ _ _ hf rfl
  · refine ⟨_, writeEvrCtl_writable s p v hw hv, ?_⟩
    rw [ctlActs, h0, h2]
    exact ⟨(only_ctlTaken s p v).andThen (only_evr _ _) (by simp), congrArg (fun e : Evr => { e with frozen := true }) (evr_ctlTaken s p v),
      win_ctlTaken s p v⟩
  · refine ⟨_, writeEvrCtl_writable s p v hw hv, ?_⟩
    have he := evr_ctlTaken s p v
    rw [ctlActs, h0, h2]
    obtain ⟨honly, h⟩ := unfreeze_held (ctlTaken s p v) (by rw [he, hf]) (by rw [he, hd])
    rw [he] at h
    exact ⟨(only_ctlTaken s p v).andThen honly (by simp), h⟩
  · refine ⟨_, writeEvrCtl_writable s p v hw hv, ?_⟩
    simp only [ctlActs, h0, h2, evr_ctlTaken, hf, if_true, Bool.not_true, Bool.not_false, Bool.false_eq_true, if_false]
  · refine ⟨_, writeEvrCtl_writable s p v hw hv, ?_⟩
    have he := evr_ctlTaken s p v
    simp only [ctlActs, h0, h2, he, hf, hc, if_true, Bool.not_true, Bool.false_eq_true, if_false, Option.isSome_none]
  · have hnoted := noted_logEv (cleared s true) 2 0 0x0004 (leBytes 1 a ++ leBytes 1 1 ++ leBytes 2 0 ++ leBytes 4 s.evr.logNext)
    refine ⟨_, exec_evrClearDone s true a ha hk, (only_cleared s true).trans ((only_logEv _ _ _ _ _).mono (by simp)), hnoted.log, hnoted.logFirst,
      hnoted.clearing, fun hrec => ?_⟩
    exact logEv_recorded (cleared s true) _ _ _ _ hrec
  · have hkept := ringKept_persistAll s
    have hnoted := noted_logEv (cleared s false) 2 0 0x0004 (leBytes 1 a ++ leBytes 1 0 ++ leBytes 2 0 ++ leBytes 4 (persistAll s).evr.next)
    have hfrozen : (cleared s false).evr.frozen = true := hkept.frozen.trans hf
    exact ⟨_, exec_evrClearDone s false a ha hk, (only_cleared s false).trans ((only_logEv _ _ _ _ _).mono (by simp)),
      (hnoted.ring hfrozen).1, (hnoted.ring hfrozen).2.trans hkept.next, hnoted.clearing⟩
  · change execEvrClearDone s = _
    unfold execEvrClearDone
    split
    · rfl
    · rw [hk]; rfl
  · change execEvrCursor p v s = _
    rw [execEvrCursor, regWrite_writable _ hw, startFetch]
  · have hfound : fetchRec s.evr (getPort s p).win.evrSrc (getPort s p).win.evrCursor = some r := by rw [hs]; exact hr
    exact exec_evrFetchDone s ⟨p, .intact⟩ hb r hfound
  · have hnone : fetchRec s.evr (getPort s p).win.evrSrc (getPort s p).win.evrCursor = none := by
      rw [hs]
      exact List.find?_eq_none.mpr fun y hy => by simpa using hno y hy
    exact exec_evrFetchDone_none s ⟨p, x⟩ hb hnone
  · rw [exec_evrFetchDone s ⟨p, .stored l⟩ hb r hr]
    exact congrArg _ (if_neg hl)
  · refine ⟨badPage s p (getPort s p).win.evrCursor, ?_, badPage_spec s p _⟩
    rw [exec_evrFetchDone s ⟨p, .pageLost⟩ hb r hr]
    exact congrArg _ (if_pos hs)
  · refine ⟨_, exec_evrData7Read s p hr, ?_⟩
    have hwin := win_woken s p 3
    generalize hv : BitVec.ofNat 32 (leAt (getPort s p).win.evrData 28 4) = v
    have honly : Only [portPart p, .out] (woken s p 3) (emit (woken s p 3) (.value p v)) := (only_emit _ _).mono (by simp)
    have hout : (emit (woken s p 3) (.value p v)).out = s.out ++ [.value p v] := by rw [emit, out_woken]
    have hemit : (getPort (emit (woken s p 3) (.value p v)) p).win = (getPort s p).win := by rw [getPort_emit, hwin]
    cases hauto : (getPort s p).win.evrAuto
    · exact ⟨honly, hout, fun h => absurd h (by decide), fun _ => hemit⟩
    · refine ⟨honly.andThen (only_startFetch _ _ _) (by simp), ?_, fun _ => ?_, fun h => absurd h (by decide)⟩
      · rw [if_pos rfl, startFetch, modPort_out, hout]
      · rw [if_pos rfl, win_startFetch, hemit]

end Sys2Proof.Machine
end

section
/-! PROOFS. Mailboxes: frames, locks and queries (R295 to R300, R305, Table 13.6). -/

namespace Sys2Proof.Machine

/-! ### A mailbox under the operations of the queues -/

theorem getMbx_of_mbxs {s t : State} (h : t.mbxs = s.mbxs) (b : Box) : getMbx t b = getMbx s b := by rw [getMbx, h, getMbx]

theorem getMbx_of_only {l : List Part} {s t : State} (h : Only l s t) (hm : Part.mbxs ∉ l) (b : Box) : getMbx t b = getMbx s b :=
  getMbx_of_mbxs (h .mbxs hm) b

@[simp] theorem getMbx_woken (s : State) (p : Port) (c : Nat) (b : Box) : getMbx (woken s p c) b = getMbx s b :=
  getMbx_of_only (only_woken s p c) (by cases p <;> simp [portPart]) b

@[simp] theorem getMbx_emit (s : State) (o : Out) (b : Box) : getMbx (emit s o) b = getMbx s b := rfl

theorem getMbx_modMbx (s : State) (b c : Box) (f : Mbx → Mbx) :
    getMbx (modMbx s b f) c = if boxKey c = boxKey b then f (getMbx s c) else getMbx s c := by
  split
  · next h => simp only [getMbx, modMbx, h, Tab.get_upd_self]
  · next h => exact getMbx_modMbx_ne s b c f h

/-- MBX_ISTAT takes a bit, and the mailbox's vector may fall due (R297). -/
theorem setIst_cases (s : State) (b : Box) (i : Nat) : setIst s b i = modMbx s b (fun m => { m with ist := setBit m.ist i }) ∨
    setIst s b i = fireBox (modMbx s b fun m => { m with ist := setBit m.ist i }) b := by
  unfold setIst
  dsimp only
  split
  · exact .inl rfl
  · split
    · split
      · exact .inr rfl
      · exact .inl rfl
    · split
      · exact .inr rfl
      · exact .inl rfl

theorem getMbx_setIst (s : State) (b c : Box) (i : Nat) :
    getMbx (setIst s b i) c = if boxKey c = boxKey b then { getMbx s c with ist := setBit (getMbx s c).ist i } else getMbx s c := by
  rw [← getMbx_modMbx s b c fun m => { m with ist := setBit m.ist i }]
  obtain h | h := setIst_cases s b i
  · rw [h]
  · rw [h]; exact getMbx_of_only (only_fireBox _ _) (by simp) c

@[simp] theorem getMbx_setIst_self (s : State) (b : Box) (i : Nat) :
    getMbx (setIst s b i) b = { getMbx s b with ist := setBit (getMbx s b).ist i } := by rw [getMbx_setIst, if_pos rfl]

/-- What the XV8 has sent stays sent when a vector falls due. -/
theorem out_fireVec (s : State) (p : Port) (fn v : Nat) : s.out ⊆ (fireVec s p fn v).out := by
  by_cases h : Held s p fn v
  · rw [fireVec_held h, modFn, modPort_out]; exact List.Subset.refl _
  · rw [fireVec_sent h]; exact List.subset_append_left _ _

theorem out_fireBox (s : State) (b : Box) : s.out ⊆ (fireBox s b).out := by
  cases b with
  | vf p fn => exact out_fireVec s p fn 16
  | pf0 n =>
    have hvec : ∀ (u : State) (up : Bool) (p : Port), u.out ⊆ (if up then fireVec u p 0 n else u).out := by
      intro u up p
      split
      · exact out_fireVec _ _ _ _
      · exact List.Subset.refl _
    exact fun x hx => hvec _ _ .b (hvec s s.pa.linkUp .a hx)

theorem out_setIst (s : State) (b : Box) (i : Nat) : s.out ⊆ (setIst s b i).out := by
  obtain h | h := setIst_cases s b i
  · rw [h]; exact List.Subset.refl _
  · rw [h]; exact out_fireBox (modMbx s b fun m => { m with ist := setBit m.ist i }) b

/-! ### Requests and their replies -/

theorem only_finishReq (s : State) (b : Box) (e : Nat) (vals : List Nat) (data : List Byte) : Only [.mbxs] s (finishReq s b e vals data) := by
  unfold finishReq
  dsimp only
  split
  · exact Only.refl _ _
  · exact only_modMbx _ _ _

/-- The reply of a request, its data cut to the room that the request gives (Table 13.4, R304). -/
def replyTo (f : Frame) (e : Nat) (vals : List Nat) (data : List Byte) : Frame :=
  { bytes := replyBytes f.bytes e vals (data.take (room f)).length data.length f.agent
    data := data.take (room f), agent := f.agent, raddr := fRaddr f.bytes }

/-- A mailbox whose oldest request has ended (R296, R304). -/
theorem getMbx_finishReq {s : State} {b : Box} {f : Frame} (hh : (getMbx s b).backlog.head? = some f) (e : Nat) (vals : List Nat) (data : List Byte) :
    getMbx (finishReq s b e vals data) b = { getMbx s b with
      backlog := (getMbx s b).backlog.drop 1, busy := false
      held := if f.mute then none else some (replyTo f e vals data) } := by
  obtain ⟨t, ht⟩ : ∃ t, (getMbx s b).backlog = f :: t := List.head?_eq_some_iff.mp hh
  unfold finishReq
  dsimp only
  split
  · next h => rw [ht] at h; cases h
  · next f' t' h =>
    rw [ht] at h
    obtain ⟨rfl, rfl⟩ := List.cons.inj h
    rw [getMbx_modMbx_self, ht]
    rfl

/-- A request that ends in a state whose mailbox holds the same requests has its reply (R303, R304). -/
theorem replies_finishReq {s s' : State} {b : Box} {f : Frame} (hb : (getMbx s' b).backlog = (getMbx s b).backlog)
    (hh : (getMbx s b).backlog.head? = some f) (e : Nat) (vals : List Nat) (data : List Byte) :
    Replies s (finishReq s' b e vals data) b f e vals data := by
  have hm := getMbx_finishReq (s := s') (hb ▸ hh) e vals data
  unfold Replies
  rw [hm, hb]
  exact ⟨rfl, rfl, fun hmute => by simp [hmute], fun hmute => ⟨replyTo f e vals data, by simp [hmute], rfl, rfl, rfl⟩⟩

theorem only_finishDurable (s : State) (b : Box) (e : Nat) (vals : List Nat) (data : List Byte) :
    Only [.mbxs, .plp] s (finishDurable s b e vals data) :=
  (((only_plp s _).mono (by simp)).andThen (only_finishReq _ _ _ _ _) (by simp)).andThen (only_modMbx _ _ _) (by simp)

/-- A reply that follows its journal record (log 139). -/
theorem replies_finishDurable {s s' : State} {b : Box} {f : Frame} (hb : (getMbx s' b).backlog = (getMbx s b).backlog)
    (hh : (getMbx s b).backlog.head? = some f) (e : Nat) (vals : List Nat) (data : List Byte) :
    Replies s (finishDurable s' b e vals data) b f e vals data ∧
      (∀ r, (getMbx (finishDurable s' b e vals data) b).held = some r → r.after = some s'.plp.jSeq) ∧
      (finishDurable s' b e vals data).plp = { s'.plp with jRecs := s'.plp.jRecs + 1 } := by
  have hrec : getMbx (stageRec s') b = getMbx s' b := rfl
  obtain ⟨hback, hbusy, hmute, hheld⟩ := replies_finishReq (s := s) (s' := stageRec s') (b := b) (f := f) (hrec ▸ hb) hh e vals data
  have hplp : (finishReq (stageRec s') b e vals data).plp = (stageRec s').plp := only_finishReq _ _ _ _ _ .plp (by simp)
  unfold finishDurable Replies
  rw [getMbx_modMbx_self]
  refine ⟨⟨hback, hbusy, fun hm => by rw [hmute hm]; rfl, fun hm => ?_⟩, fun r hr => ?_, hplp⟩
  · obtain ⟨r, hr, hagent, hdata, hbytes⟩ := hheld hm
    exact ⟨{ r with after := some s'.plp.jSeq }, by rw [hr]; rfl, hagent, hdata, hbytes⟩
  · obtain ⟨r', -, rfl⟩ := Option.map_eq_some_iff.mp hr
    rfl

/-- The request that can start now is the oldest of its mailbox. -/
theorem head?_of_nextReq {s : State} {b : Box} {f : Frame} (h : nextReq s b = some f) : (getMbx s b).backlog.head? = some f := by
  unfold nextReq at h
  dsimp only at h
  split at h
  · cases h
  · next f' t hf =>
    split at h
    · rw [hf]; exact h
    · cases h

theorem runReq_eq {s : State} {b : Box} {f : Frame} (sel : Frame → Bool) (k : Frame → State → State) (h : AtRequest s b f) (hs : sel f = true) :
    runReq sel b s k = .next (k f s) := by
  obtain ⟨hn, he⟩ := h
  simp [runReq, hn, hs, he]

theorem runReq_error {s : State} {b : Box} {f : Frame} (sel : Frame → Bool) (k : Frame → State → State) {e : Nat} (hn : nextReq s b = some f)
    (he : reqError s b f = some e) (hs : sel f = true) : runReq sel b s k = .next (finishReq s b e [] []) := by
  simp [runReq, hn, hs, he]

theorem runData_eq {s : State} {b : Box} {f : Frame} {d : ReqData} {l : List Byte} (sel : Frame → Bool) (k : List Byte → Frame → State → State)
    (h : AtRequest s b f) (hd : DataAt s b f d l) (hs : sel f = true) : runData sel b d s k = .next (k l f s) := by
  obtain ⟨hl, hpath⟩ := hd
  rw [runData, runReq_eq _ _ h hs]
  dsimp only
  rw [if_neg, hl]
  simp only [Bool.and_eq_true, bne_iff_ne, Bool.not_eq_true', not_and, Bool.not_eq_false]
  obtain hpath | hpath | hpath := hpath
  · exact fun h => absurd hpath h.1
  · exact fun h => absurd hpath h.2
  · exact fun _ => hpath

/-- A request that ends in the same state has its reply and changes nothing else. -/
theorem finishReq_spec {s : State} {b : Box} {f : Frame} (h : nextReq s b = some f) (e : Nat) (vals : List Nat) (data : List Byte) :
    Only [.mbxs] s (finishReq s b e vals data) ∧ Replies s (finishReq s b e vals data) b f e vals data :=
  ⟨only_finishReq _ _ _ _ _, replies_finishReq rfl (head?_of_nextReq h) _ _ _⟩

/-! ### Writes of a mailbox -/

theorem boxWrite_owns {s : State} {p : Port} {b : Box} (cause off rsv : Nat) {v : Word} (k : State → Nat → Res) (h : OwnsBox s p b)
    (hv : v.toNat &&& rsv = 0) : ∃ agent, boxWrite cause p b off rsv v s k = k (woken s (boxPath p b).1 cause) agent := by
  obtain ⟨hw, ho⟩ := h
  cases b with
  | vf q fn => exact ⟨0, by simp only [boxWrite]; rw [regWriteBy_writable _ _ hw, if_neg (by omega)]⟩
  | pf0 n =>
    refine ⟨agentOf p, ?_⟩
    simp only [boxWrite]
    rw [regWriteBy_writable _ _ hw, if_neg (by omega), if_neg (by rw [getMbx_woken]; exact not_not_intro (ho n rfl))]

/-! ### The queues -/

/-- A doorbell's frame, by the space of the request queue (R295). -/
theorem exec_mbxDoorbell {s : State} {p : Port} {b : Box} {v : Word} (h : OwnsBox s p b) (hv : v.toNat = 1) :
    ∃ agent, exec (.mbxDoorbell p b v) s =
      .next (pushRequest (woken s (boxPath p b).1 2) b { bytes := padTo 64 (getMbx s b).req, agent := agent }) := by
  have hflag : flag v 0 = true := by rw [flag, hv]; decide
  obtain ⟨agent, hx⟩ := boxWrite_owns (v := v) 2 0x40 0xFFFFFFFE (fun s agent =>
    if flag v 0 then .next (pushRequest s b { bytes := padTo 64 (getMbx s b).req, agent := agent }) else .next s) h (by rw [hv]; decide)
  refine ⟨agent, hx.trans ?_⟩
  rw [if_pos hflag, getMbx_woken]

theorem exec_mbxPop {s : State} {p : Port} {b : Box} {v : Word} (h : OwnsBox s p b) (hv : v.toNat = 1) :
    exec (.mbxPop p b v) s = .next (popReply (woken s (boxPath p b).1 3) b) := by
  have hflag : flag v 0 = true := by rw [flag, hv]; decide
  obtain ⟨agent, hx⟩ := boxWrite_owns (v := v) 3 0x44 0xFFFFFFFE (fun s _ => .next (if flag v 0 then popReply s b else s)) h (by rw [hv]; decide)
  refine hx.trans ?_
  rw [if_pos hflag]

/-- The head of a request queue as the backlog takes it (R296). -/
def requestTaken (s : State) (b : Box) (f : Frame) (t : List Frame) : State :=
  modMbx { s with takeNo := s.takeNo + 1 } b fun m =>
    { m with reqQ := t, backlog := m.backlog ++ [{ f with no := s.takeNo, duringSan := s.cip.san.isSome }] }

theorem exec_mbxTakeRequest {s : State} {b : Box} {f : Frame} {t : List Frame} (hq : (getMbx s b).reqQ = f :: t) (hs : serving s b = true)
    (hc : backlogCount (getMbx s b) < 16) (hsh : s.adm.shutdown = false) :
    exec (.mbxTakeRequest b) s = .next (setIst (requestTaken s b f t) b 1) := by
  change execMbxTakeRequest b s = _
  unfold execMbxTakeRequest
  dsimp only
  rw [hq]
  exact if_pos (by simp [hs, hc, hsh])

theorem only_requestTaken (s : State) (b : Box) (f : Frame) (t : List Frame) : Only [.mbxs, .takeNo] s (requestTaken s b f t) :=
  fun q hq => by cases q <;> simp at hq <;> rfl

/-- The data of a reply in host memory, written before its interrupt (R296). -/
def replyWritten (s : State) (b : Box) (f : Frame) : State :=
  let path := boxPath (agentPort f.agent) b
  if f.agent != 3 && !f.data.isEmpty then emit s (.bytes path.1 path.2 f.raddr f.data (getFn s path.1 path.2).relaxed) else s

theorem only_replyWritten (s : State) (b : Box) (f : Frame) : Only [.out] s (replyWritten s b f) := Only.ite (only_emit _ _) (Only.refl _ _)

theorem mem_replyWritten (s : State) (b : Box) {f : Frame} (ha : f.agent ≠ 3) (hd : f.data ≠ []) :
    .bytes (boxPath (agentPort f.agent) b).1 (boxPath (agentPort f.agent) b).2 f.raddr f.data
      (getFn s (boxPath (agentPort f.agent) b).1 (boxPath (agentPort f.agent) b).2).relaxed ∈ (replyWritten s b f).out := by
  unfold replyWritten
  dsimp only
  rw [if_pos (by simp [ha, hd])]
  exact List.mem_append_right _ (List.mem_singleton.mpr rfl)

theorem exec_mbxReplyPost {s : State} {b : Box} {f : Frame} (hh : (getMbx s b).held = some f) (hr : f.resets = false)
    (hq : (getMbx s b).rspQ.length < 16) (hd : notDurable s f = false) (hb : s.boot.ready = true ∨ s.boot.stopped = true)
    (hc : f.agent = 3 ∨ f.data = [] ∨ canWrite s (boxPath (agentPort f.agent) b).1 (boxPath (agentPort f.agent) b).2 = true) :
    exec (.mbxReplyPost b) s = .next (setIst (modMbx (replyWritten s b f) b fun m => { m with held := none, rspQ := m.rspQ ++ [f] }) b 0) := by
  change execMbxReplyPost b s = _
  unfold execMbxReplyPost
  dsimp only
  rw [hh]
  dsimp only
  rw [if_neg (by obtain h | h := hb <;> simp [hd, h, hq]), if_neg (by obtain h | h | h := hc <;> simp [h]), hr]
  rfl

/-- Settles O43. -/
theorem framesMoveInOrder : Obligations.FramesMoveInOrder := by
  unfold Obligations.FramesMoveInOrder
  intro s p b v
  refine ⟨fun ho hv => ⟨fun hq => ?_, fun hq => ?_, fun f t hf hr => ?_, fun hf => ?_⟩, fun f t hf hs hc hsh => ?_, fun hsh => ?_, fun f hh hd => ?_,
    fun f hh hr hq hd hb hc => ?_⟩
  · obtain ⟨agent, hx⟩ := exec_mbxDoorbell ho hv
    refine ⟨_, { bytes := padTo 64 (getMbx s b).req, agent := agent }, hx, ?_⟩
    rw [pushRequest, if_neg (by rw [getMbx_woken]; omega)]
    exact ⟨only_modMbx _ _ _, by rw [getMbx_modMbx_self, getMbx_woken], rfl, rfl⟩
  · obtain ⟨agent, hx⟩ := exec_mbxDoorbell ho hv
    refine ⟨_, hx, ?_⟩
    rw [pushRequest, if_pos (by rw [getMbx_woken]; exact hq), getMbx_setIst_self, getMbx_modMbx_self, getMbx_woken]
    exact ⟨rfl, rfl, bit_setBit_self _ _⟩
  · refine ⟨_, exec_mbxPop ho hv, ?_⟩
    unfold popReply
    rw [getMbx_woken, hf]
    dsimp only
    rw [hr, Bool.false_and, if_neg Bool.false_ne_true]
    exact ⟨only_modMbx _ _ _, by rw [getMbx_modMbx_self, getMbx_woken]⟩
  · rw [exec_mbxPop ho hv]
    unfold popReply
    rw [getMbx_woken, hf]
  · have hbox : getMbx (requestTaken s b f t) b =
        { getMbx s b with reqQ := t, backlog := (getMbx s b).backlog ++ [{ f with no := s.takeNo, duringSan := s.cip.san.isSome }] } :=
      getMbx_modMbx_self _ _ _
    refine ⟨_, { f with no := s.takeNo, duringSan := s.cip.san.isSome }, exec_mbxTakeRequest hf hs hc hsh,
      ((only_requestTaken s b f t).mono (by simp)).andThen (only_setIst _ _ _) (by simp), ?_⟩
    rw [getMbx_setIst_self, hbox]
    exact ⟨rfl, rfl, rfl, only_setIst _ _ _ .takeNo (by simp), bit_setBit_self _ _⟩
  · change execMbxTakeRequest b s = _
    unfold execMbxTakeRequest
    dsimp only
    split
    · rfl
    · rw [if_neg (by simp [hsh])]
  · change execMbxReplyPost b s = _
    unfold execMbxReplyPost
    dsimp only
    rw [hh]
    exact if_pos (by simp [hd])
  · refine ⟨_, exec_mbxReplyPost hh hr hq hd hb hc,
      (((only_replyWritten s b f).mono (by simp)).andThen (only_modMbx _ _ _) (by simp)).trans (only_setIst _ _ _), ?_⟩
    rw [getMbx_setIst_self, getMbx_modMbx_self, getMbx_of_only (only_replyWritten s b f) (by simp)]
    exact ⟨rfl, rfl, bit_setBit_self _ _, fun ha hne => out_setIst _ _ _ (mem_replyWritten s b ha hne)⟩

/-! ### Locks -/

theorem getMbx_readLock (s : State) (n agent : Nat) : getMbx (readLock s n agent).1 (.pf0 n) = { getMbx s (.pf0 n) with
    owner := if (getMbx s (.pf0 n)).owner = 0 then agent else (getMbx s (.pf0 n)).owner } := by
  unfold readLock
  dsimp only
  split
  · rw [getMbx_modMbx_self]
  · rfl

theorem only_readLock (s : State) (n agent : Nat) : Only [.mbxs] s (readLock s n agent).1 := Only.ite (only_modMbx _ _ _) (Only.refl _ _)

theorem getMbx_releaseLock (s : State) (n agent v : Nat) : getMbx (releaseLock s n agent v) (.pf0 n) = { getMbx s (.pf0 n) with
    owner := if (getMbx s (.pf0 n)).owner = agent ∧ v = agent then 0 else (getMbx s (.pf0 n)).owner } := by
  unfold releaseLock
  split
  · rw [getMbx_modMbx_self]
  · rfl

theorem only_releaseLock (s : State) (n agent v : Nat) : Only [.mbxs] s (releaseLock s n agent v) := Only.ite (only_modMbx _ _ _) (Only.refl _ _)

/-- A mailbox discarded with no reply of FW_ACTIVATE mode 2 held: its queues and replies go (R300). -/
theorem discardBox_plain {s : State} {b : Box} (h : ∀ f, (getMbx s b).held = some f → f.resets = false) :
    discardBox s b = modMbx s b fun m => { m with
      reqQ := [], rspQ := [], held := none, backlog := m.backlog.map fun f => { f with mute := true } } := by
  unfold discardBox
  dsimp only
  split
  · next f hf => rw [h f hf]; rfl
  · rfl

/-- A lock that is broken: the mailbox is free and discarded (R300). -/
theorem breakLock_spec {s : State} {n : Nat} (cause breaker : Nat) (h : ∀ f, (getMbx s (.pf0 n)).held = some f → f.resets = false) :
    Only [.pa, .pb, .out, .mbxs, .evr] s (breakLock s n cause breaker) ∧
    getMbx (breakLock s n cause breaker) (.pf0 n) = { getMbx s (.pf0 n) with
      reqQ := [], rspQ := [], held := none, backlog := (getMbx s (.pf0 n)).backlog.map (fun f => { f with mute := true }), owner := 0 } := by
  unfold breakLock
  dsimp only
  rw [discardBox_plain h, getMbx_of_only (only_logEv _ _ _ _ _) (by simp), getMbx_modMbx_self, getMbx_modMbx_self]
  exact ⟨(((only_modMbx _ _ _).trans (only_modMbx _ _ _)).mono (by simp)).andThen (only_logEv _ _ _ _ _) (by simp), rfl⟩

/-- Settles O44. -/
theorem locksAreTakenAndLeft : Obligations.LocksAreTakenAndLeft := by
  unfold Obligations.LocksAreTakenAndLeft
  intro s p n v
  refine ⟨fun hr => ?_, fun hw hv => ?_, fun hw hn hv h1 h3 hheld => ?_⟩
  · refine ⟨_, (hostAccess_reaches 3 _ hr : execMbxLockRead p n s = _), ((only_readLock _ _ _).mono (by simp)).andThen (only_emit _ _) (by simp), ?_, ?_⟩
    · have hout : (readLock (woken s p 3) n (agentOf p)).1.out = s.out := (only_readLock _ _ _ .out (by simp)).trans (out_woken s p 3)
      have hval : (readLock (woken s p 3) n (agentOf p)).2 = (getMbx s (.pf0 n)).owner := by rw [readLock, getMbx_woken]
      simp only [emit, hout, hval]
    · rw [getMbx_emit, getMbx_readLock, getMbx_woken]
  · have hlow : ∀ x < 8, x &&& 0xFFFFFFF8 = 0 ∧ x / 2 ^ 0 % 2 ^ 3 = x := by decide
    have hrsv : v.toNat &&& 0xFFFFFFF8 = 0 := (hlow _ hv).1
    have hfld : fld v 0 3 = v.toNat := (hlow _ hv).2
    refine ⟨releaseLock (woken s p 3) n (agentOf p) (fld v 0 3), ?_, only_releaseLock _ _ _ _, ?_⟩
    · change execMbxLockRelease p n v s = _
      rw [execMbxLockRelease, regWrite_writable _ hw, if_neg (by omega)]
    · rw [getMbx_releaseLock, getMbx_woken, hfld]
  · have hbits : v.toNat &&& 0x00FFFFF8 = 0 ∧ fld v 0 3 = n ∧ fld v 24 8 = 0x5A := by
      have hlow : ∀ n < 8, (0x5A000000 + n) &&& 0x00FFFFF8 = 0 ∧ bits (0x5A000000 + n) 0 3 = n ∧ bits (0x5A000000 + n) 24 8 = 0x5A := by decide
      simp only [fld, hv]
      exact hlow n hn
    obtain ⟨hrsv, hfld, hkey⟩ := hbits
    have hbroken := breakLock_spec (s := woken s p 3) (n := n) 3 (agentOf p) (by rw [getMbx_woken]; exact hheld)
    refine ⟨breakLock (woken s p 3) n 3 (agentOf p), ?_, ((only_woken s p 3).mono (by simp)).andThen hbroken.1 (by simp), ?_⟩
    · change execMbxBreak p v s = _
      rw [execMbxBreak, regWrite_writable _ hw, if_neg (by omega)]
      dsimp only
      rw [hfld, getMbx_woken, if_pos ⟨hkey, h1, h3⟩]
    · rw [hbroken.2, getMbx_woken]
      exact ⟨rfl, rfl, rfl, rfl, rfl⟩

/-! ### Queries -/

theorem isOp_eq {f : Frame} {op : Nat} (h : fOp f.bytes = op) : isOp op f = true := by rw [isOp, h]; exact beq_self_eq_true _

/-- GET_LOG page 0x11 with records (R390). -/
theorem logEvents_some (s : State) (b : Box) {f : Frame} {x y : Nat × EvRec} {l : List (Nat × EvRec)}
    (hp : eventPage s.evr (fArg f.bytes 1 == 1) (fArg f.bytes 2) (room f / 32) = x :: l) (hy : (x :: l).getLast? = some y) :
    logEvents s b f = finishReq s b 0 [((x :: l).flatMap fun r => recBytes r.2).length, x.1, (y.1 + 1) % p32]
      ((x :: l).flatMap fun r => recBytes r.2) := by
  unfold logEvents
  dsimp only
  rw [hp, hy]
  rfl

/-- Every record that waits is persisted: the last is the last of the log (R388). -/
theorem log_persistAll {s : State} {x : EvRec} (hk : s.hlt.known = true) (hx : s.evr.waiting.getLast? = some x)
    (hl : s.evr.waiting.length ≤ 8192) : (∃ n, (persistAll s).evr.log.getLast? = some (n, x)) ∧ (persistAll s).evr.waiting = [] := by
  have hne : s.evr.waiting.isEmpty = false := by
    cases hw : s.evr.waiting with
    | nil => rw [hw] at hx; cases hx
    | cons => rfl
  have hfirst : (persistOnce [] s).evr.waiting = [] := List.drop_of_length_le hl
  have hsecond : (persistOnce [] (persistOnce [] s)).evr.log = (persistOnce [] s).evr.log := by
    change (tryPages [] (persistOnce [] s).evr ((persistOnce [] s).evr.waiting.take 8192)).log = _
    rw [hfirst]
    rfl
  obtain ⟨n, hn⟩ := log_tryPages_getLast [] s.evr (s.evr.waiting.take 8192) x (by rw [List.take_of_length_le hl, hx])
    (by rw [List.take_of_length_le hl]; exact hl)
  rw [persistAll, if_neg (by simp [hne, hk]), hsecond]
  refine ⟨⟨n, hn⟩, ?_⟩
  change (persistOnce [] s).evr.waiting.drop 8192 = []
  rw [hfirst, List.drop_nil]

/-- Settles O45: `runReq` with a request that fails a common check, or that passes them and is executed. -/
theorem queriesReply : Obligations.QueriesReply := by
  unfold Obligations.QueriesReply
  intro s b f
  refine ⟨fun e c hn he hc => ?_, fun hat => ⟨fun hop => ?_, fun hop h11 => ⟨fun d hd => ?_, fun hd => ?_⟩, fun hop h11 x l hp => ?_, fun hop ht => ?_,
    fun hop ht => ?_, fun hop => ?_, fun hop hcl => ?_, fun hop hcl hk hw hl => ?_⟩⟩
  · obtain ⟨rfl, hop⟩ | ⟨rfl, hop⟩ | ⟨rfl, hop⟩ | ⟨rfl, hop⟩ | ⟨rfl, hop⟩ | ⟨rfl, hop, -⟩ := hc
    · exact ⟨_, (runReq_error _ _ hn he (isOp_eq hop) : execIdentify b s = _), finishReq_spec hn _ _ _⟩
    · exact ⟨_, (runReq_error _ _ hn he (isOp_eq hop) : execGetLog b s = _), finishReq_spec hn _ _ _⟩
    · exact ⟨_, (runReq_error _ _ hn he (isOp_eq hop) : execGetConfig b s = _), finishReq_spec hn _ _ _⟩
    · exact ⟨_, (runReq_error _ _ hn he (isOp_eq hop) : execHealth b s = _), finishReq_spec hn _ _ _⟩
    · exact ⟨_, (runReq_error _ _ hn he (isOp_eq hop) : execEvrecPersist b s = _), finishReq_spec hn _ _ _⟩
    · exact ⟨_, (runReq_error _ _ hn he (by rw [hop]; rfl) : execMbxInvalidOpcode b s = _), finishReq_spec hn _ _ _⟩
  · refine ⟨_, (runReq_eq _ _ hat (isOp_eq hop) : execIdentify b s = _), ?_⟩
    have hpage : (match fArg f.bytes 0 with
        | 0 => identifyDevice s
        | 1 => identifyTenant s (reqTenant b f)
        | _ => identifyQual s) = (if fArg f.bytes 0 = 0 then identifyDevice s else if fArg f.bytes 0 = 1 then identifyTenant s (reqTenant b f)
          else identifyQual s) := by
      split <;> simp_all
    rw [← hpage]
    exact finishReq_spec hat.1 _ _ _
  · refine ⟨_, (runReq_eq _ _ hat (isOp_eq hop) : execGetLog b s = _), ?_⟩
    rw [if_neg h11, hd]
    exact finishReq_spec hat.1 _ _ _
  · refine ⟨_, (runReq_eq _ _ hat (isOp_eq hop) : execGetLog b s = _), ?_⟩
    rw [if_neg h11, hd]
    exact finishReq_spec hat.1 _ _ _
  · obtain ⟨y, hy⟩ : ∃ y, (x :: l).getLast? = some y := ⟨_, List.getLast?_eq_some_getLast (List.cons_ne_nil x l)⟩
    refine ⟨_, y, (runReq_eq _ _ hat (isOp_eq hop) : execGetLog b s = _), ?_⟩
    rw [if_pos h11, logEvents_some s b hp hy]
    exact ⟨(finishReq_spec hat.1 _ _ _).1, hy, (finishReq_spec hat.1 _ _ _).2⟩
  · refine ⟨_, (runReq_eq _ _ hat (isOp_eq hop) : execGetConfig b s = _), ?_⟩
    dsimp only
    rw [if_neg (show ¬fTarget f.bytes = devTarget from ht)]
    exact finishReq_spec hat.1 _ _ _
  · refine ⟨_, (runReq_eq _ _ hat (isOp_eq hop) : execGetConfig b s = _), ?_⟩
    dsimp only
    rw [if_pos (show fTarget f.bytes = devTarget from ht)]
    exact finishReq_spec hat.1 _ _ _
  · exact ⟨_, (runReq_eq _ _ hat (isOp_eq hop) : execHealth b s = _), finishReq_spec hat.1 _ _ _⟩
  · refine (runReq_eq _ _ hat (isOp_eq hop) : execEvrecPersist b s = _).trans ?_
    rw [if_pos hcl]
  · obtain ⟨x, hx⟩ : ∃ x, s.evr.waiting.getLast? = some x := ⟨_, List.getLast?_eq_some_getLast (List.length_pos_iff.mp hw)⟩
    obtain ⟨⟨n, hlast⟩, hwait⟩ := log_persistAll hk hx hl
    refine ⟨_, n, x, (runReq_eq _ _ hat (isOp_eq hop) : execEvrecPersist b s = _), ?_⟩
    have honly := only_persistAll s
    have hbox := getMbx_of_only honly (by simp) b
    rw [if_neg (by rw [hcl]; decide)]
    dsimp only
    rw [hlast]
    have hevr := only_finishReq (persistAll s) b 0 [x.num % 65536, x.time % p32] [] .evr (by simp)
    exact ⟨(honly.mono (by simp)).andThen (only_finishReq _ _ _ _ _) (by simp), (congrArg Evr.waiting hevr).trans hwait,
      (congrArg (fun e : Evr => e.log.getLast?) hevr).trans hlast, hx, replies_finishReq (by rw [hbox]) (head?_of_nextReq hat.1) _ _ _⟩

end Sys2Proof.Machine
end

section
/-! PROOFS. Quadrant resets (R340 to R342). -/

namespace Sys2Proof.Machine

/-! ### D_max computed afresh -/

theorem only_setPlpEvt (s : State) (b sev : Nat) : Only [.plp, .pa, .pb, .out, .evr] s (setPlpEvt s b sev) :=
  (only_raiseEvt s _ _ _ _ _ _ _ fun u v => only_plp u _).mono (by simp)

/-- What a power-loss event and a new D_max leave of the block: the journal and the limits. -/
def plpFrame (p : Plp) : Plp :=
  { p with evt := 0, overD := false, emergShort := false, emergAvail := [], rateMbps := 0, dmaxMib := 0, emergReq := 0 }

theorem qrLimit_of_plpFrame {p p' : Plp} (h : plpFrame p' = plpFrame p) : p'.qrLimit = p.qrLimit :=
  congrArg (fun x => x.qrLimit) h

theorem plpFrame_setPlpEvt (s : State) (b sev : Nat) : plpFrame (setPlpEvt s b sev).plp = plpFrame s.plp := by
  have hrec : ∀ (u : State) (a c i k o v : Nat), (genericEv u a c i k o v).plp = u.plp := fun u a c i k o v =>
    only_genericEv u a c i k o v .plp (by simp)
  unfold setPlpEvt raiseEvt
  split
  · rfl
  · rw [hrec]; rfl

/-- An over-limit state as `checkOver` notes it (R255). -/
def overSet (s : State) (o : Bool) : State :=
  let t := if o && !s.plp.overD then setPlpEvt s 0 1 else s
  { t with plp := { t.plp with overD := o } }

theorem checkOver_eq (s : State) : checkOver s = overSet s (decide (s.plp.dmaxMib * 1048576 < dirtyBytes s)) := rfl

theorem only_overSet (s : State) (o : Bool) : Only [.plp, .pa, .pb, .out, .evr] s (overSet s o) :=
  (Only.ite (only_setPlpEvt s 0 1) (Only.refl _ _)).andThen (only_plp _ _) (by simp)

theorem plpFrame_overSet (s : State) (o : Bool) : plpFrame (overSet s o).plp = plpFrame s.plp := by
  have hevt : plpFrame (if o && !s.plp.overD then setPlpEvt s 0 1 else s).plp = plpFrame s.plp := by
    split
    · exact plpFrame_setPlpEvt s 0 1
    · rfl
  exact hevt

theorem only_checkOver (s : State) : Only [.plp, .pa, .pb, .out, .evr] s (checkOver s) := by
  rw [checkOver_eq]
  exact only_overSet s _

theorem plpFrame_checkOver (s : State) : plpFrame (checkOver s).plp = plpFrame s.plp := by
  rw [checkOver_eq]
  exact plpFrame_overSet s _

/-- The emergency blocks of the channels, and whether some channel is short of them (R257). -/
def emergSet (s : State) (e : Tab Nat) (short : Bool) : State :=
  let t := { s with plp := { s.plp with emergAvail := e } }
  let u := if short && !t.plp.emergShort then setPlpEvt t 2 1 else t
  { u with plp := { u.plp with emergShort := short } }

theorem refillEmerg_eq (s : State) : ∃ e short, refillEmerg s = emergSet s e short := ⟨_, _, rfl⟩

theorem only_emergSet (s : State) (e : Tab Nat) (short : Bool) : Only [.plp, .pa, .pb, .out, .evr] s (emergSet s e short) := by
  have hset : Only [.plp, .pa, .pb, .out, .evr] s { s with plp := { s.plp with emergAvail := e } } := (only_plp _ _).mono (by simp)
  exact (Only.ite (hset.trans (only_setPlpEvt _ 2 1)) hset).andThen (only_plp _ _) (by simp)

theorem plpFrame_emergSet (s : State) (e : Tab Nat) (short : Bool) : plpFrame (emergSet s e short).plp = plpFrame s.plp := by
  have hevt : ∀ t : State, plpFrame (if short && !t.plp.emergShort then setPlpEvt t 2 1 else t).plp = plpFrame t.plp := by
    intro t
    split
    · exact plpFrame_setPlpEvt t 2 1
    · rfl
  exact hevt { s with plp := { s.plp with emergAvail := e } }

theorem only_refillEmerg (s : State) : Only [.plp, .pa, .pb, .out, .evr] s (refillEmerg s) := by
  obtain ⟨e, short, h⟩ := refillEmerg_eq s
  exact h ▸ only_emergSet s e short

theorem plpFrame_refillEmerg (s : State) : plpFrame (refillEmerg s).plp = plpFrame s.plp := by
  obtain ⟨e, short, h⟩ := refillEmerg_eq s
  exact h ▸ plpFrame_emergSet s e short

/-- The rates, D_max and the FLUSH reserve of a new computation (R253, R254, R220). -/
def ratesSet (s : State) (rate d reserve : Nat) : State :=
  { s with
    plp := { s.plp with rateMbps := rate, dmaxMib := d, emergReq := echFor d }
    bpm := { s.bpm with floors := Tab.set 0 s.bpm.floors kFlush reserve, caps := Tab.set 0 s.bpm.caps kFlush reserve } }

theorem only_ratesSet (s : State) (rate d reserve : Nat) : Only [.plp, .bpm] s (ratesSet s rate d reserve) := fun q hq => by
  cases q <;> simp at hq <;> rfl

/-- A new D_max is recorded when that is asked for (R254). -/
def dmaxNoted (s : State) (note : Bool) : State := if note then setPlpEvt s 3 1 else s

theorem recompute_eq (s : State) (note : Bool) : ∃ rate d reserve noted,
    recompute s note = checkOver (dmaxNoted (refillEmerg (ratesSet s rate d reserve)) noted) := ⟨_, _, _, _, rfl⟩

theorem only_recompute (s : State) (note : Bool) : Only [.plp, .bpm, .pa, .pb, .out, .evr] s (recompute s note) := by
  obtain ⟨rate, d, reserve, noted, h⟩ := recompute_eq s note
  rw [h]
  have hrates := ((only_ratesSet s rate d reserve).mono (m := [.plp, .bpm, .pa, .pb, .out, .evr]) (by simp)).andThen (only_refillEmerg _) (by simp)
  exact (Only.ite (hrates.andThen (only_setPlpEvt _ 3 1) (by simp)) hrates).andThen (only_checkOver _) (by simp)

theorem plpFrame_recompute (s : State) (note : Bool) : plpFrame (recompute s note).plp = plpFrame s.plp := by
  obtain ⟨rate, d, reserve, noted, h⟩ := recompute_eq s note
  have hrates : plpFrame (refillEmerg (ratesSet s rate d reserve)).plp = plpFrame s.plp := (plpFrame_refillEmerg _).trans rfl
  rw [h, plpFrame_checkOver, dmaxNoted]
  split
  · rw [plpFrame_setPlpEvt, hrates]
  · exact hrates

/-! ### The steps of a quadrant reset -/

/-- A quadrant whose reset has begun, D_max limited (R340). -/
def quadTaken (s : State) (q : Nat) : State :=
  { s with
    rst := { s.rst with qState := Tab.set 0 s.rst.qState q 1, qPhase := Tab.set 0 s.rst.qPhase q 1, idleNs := s.nowNs }
    plp := { s.plp with qrLimit := true } }

/-- The same with its skim engine afresh, before D_max is computed (R340). -/
def quadBegun (s : State) (q : Nat) : State := skimAfresh (quadTaken s q) q

theorem beginQuad_eq (s : State) (q : Nat) : beginQuad s q = recompute (quadBegun s q) true := by
  rw [beginQuad, quadBegun, quadTaken]

theorem only_beginQuad (s : State) (q : Nat) : Only [.rst, .plp, .mep, .bpm, .pa, .pb, .out, .evr] s (beginQuad s q) := by
  have hbegun : Only [.rst, .plp, .mep] s (quadBegun s q) := fun r hr => by cases r <;> simp at hr <;> rfl
  rw [beginQuad_eq]
  exact (hbegun.mono (by simp)).andThen (only_recompute _ _) (by simp)

theorem beginQuad_rst (s : State) (q : Nat) : (beginQuad s q).rst = { s.rst with
    qState := Tab.set 0 s.rst.qState q 1, qPhase := Tab.set 0 s.rst.qPhase q 1, idleNs := s.nowNs } := by
  rw [beginQuad_eq]
  exact only_recompute (quadBegun s q) true .rst (by simp)

theorem beginQuad_qrLimit (s : State) (q : Nat) : (beginQuad s q).plp.qrLimit = true := by
  rw [beginQuad_eq]
  exact qrLimit_of_plpFrame (plpFrame_recompute (quadBegun s q) true)

theorem only_suspendErases (s : State) (q : Nat) : Only [.media] s (suspendErases s q) := only_media _ _

/-- The counts of a quadrant reset that ends (R340). -/
def quadCounted (s : State) (q us state : Nat) : State :=
  { s with rst := { s.rst with
    qState := Tab.set 0 s.rst.qState q state, qPhase := Tab.set 0 s.rst.qPhase q 0
    qResets := Tab.upd 0 s.rst.qResets q fun n => satAdd 0xFFFF n 1, qLastUs := Tab.set 0 s.rst.qLastUs q (min 0xFFFF us) } }

theorem endQuad_eq (s : State) (q us state result sev : Nat) : endQuad s q us state result sev =
    logEv (quadCounted s q us state) sev (src 0xA q) 0xA003 (leBytes 4 result ++ leBytes 4 us) := rfl

theorem only_endQuad (s : State) (q us state result sev : Nat) : Only [.rst, .pa, .pb, .out, .evr] s (endQuad s q us state result sev) := by
  have hcount : Only [.rst] s (quadCounted s q us state) := fun r hr => by cases r <;> simp at hr <;> rfl
  exact (hcount.mono (by simp)).andThen (only_logEv _ _ _ _ _) (by simp)

theorem endQuad_rst (s : State) (q us state result sev : Nat) : (endQuad s q us state result sev).rst = (quadCounted s q us state).rst :=
  only_logEv _ _ _ _ _ .rst (by simp)

/-- The request that asked for the reset of this quadrant has its reply (R340, R342). -/
theorem quadReply_spec {s s' : State} {q : Nat} {b : Box} {ns : Nat} {f : Frame} (hw : s'.rst.qWait = [(q, b, ns)]) (hm : s'.mbxs = s.mbxs)
    (hh : (getMbx s b).backlog.head? = some f) (result : Nat) (vals : List Nat) :
    Only [.rst, .mbxs] s' (quadReply s' q result vals) ∧ (quadReply s' q result vals).rst = { s'.rst with qWait := [] } ∧
      Replies s (quadReply s' q result vals) b f result vals [] := by
  have hreply : quadReply s' q result vals = finishReq { s' with rst := { s'.rst with qWait := [] } } b result vals [] := by
    unfold quadReply
    rw [hw, List.find?_cons_of_pos (by simp), List.filter_cons_of_neg (by simp)]
    rfl
  have hbox : getMbx { s' with rst := { s'.rst with qWait := [] } } b = getMbx s b := getMbx_of_mbxs hm b
  rw [hreply]
  refine ⟨((only_rst s' _).mono (by simp)).andThen (only_finishReq _ _ _ _ _) (by simp), only_finishReq _ _ _ _ _ .rst (by simp), ?_⟩
  exact replies_finishReq (congrArg Mbx.backlog hbox) hh _ _ _

/-- The PLLs of a quadrant are judged stable again (R329). -/
def quadLocked (s : State) (q : Nat) : State :=
  [1 + q, 5 + q].foldl (fun s p => modPll s p fun x => { x with lock := true, stable := true, fault := false }) s

/-- The quadrant's link trained, and D_max limited no more (R340). -/
def quadReleased (s : State) (q bad : Nat) : State := trainLink { s with plp := { s.plp with qrLimit := false } } q bad

/-- What the end of a quadrant reset gives back before D_max is computed (R340). -/
def quadBack (s : State) (q bad : Nat) : State := quadReleased (quadLocked s q) q bad

theorem only_quadReleased (s : State) (q bad : Nat) : Only [.plp, .media] s (quadReleased s q bad) :=
  ((only_plp s _).mono (by simp)).andThen (m := [.media]) (only_media _ _) (by simp)

theorem only_quadBack (s : State) (q bad : Nat) : Only [.ckm, .plp, .media] s (quadBack s q bad) :=
  ((only_foldl_modPll _ _ s).mono (by simp)).andThen (only_quadReleased (quadLocked s q) q bad) (by simp)

theorem links_quadReleased (s : State) (q bad : Nat) : Tab.get 0 (quadReleased s q bad).media.links q = min bad (Tab.get 0 s.media.links q) :=
  Tab.get_upd_self 0 _ q (min bad)

theorem links_quadBack (s : State) (q bad : Nat) : Tab.get 0 (quadBack s q bad).media.links q = min bad (Tab.get 0 s.media.links q) := by
  have hmedia : (quadLocked s q).media = s.media := only_foldl_modPll _ _ s .media (by simp)
  rw [quadBack, links_quadReleased, hmedia]

theorem exec_quadrantResetDone {s : State} {q : Nat} (took : QuadDone) (h : quadRuns s q = true) : exec (.quadrantResetDone q took) s =
    .next (quadReply (recompute (quadBack (endQuad s q took.us 0 0 1) q took.badLanes) true) q 0 [took.us]) := by
  change execQuadrantResetDone q took s = _
  rw [execQuadrantResetDone, if_pos h]
  rw [quadBack, quadReleased, quadLocked]

/-- With no command left, a failed quadrant drops its reads of rebuilds that are gone (R342). -/
def quadFailed (s : State) (q : Nat) : State :=
  let t := { s with media := { s.media with deeps := s.media.deeps.filter fun e => !([] : List Cmd).any fun c => e.2.rd.why == .cmd c.tenant c.seq } }
  dropReads t q fun r => match r.why with
    | .cmd a n => ([] : List Cmd).any fun c => c.tenant == a && c.seq == n
    | .rebuild id => !(t.media.deeps.any fun e => e.1 == id)
    | _ => false

theorem only_quadFailed (s : State) (q : Nat) : Only [.media] s (quadFailed s q) := fun r hr => by
  cases r <;> simp at hr <;> rfl

theorem completeFua_nil {s : State} (h : s.cmds = []) : completeFua s = s := by rw [completeFua, h]; rfl

theorem exec_quadrantResetFail {s : State} {q : Nat} (us : Nat) (h : quadRuns s q = true) (hc : s.cmds = []) :
    exec (.quadrantResetFail q us) s = .next (quadReply (recompute (quadFailed (endQuad s q us 2 2 3) q) true) q 2 [us]) := by
  have hcmds : (endQuad s q us 2 2 3).cmds = [] := (only_endQuad s q us 2 2 3 .cmds (by simp)).trans hc
  have hend : (recompute (quadFailed (endQuad s q us 2 2 3) q) true).cmds = [] :=
    (only_recompute _ _ .cmds (by simp)).trans ((only_quadFailed _ _ .cmds (by simp)).trans hcmds)
  change execQuadrantResetFail q us s = _
  rw [execQuadrantResetFail, if_pos h]
  dsimp only
  rw [hcmds, List.filter_nil, List.foldl_nil]
  change Host.Outcome.next (quadReply (completeFua (recompute (quadFailed (endQuad s q us 2 2 3) q) true)) q 2 [us]) = _
  rw [completeFua_nil hend]

/-- Settles O47. -/
theorem quadrantResetsEnd : Obligations.QuadrantResetsEnd := by
  unfold Obligations.QuadrantResetsEnd
  intro s q us bad b f ns hq
  refine ⟨fun hr hs hp hfit => ?_, fun hr hw hh => ⟨?_, fun hc => ?_⟩⟩
  · have hsusp := only_suspendErases (beginQuad s q) q
    have honly := only_beginQuad s q
    have hrst : (suspendErases (beginQuad s q) q).rst = _ := (hsusp .rst (by simp)).trans (beginQuad_rst s q)
    refine ⟨suspendErases (beginQuad s q) q, if_pos ⟨hr, hs, hp, hfit⟩, ?_, ?_, ?_, ?_, ?_, ?_⟩
    · rw [hrst]; exact Tab.get_set_self (0 : Nat) _ q 1
    · rw [hrst]; exact Tab.get_set_self (0 : Nat) _ q 1
    · rw [hsusp .plp (by simp)]; exact beginQuad_qrLimit s q
    · rw [hrst]
    · exact (hsusp .cmds (by simp)).trans (honly .cmds (by simp))
    · exact (hsusp .vers (by simp)).trans (honly .vers (by simp))
  · generalize ht : recompute (quadBack (endQuad s q us 0 0 1) q bad) true = t
    have honly : Only [.rst, .pa, .pb, .out, .evr, .ckm, .plp, .media, .bpm] s t := ht ▸
      (((only_endQuad s q us 0 0 1).mono (by simp)).andThen (only_quadBack _ _ _) (by simp)).andThen (only_recompute _ _) (by simp)
    have hrst : t.rst = (quadCounted s q us 0).rst := by
      rw [← ht, only_recompute _ _ .rst (by simp), only_quadBack _ _ _ .rst (by simp), endQuad_rst]
    have hlinks : Tab.get 0 t.media.links q = min bad (Tab.get 0 s.media.links q) := by
      rw [← ht, only_recompute _ _ .media (by simp), links_quadBack, only_endQuad _ _ _ _ _ _ .media (by simp)]
    obtain ⟨hreply, hrst', hfin⟩ := quadReply_spec (s := s) (by rw [hrst]; exact hw) (honly .mbxs (by simp)) hh 0 [us]
    refine ⟨quadReply t q 0 [us], ht ▸ exec_quadrantResetDone ⟨us, bad⟩ hr, ?_, ?_, ?_, ?_, ?_, ?_, ?_, hfin⟩
    · rw [hrst', hrst]; exact Tab.get_set_self (0 : Nat) _ q 0
    · rw [hrst', hrst]; exact Tab.get_set_self (0 : Nat) _ q 0
    · rw [hrst', hrst]; exact Tab.get_upd_self (0 : Nat) _ q fun n => satAdd 0xFFFF n 1
    · rw [hrst', hrst]; exact Tab.get_set_self (0 : Nat) _ q _
    · rw [hreply .media (by simp), hlinks]
    · rw [hrst']
    · exact (hreply .cmds (by simp)).trans (honly .cmds (by simp))
  · generalize ht : recompute (quadFailed (endQuad s q us 2 2 3) q) true = t
    have honly : Only [.rst, .pa, .pb, .out, .evr, .plp, .media, .bpm] s t := ht ▸
      (((only_endQuad s q us 2 2 3).mono (by simp)).andThen (only_quadFailed _ _) (by simp)).andThen (only_recompute _ _) (by simp)
    have hrst : t.rst = (quadCounted s q us 2).rst := by
      rw [← ht, only_recompute _ _ .rst (by simp), only_quadFailed _ _ .rst (by simp), endQuad_rst]
    obtain ⟨-, hrst', hfin⟩ := quadReply_spec (s := s) (by rw [hrst]; exact hw) (honly .mbxs (by simp)) hh 2 [us]
    refine ⟨quadReply t q 2 [us], ht ▸ exec_quadrantResetFail us hr hc, ?_, ?_, ?_, hfin⟩
    · rw [hrst', hrst]; exact Tab.get_set_self (0 : Nat) _ q 2
    · rw [hrst', hrst]; exact Tab.get_upd_self (0 : Nat) _ q fun n => satAdd 0xFFFF n 1
    · rw [hrst']

end Sys2Proof.Machine
end

section
/-! PROOFS. The MCTP endpoint and its bridge (R307 to R309). -/

namespace Sys2Proof.Machine

theorem smbusAccess_eq {s : State} (hpor : s.pins.porHeld = false) (hrun : s.ckm.stopped = false) (k : State → Res) :
    smbusAccess s k = k (wake s 8) := by simp [smbusAccess, hpor, hrun]

@[simp] theorem getMbx_wake (s : State) (c : Nat) (b : Box) : getMbx (wake s c) b = getMbx s b := getMbx_of_only (only_wake s c) (by simp) b

@[simp] theorem mctp_wake (s : State) (c : Nat) : (wake s c).mctp = s.mctp := only_wake s c .mctp (by simp)

@[simp] theorem out_wake (s : State) (c : Nat) : (wake s c).out = s.out := only_wake s c .out (by simp)

theorem flushing_wake (s : State) (c : Nat) : flushing (wake s c) = flushing s := by
  unfold flushing
  rw [only_wake s c .plp (by simp)]

/-! ### The bridge -/

/-- The body of a bridge response (Table 13.7a). -/
def bridgeBody (op n status : Nat) (data : List Byte) (dlen : Nat) : List Byte :=
  [0x7E#8, 0x1F#8, 0x4C#8] ++ leBytes 1 op ++ leBytes 1 n ++ leBytes 1 status ++ beBytes 2 dlen ++ data

theorem bridgeReply_eq (s : State) (op n status : Nat) (data : List Byte) (dlen : Nat) :
    bridgeReply s op n status data dlen = .next (emit s (.mctp (bridgeBody op n status data dlen))) := rfl

section
variable {s : State} (hpor : s.pins.porHeld = false) (hrun : s.ckm.stopped = false) (heid : s.mctp.eid ≠ 0)
include hpor hrun heid

theorem bridge_known (op : Nat) {n : Nat} (hn : n ≤ 7) (k : State → Res) : bridge op n s k = k (wake s 8) := by
  rw [bridge, smbusAccess_eq hpor hrun, mctp_wake, if_neg heid, if_neg (by omega)]

theorem bridge_unknown (op : Nat) {n : Nat} (hn : 7 < n) (k : State → Res) :
    bridge op n s k = .next (emit (wake s 8) (.mctp (bridgeBody op n 4 [] 0))) := by
  rw [bridge, smbusAccess_eq hpor hrun, mctp_wake, if_neg heid, if_pos hn, bridgeReply_eq]

theorem bridgeOwned_eq (op : Nat) {n : Nat} (hn : n ≤ 7) (hf : flushing s = false) (ho : (getMbx s (.pf0 n)).owner = 3) (k : State → Res) :
    bridgeOwned op n s k = k (wake s 8) := by
  rw [bridgeOwned, bridge_known hpor hrun heid op hn, flushing_wake, hf, if_neg Bool.false_ne_true, getMbx_wake, if_neg (not_not_intro ho)]

end

/-- An answer of the bridge after what it does to a mailbox. -/
theorem bridged {s u : State} (h : Only [.mbxs] (wake s 8) u) (body : List Byte) : Only [.rst, .mbxs, .out] s (emit u (.mctp body)) ∧
    (emit u (.mctp body)).out = s.out ++ [.mctp body] := by
  refine ⟨(((only_wake s 8).mono (by simp)).andThen h (by simp)).andThen (only_emit _ _) (by simp), ?_⟩
  rw [emit, h .out (by simp), out_wake]

theorem bridged_quiet (s : State) (body : List Byte) : Only [.rst, .out] s (emit (wake s 8) (.mctp body)) ∧
    (emit (wake s 8) (.mctp body)).out = s.out ++ [.mctp body] :=
  ⟨((only_wake s 8).mono (by simp)).andThen (only_emit _ _) (by simp), by rw [emit, out_wake]⟩

/-- A broken lock frees and empties its mailbox (R300). -/
theorem breakLock_empties (s : State) (n cause breaker : Nat) : (getMbx (breakLock s n cause breaker) (.pf0 n)).owner = 0 ∧
    (getMbx (breakLock s n cause breaker) (.pf0 n)).reqQ = [] ∧ (getMbx (breakLock s n cause breaker) (.pf0 n)).rspQ = [] ∧
    (getMbx (breakLock s n cause breaker) (.pf0 n)).held = none := by
  unfold breakLock
  dsimp only
  rw [getMbx_of_only (only_logEv _ _ _ _ _) (by simp), getMbx_modMbx_self, discardBox, getMbx_modMbx_self]
  exact ⟨rfl, rfl, rfl, rfl⟩

/-- Settles O50. -/
theorem theEndpointAnswers : Obligations.TheEndpointAnswers := by
  unfold Obligations.TheEndpointAnswers
  refine ⟨fun s op eid ty sel hpor hrun => ?_, fun s n fr dt hpor hrun heid => ?_⟩
  · have hsmb := smbusAccess_eq hpor hrun
    refine ⟨fun hop h1 h2 => ?_, fun h => ?_, ?_, ?_, fun h => ?_, fun h0 h7 hf => ?_, ?_, fun h => ?_, fun h => ?_⟩
    · change execSetEndpointId op eid s = _
      rw [execSetEndpointId, hsmb, if_pos ⟨hop, h1, h2⟩]
      rfl
    · have hlt := eid.isLt
      change execSetEndpointId op eid s = _
      rw [execSetEndpointId, hsmb, if_neg (by omega)]
      rfl
    · change execGetEndpointId s = _
      rw [execGetEndpointId, hsmb, mctp_wake]
      rfl
    · exact hsmb fun s => ctlReply s 3 0 (padTo 16 Config.uuid)
    · have hk : knownType ty.toNat = true := by obtain rfl | rfl | rfl := h <;> decide
      change execGetMctpVersionSupport ty s = _
      rw [execGetMctpVersionSupport, hsmb, if_pos hk]
      rfl
    · have hk : knownType ty.toNat = false := by
        have hne : ∀ k : Nat, ty ≠ BitVec.ofNat 8 k → ty.toNat ≠ k := fun k hty he => hty (by rw [← he]; simp)
        simp [knownType, hne 0xFF hf, hne 0 h0, hne 0x7E h7]
      change execGetMctpVersionSupport ty s = _
      rw [execGetMctpVersionSupport, hsmb, if_neg (by rw [hk]; decide)]
      rfl
    · exact hsmb fun s => ctlReply s 5 0 [1#8, 0x7E#8]
    · change execGetVendorDefinedMessageSupport sel s = _
      rw [execGetVendorDefinedMessageSupport, hsmb, if_pos h]
      rfl
    · change execGetVendorDefinedMessageSupport sel s = _
      rw [execGetVendorDefinedMessageSupport, hsmb, if_neg h]
      rfl
  · have hbridge := fun op => bridge_known hpor hrun heid op (n := n)
    refine ⟨fun hn => ?_, fun hn => ?_, fun hn hf ho => ⟨?_, fun hd hq => ?_, fun hd hq => ?_, fun f t hq hr => ?_⟩, fun hn => ?_, fun hn hf h1 h3 => ?_,
      fun h => ?_, fun h => ?_⟩
    · obtain ⟨honly, hout⟩ := bridged (s := s) (only_readLock (wake s 8) n 3) (bridgeBody 1 n 0 (leBytes 1 (readLock (wake s 8) n 3).2) 0)
      have hx : exec (.mctpLock n) s = .next (emit (readLock (wake s 8) n 3).1
          (.mctp (bridgeBody 1 n 0 (leBytes 1 (readLock (wake s 8) n 3).2) 0))) := by
        change execMctpLock n s = _
        rw [execMctpLock, hbridge 1 hn]
        rfl
      refine ⟨_, hx, honly, ?_, hout.trans ?_⟩
      · rw [getMbx_emit, getMbx_readLock, getMbx_wake]
      · rw [readLock, getMbx_wake]
        rfl
    · exact ⟨_, (bridge_unknown hpor hrun heid 1 hn _ : execMctpLock n s = _), bridged_quiet s (bridgeBody 1 n 4 [] 0)⟩
    · obtain ⟨honly, -⟩ := bridged (s := s) (only_releaseLock (wake s 8) n 3 3) (bridgeBody 2 n 0 [] 0)
      refine ⟨_, (bridgeOwned_eq hpor hrun heid 2 hn hf ho _ : execMctpRelease n s = _).trans (bridgeReply_eq _ _ _ _ _ _), honly, ?_⟩
      rw [getMbx_emit, getMbx_releaseLock, getMbx_wake, if_pos ⟨ho, rfl⟩]
    · have hpush : Only [.mbxs] (wake s 8) (pushRequest (wake s 8) (.pf0 n) { bytes := padTo 64 fr, data := dt, agent := 3 }) ∧
          (getMbx (pushRequest (wake s 8) (.pf0 n) { bytes := padTo 64 fr, data := dt, agent := 3 }) (.pf0 n)).reqQ =
            (getMbx s (.pf0 n)).reqQ ++ [{ bytes := padTo 64 fr, data := dt, agent := 3 }] := by
        rw [pushRequest, if_neg (by rw [getMbx_wake]; omega), getMbx_modMbx_self, getMbx_wake]
        exact ⟨only_modMbx _ _ _, rfl⟩
      obtain ⟨honly, hout⟩ := bridged (s := s) hpush.1 (bridgeBody 3 n 0 [] 0)
      refine ⟨_, (bridgeOwned_eq hpor hrun heid 3 hn hf ho _ : execMctpSend n fr dt s = _).trans ?_, honly, ?_, hout⟩
      · rw [if_neg (by omega), getMbx_wake, if_neg (by omega), bridgeReply_eq]
      · rw [getMbx_emit, hpush.2]
    · refine ⟨_, (bridgeOwned_eq hpor hrun heid 3 hn hf ho _ : execMctpSend n fr dt s = _).trans ?_, bridged_quiet s (bridgeBody 3 n 2 [] 0)⟩
      rw [if_neg (by omega), getMbx_wake, if_pos hq, bridgeReply_eq]
    · have hpop : popReply (wake s 8) (.pf0 n) = modMbx (wake s 8) (.pf0 n) fun m => { m with rspQ := t } := by
        unfold popReply
        rw [getMbx_wake, hq]
        dsimp only
        rw [hr, Bool.false_and, if_neg Bool.false_ne_true]
      obtain ⟨honly, hout⟩ := bridged (s := s) (only_modMbx (wake s 8) (.pf0 n) fun m => { m with rspQ := t })
        (bridgeBody 4 n 0 (f.bytes ++ f.data) f.data.length)
      refine ⟨_, (bridgeOwned_eq hpor hrun heid 4 hn hf ho _ : execMctpFetch n s = _).trans ?_, honly, ?_, hout⟩
      · rw [getMbx_wake, hq]
        dsimp only
        rw [hpop, bridgeReply_eq]
      · rw [getMbx_emit, getMbx_modMbx_self]
    · have hx : exec (.mctpStatus n) s = .next (emit (wake s 8) (.mctp (bridgeBody 5 n 0 (leBytes 4 (readMbx (wake s 8) (.pf0 n) 0x48)) 0))) := by
        change execMctpStatus n s = _
        rw [execMctpStatus, hbridge 5 hn, bridgeReply_eq]
      refine ⟨_, hx, ?_⟩
      have hstat : readMbx (wake s 8) (.pf0 n) 0x48 = readMbx s (.pf0 n) 0x48 := by unfold readMbx; rw [getMbx_wake]
      rw [← hstat]
      exact bridged_quiet s (bridgeBody 5 n 0 (leBytes 4 (readMbx (wake s 8) (.pf0 n) 0x48)) 0)
    · have hx : exec (.mctpBreak n) s = .next (emit (breakLock (wake s 8) n 3 3) (.mctp (bridgeBody 6 n 0 [] 0))) := by
        change execMctpBreak n s = _
        rw [execMctpBreak, hbridge 6 hn, flushing_wake, hf, if_neg Bool.false_ne_true]
        dsimp only
        rw [getMbx_wake, if_pos ⟨h1, h3⟩, bridgeReply_eq]
      refine ⟨_, hx, ?_⟩
      rw [getMbx_emit]
      exact breakLock_empties (wake s 8) n 3 3
    · change execSmbusAlertResponse s = _
      rw [execSmbusAlertResponse, if_neg (by simp [hpor, hrun]), if_pos h]
    · change execSmbusAlertResponse s = _
      rw [execSmbusAlertResponse, if_neg (by simp [hpor, hrun]), if_neg (by rw [h]; decide)]

end Sys2Proof.Machine
end

section
/-! PROOFS. What the operations on stored data leave as it is: the tables of chapters 3 to 9 are their own, the rest of the state is not. -/

namespace Sys2Proof.Machine

/-! ### The rest of the state -/

/-- A tenant-class but for what it counts. -/
def clsParams (x : TCls) : TCls := { x with cnts := [], rcnts := [] }

/-- A tenant but for what it counts. -/
def tenParams (x : Tenant) : Tenant :=
  { x with qhold := 0, dphold := 0, rt := clsParams x.rt, std := clsParams x.std, bulk := clsParams x.bulk, bg := clsParams x.bg }

/-- A mailbox but for what the XV8 sends it of its own accord: notices, and their interrupts. -/
def boxView (m : Mbx) : Mbx := { m with ist := 0, rspQ := [], notices := 0 }

/-- The parts of the state that hold no stored data and belong to no command: the ports but for their vectors, tenants but for their counters,
admission but for the undercoat gate, keys but for the derived ones and the counters, mailboxes but for notices, and the device's own blocks. -/
structure Rest where
  host : Port → PortSt × (Nat → Fn)
  ten : Nat → Option Tenant
  adm : Adm
  keys : Cip
  box : Box → Mbx
  mctp : Mctp
  takeNo : Nat
  ckm : Ckm
  rst : Rst
  boot : BootSt
  thm : Thm
  pins : Pins
  cfgReport : List Byte
  cfgOpen : Option CfgSave
  nowNs : Nat
  jSeq : Nat
  pcycle : Nat

/-- The rest of a state. -/
def rest (s : State) : Rest where
  host := hostView s
  ten := fun t => (getTen s t).map tenParams
  adm := { s.adm with ucGate := false }
  keys := { s.cip with evt := 0, cnts := [], tcnts := [], cache := [] }
  box := fun b => boxView (getMbx s b)
  mctp := s.mctp
  takeNo := s.takeNo
  ckm := s.ckm
  rst := s.rst
  boot := s.boot
  thm := s.thm
  pins := s.pins
  cfgReport := s.cfgReport
  cfgOpen := s.cfgOpen
  nowNs := s.nowNs
  jSeq := s.plp.jSeq
  pcycle := s.hlt.pcycle

/-- The rest of a state with its commands and its mailboxes: what an operation that ends no command leaves. -/
structure Kept where
  rest : Rest
  cmds : List Cmd
  genCtr : Nat
  mbxs : Tab Mbx

/-- What such an operation leaves of a state. -/
def kept (s : State) : Kept := ⟨rest s, s.cmds, s.genCtr, s.mbxs⟩

theorem rest_of_kept {s u : State} (h : kept u = kept s) : rest u = rest s := congrArg Kept.rest h
theorem cmds_of_kept {s u : State} (h : kept u = kept s) : u.cmds = s.cmds := congrArg Kept.cmds h
theorem mbxs_of_kept {s u : State} (h : kept u = kept s) : u.mbxs = s.mbxs := congrArg Kept.mbxs h
theorem host_of_rest {s u : State} (h : rest u = rest s) : hostView u = hostView s := congrArg Rest.host h
theorem rst_of_rest {s u : State} (h : rest u = rest s) : u.rst = s.rst := congrArg Rest.rst h
theorem boot_of_rest {s u : State} (h : rest u = rest s) : u.boot = s.boot := congrArg Rest.boot h
theorem jSeq_of_rest {s u : State} (h : rest u = rest s) : u.plp.jSeq = s.plp.jSeq := congrArg Rest.jSeq h

/-- The parts of which the rest of a state holds nothing, and the ports. -/
def dataParts : List Part :=
  [.pa, .pb, .out, .evr, .media, .bpm, .vers, .verCtr, .zones, .mep, .heldOut, .freeCtr, .postNs, .portEvt, .hltSaved, .savedMs, .tablesSaved,
    .zonesSaved]

theorem kept_of_only {l : List Part} {s u : State} (h : Only l s u) (hl : ∀ q ∈ l, q ∈ dataParts) (hv : hostView u = hostView s) :
    kept u = kept s := by
  have hp : ∀ q, q ∉ dataParts → q.same s u := fun q hq => h q fun hm => hq (hl q hm)
  have hten : getTen u = getTen s := by funext t; rw [getTen, hp .tenants (by decide)]; rfl
  have hbox : getMbx u = getMbx s := by funext b; rw [getMbx, hp .mbxs (by decide)]; rfl
  unfold kept rest
  rw [hv, hten, hbox, hp .adm (by decide), hp .cip (by decide), hp .mctp (by decide), hp .takeNo (by decide), hp .ckm (by decide),
    hp .rst (by decide), hp .boot (by decide), hp .thm (by decide), hp .pins (by decide), hp .cfgReport (by decide), hp .cfgOpen (by decide),
    hp .nowNs (by decide), hp .plp (by decide), hp .hlt (by decide), hp .cmds (by decide), hp .genCtr (by decide), hp .mbxs (by decide)]

theorem kept_foldl {α : Type} (f : State → α → State) (h : ∀ s x, kept (f s x) = kept s) (l : List α) (s : State) : kept (l.foldl f s) = kept s :=
  foldl_field kept f h l s

theorem rest_foldl {α : Type} (f : State → α → State) (h : ∀ s x, rest (f s x) = rest s) (l : List α) (s : State) : rest (l.foldl f s) = rest s :=
  foldl_field rest f h l s

/-! ### Updates of one table -/

section
variable (s : State)

@[simp] theorem kept_modVer (v : Nat) (f : Ver → Ver) : kept (modVer s v f) = kept s := rfl
@[simp] theorem kept_modZone (t z : Nat) (f : Zone → Zone) : kept (modZone s t z f) = kept s := rfl
@[simp] theorem kept_modExt (e : Nat) (f : Ext → Ext) : kept (modExt s e f) = kept s := rfl
@[simp] theorem kept_modSet (i : Nat) (f : UcSet → UcSet) : kept (modSet s i f) = kept s := rfl
@[simp] theorem kept_modFold (i : Nat) (f : Fold → Fold) : kept (modFold s i f) = kept s := rfl
@[simp] theorem kept_modReloc (i : Nat) (f : Reloc → Reloc) : kept (modReloc s i f) = kept s := rfl
@[simp] theorem kept_modBlk (b : Nat) (f : FBlk → FBlk) : kept (modBlk s b f) = kept s := rfl
@[simp] theorem kept_modLun (l : Nat) (f : Lun → Lun) : kept (modLun s l f) = kept s := rfl
@[simp] theorem kept_modChan (c : Nat) (f : Chan → Chan) : kept (modChan s c f) = kept s := rfl
@[simp] theorem kept_newId : kept (newId s).1 = kept s := rfl
@[simp] theorem kept_mcnt (k n : Nat) : kept (mcnt s k n) = kept s := rfl
@[simp] theorem kept_chCnt (c k n : Nat) : kept (chCnt s c k n) = kept s := rfl
@[simp] theorem kept_tel (k n : Nat) : kept (tel s k n) = kept s := rfl
@[simp] theorem kept_emit (o : Out) : kept (emit s o) = kept s := rfl
@[simp] theorem kept_stageRec : kept (stageRec s) = kept s := rfl
@[simp] theorem kept_watchGate : kept (watchGate s) = kept s := rfl
@[simp] theorem kept_cipCnt (k n : Nat) : kept (cipCnt s k n) = kept s := rfl
@[simp] theorem kept_cipT (t k n : Nat) : kept (cipT s t k n) = kept s := rfl
theorem kept_cipEvt (e : Nat) : kept { s with cip := { s.cip with evt := e } } = kept s := rfl
@[simp] theorem kept_derive (v : Ver) : kept (derive s v) = kept s := rfl
@[simp] theorem kept_purgeOld (t z : Nat) : kept (purgeOld s t z) = kept s := rfl
@[simp] theorem kept_purgeTenant (t : Nat) : kept (purgeTenant s t) = kept s := rfl
@[simp] theorem kept_queuePg (k : PgKind) (blk page : Nat) (fua bg : Bool) : kept (queuePg s k blk page fua bg) = kept s := rfl
@[simp] theorem kept_eraseBlkQ (b : Nat) : kept (eraseBlkQ s b) = kept s := by
  unfold eraseBlkQ
  exact (kept_stageRec _).trans ((kept_modLun _ _ _).trans (kept_modBlk _ _ _))

@[simp] theorem kept_queueEr (b : Nat) : kept (queueEr s b) = kept s := (kept_eraseBlkQ _ b).trans (kept_modBlk _ _ _)

@[simp] theorem kept_newFold (t z wl : Nat) (direct pad : Bool) (vs : List Nat) : kept (newFold s t z wl direct pad vs).1 = kept s := rfl
@[simp] theorem kept_dropDeep (id : Nat) : kept (dropDeep s id) = kept s := rfl

/-- A tenant's counters change, its parameters do not. -/
theorem kept_modTen (t : Nat) {f : Tenant → Tenant} (hf : ∀ x, tenParams (f x) = tenParams x) : kept (modTen s t f) = kept s := by
  have h : (fun i => (getTen (modTen s t f) i).map tenParams) = fun i => (getTen s i).map tenParams := by
    funext i
    by_cases hi : i = t
    · subst hi
      rw [getTen, modTen, Tab.get_upd_self, getTen]
      cases Tab.get none s.tenants i with
      | none => rfl
      | some x => exact congrArg some (hf x)
    · rw [getTen, modTen, Tab.get_upd_ne _ _ _ _ _ hi, getTen]
  exact congrArg (fun r => (⟨{ rest s with ten := r }, s.cmds, s.genCtr, s.mbxs⟩ : Kept)) h

theorem tenParams_modCls (x : Tenant) (c : Cls) {f : TCls → TCls} (hf : ∀ y, clsParams (f y) = clsParams y) : tenParams (modCls x c f) = tenParams x := by
  cases c <;> simp [tenParams, modCls, hf]

@[simp] theorem kept_admCnt (t : Nat) (c : Cls) (k n : Nat) : kept (admCnt s t c k n) = kept s :=
  kept_modTen s t fun x => tenParams_modCls x c fun _ => rfl

@[simp] theorem kept_readCnt (c : Cmd) (k : Nat) : kept (readCnt s c k) = kept s := kept_modTen s c.tenant fun x => tenParams_modCls x (cCls c) fun _ => rfl

theorem kept_ite {p : Prop} [Decidable p] {a b : State} (ha : kept a = kept s) (hb : kept b = kept s) : kept (if p then a else b) = kept s := by
  split <;> assumption

/-! ### Records -/

theorem hostView_logUpTo (n sev source code : Nat) (pl : List Byte) : hostView (logUpTo n s sev source code pl) = hostView s := by
  have hsec : hostView (endSecond s) = hostView s := by
    unfold endSecond
    split
    · rfl
    · exact foldl_field hostView _ (fun u x => by rw [hostView_rawEv]; rfl) _ _
  rw [← hsec]
  unfold logUpTo
  dsimp only
  split
  · rfl
  · rw [hostView_rawEv]; rfl

@[simp] theorem kept_logUpTo (n sev source code : Nat) (pl : List Byte) : kept (logUpTo n s sev source code pl) = kept s :=
  kept_of_only (only_logUpTo _ _ _ _ _ _) (by decide) (hostView_logUpTo _ _ _ _ _ _)

@[simp] theorem kept_logEv (sev source code : Nat) (pl : List Byte) : kept (logEv s sev source code pl) = kept s := kept_logUpTo _ _ _ _ _ _

@[simp] theorem kept_genericEv (sev cls inst b off v : Nat) : kept (genericEv s sev cls inst b off v) = kept s := kept_logEv _ _ _ _ _

theorem kept_raiseEvt (old b : Nat) {put : State → Nat → State} (sev cls inst off : Nat) (hp : ∀ u v, kept (put u v) = kept u) :
    kept (raiseEvt s old b put sev cls inst off) = kept s := by
  unfold raiseEvt
  exact kept_ite s rfl (by rw [kept_genericEv, hp])

@[simp] theorem kept_firePf0 (v : Nat) : kept (firePf0 s v) = kept s := kept_of_only (only_firePf0 _ _) (by decide) (hostView_firePf0 _ _)

@[simp] theorem kept_setBpmEvt (b inst sev : Nat) : kept (setBpmEvt s b inst sev) = kept s := kept_raiseEvt _ _ _ _ _ _ _ fun _ _ => rfl
@[simp] theorem kept_setFchEvt (c b sev : Nat) : kept (setFchEvt s c b sev) = kept s := kept_raiseEvt _ _ _ _ _ _ _ fun _ _ => rfl
@[simp] theorem kept_setPlpEvt (b sev : Nat) : kept (setPlpEvt s b sev) = kept s := kept_raiseEvt _ _ _ _ _ _ _ fun _ _ => rfl
@[simp] theorem kept_setCipEvt (b inst sev : Nat) : kept (setCipEvt s b inst sev) = kept s := kept_raiseEvt _ _ _ _ _ _ _ fun _ _ => rfl

@[simp] theorem kept_setHltEvt (b inst sev : Nat) : kept (setHltEvt s b inst sev) = kept s := by
  unfold setHltEvt
  refine kept_ite s rfl ?_
  dsimp only
  split
  · rw [kept_firePf0, kept_genericEv]; rfl
  · rfl

theorem kept_overD (o : Bool) : kept { s with plp := { s.plp with overD := o } } = kept s := rfl

theorem kept_overSet (o : Bool) : kept (overSet s o) = kept s :=
  (kept_overD (if o && !s.plp.overD then setPlpEvt s 0 1 else s) o).trans (kept_ite s (kept_setPlpEvt s 0 1) rfl)

@[simp] theorem kept_checkOver : kept (checkOver s) = kept s := by
  rw [checkOver_eq]
  exact kept_overSet s _

/-! ### The pool -/

theorem kept_bpm (b : Bpm) : kept { s with bpm := b } = kept s := rfl

@[simp] theorem kept_discardEntry (w : Nat) : kept (discardEntry s w) = kept s := kept_logEv _ _ _ _ _

@[simp] theorem kept_refillMiss (r k : Nat) : kept (refillMiss s r k) = kept s := by
  unfold refillMiss
  refine kept_ite s ?_ rfl
  dsimp only
  rw [kept_logUpTo]
  change kept (if r < 2 then _ else _) = _
  exact kept_ite s (kept_modTen _ k fun _ => rfl) rfl

theorem kept_pushPtr (r ptr : Nat) : kept (pushPtr s r ptr) = kept s := by
  have hhost : hostView (pushPtr s r ptr) = hostView s := by
    have haccept : ∀ i, hostView (acceptPush s i) = hostView s := fun i => hostView_of_only (only_acceptPush s i) (by decide) (by decide)
    have hreject : ∀ c, hostView (rejectPush s r c ptr) = hostView s := fun c => by unfold rejectPush; exact (hostView_logEv _ _ _ _ _).trans (hostView_of_ports rfl rfl)
    unfold pushPtr
    split
    · exact hreject 1
    · exact hreject 2
    · exact hreject 3
    · exact haccept _
  exact kept_of_only (only_pushPtr _ _ _) (by decide) hhost

@[simp] theorem kept_pushBufs (r : Nat) (l : List Nat) : kept (pushBufs s r l) = kept s := kept_foldl _ (fun u i => kept_pushPtr u r (i * 4096)) _ _

@[simp] theorem kept_freeVer (v : Nat) : kept (freeVer s v) = kept s := by
  unfold freeVer
  dsimp only
  refine kept_ite s rfl ?_
  rw [kept_modVer, kept_pushBufs, kept_modVer]

@[simp] theorem kept_sweepVers : kept (sweepVers s) = kept s := kept_foldl _ (fun u _ => kept_freeVer u _) _ _

end

theorem kept_draw (s : State) (n : Nat) (b : Bpm) : kept { s with freeCtr := n, bpm := b } = kept s := rfl

@[simp] theorem kept_takeEntry (r k n : Nat) (s : State) : kept (takeEntry r k n s).1 = kept s := by
  have hzero : ∀ u, kept (takeEntry r k 0 u).1 = kept u := fun u => by
    unfold takeEntry
    exact (kept_draw _ _ _).trans (kept_refillMiss u r k)
  induction n generalizing s with
  | zero => exact hzero s
  | succ n ih =>
    unfold takeEntry
    split
    · exact hzero s
    · dsimp only
      split
      · exact (kept_draw _ _ _).trans (kept_refillMiss s r k)
      · rw [ih, kept_discardEntry]
        exact (kept_draw _ _ _).trans (kept_refillMiss s r k)

@[simp] theorem kept_popBuf (s : State) (r k : Nat) : kept (popBuf s r k).1 = kept s := kept_takeEntry r k _ s

@[simp] theorem kept_popBufs (s : State) (r k n : Nat) : kept (popBufs s r k n).1 = kept s := by
  induction n generalizing s with
  | zero => rfl
  | succ n ih => exact (ih _).trans (kept_popBuf s r k)

/-! ### The queues of the LUNs -/

section
variable (s : State)

@[simp] theorem kept_enterRd (l : Nat) (r : Rd) : kept (enterRd s l r) = kept s := by
  unfold enterRd
  exact kept_ite s rfl rfl

@[simp] theorem kept_queueRd (why : Why) (cls order blk page : Nat) (qlc : Bool) (secs : List SecReq) (lr : Bool) :
    kept (queueRd s why cls order blk page qlc secs lr).1 = kept s := kept_enterRd _ _ _

@[simp] theorem kept_endTokWait (l : Nat) : kept (endTokWait s l) = kept s := by
  unfold endTokWait
  split <;> rfl

@[simp] theorem kept_drainOvf (l : Nat) : kept (drainOvf s l) = kept s := by
  unfold drainOvf
  dsimp only
  split
  · rfl
  · exact kept_ite s (kept_enterRd _ _ _) rfl

@[simp] theorem kept_dropPrograms (blks exts : List Nat) : kept (dropPrograms s blks exts) = kept s := by
  refine Eq.trans rfl (kept_foldl endTokWait (fun u l => kept_endTokWait u l) _ s)

@[simp] theorem kept_allocBlk (b : Nat) (f : FBlk → FBlk) : kept (allocBlk s b f) = kept s := kept_queueRd _ _ _ _ _ _ _ _ _

/-! ### Staging extents -/

theorem kept_newSet {q t grp : Nat} {r : State × Nat} (h : newSet s q t grp = some r) : kept r.1 = kept s := by
  unfold newSet at h
  dsimp only at h
  split at h
  · cases h
  · injection h with h
    rw [← h, kept_modSet, kept_foldl _ fun u b => kept_allocBlk u b _]
    rfl

theorem kept_setIn {t grp q : Nat} {r : State × Nat} (h : setIn s t grp q = some r) : kept r.1 = kept s := by
  unfold setIn at h
  split at h
  · injection h with h; rw [← h]
  · exact kept_newSet s h

theorem kept_newExt {t : Nat} {zone : Option Nat} {gen hint : Nat} {r : State × Nat} (h : newExt s t zone gen hint = some r) : kept r.1 = kept s := by
  unfold newExt at h
  dsimp only at h
  split at h
  · cases h
  · next u i hu =>
    obtain ⟨q, -, hq⟩ := List.exists_of_findSome?_eq_some hu
    injection h with h
    rw [← h, kept_watchGate, kept_modExt]
    have hset : kept (modSet (newId u).1 i fun x => { x with pages := x.pages + 1 }) = kept s := (kept_setIn _ hq).trans rfl
    split
    · exact kept_ite s hset hset
    · exact hset

@[simp] theorem kept_issueExt (e : Nat) (fua : Bool) : kept (issueExt s e fua) = kept s := by
  unfold issueExt
  exact kept_ite s rfl (kept_foldl _ (fun u i => kept_queuePg u _ _ _ _ _) _ _)

@[simp] theorem kept_issueIfFull (e : Nat) : kept (issueIfFull s e) = kept s := kept_ite s (kept_issueExt s e false) rfl

@[simp] theorem kept_placeUc (v : Nat) : kept (placeUc s v) = kept s := by
  unfold placeUc
  dsimp only
  split
  · rfl
  · next u e hu =>
    rw [kept_modVer, kept_modExt]
    split at hu
    · next r hr =>
      split at hr
      · split at hr
        · cases hr; cases hu; rfl
        · cases hr
      · cases hr
    · split at hu
      · cases hu
      · next r hr =>
        cases hu
        exact (kept_popBufs _ _ _ _).trans (kept_newExt s hr)

@[simp] theorem kept_closeExt (e : Nat) (fua : Bool) : kept (closeExt s e fua) = kept s := by
  unfold closeExt
  dsimp only
  rw [kept_foldl _ fun u v => kept_placeUc u v, kept_foldl _ fun u v => kept_modVer u v _, kept_issueExt, kept_modExt]

@[simp] theorem kept_stageZone (t z : Nat) (fua : Bool) : kept (stageZone s t z fua) = kept s := kept_foldl _ (fun u e => kept_closeExt u e fua) _ _

@[simp] theorem kept_promote (e : Nat) : kept (promote s e) = kept s := kept_foldl _ (fun u _ => kept_modLun u _ _) _ _

@[simp] theorem kept_forceVer (v : Nat) : kept (forceVer s v) = kept s := by
  unfold forceVer
  dsimp only
  refine kept_ite s rfl ?_
  have hp : kept (if (getVer s v).placed then s else placeUc s v) = kept s := kept_ite s rfl (kept_placeUc s v)
  generalize (if (getVer s v).placed then s else placeUc s v) = u at hp
  split
  · exact hp
  · exact kept_ite s ((kept_promote u _).trans hp) ((kept_closeExt u _ true).trans hp)

@[simp] theorem kept_forceWanted (v : Nat) : kept (forceWanted s v) = kept s := kept_ite s (kept_forceVer s v) rfl

/-! ### Wordlines -/

@[simp] theorem kept_queueQlc (coarse fine : PgKind) (b wl : Nat) (last bg : Bool) : kept (queueQlc s coarse fine b wl last bg) = kept s := by
  have hf : ∀ u : State, kept (if (getBlk u b).fine < wl then queuePg u fine b (wl - 1) false bg else u) = kept u := fun u => kept_ite u rfl rfl
  unfold queueQlc
  dsimp only
  split
  · exact (kept_queuePg _ _ _ _ _ _).trans (hf _)
  · exact hf _

@[simp] theorem kept_queueVerify (b wl : Nat) : kept (queueVerify s b wl) = kept s := kept_ite s rfl (kept_queueRd _ _ _ _ _ _ _ _ _)

@[simp] theorem kept_queuePasses (fid : Nat) (f : Fold) (m b : Nat) : kept (queuePasses s fid f m b) = kept s :=
  kept_ite s (kept_ite s (kept_queueVerify s b f.wl) rfl) (kept_queueQlc s _ _ _ _ _ _)

@[simp] theorem kept_pumpFolds (t z : Nat) : kept (pumpFolds s t z) = kept s := by
  refine kept_foldl _ (fun u e => ?_) _ _
  dsimp only
  refine kept_ite u rfl (kept_foldl _ (fun w m => ?_) _ u)
  split
  · exact kept_modFold _ _ _
  · rfl
  · exact kept_ite w rfl ((kept_modFold _ _ _).trans (kept_queuePasses w _ _ _ _))

@[simp] theorem kept_startDirect (t z n : Nat) : kept (startDirect s t z n) = kept s := by
  induction n generalizing s with
  | zero => rfl
  | succ n ih =>
    unfold startDirect
    refine kept_ite s ?_ rfl
    rw [ih, kept_pumpFolds, kept_modFold, kept_popBufs, kept_newFold]

/-! ### Blocks on their way -/

@[simp] theorem kept_encryptBlock (v : Nat) : kept (encryptBlock s v) = kept s := by
  unfold encryptBlock
  exact kept_ite s rfl ((kept_cipT _ _ _ _).trans ((kept_cipCnt _ _ _).trans ((kept_derive _ _).trans (kept_modVer _ _ _))))

@[simp] theorem kept_decryptBlock (v : Nat) : kept (decryptBlock s v) = kept s := by
  unfold decryptBlock
  exact kept_ite s rfl ((kept_cipT _ _ _ _).trans ((kept_cipCnt _ _ _).trans (kept_derive _ _)))

@[simp] theorem kept_authFail (v : Nat) : kept (authFail s v) = kept s := by
  unfold authFail
  dsimp only
  rw [kept_logUpTo, kept_cipEvt, kept_cipT, kept_cipCnt, kept_derive]

@[simp] theorem kept_narrowWrite (line mask : Nat) : kept (narrowWrite s line mask) = kept s := kept_ite s rfl rfl

@[simp] theorem kept_mapWrite (t z i n : Nat) : kept (mapWrite s t z i n) = kept s := kept_foldl _ (fun u _ => kept_narrowWrite u _ _) _ _

@[simp] theorem kept_countRead (c : Cmd) (status : Nat) : kept (countRead s c status) = kept s := by
  have hc : ∀ (u : State) (p : Prop) [Decidable p] (k : Nat), kept (if p then readCnt u c k else u) = kept u := fun u p _ k =>
    kept_ite u (kept_readCnt u c k) rfl
  unfold countRead
  refine kept_ite s rfl ?_
  simp only [hc, kept_readCnt]

@[simp] theorem kept_sendNow (p : Port) (o : Out) : kept (sendNow s p o) = kept s := rfl

@[simp] theorem kept_sendData (p : Port) (fn : Nat) (o : Out) : kept (sendData s p fn o) = kept s := kept_ite s rfl rfl

@[simp] theorem kept_sendBlock (c : Cmd) (i : Nat) (x : Content) : kept (sendBlock s c i x) = kept s := kept_ite s rfl (kept_sendData s _ _ _)

@[simp] theorem kept_copyBlock (c : Cmd) (i : Nat) (x : Content) : kept (copyBlock s c i x) = kept s := by
  unfold copyBlock
  split
  · rfl
  · rw [kept_encryptBlock, kept_modVer]

@[simp] theorem kept_gotBlock (c : Cmd) (i : Nat) (x : Content) : kept (gotBlock s c i x) = kept s := kept_ite s (kept_copyBlock s c i x) (kept_sendBlock s c i x)

@[simp] theorem kept_revive (x : Ver) : kept (revive s x) = kept s := by
  unfold revive
  split
  · rfl
  · refine kept_ite s rfl ?_
    rw [kept_forceWanted, kept_placeUc, kept_mapWrite, kept_modVer]

@[simp] theorem kept_endVer (v : Nat) : kept (endVer s v) = kept s := by rw [endVer, kept_revive, kept_freeVer, kept_modVer]

@[simp] theorem kept_stagePartial (t z : Nat) : kept (stagePartial s t z) = kept s := by
  unfold stagePartial
  dsimp only
  rw [kept_stageZone]
  exact kept_foldl _ (fun u e => kept_ite u (kept_placeUc u _) rfl) _ _

@[simp] theorem kept_stageClosed (t z : Nat) : kept (stageClosed s t z) = kept s := kept_ite s rfl (kept_stagePartial s t z)

@[simp] theorem kept_onward (c : Cmd) : kept (onward s c) = kept s := by
  unfold onward
  dsimp only
  rw [kept_sweepVers, kept_stageClosed, kept_foldl _ fun u v => kept_forceWanted u v]
  have hfull : kept (c.vers.foldl (fun s v => match extOf s v with
      | some (e, _) => issueIfFull s e
      | none => s) s) = kept s := kept_foldl _ (fun u v => by split <;> simp only [kept_issueIfFull]) _ _
  exact kept_ite s ((kept_startDirect _ _ _ _).trans hfull) hfull

@[simp] theorem kept_leaveWriter (c : Cmd) (blocks : List Nat) : kept (leaveWriter s c blocks) = kept s := by
  unfold leaveWriter
  rw [kept_onward]
  refine kept_foldl _ (fun u i => ?_) _ _
  dsimp only
  refine kept_ite u ?_ (kept_endVer u _)
  rw [kept_modVer]
  exact kept_ite u rfl (kept_encryptBlock u _)

@[simp] theorem kept_issueReads_pages (c : Cmd) (l : List (Nat × Nat × Bool × List SecReq)) :
    kept (l.foldl (fun s g => (queueRd s (.cmd c.tenant c.seq) (cCls c).num c.seq g.1 g.2.1 g.2.2.1 g.2.2.2 (pLR c.pkt)).1) s) = kept s :=
  kept_foldl _ (fun u _ => kept_queueRd u _ _ _ _ _ _ _ _) _ _

end

end Sys2Proof.Machine
end

section
/-! PROOFS. What the zone sequencer and the end of a command leave as it is (stage 5 of Table 4.9). -/

namespace Sys2Proof.Machine

section
variable (s : State)

theorem rest_ite {p : Prop} [Decidable p] {a b : State} (ha : rest a = rest s) (hb : rest b = rest s) : rest (if p then a else b) = rest s := by
  split <;> assumption

/-! ### Zones -/

@[simp] theorem kept_dropResv (t z : Nat) : kept (dropResv s t z) = kept s := rfl

@[simp] theorem kept_openEmpty (t z hint : Nat) : kept (openEmpty s t z hint) = kept s := (kept_modZone _ _ _ _).trans (kept_stageRec s)

@[simp] theorem kept_applyHint (t z hint want : Nat) : kept (applyHint s t z hint want).1 = kept s := by
  unfold applyHint
  dsimp only
  split
  · exact (kept_watchGate _).trans ((kept_modZone _ _ _ _).trans (kept_stageRec s))
  · exact (kept_watchGate _).trans ((kept_modZone _ _ _ _).trans (kept_stageRec s))

@[simp] theorem kept_takeFor (t z : Nat) : kept (takeFor s t z) = kept s := by
  unfold takeFor
  dsimp only
  split
  · rfl
  · rw [kept_cipT, kept_cipCnt, kept_genericEv]
    exact (kept_cipEvt _ _).trans (kept_modZone _ _ _ _)

theorem kept_supply {t z : Nat} {l : List Nat} {u : State} (h : supply s t z l = some u) : kept u = kept s := by
  induction l generalizing s with
  | nil => cases h; rfl
  | cons m l ih =>
    unfold supply at h
    split at h
    · exact ih s h
    · split at h
      · exact ih s h
      · split at h
        · cases h
        · next b _ => exact (ih _ h).trans ((kept_modZone _ _ _ _).trans (kept_allocBlk s b _))

@[simp] theorem kept_releaseExt (e : Nat) : kept (releaseExt s e) = kept s := by
  unfold releaseExt
  refine kept_ite s rfl ?_
  dsimp only
  have hrel : ∀ u : State, kept u = kept s → kept (watchGate (modSet (modExt u e fun y => { y with released := true, parity := [] }) (getExt s e).set
      fun y => { y with released := y.released + 1 })) = kept s := fun u hu =>
    (kept_watchGate _).trans ((kept_modSet _ _ _).trans ((kept_modExt _ _ _).trans hu))
  refine kept_ite s ?_ (hrel _ (kept_pushBufs _ _ _))
  exact (kept_foldl _ (fun u b => kept_queueEr u b) _ _).trans ((kept_modSet _ _ _).trans (hrel _ (kept_pushBufs _ _ _)))

@[simp] theorem kept_dropParity (t z : Nat) : kept (dropParity s t z) = kept s := kept_ite s rfl (kept_bpm s _)

theorem kept_media (m : Media) : kept { s with media := m } = kept s := rfl

@[simp] theorem kept_dropMoves (t z : Nat) (blks : List Nat) : kept (dropMoves s t z blks) = kept s := by
  unfold dropMoves
  dsimp only
  rw [kept_foldl _ fun u b => kept_queueEr u b, kept_dropPrograms, kept_media, kept_pushBufs]

/-! ### Notices -/

theorem rest_of_box {u : State} (h : kept { u with mbxs := s.mbxs } = kept s) (hb : ∀ b, boxView (getMbx u b) = boxView (getMbx s b)) :
    rest u = rest s := by
  have h' : rest { u with mbxs := s.mbxs } = rest s := rest_of_kept h
  have hbox : (fun b => boxView (getMbx u b)) = fun b => boxView (getMbx s b) := funext hb
  have hu : rest u = { rest { u with mbxs := s.mbxs } with box := fun b => boxView (getMbx u b) } := rfl
  rw [hu, hbox, h']
  rfl

theorem boxView_setIst (b c : Box) (i : Nat) : boxView (getMbx (setIst s b i) c) = boxView (getMbx s c) := by
  rw [getMbx_setIst]
  split <;> rfl

theorem boxView_noticeTo (code v1 v2 v3 : Nat) (b c : Box) : boxView (getMbx (noticeTo s code v1 v2 v3 b) c) = boxView (getMbx s c) := by
  unfold noticeTo
  dsimp only
  split
  · rfl
  · split <;> rw [boxView_setIst, getMbx_modMbx] <;> split <;> rfl

theorem hostView_fireBox (b : Box) : hostView (fireBox s b) = hostView s := by
  cases b with
  | vf p fn => exact hostView_fireVec _ _ _ _
  | pf0 n => exact hostView_firePf0 _ _

theorem hostView_setIst (b : Box) (i : Nat) : hostView (setIst s b i) = hostView s := by
  obtain h | h := setIst_cases s b i
  · rw [h]; exact hostView_of_ports rfl rfl
  · rw [h, hostView_fireBox]; exact hostView_of_ports rfl rfl

theorem hostView_noticeTo (code v1 v2 v3 : Nat) (b : Box) : hostView (noticeTo s code v1 v2 v3 b) = hostView s := by
  unfold noticeTo
  dsimp only
  split
  · rfl
  · split <;> rw [hostView_setIst] <;> exact hostView_of_ports rfl rfl

@[simp] theorem rest_noticeTo (code v1 v2 v3 : Nat) (b : Box) : rest (noticeTo s code v1 v2 v3 b) = rest s := by
  refine rest_of_box s (kept_of_only (l := [.pa, .pb, .out]) (fun q hq => ?_) (by decide) ?_) (boxView_noticeTo s code v1 v2 v3 b)
  · by_cases hm : q = .mbxs
    · subst hm; rfl
    · have := only_noticeTo s code v1 v2 v3 b q (fun h => (List.mem_cons.mp h).elim hm hq)
      cases q <;> first | exact this | exact absurd rfl hm
  · exact (hostView_of_ports rfl rfl).trans (hostView_noticeTo s code v1 v2 v3 b)

@[simp] theorem rest_noticePf0 (code v1 v2 v3 : Nat) : rest (noticePf0 s code v1 v2 v3) = rest s := rest_foldl _ (fun u _ => rest_noticeTo u _ _ _ _ _) _ _

@[simp] theorem rest_noticeTenant (t code v1 v2 v3 : Nat) : rest (noticeTenant s t code v1 v2 v3) = rest s :=
  rest_foldl _ (fun u _ => rest_ite u (rest_noticeTo u _ _ _ _ _) rfl) _ _

@[simp] theorem rest_keyNotice (t cause : Nat) : rest (keyNotice s t cause) = rest s := (rest_noticeTenant _ _ _ _ _ _).trans (rest_noticePf0 _ _ _ _ _)

@[simp] theorem rest_goReadOnly (t z reason : Nat) : rest (goReadOnly s t z reason) = rest s := by
  unfold goReadOnly
  dsimp only
  have hclosed : ∀ u : State, rest u = rest s → rest (stageClosed (noticeTenant u t 4 z ZSt.readOnly.code reason) t z) = rest s := fun u hu =>
    (rest_of_kept (kept_stageClosed _ _ _)).trans ((rest_noticeTenant _ _ _ _ _ _).trans hu)
  have hzone : ∀ f, rest (logEv (watchGate (modZone (stageRec s) t z f)) 2 (src 8 t) 0x8002 (leBytes 4 z ++ leBytes 4 reason ++
      leBytes 4 (getZone (watchGate (modZone (stageRec s) t z f)) t z).wp)) = rest s := fun f => rest_of_kept (kept_logEv _ _ _ _ _)
  split
  · exact (rest_of_kept (kept_setHltEvt _ _ _ _)).trans (hclosed _ (hzone _))
  · exact hclosed _ (hzone _)

/-! ### The end of a command -/

@[simp] theorem rest_modCmd (t seq : Nat) (f : Cmd → Cmd) : rest (modCmd s t seq f) = rest s := rfl
@[simp] theorem rest_dropCmd (t seq : Nat) : rest (dropCmd s t seq) = rest s := rfl
@[simp] theorem rest_failBlock (t seq lba status : Nat) : rest (failBlock s t seq lba status) = rest s := rfl

@[simp] theorem rest_awaitJournal (t seq result : Nat) : rest (awaitJournal s t seq result) = rest s :=
  (rest_of_kept (kept_stageRec _)).trans (rest_modCmd _ _ _ _)

@[simp] theorem rest_endEntry (t seq status result : Nat) (c : Cmd) : rest (endEntry s t seq status result c) = rest s := by
  unfold endEntry
  dsimp only
  split <;> rfl

@[simp] theorem rest_genCompl (t seq status result : Nat) : rest (genCompl s t seq status result) = rest s := by
  unfold genCompl
  split
  · rfl
  · refine rest_ite s rfl ?_
    exact rest_ite s ((rest_of_kept (kept_sweepVers _)).trans (rest_endEntry s _ _ _ _ _)) (rest_endEntry s _ _ _ _ _)

/-! ### Readers -/

@[simp] theorem rest_endReader (c : Cmd) (status result : Nat) : rest (endReader s c status result) = rest s :=
  (rest_of_kept (kept_purgeOld _ _ _)).trans (rest_genCompl _ _ _ _ _)

@[simp] theorem rest_finishReader (t seq : Nat) : rest (finishReader s t seq) = rest s := by
  unfold finishReader
  split
  · rfl
  · refine rest_ite s rfl ?_
    split
    · refine rest_ite s ?_ ?_
      · rw [rest_endReader, rest_of_kept (kept_leaveWriter _ _ _), rest_of_kept (kept_logEv _ _ _ _ _)]
      · rw [rest_endReader, rest_of_kept (kept_countRead _ _ _)]
    · refine rest_ite s rfl (rest_ite s (rest_endReader _ _ _ _) ?_)
      rw [rest_endReader, rest_of_kept (kept_countRead _ _ _)]

@[simp] theorem rest_readNow (t seq z lba i : Nat) : rest (readNow s t seq z lba i) = rest s := by
  unfold readNow
  split
  · rfl
  · split
    · exact rest_of_kept (kept_gotBlock _ _ _ _)
    · refine rest_ite s (rest_failBlock _ _ _ _ _) (rest_ite s (rest_modCmd _ _ _ _) (rest_ite s ?_ ?_))
      · rw [rest_failBlock, rest_of_kept (kept_authFail _ _)]
      · rw [rest_of_kept (kept_gotBlock _ _ _ _), rest_of_kept (kept_decryptBlock _ _)]
    · exact rest_modCmd _ _ _ _

@[simp] theorem rest_loseReader (t seq : Nat) : rest (loseReader s t seq) = rest s := by
  unfold loseReader
  split
  · rfl
  · split
    · rfl
    · rw [rest_finishReader, rest_failBlock, rest_modCmd]

@[simp] theorem rest_issueReads (c : Cmd) : rest (issueReads s c) = rest s :=
  rest_ite s (rest_loseReader s _ _) (rest_of_kept (kept_issueReads_pages s c _))

@[simp] theorem rest_startReader (t seq : Nat) : rest (startReader s t seq) = rest s := by
  unfold startReader
  split
  · rfl
  · next c _ =>
    have hread := rest_foldl _ (fun u i => rest_readNow u t seq (pZone c.pkt) (pLba c.pkt) i) (List.range (pCount c.pkt)) s
    dsimp only
    split
    · exact hread
    · rw [rest_finishReader, rest_issueReads]; exact hread

@[simp] theorem rest_readerStage (t seq : Nat) : rest (readerStage s t seq) = rest s := by
  unfold readerStage
  split
  · rfl
  · exact rest_ite s (rest_modCmd _ _ _ _) (rest_startReader _ _ _)

/-! ### Writers -/

@[simp] theorem rest_makeVer (c : Cmd) (lba0 i : Nat) : rest (makeVer s c lba0 i) = rest s := by
  have hfor : rest (if (tenD s c.tenant).cipherOff then s else takeFor s c.tenant (wZone c.pkt)) = rest s :=
    rest_ite s rfl (rest_of_kept (kept_takeFor _ _ _))
  unfold makeVer
  dsimp only
  generalize (if (tenD s c.tenant).cipherOff then s else takeFor s c.tenant (wZone c.pkt)) = u at hfor
  rw [rest_modCmd]
  have hbufs : ∀ r k n, rest (popBufs u r k n).1 = rest s := fun r k n => (rest_of_kept (kept_popBufs u r k n)).trans hfor
  have hctr : ∀ (w : State) n, rest { w with verCtr := n } = rest w := fun _ _ => rfl
  refine rest_ite s ?_ ?_
  · rw [rest_of_kept (kept_mapWrite _ _ _ _ _), rest_of_kept (kept_modVer _ _ _), hctr]; exact hbufs _ _ _
  · rw [rest_of_kept (kept_modVer _ _ _), hctr]; exact hbufs _ _ _

/-- A lifetime total of telemetry (Table 17.7). -/
theorem rest_telLife (x : Tab Nat) : rest { s with hlt := { s.hlt with telLife := x } } = rest s := rfl

theorem rest_returnParity (c : Cmd) (n : Nat) : rest (returnParity s c n) = rest s := rfl

@[simp] theorem rest_commitWriter (c : Cmd) : rest (commitWriter s c) = rest s := by
  have hzone : ∀ (u : State) (p : Prop) [Decidable p] (f g : Zone → Zone) (z : Nat),
      rest (if p then modZone u c.tenant z f else modZone u c.tenant z g) = rest u := fun u p _ f g z => rest_ite u rfl rfl
  have hmade : ∀ (u : State) n l, rest ((List.range n).foldl (fun s i => makeVer s c l i) u) = rest u := fun u n l =>
    rest_foldl _ (fun w i => rest_makeVer w c l i) _ _
  have hplaced : ∀ (u : State) (l : List Nat), rest (l.foldl (fun s v => if (getVer s v).sup then s else placeUc s v) u) = rest u := fun u l =>
    rest_foldl _ (fun w v => rest_ite w rfl (rest_of_kept (kept_placeUc w v))) _ _
  have hfull : ∀ (u : State) (p : Prop) [Decidable p] (z : Nat) (f : Zone → Zone),
      rest (if p then watchGate (modZone u c.tenant z f) else u) = rest u := fun u p _ z f => rest_ite u rfl rfl
  unfold commitWriter
  dsimp only
  rw [rest_telLife, rest_returnParity]
  exact rest_ite s ((hfull _ _ _ _).trans ((hmade _ _ _).trans ((hzone _ _ _ _ _).trans (rest_modCmd _ _ _ _))))
    ((hplaced _ _).trans ((hfull _ _ _ _).trans ((hmade _ _ _).trans ((hzone _ _ _ _ _).trans (rest_modCmd _ _ _ _)))))

@[simp] theorem rest_writerStage (c : Cmd) : rest (writerStage s c) = rest s := by
  unfold writerStage
  dsimp only
  split
  · next st _ =>
    rw [rest_genCompl]
    have hro : ∀ (p : Prop) [Decidable p],
        rest (if p then setCipEvt (goReadOnly s c.tenant (wZone c.pkt) 2) 3 c.tenant 1 else s) = rest s := fun p _ =>
      rest_ite s ((rest_of_kept (kept_setCipEvt _ _ _ _)).trans (rest_goReadOnly s _ _ _)) rfl
    exact rest_ite s ((rest_of_kept (kept_cipCnt _ _ _)).trans (hro _)) (hro _)
  · have hspare : rest (genCompl (goReadOnly s c.tenant (wZone c.pkt) 1) c.tenant c.seq stSpareExh allOnes64) = rest s :=
      (rest_genCompl _ _ _ _ _).trans (rest_goReadOnly s _ _ _)
    refine rest_ite s (rest_ite s hspare (rest_commitWriter s c)) ?_
    have hopen : rest (if (getZone s c.tenant (wZone c.pkt)).st = .empty then openEmpty s c.tenant (wZone c.pkt) (pHint c.pkt)
        else modZone s c.tenant (wZone c.pkt) fun r => { r with st := .opened }) = rest s :=
      rest_ite s (rest_of_kept (kept_openEmpty s _ _ _)) rfl
    refine rest_ite s hspare ?_
    split
    · next hs => exact (rest_commitWriter _ c).trans ((rest_of_kept (kept_supply _ hs)).trans hopen)
    · rfl

/-! ### Zone commands -/

@[simp] theorem rest_endFua (t z : Nat) : rest (endFua s t z) = rest s := rest_foldl _ (fun u _ => rest_ite u (rest_genCompl u _ _ _ _) rfl) _ _

@[simp] theorem rest_applyReset (t z : Nat) : rest (applyReset s t z) = rest s := by
  unfold applyReset
  dsimp only
  have hpurged : ∀ (f : Zone → Zone) (vs es bs bs' : List Nat), rest (purgeOld (bs.foldl queueEr (es.foldl releaseExt (watchGate (vs.foldl freeVer
      (modZone (dropMoves (dropPrograms (dropParity (endFua s t z) t z) bs es) t z bs') t z f))))) t z) = rest s := fun f vs es bs bs' => by
    rw [rest_of_kept (kept_purgeOld _ _ _), rest_foldl _ fun u b => rest_of_kept (kept_queueEr u b),
      rest_foldl _ fun u e => rest_of_kept (kept_releaseExt u e), rest_of_kept (kept_watchGate _), rest_foldl _ fun u v => rest_of_kept (kept_freeVer u v),
      rest_of_kept (kept_modZone _ _ _ _), rest_of_kept (kept_dropMoves _ _ _ _), rest_of_kept (kept_dropPrograms _ _ _),
      rest_of_kept (kept_dropParity _ _ _), rest_endFua]
  exact rest_ite s ((rest_of_kept (kept_setCipEvt _ _ _ _)).trans (hpurged _ _ _ _ _)) (hpurged _ _ _ _ _)

@[simp] theorem rest_resetStage (c : Cmd) : rest (resetStage s c) = rest s :=
  rest_ite s rfl ((rest_awaitJournal _ _ _ _).trans (rest_applyReset _ _ _))

@[simp] theorem rest_openStage (c : Cmd) : rest (openStage s c) = rest s := by
  unfold openStage
  dsimp only
  rw [rest_genCompl, rest_of_kept (kept_applyHint _ _ _ _ _)]
  exact rest_ite s (rest_of_kept (kept_openEmpty s _ _ _)) rfl

@[simp] theorem rest_closeStage (c : Cmd) : rest (closeStage s c) = rest s := by
  unfold closeStage
  dsimp only
  rw [rest_genCompl]
  exact rest_ite s rfl (rest_ite s rfl (rest_of_kept (kept_stageClosed _ _ _)))

@[simp] theorem rest_finishStage (c : Cmd) : rest (finishStage s c) = rest s := by
  unfold finishStage
  dsimp only
  refine rest_ite s (rest_genCompl s _ _ _ _) ?_
  rw [rest_awaitJournal, rest_of_kept (kept_stageClosed _ _ _)]
  rfl

@[simp] theorem rest_hintStage (c : Cmd) : rest (hintStage s c) = rest s :=
  (rest_genCompl _ _ _ _ _).trans (rest_of_kept (kept_applyHint _ _ _ _ _))

@[simp] theorem rest_flushStage (c : Cmd) : rest (flushStage s c) = rest s := by
  unfold flushStage
  dsimp only
  have hforced : ∀ (u : State) (l : List Nat), rest (l.foldl (fun s v => match current s (getVer s v).tenant (getVer s v).zone (getVer s v).lba with
      | none => s
      | some (w, _) => forceVer s w) u) = rest u := fun u l =>
    rest_foldl _ (fun w v => by split <;> simp only [rest_of_kept (kept_forceVer _ _)]) _ _
  split
  · exact hforced _ _
  · exact rest_ite s ((rest_genCompl _ _ _ _ _).trans (hforced _ _)) (rest_ite s ((rest_genCompl _ _ _ _ _).trans (hforced _ _)) (hforced _ _))

theorem rest_sendAll (c : Cmd) (l : List (Nat × Nat)) (a : State × List Byte) : rest (l.foldl (fun (acc : State × List Byte) g =>
    (sendData acc.1 c.port c.fn (.bytes c.port c.fn g.1 (acc.2.take g.2) (relaxedFn s c.port c.fn)), acc.2.drop g.2)) a).1 = rest a.1 := by
  induction l generalizing a with
  | nil => rfl
  | cons g l ih => rw [List.foldl_cons, ih, rest_of_kept (kept_sendData _ _ _ _)]

@[simp] theorem rest_reportStage (c : Cmd) : rest (reportStage s c) = rest s := by
  unfold reportStage
  dsimp only
  rw [rest_genCompl, rest_modCmd, rest_sendAll]

/-! ### Stage 5 -/

@[simp] theorem rest_copyStage (c : Cmd) : rest (copyStage s c) = rest s := by
  unfold copyStage
  refine rest_ite s rfl ?_
  dsimp only
  split
  · exact rest_writerStage s c
  · exact rest_ite s (rest_writerStage s c) ((rest_startReader _ _ _).trans (rest_writerStage s c))

@[simp] theorem rest_zoneStage (t seq : Nat) : rest (zoneStage s t seq) = rest s := by
  unfold zoneStage
  split
  · rfl
  · next c _ =>
    dsimp only
    refine rest_ite s rfl (rest_ite s rfl (rest_ite s (rest_genCompl s _ _ _ _) (rest_ite s (rest_genCompl s _ _ _ _) (rest_ite s rfl
      (rest_ite s (rest_readerStage _ _ _) (rest_ite s (rest_copyStage s c) (rest_ite s (rest_writerStage s c) (rest_ite s (rest_flushStage s c)
        (rest_ite s (rest_reportStage s c) ?_)))))))))
    split
    · exact rest_genCompl s _ _ _ _
    · refine rest_ite s (rest_resetStage s c) (rest_ite s (rest_openStage _ c) (rest_ite s (rest_closeStage _ c) (rest_ite s (rest_finishStage _ c)
        (rest_hintStage _ c))))

@[simp] theorem rest_wakeHeld (t z : Nat) : rest (wakeHeld s t z) = rest s := rest_foldl _ (fun u _ => rest_ite u (rest_zoneStage u _ _) rfl) _ _

@[simp] theorem rest_endActivation : rest (endActivation s) = rest s := rest_foldl _ (fun u _ => rest_ite u (rest_zoneStage u _ _) rfl) _ _

@[simp] theorem rest_completeFua : rest (completeFua s) = rest s :=
  rest_foldl _ (fun u _ => rest_ite u (rest_genCompl u _ _ _ _) (rest_ite u (rest_genCompl u _ _ _ _) (rest_ite u (rest_genCompl u _ _ _ _)
    (rest_ite u (rest_genCompl u _ _ _ _) rfl)))) _ _

@[simp] theorem rest_endPath (c : Cmd) (status : Nat) (blocks : List Nat) : rest (endPath s c status blocks) = rest s := by
  have hleft : rest (if c.acked then c.vers.foldl (fun s v => modVer s v fun x => { x with left := true }) s else leaveWriter s c blocks) = rest s :=
    rest_ite s (rest_foldl _ (fun u v => rest_of_kept (kept_modVer u v _)) _ _) (rest_of_kept (kept_leaveWriter s c blocks))
  exact rest_ite s (rest_ite s ((rest_genCompl _ _ _ _ _).trans hleft) (rest_genCompl s _ _ _ _)) (rest_genCompl s _ _ _ _)

end

end Sys2Proof.Machine
end

section
/-! PROOFS. Activation of firmware images (R343, R345, R360 to R362). -/

namespace Sys2Proof.Machine

/-! ### Requests -/

theorem isActivate_eq {f : Frame} {mode : Nat} (live : Bool) (hop : fOp f.bytes = 0x88) (ha : fArg f.bytes 0 = mode) : isActivate live mode f = true := by
  have hm : (fArg f.bytes 0 == mode) = true := by rw [ha]; exact beq_self_eq_true _
  unfold isActivate
  rw [isOp_eq hop, hm]
  cases live <;> rfl

theorem box_of_rest {s u : State} (h : rest u = rest s) (b : Box) : boxView (getMbx u b) = boxView (getMbx s b) := congrFun (congrArg Rest.box h) b

theorem backlog_of_rest {s u : State} (h : rest u = rest s) (b : Box) : (getMbx u b).backlog = (getMbx s b).backlog :=
  (congrArg Mbx.backlog (box_of_rest h b) : (boxView _).backlog = (boxView _).backlog)

theorem busy_of_rest {s u : State} (h : rest u = rest s) (b : Box) : (getMbx u b).busy = (getMbx s b).busy :=
  (congrArg Mbx.busy (box_of_rest h b) : (boxView _).busy = (boxView _).busy)

/-- A live activation has begun (R343, R362). -/
def liveBegun (s : State) (b : Box) : State :=
  let u := noticePf0 (modMbx s b fun m => { m with busy := true }) 5 1 (stField s 8 4) 0
  { u with rst := { u.rst with actState := 1, actBox := some (b, 0) } }

theorem liveBegun_spec (s : State) (b : Box) : Only [.mbxs, .rst, .pa, .pb, .out] s (liveBegun s b) ∧
    (liveBegun s b).rst = { s.rst with actState := 1, actBox := some (b, 0) } ∧ (getMbx (liveBegun s b) b).busy = true := by
  have hrest := rest_noticePf0 (modMbx s b fun m => { m with busy := true }) 5 1 (stField s 8 4) 0
  refine ⟨(((only_modMbx s b _).mono (by simp)).andThen (only_noticePf0 _ _ _ _ _) (by simp)).andThen (only_rst _ _) (by simp),
    congrArg (fun r : Rst => { r with actState := 1, actBox := some (b, 0) }) (rst_of_rest hrest), (busy_of_rest hrest b).trans ?_⟩
  rw [getMbx_modMbx_self]

/-- The reply of FW_ACTIVATE mode 2, which a device warm reset follows (R361). -/
theorem warmReply_spec {s : State} {b : Box} {f : Frame} (h : nextReq s b = some f) (hm : f.mute = false) (vals : List Nat) : ∃ r,
    (getMbx (modMbx (finishReq (nextStaged s) b 0 vals []) b fun m => { m with held := m.held.map fun r => { r with resets := true } }) b).held = some r ∧
      r.resets = true ∧ r.bytes = replyBytes f.bytes 0 vals 0 0 f.agent := by
  refine ⟨{ replyTo f 0 vals [] with resets := true }, ?_, rfl, ?_⟩
  · rw [getMbx_modMbx_self, getMbx_finishReq (s := nextStaged s) (head?_of_nextReq h), hm]
    rfl
  · simp [replyTo]

/-! ### The end of a live activation -/

/-- Nothing goes on at the end of an activation for which no command waited. -/
theorem endActivation_none {s : State} (h : ∀ c ∈ s.cmds, c.ph ≠ .fwWait) : endActivation s = s := by
  unfold endActivation
  suffices hl : ∀ l : List Cmd, (∀ c ∈ l, c.ph ≠ .fwWait) → l.foldl (fun s c => if c.ph = .fwWait then zoneStage s c.tenant c.seq else s) s = s from
    hl _ h
  intro l hl
  induction l with
  | nil => rfl
  | cons c l ih => rw [List.foldl_cons, if_neg (hl c List.mem_cons_self), ih fun x hx => hl x (List.mem_cons_of_mem _ hx)]

/-- The new firmware runs (R343, R361). -/
def liveEnded (s : State) (ms : Nat) : State :=
  { s with
    rst := { s.rst with actState := 0, actResult := 1, actMs := min 0xFFFF ms, actBox := none }
    boot := { s.boot with fwVer := stField s 8 4, next := s.boot.stTarget, slot := s.boot.stTarget
                          svnPend := stField s 16 2, revokePend := revokes (stField s 19 1) (stField s 18 1) } }

/-- The previous firmware goes on (R345). -/
def liveReverted (s : State) (ms : Nat) : State :=
  { s with rst := { s.rst with actState := 0, actResult := 2, actMs := min 0xFFFF ms, actBox := none } }

theorem exec_liveActivationDone {s : State} {b : Box} (ms : Nat) (ha : s.rst.actState ≠ 0) (hf : flushing s = false) (hc : s.ckm.stopped = false)
    (hb : s.rst.actBox = some (b, 0)) : exec (.liveActivationDone ms) s =
      .next (finishReq (endActivation (noticePf0 (liveEnded s ms) 5 2 (stField s 8 4) 0)) b 0 [stField s 8 4] []) := by
  change execLiveActivationDone ms s = _
  rw [execLiveActivationDone, if_neg (by simp [ha, hf, hc]), hb]
  rfl

/-- A revert is recorded under a code that the manual does not give (R345, log 4). -/
def revertNoted (s : State) : State :=
  logEv { s with freeCtr := s.freeCtr + 1 } 3 (src 2 0) (0x2000 + Config.openCode s.freeCtr % 0x1000) []

theorem exec_liveActivationRevert {s : State} {b : Box} (ms : Nat) (ha : s.rst.actState ≠ 0) (hf : flushing s = false) (hc : s.ckm.stopped = false)
    (hb : s.rst.actBox = some (b, 0)) : exec (.liveActivationRevert ms) s =
      .next (finishReq (revertNoted (endActivation (noticePf0 (liveReverted s ms) 5 2 s.boot.fwVer 0))) b 8 [s.boot.fwVer] []) := by
  change execLiveActivationRevert ms s = _
  rw [execLiveActivationRevert, if_neg (by simp [ha, hf, hc]), hb]
  rfl

theorem only_revertNoted (s : State) : Only [.evr, .pa, .pb, .out, .freeCtr] s (revertNoted s) :=
  ((only_freeCtr s _).mono (by simp)).andThen (only_logEv _ _ _ _ _) (by simp)

theorem rest_revertNoted (s : State) : rest (revertNoted s) = rest s := rest_of_kept (kept_logEv _ _ _ _ _)

/-- Settles O49: the requests by `runReq`, the end of a live activation by what the commands that waited leave as it is (`rest_endActivation`). -/
theorem imagesAreActivated : Obligations.ImagesAreActivated := by
  unfold Obligations.ImagesAreActivated
  intro s b f ms
  refine ⟨fun hat hop => ⟨fun h0 hst h3 hlive => ?_, fun h3 => ⟨fun h1 => ?_, fun h2 hm => ?_⟩, fun h3 h1 => ?_⟩, fun hw hf ht hr => ?_,
    fun ha hf hc hb hh => ⟨?_, ?_⟩⟩
  · refine ⟨liveBegun s b, (runReq_eq _ _ hat (isActivate_eq true hop h0) : execFwActivateLive b s = _).trans ?_, liveBegun_spec s b⟩
    rw [if_neg (by simp [hst]), if_neg (not_not_intro h3), if_neg (by simp [hlive])]
    rfl
  · refine ⟨_, (runReq_eq _ _ hat (isActivate_eq true hop h1) : execFwActivateNextReset b s = _), ?_⟩
    rw [if_neg (not_not_intro h3)]
    have hboot : (finishReq (nextStaged s) b 0 [stField s 8 4] []).boot = { s.boot with next := s.boot.stTarget } :=
      only_finishReq _ _ _ _ _ .boot (by simp)
    exact ⟨((only_boot s _).mono (by simp)).andThen (only_finishReq (nextStaged s) _ _ _ _) (by simp), hboot,
      replies_finishReq (s' := nextStaged s) rfl (head?_of_nextReq hat.1) _ _ _⟩
  · obtain ⟨r, hheld, hresets, hbytes⟩ := warmReply_spec hat.1 hm [stField s 8 4]
    refine ⟨_, r, (runReq_eq _ _ hat (isActivate_eq false hop h2) : execFwActivateWarmReset b s = _), ?_⟩
    rw [if_neg (not_not_intro h3), if_neg (by simp [hm])]
    have hboot : (finishReq (nextStaged s) b 0 [stField s 8 4] []).boot = { s.boot with next := s.boot.stTarget } :=
      only_finishReq _ _ _ _ _ .boot (by simp)
    exact ⟨(((only_boot s _).mono (by simp)).andThen (only_finishReq (nextStaged s) _ _ _ _) (by simp)).andThen (only_modMbx _ _ _) (by simp),
      hboot, hheld, hresets, hbytes⟩
  · refine ⟨_, (runReq_eq _ _ hat (isActivate_eq true hop h1) : execFwActivateNextReset b s = _), ?_⟩
    rw [if_pos h3]
    exact finishReq_spec hat.1 _ _ _
  · have hphase : (s.plp.phase == 2) = false := by
      rw [flushing, Bool.or_eq_false_iff] at hf
      exact hf.2
    refine ⟨beginWarm s 3, if_pos ⟨hw, by simp [hf], ht⟩, ?_⟩
    rw [beginWarm, if_neg (by simp [hr, hphase])]
    exact ⟨fun q hq => by cases q <;> simp at hq <;> rfl, rfl, rfl, rfl⟩
  · have hnotice := rest_noticePf0 (liveEnded s ms) 5 2 (stField s 8 4) 0
    have hrest := (rest_endActivation (noticePf0 (liveEnded s ms) 5 2 (stField s 8 4) 0)).trans hnotice
    refine ⟨_, exec_liveActivationDone ms ha hf hc hb, ?_⟩
    have honly := only_finishReq (endActivation (noticePf0 (liveEnded s ms) 5 2 (stField s 8 4) 0)) b 0 [stField s 8 4] []
    rw [show _ = _ from honly .boot (by simp), show _ = _ from honly .rst (by simp), boot_of_rest hrest, rst_of_rest hrest]
    refine ⟨rfl, rfl, rfl, rfl, rfl, rfl, fun hwait => ⟨?_, replies_finishReq (backlog_of_rest hrest b) hh _ _ _⟩⟩
    have hcmds : (noticePf0 (liveEnded s ms) 5 2 (stField s 8 4) 0).cmds = s.cmds := only_noticePf0 _ _ _ _ _ .cmds (by simp)
    refine Only.andThen ?_ honly (by simp)
    rw [endActivation_none (by rw [hcmds]; exact hwait)]
    have hended : Only [.mbxs, .rst, .boot, .pa, .pb, .out] s (liveEnded s ms) := fun q hq => by cases q <;> simp at hq <;> rfl
    exact hended.andThen (only_noticePf0 _ _ _ _ _) (by simp)
  · have hnotice := rest_noticePf0 (liveReverted s ms) 5 2 s.boot.fwVer 0
    have hrest := (rest_revertNoted _).trans ((rest_endActivation (noticePf0 (liveReverted s ms) 5 2 s.boot.fwVer 0)).trans hnotice)
    refine ⟨_, exec_liveActivationRevert ms ha hf hc hb, ?_⟩
    have honly := only_finishReq (revertNoted (endActivation (noticePf0 (liveReverted s ms) 5 2 s.boot.fwVer 0))) b 8 [s.boot.fwVer] []
    rw [show _ = _ from honly .boot (by simp), show _ = _ from honly .rst (by simp), boot_of_rest hrest, rst_of_rest hrest]
    refine ⟨rfl, rfl, rfl, fun hwait => ⟨?_, replies_finishReq (backlog_of_rest hrest b) hh _ _ _⟩⟩
    have hcmds : (noticePf0 (liveReverted s ms) 5 2 s.boot.fwVer 0).cmds = s.cmds := only_noticePf0 _ _ _ _ _ .cmds (by simp)
    refine Only.andThen (Only.andThen ?_ (only_revertNoted _) (by simp)) honly (by simp)
    rw [endActivation_none (by rw [hcmds]; exact hwait)]
    exact ((only_rst s _).mono (by simp)).andThen (only_noticePf0 (liveReverted s ms) _ _ _ _) (by simp)

end Sys2Proof.Machine
end

section
/-! PROOFS. Keys (R274 to R278). -/

namespace Sys2Proof.Machine

/-! ### Key slots -/

theorem tslots_of_rest {s u : State} (h : rest u = rest s) : u.cip.tslots = s.cip.tslots := congrArg (fun r : Rest => r.keys.tslots) h
theorem dslots_of_rest {s u : State} (h : rest u = rest s) : u.cip.dslots = s.cip.dslots := congrArg (fun r : Rest => r.keys.dslots) h
theorem tslot_of_cip {s u : State} (h : u.cip.tslots = s.cip.tslots) (t : Nat) : tslot u t = tslot s t := by rw [tslot, h, tslot]
theorem dslot_of_cip {s u : State} (h : u.cip.dslots = s.cip.dslots) (d : Nat) : dslot u d = dslot s d := by rw [dslot, h, dslot]

theorem tslot_modTslot (s : State) (t i : Nat) (f : KeySlot → KeySlot) : tslot (modTslot s t f) i = if i = t then f (tslot s t) else tslot s i := by
  split
  · next h => subst h; simp only [tslot, modTslot, Tab.get_upd_self]
  · next h => simp only [tslot, modTslot]; exact Tab.get_upd_ne _ _ _ _ _ h

theorem dslot_modDslot (s : State) (d i : Nat) (f : KeySlot → KeySlot) : dslot (modDslot s d f) i = if i = d then f (dslot s d) else dslot s i := by
  split
  · next h => subst h; simp only [dslot, modDslot, Tab.get_upd_self]
  · next h => simp only [dslot, modDslot]; exact Tab.get_upd_ne _ _ _ _ _ h

theorem only_modTslot (s : State) (t : Nat) (f : KeySlot → KeySlot) : Only [.cip] s (modTslot s t f) := only_cip _ _
theorem only_modDslot (s : State) (d : Nat) (f : KeySlot → KeySlot) : Only [.cip] s (modDslot s d f) := only_cip _ _

/-- A slot that takes the key it holds (R277). -/
theorem takeKey_same {k : KeySlot} {key : List Byte} (l : List Byte) (pf0 : Bool) (hs : k.state = 1) (hk : k.key = key) :
    takeKey k key l pf0 = { k with keyId := kId l, persist := !kTenant l || bit (kFlags l) 0 } := by
  unfold takeKey
  exact if_pos ⟨hs, hk⟩

/-- A slot that takes another key (R277). -/
theorem takeKey_new {k : KeySlot} {key : List Byte} (l : List Byte) (pf0 : Bool) (h : k.state ≠ 1 ∨ k.key ≠ key) :
    takeKey k key l pf0 = { state := 1, persist := !kTenant l || bit (kFlags l) 0, plain := kWrap l == 0, key := key, keyId := kId l
                            kcv := leNat (kcvOf key), loads := satAdd 0xFFFF k.loads 1, byPf0 := pf0 } := by
  unfold takeKey
  exact if_neg fun hk => h.elim (fun hs => hs hk.1) fun hn => hn hk.2

/-! ### Commands that go on with a key (Table 10.6) -/

@[simp] theorem rest_blockDone (s : State) (t seq v : Nat) (bad : Bool) : rest (blockDone s t seq v bad) = rest s := by
  unfold blockDone
  split
  · rfl
  · refine rest_ite s (rest_failBlock _ _ _ _ _) (rest_ite s (rest_modCmd _ _ _ _) (rest_ite s ?_ ?_))
    · rw [rest_failBlock, rest_of_kept (kept_authFail _ _)]
    · rw [rest_of_kept (kept_gotBlock _ _ _ _), rest_of_kept (kept_decryptBlock _ _)]

@[simp] theorem rest_keyBack (s : State) (c : Cmd) : rest (keyBack s c) = rest s := by
  unfold keyBack
  refine rest_ite s rfl ?_
  dsimp only
  rw [rest_of_kept (kept_sweepVers _), rest_finishReader, rest_foldl _ fun u w => rest_blockDone u _ _ _ _, rest_modCmd]

@[simp] theorem rest_keyLoaded (s : State) (t : Nat) : rest (keyLoaded s t) = rest s := rest_foldl _ (fun u c => rest_keyBack u c) _ _

/-- No command of a tenant waits for its key. -/
theorem keyLoaded_none {s : State} {t : Nat} (h : ∀ c ∈ s.cmds, c.tenant = t → c.keyWait = []) : keyLoaded s t = s := by
  unfold keyLoaded
  suffices hl : ∀ l : List Cmd, (∀ c ∈ l, c.keyWait = []) → l.foldl keyBack s = s from
    hl _ fun c hc => h c (List.mem_filter.mp hc).1 (by simpa using (List.mem_filter.mp hc).2)
  intro l hl
  induction l with
  | nil => rfl
  | cons c l ih =>
    have hc : keyBack s c = s := by rw [keyBack, hl c List.mem_cons_self]; rfl
    rw [List.foldl_cons, hc, ih fun x hx => hl x (List.mem_cons_of_mem _ hx)]

/-! ### KEY_LOAD (R277) -/

theorem wantsEvict_eq {f : Frame} {d : ReqData} {l : List Byte} (h : reqData f d = some l) : wantsEvict d f = kEvict l := by rw [wantsEvict, h]

theorem exec_keyLoad {s : State} {b : Box} {f : Frame} {d : ReqData} {l : List Byte} (hat : AtRequest s b f) (hop : isOp 0x86 f = true)
    (hd : DataAt s b f d l) (he : kEvict l = false) : exec (.keyLoad b d) s = .next (match keyCheck s b f l with
    | some e => finishReq s b e [] []
    | none =>
      match unwrapBlob s l with
      | .error e => finishReq (if e = 5 then unwrapFailed s l else s) b e [] []
      | .ok key =>
        if !kTenant l then finishDurable (modDslot s (kTarget l - 0x400) fun k => takeKey k key l (isPf0Box b)) b 0 [] []
        else if holdsData s (kTarget l) && (tslot s (kTarget l)).loads != 0 && (tslot s (kTarget l)).kcv != leNat (kcvOf key) then
          finishReq s b 7 [] []
        else
          let s := keyLoaded (modTslot s (kTarget l) fun k => takeKey k key l (isPf0Box b)) (kTarget l)
          if bit (kFlags l) 0 then finishDurable s b 0 [] [] else finishReq s b 0 [] []) := by
  refine (runData_eq _ _ hat hd (by rw [hop, wantsEvict_eq hd.1, he]; rfl) : execKeyLoad b d s = _).trans ?_
  rfl

theorem unwrapFailed_rest (s : State) (l : List Byte) : rest (unwrapFailed s l) = rest s :=
  (rest_of_kept (kept_setCipEvt _ _ _ _)).trans (rest_of_kept (kept_cipCnt _ _ _))

/-- The key of a blob (R277, step 4). -/
theorem unwrapBlob_ok {s : State} {l key : List Byte} (h : unwrapBlob s l = .ok key) :
    (kWrap l = 0 → kTenant l = false ∧ s.cip.plainAllow = true ∧ key = (kBlob l).take 32) ∧
    (kWrap l ≠ 0 → (dslot s (kWrap l)).state = 1 ∧ kwUnwrap (dslot s (kWrap l)).key (kBlob l) = some key) := by
  unfold unwrapBlob at h
  split at h
  · next hw =>
    split at h
    · cases h
    · next hp =>
      refine ⟨fun _ => ?_, fun hn => absurd hw hn⟩
      simp only [Bool.or_eq_true, Bool.not_eq_true', not_or, Bool.not_eq_true, Bool.not_eq_false] at hp
      exact ⟨hp.1, hp.2, (Except.ok.inj h).symm⟩
  · next hw =>
    dsimp only at h
    split at h
    · cases h
    · next hs =>
      refine ⟨fun h0 => absurd h0 hw, fun _ => ⟨Decidable.not_not.mp hs, ?_⟩⟩
      split at h
      · cases h
      · next k hk => rw [hk, Except.ok.inj h]

/-- Settles O41: a load by its result; the commands that go on with the key leave the slots and the mailboxes (`rest_keyLoaded`). -/
theorem keysAreLoaded : Obligations.KeysAreLoaded := by
  unfold Obligations.KeysAreLoaded
  intro s b f d l hat hop hd hev
  have hx := exec_keyLoad hat hop hd hev
  have hhead := head?_of_nextReq hat.1
  refine ⟨fun e hc => ?_, fun hc => ⟨fun e hu => ?_, fun key hu => ⟨(unwrapBlob_ok hu).1, (unwrapBlob_ok hu).2, fun ht hh hl hk => ?_,
    fun ht hk => ?_, fun ht => ?_⟩⟩⟩
  · rw [hc] at hx
    exact ⟨_, hx, finishReq_spec hat.1 _ _ _⟩
  · rw [hc, hu] at hx
    have hrest : rest (if e = 5 then unwrapFailed s l else s) = rest s := rest_ite s (unwrapFailed_rest s l) rfl
    have hcip : (finishReq (if e = 5 then unwrapFailed s l else s) b e [] []).cip = (if e = 5 then unwrapFailed s l else s).cip :=
      only_finishReq _ _ _ _ _ .cip (by simp)
    exact ⟨_, hx, replies_finishReq (backlog_of_rest hrest b) hhead _ _ _, (congrArg Cip.tslots hcip).trans (tslots_of_rest hrest),
      (congrArg Cip.dslots hcip).trans (dslots_of_rest hrest)⟩
  · rw [hc, hu] at hx
    dsimp only at hx
    rw [if_neg (by simp [ht]), if_pos (by simp [hh, hl, hk])] at hx
    exact ⟨_, hx, finishReq_spec hat.1 _ _ _⟩
  · rw [hc, hu] at hx
    dsimp only at hx
    rw [if_neg (by simp [ht]), if_neg (by obtain h | h | h := hk <;> simp [h])] at hx
    have hrest := rest_keyLoaded (modTslot s (kTarget l) fun k => takeKey k key l (isPf0Box b)) (kTarget l)
    have hnone : (∀ c ∈ s.cmds, c.tenant = kTarget l → c.keyWait = []) →
        keyLoaded (modTslot s (kTarget l) fun k => takeKey k key l (isPf0Box b)) (kTarget l) =
          modTslot s (kTarget l) fun k => takeKey k key l (isPf0Box b) := fun h => keyLoaded_none h
    generalize keyLoaded (modTslot s (kTarget l) fun k => takeKey k key l (isPf0Box b)) (kTarget l) = w at hx hrest hnone
    have hback : (getMbx w b).backlog = (getMbx s b).backlog := backlog_of_rest hrest b
    have hjno : w.plp.jSeq = s.plp.jSeq := (jSeq_of_rest hrest).trans rfl
    have hslot : ∀ t, tslot w t = if t = kTarget l then takeKey (tslot s (kTarget l)) key l (isPf0Box b) else tslot s t := fun t =>
      (tslot_of_cip (tslots_of_rest hrest) t).trans (tslot_modTslot s (kTarget l) t _)
    have hdslot : w.cip.dslots = s.cip.dslots := (dslots_of_rest hrest).trans rfl
    obtain ⟨u, hux, hcip, hrep, hafter, honly⟩ : ∃ u, exec (.keyLoad b d) s = .next u ∧ u.cip = w.cip ∧ Replies s u b f 0 [] [] ∧
        (bit (kFlags l) 0 = true → ∀ r, (getMbx u b).held = some r → r.after = some s.plp.jSeq) ∧
        ((∀ c ∈ s.cmds, c.tenant = kTarget l → c.keyWait = []) → Only [.mbxs, .plp] w u ∧
          u.plp = { w.plp with jRecs := w.plp.jRecs + b2n (bit (kFlags l) 0) }) := by
      split at hx
      · next hbit =>
        obtain ⟨hrep, hafter, hplp⟩ := replies_finishDurable (s := s) (s' := w) hback hhead 0 [] []
        exact ⟨_, hx, only_finishDurable _ _ _ _ _ .cip (by simp), hrep, fun _ r hr => (hafter r hr).trans (by rw [hjno]),
          fun _ => ⟨only_finishDurable _ _ _ _ _, by rw [hplp, hbit]; rfl⟩⟩
      · next hbit =>
        have hplp : (finishReq w b 0 [] []).plp = w.plp := only_finishReq _ _ _ _ _ .plp (by simp)
        exact ⟨_, hx, only_finishReq _ _ _ _ _ .cip (by simp), replies_finishReq hback hhead _ _ _, fun h => absurd h hbit,
          fun _ => ⟨(only_finishReq _ _ _ _ _).mono (by simp), by rw [hplp, Bool.of_not_eq_true hbit]; rfl⟩⟩
    have hu : ∀ t, tslot u t = tslot w t := tslot_of_cip (congrArg Cip.tslots hcip)
    refine ⟨u, hux, hrep, (congrArg Cip.dslots hcip).trans hdslot, fun t hne => ?_, fun hs hkey => ?_, fun hne => ?_, hafter, fun hno => ⟨?_, ?_⟩⟩
    · rw [hu, hslot, if_neg hne]
    · rw [hu, hslot, if_pos rfl, takeKey_same l _ hs hkey, ht]; rfl
    · rw [hu, hslot, if_pos rfl, takeKey_new l _ hne, ht]; rfl
    · exact Only.andThen (by rw [hnone hno]; exact (only_modTslot s _ _).mono (by simp)) (honly hno).1 (by simp)
    · rw [(honly hno).2, hnone hno]; rfl
  · rw [hc, hu] at hx
    dsimp only at hx
    rw [if_pos (by simp [ht])] at hx
    obtain ⟨hrep, hafter, hplp⟩ := replies_finishDurable (s := s)
      (s' := modDslot s (kTarget l - 0x400) fun k => takeKey k key l (isPf0Box b)) rfl hhead 0 [] []
    have honly := only_finishDurable (modDslot s (kTarget l - 0x400) fun k => takeKey k key l (isPf0Box b)) b 0 [] []
    have hcip := honly .cip (by simp)
    have hslot : ∀ j, dslot (finishDurable (modDslot s (kTarget l - 0x400) fun k => takeKey k key l (isPf0Box b)) b 0 [] []) j =
        if j = kTarget l - 0x400 then takeKey (dslot s (kTarget l - 0x400)) key l (isPf0Box b) else dslot s j := fun j =>
      (dslot_of_cip (congrArg Cip.dslots hcip) j).trans (dslot_modDslot s _ j _)
    refine ⟨_, hx, ((only_modDslot s _ _).mono (by simp)).andThen honly (by simp), hrep, (congrArg Cip.tslots hcip).trans rfl, hplp, hafter,
      fun j hj => ?_, fun hs hkey => ?_, fun hne => ?_⟩
    · rw [hslot, if_neg hj]
    · rw [hslot, if_pos rfl, takeKey_same l _ hs hkey, ht]; rfl
    · rw [hslot, if_pos rfl, takeKey_new l _ hne, ht]; rfl

end Sys2Proof.Machine
end

section
/-! PROOFS. ZONE_RESET (R99, R100): what a reset does to the zones, and what it leaves as it is. -/

namespace Sys2Proof.Machine

/-! ### What leaves the zones -/

section
variable (s : State)

theorem zones_foldl {α : Type} (f : State → α → State) (h : ∀ s x, (f s x).zones = s.zones) (l : List α) : (l.foldl f s).zones = s.zones :=
  foldl_field State.zones f h l s

@[simp] theorem zones_pushBufs (r : Nat) (l : List Nat) : (pushBufs s r l).zones = s.zones :=
  zones_foldl s _ (fun u _ => only_pushPtr u _ _ .zones (by decide)) l

@[simp] theorem zones_freeVer (v : Nat) : (freeVer s v).zones = s.zones := only_freeVer s v .zones (by decide)

@[simp] theorem zones_genCompl (t seq st r : Nat) : (genCompl s t seq st r).zones = s.zones := only_genCompl_any s t seq st r .zones (by simp)

@[simp] theorem zones_endFua (t z : Nat) : (endFua s t z).zones = s.zones := zones_foldl s _ (fun u c => by split <;> simp) _

@[simp] theorem zones_completeFua : (completeFua s).zones = s.zones := zones_foldl s _ (fun u c => by simp only [apply_ite State.zones, zones_genCompl, ite_self]) _

@[simp] theorem zones_queueEr (b : Nat) : (queueEr s b).zones = s.zones := by
  simp only [queueEr, eraseBlkQ, modLun, modBlk]

@[simp] theorem zones_endTokWait (l : Nat) : (endTokWait s l).zones = s.zones := by unfold endTokWait; split <;> rfl

@[simp] theorem zones_dropPrograms (blks exts : List Nat) : (dropPrograms s blks exts).zones = s.zones :=
  zones_foldl s endTokWait (fun u l => zones_endTokWait u l) _

@[simp] theorem zones_dropParity (t z : Nat) : (dropParity s t z).zones = s.zones := by
  unfold dropParity
  dsimp only
  split <;> rfl

@[simp] theorem zones_dropMoves (t z : Nat) (blks : List Nat) : (dropMoves s t z blks).zones = s.zones := by
  unfold dropMoves
  dsimp only
  rw [zones_foldl _ _ fun u b => zones_queueEr u b, zones_dropPrograms]
  exact zones_pushBufs _ _ _

@[simp] theorem zones_releaseExt (e : Nat) : (releaseExt s e).zones = s.zones := by
  unfold releaseExt
  dsimp only
  split
  · rfl
  · split
    · rw [zones_foldl _ _ fun u b => zones_queueEr u b]
      simp only [watchGate, modSet, modExt, zones_pushBufs]
    · simp only [watchGate, modSet, modExt, zones_pushBufs]

@[simp] theorem zones_setCipEvt (b inst sev : Nat) : (setCipEvt s b inst sev).zones = s.zones := by
  unfold setCipEvt raiseEvt
  split
  · rfl
  · exact only_genericEv _ _ _ _ _ _ _ .zones (by simp)

@[simp] theorem zones_keyNotice (t cause : Nat) : (keyNotice s t cause).zones = s.zones :=
  (only_noticeTenant _ _ _ _ _ _ .zones (by simp)).trans (only_noticePf0 _ _ _ _ _ .zones (by simp))

end

/-! ### The zone that is reset -/

theorem getZone_of_zones {s u : State} (h : u.zones = s.zones) (t z : Nat) : getZone u t z = getZone s t z := by rw [getZone, h, getZone]

theorem getZone_modZone (s : State) (t z t' z' : Nat) (f : Zone → Zone) :
    getZone (modZone s t z f) t' z' = if zkey t' z' = zkey t z then f (getZone s t z) else getZone s t' z' := by
  split
  · next h => simp only [getZone, modZone, h, Tab.get_upd_self]
  · next h => simp only [getZone, modZone]; exact Tab.get_upd_ne _ _ _ _ _ h

/-- A zone in its next generation: EMPTY at write pointer 0 and key epoch 0, without members (R99, R121). -/
def nextGen (r : Zone) : Zone :=
  { r with foldNext := 0, st := .empty, wp := 0, gen := (r.gen + 1) % p32, epoch := 0, invoc := 0, resv := 0, roReason := 0
           capDrop := none, finished := false, finWp := 0, members := [], resetWait := none }

/-- A reset gives its zone its next generation, and leaves every other zone (R99). -/
theorem zones_applyReset (s : State) (t z : Nat) : (applyReset s t z).zones = (modZone s t z nextGen).zones := by
  unfold applyReset
  dsimp only
  have hbefore : (modZone (dropMoves (dropPrograms (dropParity (endFua s t z) t z) ((getZone s t z).members.filterMap Member.blk) (zoneExts s t z)) t z
      ((getZone s t z).members.filterMap Member.blk)) t z nextGen).zones = (modZone s t z nextGen).zones := by
    unfold modZone
    dsimp only
    rw [zones_dropMoves, zones_dropPrograms, zones_dropParity, zones_endFua]
  have hafter : ∀ (u : State) (vs es bs : List Nat),
      (purgeOld (bs.foldl queueEr (es.foldl releaseExt (watchGate (vs.foldl freeVer u)))) t z).zones = u.zones := fun u vs es bs => by
    change (bs.foldl queueEr _).zones = _
    rw [zones_foldl _ _ fun u b => zones_queueEr u b, zones_foldl _ _ fun u e => zones_releaseExt u e]
    exact zones_foldl _ _ (fun u v => zones_freeVer u v) _
  split
  · rw [zones_setCipEvt, hafter]; exact hbefore
  · rw [hafter]; exact hbefore

theorem getZone_applyReset (s : State) (t z t' z' : Nat) :
    getZone (applyReset s t z) t' z' = if zkey t' z' = zkey t z then nextGen (getZone s t z) else getZone s t' z' := by
  rw [getZone_of_zones (zones_applyReset s t z), getZone_modZone]

end Sys2Proof.Machine
end

section
/-! PROOFS. Eviction and SANITIZE (R278, R290). -/

namespace Sys2Proof.Machine

/-! ### What a SANITIZE leaves of a tenant's stored data -/

section
variable (s : State)

/-- The rest of a state but for its keys. -/
def restButKeys (s : State) : Rest := { rest s with keys := {} }

theorem restButKeys_cip (x : Cip) : restButKeys { s with cip := x } = restButKeys s := rfl

theorem ten_restButKeys : (restButKeys s).ten = (rest s).ten := rfl

theorem restButKeys_of_rest {s u : State} (h : rest u = rest s) : restButKeys u = restButKeys s := by rw [restButKeys, h, restButKeys]

@[simp] theorem kept_severWriters (t : Nat) : kept (severWriters s t) = kept s :=
  kept_foldl _ (fun u _ => kept_ite u (kept_foldl _ (fun w v => kept_modVer w v _) _ u) rfl) _ _

@[simp] theorem zones_severWriters (t : Nat) : (severWriters s t).zones = s.zones :=
  zones_foldl s _ (fun u _ => by
    split
    · exact zones_foldl u _ (fun w v => show (modVer w v _).zones = _ from rfl) _
    · rfl) _

@[simp] theorem kept_dropStreams (t : Nat) : kept (dropStreams s t) = kept s := by
  unfold dropStreams
  dsimp only
  rw [kept_foldl _ fun u b => kept_queueEr u b, kept_foldl _ fun u e => kept_modSet u _ _, kept_foldl _ fun u e => kept_releaseExt u e,
    kept_dropPrograms, kept_media, kept_pushBufs]

@[simp] theorem zones_dropStreams (t : Nat) : (dropStreams s t).zones = s.zones := by
  unfold dropStreams
  dsimp only
  rw [zones_foldl _ _ fun u b => zones_queueEr u b, zones_foldl _ _ fun u e => show (modSet u _ _).zones = _ from rfl,
    zones_foldl _ _ fun u e => zones_releaseExt u e, zones_dropPrograms]
  exact zones_pushBufs _ _ _

@[simp] theorem rest_dropZones (t : Nat) : rest (dropZones s t) = rest s :=
  (rest_of_kept (kept_dropStreams _ _)).trans ((rest_foldl _ (fun u z => rest_applyReset u t z) _ _).trans (rest_of_kept (kept_severWriters _ _)))

end

/-- The first `n` zones of a tenant are reset, each once. -/
theorem getZone_resets (s : State) (t n z : Nat) : getZone ((List.range n).foldl (fun s z => applyReset s t z) s) t z =
    if z < n then nextGen (getZone s t z) else getZone s t z := by
  induction n with
  | zero => rfl
  | succ n ih =>
    have hkey : zkey t z = zkey t n ↔ z = n := by unfold zkey; omega
    rw [List.range_succ, List.foldl_append, List.foldl_cons, List.foldl_nil, getZone_applyReset]
    simp only [hkey]
    by_cases hz : z = n
    · subst hz
      simp [ih]
    · rw [if_neg hz, ih]
      simp only [show z < n + 1 ↔ z < n by omega]

theorem nz_of_rest {s u : State} (h : rest u = rest s) (t : Nat) : (tenD u t).nz = (tenD s t).nz := by
  have ht : (getTen u t).map tenParams = (getTen s t).map tenParams := congrFun (congrArg Rest.ten h) t
  have hd : ∀ w : State, (tenD w t).nz = (((getTen w t).map tenParams).getD {}).nz := fun w => by
    unfold tenD
    cases getTen w t <;> rfl
  rw [hd, ht, ← hd]

theorem getZone_dropZones (s : State) {t z : Nat} (hz : z < (tenD s t).nz) : getZone (dropZones s t) t z = nextGen (getZone s t z) := by
  have hs : ∀ t z, getZone (severWriters s t) t z = getZone s t z := fun t z => getZone_of_zones (zones_severWriters s t) t z
  unfold dropZones
  dsimp only
  rw [getZone_of_zones (zones_dropStreams _ t), getZone_resets, nz_of_rest (rest_of_kept (kept_severWriters s t)), if_pos hz, hs]

/-- A zone is EMPTY, with nothing written and no members. -/
def Emptied (s : State) (t z : Nat) : Prop :=
  (getZone s t z).st = .empty ∧ (getZone s t z).wp = 0 ∧ (getZone s t z).epoch = 0 ∧ (getZone s t z).members = []

theorem emptied_of_zones {s u : State} {t z : Nat} (h : u.zones = s.zones) (he : Emptied s t z) : Emptied u t z := by
  rw [Emptied, getZone_of_zones h]
  exact he

theorem emptied_applyReset {s : State} {t z : Nat} (t' z' : Nat) (h : Emptied s t z) : Emptied (applyReset s t' z') t z := by
  unfold Emptied
  rw [getZone_applyReset]
  split
  · exact ⟨rfl, rfl, rfl, rfl⟩
  · exact h

theorem foldl_keeps {α β : Type} {f : β → α → β} {p : β → Prop} (h : ∀ b x, p b → p (f b x)) (l : List α) (b : β) (hb : p b) : p (l.foldl f b) := by
  induction l generalizing b with
  | nil => exact hb
  | cons x l ih => exact ih _ (h b x hb)

theorem emptied_dropZones {s : State} {t z : Nat} (t' : Nat) (h : Emptied s t z) : Emptied (dropZones s t') t z :=
  emptied_of_zones (zones_dropStreams _ t')
    (foldl_keeps (p := fun u => Emptied u t z) (fun _ z' hu => emptied_applyReset t' z' hu) _ _ (emptied_of_zones (zones_severWriters s t') h))

/-! ### A tenant under SANITIZE -/

/-- A slot as a SANITIZE leaves it: a key that is loaded is closed. -/
def sanSlot (k : KeySlot) : KeySlot := if k.state = 1 then { k with state := 3, persist := false } else { k with persist := false }

theorem sanSlot_sanSlot (k : KeySlot) : sanSlot (sanSlot k) = sanSlot k := by
  unfold sanSlot
  split <;> simp_all

/-- A tenant's slot closed and its derived keys purged, with the notice that goes with it (R278). -/
def sanClosed (s : State) (t : Nat) : State :=
  purgeTenant (if (tslot s t).state = 1 then keyNotice (modTslot s t sanSlot) t 2 else modTslot s t sanSlot) t

/-- The number of a tenant's present life (R275) advances, up to its end. -/
def instNext (s : State) (t : Nat) : State :=
  if instOf s t < 0x3FFFFF then { s with cip := { s.cip with insts := Tab.set 0 s.cip.insts t (instOf s t + 1) } } else s

theorem instNext_cases (s : State) (t : Nat) : instNext s t = s ∨ ∃ x, instNext s t = { s with cip := { s.cip with insts := x } } := by
  unfold instNext
  split
  · exact .inr ⟨_, rfl⟩
  · exact .inl rfl

theorem instOf_instNext (s : State) (t i : Nat) : instOf (instNext s t) i =
    if i = t ∧ instOf s i < 0x3FFFFF then instOf s i + 1 else instOf s i := by
  unfold instNext
  generalize 0x3FFFFF = last
  by_cases hlt : instOf s t < last
  · rw [if_pos hlt]
    by_cases hi : i = t
    · subst hi
      rw [if_pos ⟨rfl, hlt⟩]
      simp only [instOf, Tab.get_set_self]
    · rw [if_neg fun h => hi h.1]
      simp only [instOf]
      exact Tab.get_set_ne _ _ _ _ _ hi
  · rw [if_neg hlt, if_neg fun (h : i = t ∧ _) => hlt (h.1 ▸ h.2)]

theorem sanTenant_eq (s : State) (t : Nat) : sanTenant s t = instNext (dropZones (sanClosed s t) t) t := by
  unfold sanTenant sanClosed instNext sanSlot
  simp only [decide_eq_true_eq]

theorem rest_sanClosed (s : State) (t : Nat) : rest (sanClosed s t) = rest (modTslot s t sanSlot) :=
  (rest_of_kept (kept_purgeTenant _ _)).trans (rest_ite _ (rest_keyNotice _ _ _) rfl)

theorem zones_sanClosed (s : State) (t : Nat) : (sanClosed s t).zones = s.zones := by
  change (if (tslot s t).state = 1 then keyNotice (modTslot s t sanSlot) t 2 else modTslot s t sanSlot).zones = _
  split
  · exact zones_keyNotice _ _ _
  · rfl

theorem insts_of_rest {s u : State} (h : rest u = rest s) : u.cip.insts = s.cip.insts := congrArg (fun r : Rest => r.keys.insts) h

theorem instOf_of_rest {s u : State} (h : rest u = rest s) (t : Nat) : instOf u t = instOf s t := by rw [instOf, insts_of_rest h, instOf]

theorem rest_dropClosed (s : State) (t : Nat) : rest (dropZones (sanClosed s t) t) = rest (modTslot s t sanSlot) :=
  (rest_dropZones _ _).trans (rest_sanClosed s t)

theorem tslot_insts (s : State) (x : Tab Nat) (i : Nat) : tslot { s with cip := { s.cip with insts := x } } i = tslot s i := rfl

theorem tslot_sanTenant (s : State) (t i : Nat) : tslot (sanTenant s t) i = if i = t then sanSlot (tslot s t) else tslot s i := by
  have h : tslot (sanTenant s t) i = tslot (dropZones (sanClosed s t) t) i := by
    rw [sanTenant_eq]
    obtain h | ⟨x, h⟩ := instNext_cases (dropZones (sanClosed s t) t) t <;> rw [h]
    exact tslot_insts _ _ _
  rw [h, tslot_of_cip (tslots_of_rest (rest_dropClosed s t)), tslot_modTslot]

theorem instOf_sanTenant (s : State) (t i : Nat) : instOf (sanTenant s t) i =
    if i = t ∧ instOf s i < 0x3FFFFF then instOf s i + 1 else instOf s i := by
  have hinst : instOf (dropZones (sanClosed s t) t) i = instOf s i := instOf_of_rest (rest_dropClosed s t) i
  rw [sanTenant_eq, instOf_instNext, hinst]

theorem restButKeys_sanTenant (s : State) (t : Nat) : restButKeys (sanTenant s t) = restButKeys s := by
  have h : restButKeys (sanTenant s t) = restButKeys (dropZones (sanClosed s t) t) := by
    rw [sanTenant_eq]
    obtain h | ⟨x, h⟩ := instNext_cases (dropZones (sanClosed s t) t) t <;> rw [h]
    exact restButKeys_cip _ _
  exact h.trans ((restButKeys_of_rest (rest_dropClosed s t)).trans rfl)

theorem zones_sanTenant (s : State) (t : Nat) : (sanTenant s t).zones = (dropZones (sanClosed s t) t).zones := by
  rw [sanTenant_eq]
  obtain h | ⟨x, h⟩ := instNext_cases (dropZones (sanClosed s t) t) t <;> rw [h]

theorem getZone_sanTenant (s : State) {t z : Nat} (hz : z < (tenD s t).nz) : getZone (sanTenant s t) t z = nextGen (getZone s t z) := by
  have hnz : (tenD (sanClosed s t) t).nz = (tenD s t).nz := (nz_of_rest (rest_sanClosed s t) t).trans rfl
  rw [getZone_of_zones (zones_sanTenant s t), getZone_dropZones _ (hnz ▸ hz), getZone_of_zones (zones_sanClosed s t)]

theorem emptied_sanTenant {s : State} {t z : Nat} (t' : Nat) (h : Emptied s t z) : Emptied (sanTenant s t') t z :=
  emptied_of_zones (zones_sanTenant s t') (emptied_dropZones t' (emptied_of_zones (zones_sanClosed s t') h))

/-! ### Every tenant that it affects -/

theorem tslot_sanAll (l : List Nat) (s : State) (i : Nat) : tslot (l.foldl sanTenant s) i = if i ∈ l then sanSlot (tslot s i) else tslot s i := by
  induction l generalizing s with
  | nil => rfl
  | cons t l ih =>
    rw [List.foldl_cons, ih, tslot_sanTenant]
    by_cases hi : i = t
    · subst hi
      simp [sanSlot_sanSlot]
    · simp [hi]

theorem instOf_le_sanAll (l : List Nat) (s : State) (i : Nat) : instOf s i ≤ instOf (l.foldl sanTenant s) i := by
  induction l generalizing s with
  | nil => exact Nat.le_refl _
  | cons t l ih =>
    rw [List.foldl_cons]
    refine Nat.le_trans ?_ (ih _)
    rw [instOf_sanTenant]
    split <;> omega

theorem instOf_lt_sanAll {l : List Nat} {s : State} {i : Nat} (hi : i ∈ l) (h : instOf s i < 0x3FFFFF) : instOf s i < instOf (l.foldl sanTenant s) i := by
  induction l generalizing s with
  | nil => cases hi
  | cons t l ih =>
    rw [List.foldl_cons]
    by_cases ht : i = t
    · refine Nat.lt_of_lt_of_le ?_ (instOf_le_sanAll l (sanTenant s t) i)
      rw [instOf_sanTenant, if_pos ⟨ht, h⟩]
      omega
    · have hsame : instOf (sanTenant s t) i = instOf s i := by rw [instOf_sanTenant, if_neg fun h => ht h.1]
      rw [← hsame]
      exact ih ((List.mem_cons.mp hi).resolve_left ht) (by rw [hsame]; exact h)

theorem restButKeys_sanAll (l : List Nat) (s : State) : restButKeys (l.foldl sanTenant s) = restButKeys s :=
  foldl_field restButKeys sanTenant (fun u t => restButKeys_sanTenant u t) l s

theorem nz_sanTenant (s : State) (t i : Nat) : (tenD (sanTenant s t) i).nz = (tenD s i).nz := by
  have hten : (rest (sanTenant s t)).ten = (rest s).ten := by
    rw [← ten_restButKeys, restButKeys_sanTenant, ten_restButKeys]
  have hd : ∀ w : State, (tenD w i).nz = (((rest w).ten i).getD {}).nz := fun w => by
    change (tenD w i).nz = (((getTen w i).map tenParams).getD {}).nz
    unfold tenD
    cases getTen w i <;> rfl
  rw [hd, hten, ← hd]

theorem emptied_sanAll {l : List Nat} {s : State} {i z : Nat} (hi : i ∈ l) (hz : z < (tenD s i).nz) : Emptied (l.foldl sanTenant s) i z := by
  induction l generalizing s with
  | nil => cases hi
  | cons t l ih =>
    rw [List.foldl_cons]
    by_cases ht : i = t
    · subst ht
      refine foldl_keeps (p := fun u => Emptied u i z) (fun _ t' hu => emptied_sanTenant t' hu) l _ ?_
      rw [Emptied, getZone_sanTenant s hz]
      exact ⟨rfl, rfl, rfl, rfl⟩
    · exact ih ((List.mem_cons.mp hi).resolve_left ht) (by rw [nz_sanTenant]; exact hz)

end Sys2Proof.Machine
end

section
/-! PROOFS. Eviction and SANITIZE as requests (R278, R290, Table 13.6). -/

namespace Sys2Proof.Machine

/-! ### Eviction -/

/-- An eviction point (R278): the request stays busy, its record is staged, and its reply waits. -/
def evictNoted (s : State) (b : Box) (t : Nat) : State :=
  let u := stageRec (modMbx s b fun m => { m with busy := true })
  { u with cip := { u.cip with evicting := u.cip.evicting ++ [(t, s.plp.jSeq, b)] } }

theorem exec_keyEvict {s : State} {b : Box} {f : Frame} {d : ReqData} {l : List Byte} (hat : AtRequest s b f) (hop : isOp 0x86 f = true)
    (hd : DataAt s b f d l) (he : kEvict l = true) : exec (.keyEvict b d) s = .next (match keyCheck s b f l with
    | some e => finishReq s b e [] []
    | none =>
      let slot := if kTenant l then tslot s (kTarget l) else dslot s (kTarget l - 0x400)
      if slot.state = 0 ∨ (kTenant l ∧ slot.state = 3) then finishReq s b 0 [] []
      else if kTenant l then
        if slot.state = 2 then modTslot (evictNoted s b (kTarget l)) (kTarget l) fun k => { k with persist := false }
        else keyNotice (modTslot (evictNoted s b (kTarget l)) (kTarget l) fun k => { k with state := 3 }) (kTarget l) 1
      else modDslot (evictNoted s b (kTarget l)) (kTarget l - 0x400) emptySlot) := by
  refine (runData_eq _ _ hat hd (by rw [hop, wantsEvict_eq hd.1, he]; rfl) : execKeyEvict b d s = _).trans ?_
  rfl

/-- The parts of the state that an eviction point and its notices can change. -/
abbrev evictParts : List Part := [.mbxs, .plp, .cip, .pa, .pb, .out]

/-- The slot of a key that waits for its reply. -/
def noteEvicting (s : State) (e : Nat × Nat × Box) : State := { s with cip := { s.cip with evicting := s.cip.evicting ++ [e] } }

theorem only_noteEvicting (s : State) (e : Nat × Nat × Box) : Only [.cip] s (noteEvicting s e) := only_cip _ _
theorem only_stageRec (s : State) : Only [.plp] s (stageRec s) := only_plp _ _

theorem evictNoted_eq (s : State) (b : Box) (t : Nat) :
    evictNoted s b t = noteEvicting (stageRec (modMbx s b fun m => { m with busy := true })) (t, s.plp.jSeq, b) := rfl

theorem only_evictNoted (s : State) (b : Box) (t : Nat) : Only evictParts s (evictNoted s b t) := by
  rw [evictNoted_eq]
  exact ((only_modMbx s b _).mono (by simp)).trans (((only_stageRec _).mono (by simp)).trans ((only_noteEvicting _ _).mono (by simp)))

theorem only_keyNotice (s : State) (t cause : Nat) : Only [.mbxs, .pa, .pb, .out] s (keyNotice s t cause) :=
  (only_noticePf0 _ _ _ _ _).trans (only_noticeTenant _ _ _ _ _ _)

theorem busy_evictNoted (s : State) (b : Box) (t : Nat) : (getMbx (evictNoted s b t) b).busy = true := by
  change (getMbx (modMbx s b fun m => { m with busy := true }) b).busy = true
  rw [getMbx_modMbx_self]

/-- A tenant's slot, or a device slot, as an eviction point leaves it (R278). -/
def evicted (s : State) (b : Box) (l : List Byte) : State :=
  if kTenant l then
    if (tslot s (kTarget l)).state = 2 then modTslot (evictNoted s b (kTarget l)) (kTarget l) fun k => { k with persist := false }
    else keyNotice (modTslot (evictNoted s b (kTarget l)) (kTarget l) fun k => { k with state := 3 }) (kTarget l) 1
  else modDslot (evictNoted s b (kTarget l)) (kTarget l - 0x400) emptySlot

/-- What an eviction point leaves and does, whichever slot it closes (R278). -/
theorem evicted_spec (s : State) (b : Box) (l : List Byte) : Only evictParts s (evicted s b l) ∧ (getMbx (evicted s b l) b).busy = true ∧
    (evicted s b l).plp = { s.plp with jRecs := s.plp.jRecs + 1 } ∧
    (evicted s b l).cip.evicting = s.cip.evicting ++ [(kTarget l, s.plp.jSeq, b)] := by
  have hmod : ∀ f, Only evictParts s (modTslot (evictNoted s b (kTarget l)) (kTarget l) f) := fun f =>
    (only_evictNoted s b _).andThen (only_modTslot _ _ _) (by simp)
  unfold evicted
  split
  · split
    · exact ⟨hmod _, busy_evictNoted s b (kTarget l), rfl, rfl⟩
    · have hnotice := only_keyNotice (modTslot (evictNoted s b (kTarget l)) (kTarget l) fun k => { k with state := 3 }) (kTarget l) 1
      have hbusy := busy_of_rest (rest_keyNotice (modTslot (evictNoted s b (kTarget l)) (kTarget l) fun k => { k with state := 3 }) (kTarget l) 1) b
      exact ⟨(hmod _).andThen hnotice (by simp), hbusy.trans (busy_evictNoted s b (kTarget l)), (hnotice .plp (by simp)).trans rfl,
        (congrArg Cip.evicting (hnotice .cip (by simp))).trans rfl⟩
  · exact ⟨(only_evictNoted s b _).andThen (only_modDslot _ _ _) (by simp), busy_evictNoted s b (kTarget l), rfl, rfl⟩

theorem evicted_tenant {s : State} {b : Box} {l : List Byte} (ht : kTenant l = true) : (evicted s b l).cip.dslots = s.cip.dslots ∧
    ∀ i, tslot (evicted s b l) i = if i = kTarget l then
      (if (tslot s i).state = 2 then { tslot s i with persist := false } else { tslot s i with state := 3 }) else tslot s i := by
  have hbase : ∀ i, tslot (evictNoted s b (kTarget l)) i = tslot s i := fun _ => rfl
  rw [evicted, if_pos ht]
  split
  · next h2 =>
    refine ⟨rfl, fun i => ?_⟩
    rw [tslot_modTslot]
    by_cases hi : i = kTarget l
    · subst hi; rw [if_pos rfl, if_pos rfl, if_pos h2, hbase]
    · rw [if_neg hi, if_neg hi, hbase]
  · next h2 =>
    have hcip := only_keyNotice (modTslot (evictNoted s b (kTarget l)) (kTarget l) fun k => { k with state := 3 }) (kTarget l) 1 .cip (by simp)
    refine ⟨(congrArg Cip.dslots hcip).trans rfl, fun i => ?_⟩
    rw [tslot_of_cip (congrArg Cip.tslots hcip), tslot_modTslot]
    by_cases hi : i = kTarget l
    · subst hi; rw [if_pos rfl, if_pos rfl, if_neg h2, hbase]
    · rw [if_neg hi, if_neg hi, hbase]

theorem tslots_modDslot (s : State) (d : Nat) (f : KeySlot → KeySlot) : (modDslot s d f).cip.tslots = s.cip.tslots := rfl

theorem evicted_device {s : State} {b : Box} {l : List Byte} (ht : kTenant l = false) : (evicted s b l).cip.tslots = s.cip.tslots ∧
    ∀ i, dslot (evicted s b l) i = if i = kTarget l - 0x400 then emptySlot (dslot s i) else dslot s i := by
  rw [evicted, if_neg (by simp [ht])]
  refine ⟨(tslots_modDslot _ _ _).trans rfl, fun i => ?_⟩
  have hbase : dslot (evictNoted s b (kTarget l)) i = dslot s i := rfl
  generalize kTarget l - 0x400 = n
  rw [dslot_modDslot]
  by_cases hi : i = n
  · rw [if_pos hi, if_pos hi, ← hi, hbase]
  · rw [if_neg hi, if_neg hi, hbase]

/-! ### A slot that is empty at last -/

theorem only_keyOut (s : State) (t : Nat) : Only [.cip] s (keyOut s t) := only_cip _ _

theorem tslot_keyOut (s : State) (t i : Nat) : tslot (keyOut s t) i = if i = t then
    (if (tslot s t).state = 2 ∧ cipherWork s t = true then { emptySlot (tslot s t) with state := 2 } else emptySlot (tslot s t)) else tslot s i := by
  have h : tslot (keyOut s t) i = tslot (modTslot s t fun k =>
      if (tslot s t).state == 2 && cipherWork s t then { emptySlot k with state := 2 } else emptySlot k) i := rfl
  rw [h, tslot_modTslot]
  simp

theorem key_keyOut_self (s : State) (t : Nat) : (tslot (keyOut s t) t).key = [] := by
  rw [tslot_keyOut, if_pos rfl]
  split <;> rfl

theorem cache_keyOut (s : State) (t : Nat) : (keyOut s t).cip.cache = s.cip.cache.filter fun k => k.1 % 1024 != t := rfl

theorem cipherWork_of_same {s u : State} (hc : u.cmds = s.cmds) (hv : u.vers = s.vers) (t : Nat) : cipherWork u t = cipherWork s t := by
  unfold cipherWork getVer
  rw [hc, hv]

/-- A tenant's key is gone: its slot holds none and no derived key is left, and without work for it the slot is empty (R278). -/
def KeyGone (s : State) (i : Nat) : Prop :=
  (tslot s i).key = [] ∧ (∀ k ∈ s.cip.cache, k.1 % 1024 ≠ i) ∧ (cipherWork s i = false → (tslot s i).state = 0)

theorem keyGone_keyOut_self (s : State) (t : Nat) : KeyGone (keyOut s t) t := by
  refine ⟨key_keyOut_self s t, fun k hk => ?_, fun hw => ?_⟩
  · rw [cache_keyOut] at hk
    simpa using (List.mem_filter.mp hk).2
  · rw [tslot_keyOut, if_pos rfl, if_neg fun h => by
      have hsame : cipherWork (keyOut s t) t = cipherWork s t := cipherWork_of_same rfl rfl t
      rw [hsame, h.2] at hw
      cases hw]
    rfl

theorem keyGone_keyOut {s : State} {i : Nat} (t : Nat) (h : KeyGone s i) : KeyGone (keyOut s t) i := by
  by_cases hi : i = t
  · subst hi; exact keyGone_keyOut_self s i
  · obtain ⟨hkey, hcache, hstate⟩ := h
    refine ⟨?_, fun k hk => ?_, fun hw => ?_⟩
    · rw [tslot_keyOut, if_neg hi]; exact hkey
    · rw [cache_keyOut] at hk
      exact hcache k (List.mem_filter.mp hk).1
    · rw [tslot_keyOut, if_neg hi]
      exact hstate hw

theorem keyGone_keyOuts {l : List Nat} {s : State} {i : Nat} (hi : i ∈ l) : KeyGone (l.foldl keyOut s) i := by
  induction l generalizing s with
  | nil => cases hi
  | cons t l ih =>
    rw [List.foldl_cons]
    by_cases ht : i = t
    · subst ht
      exact foldl_keeps (p := fun u => KeyGone u i) (fun _ t' hu => keyGone_keyOut t' hu) l _ (keyGone_keyOut_self s i)
    · exact ih ((List.mem_cons.mp hi).resolve_left ht)

theorem only_keyOuts (s : State) (l : List Nat) : Only [.cip] s (l.foldl keyOut s) := only_foldl _ (fun u t => only_keyOut u t) _ _

theorem san_keyOuts (s : State) (l : List Nat) : (l.foldl keyOut s).cip.san = s.cip.san := foldl_field (fun u : State => u.cip.san) keyOut (fun _ _ => rfl) l s

/-! ### The end of a SANITIZE -/

theorem only_setCipEvt (s : State) (b inst sev : Nat) : Only [.cip, .pa, .pb, .out, .evr] s (setCipEvt s b inst sev) :=
  (only_raiseEvt s _ _ _ _ _ _ _ (fun u _ => only_cip u _)).mono (by simp)

theorem setCipEvt_cip (s : State) (b inst sev : Nat) : ∃ e, (setCipEvt s b inst sev).cip = { s.cip with evt := e } ∧ bit e b = true := by
  unfold setCipEvt raiseEvt
  by_cases hb : bit s.cip.evt b = true
  · rw [if_pos hb]
    exact ⟨s.cip.evt, rfl, hb⟩
  · rw [if_neg hb]
    exact ⟨setBit s.cip.evt b, only_genericEv _ _ _ _ _ _ _ .cip (by simp), bit_setBit_self _ _⟩

theorem endSan_eq {s : State} {x : San} (h : s.cip.san = some x) :
    endSan s = setCipEvt { s with cip := { s.cip with san := none } } 7 (if x.kind ≤ 2 then x.tenant else 0xFFF) 1 := by
  unfold endSan
  rw [h]

theorem endSan_cip {s : State} {x : San} (h : s.cip.san = some x) : ∃ e, (endSan s).cip = { s.cip with san := none, evt := e } ∧ bit e 7 = true := by
  rw [endSan_eq h]
  exact setCipEvt_cip _ _ _ _

theorem only_endSan {s : State} {x : San} (h : s.cip.san = some x) : Only [.cip, .pa, .pb, .out, .evr] s (endSan s) := by
  rw [endSan_eq h]
  exact ((only_cip s _).mono (by simp)).andThen (only_setCipEvt _ _ _ _) (by simp)

/-- The pool as the end of a SANITIZE leaves it: under kind 4 its primer bits are cleared (Table 10.8). -/
def primersCleared (s : State) (kind : Nat) : State :=
  if kind = 4 then { s with mep := { s.mep with primed := s.mep.primed.filter fun e => !decide (e.1 < poolSize) } } else s

theorem only_primersCleared (s : State) (kind : Nat) : Only [.mep] s (primersCleared s kind) := Only.ite (only_mep s _) (Only.refl _ _)

theorem exec_sanitizeDone {s : State} {b : Box} {x : San} (hs : s.cip.san = some x) (hb : x.box = some b) (hj : x.jno < s.plp.jSeq)
    (hserv : serving s b = true) (hl : x.left.all (wiped s) = true) (hi : (sanTenants s x.kind x.tenant).all (keyIdle s) = true)
    (ha : x.kind ≠ 4 ∨ s.bpm.alloc = []) : exec (.sanitizeDone b) s = .next (finishReq
      (endSan ((sanTenants s x.kind x.tenant).foldl keyOut (primersCleared s x.kind))) b 0 [x.kind] []) := by
  change execSanitizeDone b s = _
  unfold execSanitizeDone
  rw [hs]
  dsimp only
  have ha' : x.kind ≠ 4 ∨ s.bpm.alloc.isEmpty = true := ha.imp id fun h => by rw [h]; rfl
  rw [if_pos ⟨hb, hj, hserv, hi, hl, ha'⟩]
  have hsame : sanTenants (primersCleared s x.kind) x.kind x.tenant = sanTenants s x.kind x.tenant := by
    unfold sanTenants tenants
    rw [show (primersCleared s x.kind).tenants = s.tenants from only_primersCleared s _ .tenants (by simp)]
  rw [← hsame]
  rfl

/-! ### The effect of a SANITIZE -/

/-- The device slots as kinds 3 and 4 leave them (R290). -/
theorem sanDevice_spec (s : State) : (sanDevice s).cip.plainAllow = true ∧
    ∀ i, 1 ≤ i → i ≤ 4 → (dslot (sanDevice s) i).state = 0 ∧ (dslot (sanDevice s) i).key = [] := by
  refine ⟨rfl, fun i h1 h4 => ?_⟩
  have hslot : dslot (sanDevice s) i = dslot ([1, 2, 3, 4].foldl (fun s d => modDslot s d emptySlot) s) i := by
    have h5 := dslot_modDslot ([1, 2, 3, 4].foldl (fun s d => modDslot s d emptySlot) s) 5 i fun k => { k with loads := satAdd 0xFFFF k.loads 1 }
    rw [if_neg (by omega)] at h5
    exact h5
  rw [hslot]
  simp only [List.foldl_cons, List.foldl_nil, dslot_modDslot]
  obtain rfl | rfl | rfl | rfl : i = 1 ∨ i = 2 ∨ i = 3 ∨ i = 4 := by omega
  all_goals exact ⟨rfl, rfl⟩

/-- The state once the tenants and slots that a SANITIZE affects are done. -/
def sanApplied (s : State) (kind t : Nat) : State :=
  if 3 ≤ kind then sanDevice ((sanTenants s kind t).foldl sanTenant s) else (sanTenants s kind t).foldl sanTenant s

/-- The SANITIZE that is under way from here on. -/
def sanRecord (s : State) (b : Box) (kind t : Nat) (left : List Nat) : San :=
  { kind := kind, tenant := if kind ≤ 2 then t else 0, box := some b, jno := s.plp.jSeq, left := left, total := left.length }

/-- A SANITIZE noted as under way, its record staged. -/
def sanNoted (s : State) (b : Box) (kind t : Nat) (left : List Nat) : State :=
  stageRec { s with cip := { s.cip with
    san := some (sanRecord s b kind t left), sanKind := kind, sanTenant := (sanRecord s b kind t left).tenant } }

theorem startSan_eq (s : State) (b : Box) (kind t : Nat) : ∃ left,
    startSan s b kind t = completeFua (sanNoted (sanApplied s kind t) b kind t left) := ⟨_, rfl⟩

/-- What no change of a device slot and no change of the plain-load bit touches, kinds 3 and 4 leave. -/
theorem sanDevice_keeps {α : Type} (g : State → α) (hd : ∀ u d f, g (modDslot u d f) = g u)
    (hp : ∀ u : State, g { u with cip := { u.cip with plainAllow := true } } = g u) (s : State) : g (sanDevice s) = g s := by
  unfold sanDevice
  exact (hp _).trans ((hd _ _ _).trans (foldl_field g _ (fun u d => hd u d _) _ _))

theorem restButKeys_sanDevice (s : State) : restButKeys (sanDevice s) = restButKeys s :=
  sanDevice_keeps restButKeys (fun _ _ _ => restButKeys_cip _ _) (fun _ => restButKeys_cip _ _) s

theorem restButKeys_sanApplied (s : State) (kind t : Nat) : restButKeys (sanApplied s kind t) = restButKeys s := by
  unfold sanApplied
  split
  · rw [restButKeys_sanDevice, restButKeys_sanAll]
  · exact restButKeys_sanAll _ s

theorem tslot_sanDevice (s : State) (i : Nat) : tslot (sanDevice s) i = tslot s i :=
  sanDevice_keeps (fun u => tslot u i) (fun _ _ _ => rfl) (fun _ => rfl) s
theorem instOf_sanDevice (s : State) (i : Nat) : instOf (sanDevice s) i = instOf s i :=
  sanDevice_keeps (fun u => instOf u i) (fun _ _ _ => rfl) (fun _ => rfl) s
theorem zones_sanDevice (s : State) : (sanDevice s).zones = s.zones :=
  sanDevice_keeps State.zones (fun _ _ _ => rfl) (fun _ => rfl) s

theorem tslot_sanApplied (s : State) (kind t i : Nat) : tslot (sanApplied s kind t) i = tslot ((sanTenants s kind t).foldl sanTenant s) i := by
  unfold sanApplied
  split
  · exact tslot_sanDevice _ _
  · rfl

theorem instOf_sanApplied (s : State) (kind t i : Nat) : instOf (sanApplied s kind t) i = instOf ((sanTenants s kind t).foldl sanTenant s) i := by
  unfold sanApplied
  split
  · exact instOf_sanDevice _ _
  · rfl

theorem zones_sanApplied (s : State) (kind t : Nat) : (sanApplied s kind t).zones = ((sanTenants s kind t).foldl sanTenant s).zones := by
  unfold sanApplied
  split
  · exact zones_sanDevice _
  · rfl

end Sys2Proof.Machine
end

section
/-! PROOFS. Keys are erased (R278, R290). -/

namespace Sys2Proof.Machine

/-! ### What a reply leaves of the keys -/

theorem tslot_finishReq (s : State) (b : Box) (e : Nat) (vals : List Nat) (data : List Byte) (i : Nat) :
    tslot (finishReq s b e vals data) i = tslot s i := tslot_of_cip (congrArg Cip.tslots (only_finishReq s b e vals data .cip (by simp))) i

theorem cip_finishReq (s : State) (b : Box) (e : Nat) (vals : List Nat) (data : List Byte) : (finishReq s b e vals data).cip = s.cip :=
  only_finishReq s b e vals data .cip (by simp)

/-! ### The reply of an eviction -/

/-- The evictions that wait, without those of one mailbox. -/
def evictReplied (s : State) (b : Box) : State := { s with cip := { s.cip with evicting := s.cip.evicting.filter fun e => e.2.2 != b } }

/-- A slot once its eviction has its reply: a device slot was emptied at the eviction point (R278). -/
def evictEnded (s : State) (b : Box) (t : Nat) : State := if 0x400 ≤ t then evictReplied s b else keyOut (evictReplied s b) t

theorem exec_keyEvictReply {s : State} {b b' : Box} {t j : Nat} (hf : s.cip.evicting.find? (fun e => e.2.2 == b) = some (t, j, b'))
    (hj : j < s.plp.jSeq) (hs : serving s b = true) (hi : 0x400 ≤ t ∨ keyIdle s t = true) :
    exec (.keyEvictReply b) s = .next (finishReq (evictEnded s b t) b 0 [] []) := by
  change execKeyEvictReply b s = _
  unfold execKeyEvictReply
  rw [hf]
  dsimp only
  rw [if_pos (by simp [hj, hs, hi])]
  rfl

theorem only_evictReplied (s : State) (b : Box) : Only [.cip] s (evictReplied s b) := only_cip _ _
theorem tslot_evictReplied (s : State) (b : Box) (i : Nat) : tslot (evictReplied s b) i = tslot s i := rfl
theorem cipherWork_evictReplied (s : State) (b : Box) (t : Nat) : cipherWork (evictReplied s b) t = cipherWork s t := rfl

theorem only_evictEnded (s : State) (b : Box) (t : Nat) : Only [.cip] s (evictEnded s b t) :=
  Only.ite (only_evictReplied s b) ((only_evictReplied s b).trans (only_keyOut _ _))

theorem evicting_evictEnded (s : State) (b : Box) (t : Nat) : (evictEnded s b t).cip.evicting = s.cip.evicting.filter (fun e => e.2.2 != b) := by
  unfold evictEnded
  split
  · rfl
  · exact (rfl : (keyOut (evictReplied s b) t).cip.evicting = (evictReplied s b).cip.evicting)

theorem dslots_evictEnded (s : State) (b : Box) (t : Nat) : (evictEnded s b t).cip.dslots = s.cip.dslots := by
  unfold evictEnded
  split
  · rfl
  · exact (rfl : (keyOut (evictReplied s b) t).cip.dslots = (evictReplied s b).cip.dslots)

theorem tslot_evictEnded_other {s : State} {b : Box} {t i : Nat} (h : i ≠ t ∨ 0x400 ≤ t) : tslot (evictEnded s b t) i = tslot s i := by
  unfold evictEnded
  split
  · exact tslot_evictReplied _ _ _
  · next hd => rw [tslot_keyOut, if_neg (h.resolve_right hd), tslot_evictReplied]

theorem keyGone_evictEnded {s : State} {b : Box} {t : Nat} (h : t < 0x400) : KeyGone (evictEnded s b t) t := by
  rw [evictEnded, if_neg (by omega)]
  exact keyGone_keyOut_self _ _

theorem tslot_evictEnded_idle {s : State} {b : Box} {t : Nat} (h : t < 0x400) (hw : cipherWork s t = false) :
    tslot (evictEnded s b t) t = emptySlot (tslot s t) := by
  rw [evictEnded, if_neg (by omega), tslot_keyOut, if_pos rfl, cipherWork_evictReplied, if_neg (by simp [hw]), tslot_evictReplied]

/-! ### The clauses of an eviction -/

theorem evict_refused {s : State} {b : Box} {f : Frame} {d : ReqData} {l : List Byte} {e : Nat} (hat : AtRequest s b f) (hop : isOp 0x86 f = true)
    (hd : DataAt s b f d l) (he : kEvict l = true) (hc : keyCheck s b f l = some e) :
    ∃ u, exec (.keyEvict b d) s = .next u ∧ Only [.mbxs] s u ∧ Replies s u b f e [] [] := by
  refine ⟨_, exec_keyEvict hat hop hd he, ?_⟩
  rw [hc]
  exact finishReq_spec hat.1 e [] []

theorem evict_nothing {s : State} {b : Box} {f : Frame} {d : ReqData} {l : List Byte} {k : KeySlot} (hat : AtRequest s b f) (hop : isOp 0x86 f = true)
    (hd : DataAt s b f d l) (he : kEvict l = true) (hc : keyCheck s b f l = none)
    (hk : k = if kTenant l then tslot s (kTarget l) else dslot s (kTarget l - 0x400)) (h : k.state = 0 ∨ kTenant l = true ∧ k.state = 3) :
    ∃ u, exec (.keyEvict b d) s = .next u ∧ Only [.mbxs] s u ∧ Replies s u b f 0 [] [] := by
  refine ⟨_, exec_keyEvict hat hop hd he, ?_⟩
  rw [hc]
  dsimp only
  rw [← hk, if_pos h]
  exact finishReq_spec hat.1 0 [] []

theorem evict_closes {s : State} {b : Box} {f : Frame} {d : ReqData} {l : List Byte} {k : KeySlot} (hat : AtRequest s b f) (hop : isOp 0x86 f = true)
    (hd : DataAt s b f d l) (he : kEvict l = true) (hc : keyCheck s b f l = none)
    (hk : k = if kTenant l then tslot s (kTarget l) else dslot s (kTarget l - 0x400)) (h0 : k.state ≠ 0) (h3 : kTenant l = false ∨ k.state ≠ 3) :
    exec (.keyEvict b d) s = .next (evicted s b l) := by
  rw [exec_keyEvict hat hop hd he, hc]
  dsimp only
  rw [← hk, if_neg (by rintro (h | ⟨ht, h⟩); exact h0 h; exact h3.elim (fun h' => by simp [h'] at ht) fun h' => h' h), evicted]
  cases ht : kTenant l
  · rfl
  · rw [ht, if_pos rfl] at hk
    rw [hk]

theorem slot_evicted {s : State} {b : Box} {l : List Byte} {k : KeySlot}
    (hk : k = if kTenant l then tslot s (kTarget l) else dslot s (kTarget l - 0x400)) :
    (kTenant l = true → (evicted s b l).cip.dslots = s.cip.dslots ∧ (∀ i, i ≠ kTarget l → tslot (evicted s b l) i = tslot s i) ∧
      tslot (evicted s b l) (kTarget l) = if k.state = 2 then { k with persist := false } else { k with state := 3 }) ∧
    (kTenant l = false → (evicted s b l).cip.tslots = s.cip.tslots ∧ dslot (evicted s b l) (kTarget l - 0x400) = emptySlot k ∧
      ∀ i, i ≠ kTarget l - 0x400 → dslot (evicted s b l) i = dslot s i) := by
  constructor
  · intro ht
    obtain ⟨hdev, hslot⟩ := evicted_tenant (s := s) (b := b) ht
    rw [ht, if_pos rfl] at hk
    exact ⟨hdev, fun i hi => by rw [hslot, if_neg hi], by rw [hslot, if_pos rfl, hk]⟩
  · intro ht
    obtain ⟨hten, hslot⟩ := evicted_device (s := s) (b := b) ht
    rw [ht, if_neg (by decide)] at hk
    exact ⟨hten, by rw [hslot, if_pos rfl, hk], fun i hi => by rw [hslot, if_neg hi]⟩

/-! ### The clauses of a SANITIZE -/

theorem exec_sanitize_refused {s : State} {b : Box} {f : Frame} {e : Nat} (hat : AtRequest s b f) (hop : isOp 0x8B f = true)
    (h : sanRefused s (fArg f.bytes 0) (fArg f.bytes 1) (fTarget f.bytes) = some e) : exec (.sanitize b) s = .next (finishReq s b e [] []) := by
  refine (runReq_eq _ _ hat hop : execSanitize b s = _).trans ?_
  dsimp only
  rw [h]

theorem exec_sanitize {s : State} {b : Box} {f : Frame} {k : Nat} (hat : AtRequest s b f) (hop : isOp 0x8B f = true)
    (h : sanRefused s (fArg f.bytes 0) (fArg f.bytes 1) (fTarget f.bytes) = none)
    (hk : k = if fArg f.bytes 0 = 1 ∧ instOf s (fTarget f.bytes) = 0x3FFFFF then 2 else fArg f.bytes 0) :
    exec (.sanitize b) s = .next (startSan (modMbx s b fun m => { m with busy := true }) b k (fTarget f.bytes)) := by
  refine (runReq_eq _ _ hat hop : execSanitize b s = _).trans ?_
  dsimp only
  rw [h, ← hk]

/-- The state in which the SANITIZE of a mailbox has its effect. -/
def sanBusy (s : State) (b : Box) : State := modMbx s b fun m => { m with busy := true }

theorem only_sanBusy (s : State) (b : Box) : Only [.mbxs] s (sanBusy s b) := only_modMbx _ _ _

theorem cip_sanBusy (s : State) (b : Box) : (sanBusy s b).cip = s.cip := only_sanBusy s b .cip (by simp)

theorem sanTenants_sanBusy (s : State) (b : Box) (k t : Nat) : sanTenants (sanBusy s b) k t = sanTenants s k t := by
  rw [sanTenants, tenants, only_sanBusy s b .tenants (by simp), sanTenants, tenants]

theorem instOf_sanBusy (s : State) (b : Box) (t : Nat) : instOf (sanBusy s b) t = instOf s t := by rw [instOf, cip_sanBusy, instOf]

theorem sanNoted_cip (s : State) (b : Box) (k t : Nat) (left : List Nat) : (sanNoted s b k t left).cip =
    { s.cip with san := some (sanRecord s b k t left), sanKind := k, sanTenant := if k ≤ 2 then t else 0 } := rfl

theorem tslot_sanNoted (s : State) (b : Box) (k t : Nat) (left : List Nat) (i : Nat) : tslot (sanNoted s b k t left) i = tslot s i := rfl
theorem dslot_sanNoted (s : State) (b : Box) (k t : Nat) (left : List Nat) (i : Nat) : dslot (sanNoted s b k t left) i = dslot s i := rfl

theorem restButKeys_sanNoted (s : State) (b : Box) (k t : Nat) (left : List Nat) : restButKeys (sanNoted s b k t left) = restButKeys s := rfl

/-- The SANITIZE under way, and what its start leaves of the keys and the zones, are those of the state its record is staged in. -/
theorem startSan_keeps (s : State) (b : Box) (k t : Nat) : ∃ left, rest (startSan s b k t) = rest (sanNoted (sanApplied s k t) b k t left) ∧
    (startSan s b k t).zones = ((sanTenants s k t).foldl sanTenant s).zones := by
  obtain ⟨left, h⟩ := startSan_eq s b k t
  refine ⟨left, by rw [h]; exact rest_completeFua _, ?_⟩
  rw [h, zones_completeFua, ← zones_sanApplied]
  exact (rfl : (sanNoted (sanApplied s k t) b k t left).zones = (sanApplied s k t).zones)

/-- What a SANITIZE does to a tenant that it affects (R290). -/
structure Sanitized (s u : State) (k i : Nat) : Prop where
  slot : tslot u i = sanSlot (tslot s i)
  advanced : instOf s i < 0x3FFFFF → instOf s i < instOf u i
  next : k ≤ 2 → instOf s i < 0x3FFFFF → instOf u i = instOf s i + 1
  emptied : ∀ z, z < (tenD s i).nz → Emptied u i z
  gen : k ≤ 2 → ∀ z, z < (tenD s i).nz → (getZone u i z).gen = ((getZone s i z).gen + 1) % p32

theorem sanitized_startSan {s : State} {b : Box} {k t i : Nat} (hi : i ∈ sanTenants s k t) : Sanitized s (startSan s b k t) k i := by
  obtain ⟨left, hrest, hzones⟩ := startSan_keeps s b k t
  have hslot : tslot (startSan s b k t) i = tslot ((sanTenants s k t).foldl sanTenant s) i :=
    (tslot_of_cip (tslots_of_rest hrest) i).trans ((tslot_sanNoted _ b k t left i).trans (tslot_sanApplied s k t i))
  have hinst : instOf (startSan s b k t) i = instOf ((sanTenants s k t).foldl sanTenant s) i := by
    rw [instOf_of_rest hrest, instOf, sanNoted_cip]
    exact instOf_sanApplied s k t i
  have hone : k ≤ 2 → (sanTenants s k t).foldl sanTenant s = sanTenant s i := fun hk => by
    have hts : sanTenants s k t = [t] := if_pos hk
    rw [hts] at hi ⊢
    rw [List.mem_singleton.mp hi, List.foldl_cons, List.foldl_nil]
  constructor
  case slot => rw [hslot, tslot_sanAll, if_pos hi]
  case advanced => exact fun h => hinst ▸ instOf_lt_sanAll hi h
  case next => exact fun hk h => by rw [hinst, hone hk, instOf_sanTenant, if_pos ⟨rfl, h⟩]
  case emptied => exact fun z hz => emptied_of_zones hzones (emptied_sanAll hi hz)
  case gen => exact fun hk z hz => by rw [getZone_of_zones hzones, hone hk, getZone_sanTenant s hz, nextGen]

theorem sanitized_of_busy {s u : State} {b : Box} {k i : Nat} (h : Sanitized (sanBusy s b) u k i) : Sanitized s u k i := by
  have hinst := instOf_sanBusy s b i
  have hten : tenD (sanBusy s b) i = tenD s i := by rw [tenD, getTen, only_sanBusy s b .tenants (by simp), tenD, getTen]
  have hslot : tslot (sanBusy s b) i = tslot s i := tslot_of_cip (congrArg Cip.tslots (cip_sanBusy s b)) i
  have hzone : ∀ z, getZone (sanBusy s b) i z = getZone s i z := getZone_of_zones (only_sanBusy s b .zones (by simp)) i
  obtain ⟨hs, ha, hn, he, hg⟩ := h
  rw [hten] at he hg
  rw [hinst] at ha hn
  exact ⟨hs.trans (congrArg sanSlot hslot), ha, hn, he, fun hk z hz => (hg hk z hz).trans (by rw [hzone])⟩

theorem state_sanSlot (k : KeySlot) : (sanSlot k).state = (if k.state = 1 then 3 else k.state) ∧ (sanSlot k).persist = false := by
  unfold sanSlot
  split <;> exact ⟨rfl, rfl⟩

/-- The record and the device slots once a SANITIZE has started. -/
theorem san_startSan (s : State) (b : Box) (k t : Nat) : ∃ x, (startSan s b k t).cip.san = some x ∧ x.kind = k ∧ x.box = some b ∧ x.jno = s.plp.jSeq ∧
    (startSan s b k t).cip.sanKind = k ∧ (startSan s b k t).cip.sanTenant = (if k ≤ 2 then t else 0) ∧
    (getMbx (startSan s b k t) b).busy = (getMbx s b).busy ∧
    (3 ≤ k → (startSan s b k t).cip.plainAllow = true ∧
      ∀ i, 1 ≤ i → i ≤ 4 → (dslot (startSan s b k t) i).state = 0 ∧ (dslot (startSan s b k t) i).key = []) := by
  obtain ⟨left, hrest, -⟩ := startSan_keeps s b k t
  have hkeys : ∀ {α : Type} (g : Cip → α) (_ : ∀ x e c tc ca, g { x with evt := e, cnts := c, tcnts := tc, cache := ca } = g x),
      g (startSan s b k t).cip = g (sanNoted (sanApplied s k t) b k t left).cip := fun g hg => by
    have h : g (rest (startSan s b k t)).keys = g (rest (sanNoted (sanApplied s k t) b k t left)).keys := by rw [hrest]
    exact (hg _ _ _ _ _).symm.trans (h.trans (hg _ _ _ _ _))
  have hbut : restButKeys (sanNoted (sanApplied s k t) b k t left) = restButKeys s :=
    (restButKeys_sanNoted _ b k t left).trans (restButKeys_sanApplied s k t)
  have hj : (sanApplied s k t).plp.jSeq = s.plp.jSeq := congrArg Rest.jSeq (restButKeys_sanApplied s k t)
  have hbusy : (getMbx (sanNoted (sanApplied s k t) b k t left) b).busy = (getMbx s b).busy :=
    congrArg (fun r : Rest => (r.box b).busy) hbut
  refine ⟨sanRecord (sanApplied s k t) b k t left, (hkeys Cip.san fun _ _ _ _ _ => rfl).trans rfl, rfl, rfl, hj,
    (hkeys Cip.sanKind fun _ _ _ _ _ => rfl).trans rfl, (hkeys Cip.sanTenant fun _ _ _ _ _ => rfl).trans rfl,
    (busy_of_rest hrest b).trans hbusy, fun hk => ?_⟩
  have hdev : sanApplied s k t = sanDevice ((sanTenants s k t).foldl sanTenant s) := if_pos hk
  obtain ⟨hallow, hslots⟩ := sanDevice_spec ((sanTenants s k t).foldl sanTenant s)
  refine ⟨(hkeys Cip.plainAllow fun _ _ _ _ _ => rfl).trans ?_, fun i h1 h4 => ?_⟩
  · rw [sanNoted_cip, hdev]
    exact hallow
  · rw [dslot_of_cip (dslots_of_rest hrest), dslot_sanNoted, hdev]
    exact hslots i h1 h4

theorem busy_sanBusy (s : State) (b : Box) : (getMbx (sanBusy s b) b).busy = true := by rw [sanBusy, getMbx_modMbx_self]

/-! ### The end of a SANITIZE -/

theorem tslot_endSan {s : State} {x : San} (h : s.cip.san = some x) (i : Nat) : tslot (endSan s) i = tslot s i := by
  obtain ⟨e, he, -⟩ := endSan_cip h
  exact tslot_of_cip ((congrArg Cip.tslots he).trans rfl) i

theorem sanitize_ends {s : State} {b : Box} {x : San} {f : Frame} (hs : s.cip.san = some x) (hb : x.box = some b) (hj : x.jno < s.plp.jSeq)
    (hserv : serving s b = true) (hl : x.left.all (wiped s) = true) (hi : (sanTenants s x.kind x.tenant).all (keyIdle s) = true)
    (ha : x.kind ≠ 4 ∨ s.bpm.alloc = []) (hhead : (getMbx s b).backlog.head? = some f) :
    ∃ u, exec (.sanitizeDone b) s = .next u ∧ u.cip.san = none ∧ bit u.cip.evt 7 = true ∧ Replies s u b f 0 [x.kind] [] ∧
        u.zones = s.zones ∧ u.cmds = s.cmds ∧ u.vers = s.vers ∧
        ∀ i ∈ sanTenants s x.kind x.tenant, (tslot u i).key = [] ∧ (∀ k ∈ u.cip.cache, k.1 % 1024 ≠ i) ∧
          (cipherWork s i = false → (tslot u i).state = 0) := by
  refine ⟨_, exec_sanitizeDone hs hb hj hserv hl hi ha, ?_⟩
  have honly : Only [.cip, .mep] s ((sanTenants s x.kind x.tenant).foldl keyOut (primersCleared s x.kind)) :=
    ((only_primersCleared s x.kind).mono (by simp)).trans ((only_keyOuts _ _).mono (by simp))
  have hsan : ((sanTenants s x.kind x.tenant).foldl keyOut (primersCleared s x.kind)).cip.san = some x := by
    rw [san_keyOuts, show (primersCleared s x.kind).cip = s.cip from only_primersCleared s x.kind .cip (by simp), hs]
  have hgone : ∀ i ∈ sanTenants s x.kind x.tenant, KeyGone ((sanTenants s x.kind x.tenant).foldl keyOut (primersCleared s x.kind)) i :=
    fun i hmem => keyGone_keyOuts hmem
  generalize (sanTenants s x.kind x.tenant).foldl keyOut (primersCleared s x.kind) = w at honly hsan hgone
  obtain ⟨e, hcip, hbit⟩ := endSan_cip hsan
  have hall : Only [.cip, .mep, .pa, .pb, .out, .evr, .mbxs] s (finishReq (endSan w) b 0 [x.kind] []) :=
    (honly.mono (by simp)).trans (((only_endSan hsan).mono (by simp)).trans ((only_finishReq _ _ _ _ _).mono (by simp)))
  have hback : (getMbx (endSan w) b).backlog = (getMbx s b).backlog := by
    rw [getMbx_of_only (only_endSan hsan) (by simp), getMbx_of_only honly (by simp)]
  refine ⟨by rw [cip_finishReq, hcip], by rw [cip_finishReq, hcip]; exact hbit, replies_finishReq hback hhead _ _ _,
    hall .zones (by simp), hall .cmds (by simp), hall .vers (by simp), fun i hmem => ?_⟩
  obtain ⟨hkey, hcache, hstate⟩ := hgone i hmem
  rw [tslot_finishReq, tslot_endSan hsan, cip_finishReq, hcip]
  refine ⟨hkey, hcache, fun hw => hstate ?_⟩
  rw [cipherWork_of_same (honly .cmds (by simp)) (honly .vers (by simp)), hw]

/-- Settles O42: each clause is the lemma of its command above. -/
theorem keysAreErased : Obligations.KeysAreErased := by
  unfold Obligations.KeysAreErased
  intro s b f d l t j b'
  refine ⟨fun hat hop hd he => ⟨fun e hc => evict_refused hat hop hd he hc, fun hc k hk =>
    ⟨fun h => evict_nothing hat hop hd he hc hk h, fun h0 h3 => ?_⟩⟩, fun hfind hj hserv hidle hhead => ?_, fun hat hop =>
    ⟨fun e hr => ⟨_, exec_sanitize_refused hat hop hr, finishReq_spec hat.1 e [] []⟩, fun hr k hk => ?_⟩,
    fun x hs hb hj hserv hl hi ha hhead => sanitize_ends hs hb hj hserv hl hi ha hhead⟩
  · obtain ⟨honly, hbusy, hplp, hev⟩ := evicted_spec s b l
    obtain ⟨hten, hdev⟩ := slot_evicted (b := b) hk
    exact ⟨_, evict_closes hat hop hd he hc hk h0 h3, hbusy, hplp, hev, honly .cmds (by simp), honly .vers (by simp), honly .zones (by simp), hten, hdev⟩
  · have honly := only_evictEnded s b t
    have hback : (getMbx (evictEnded s b t) b).backlog = (getMbx s b).backlog := by rw [getMbx_of_only honly (by simp)]
    refine ⟨_, exec_keyEvictReply hfind hj hserv hidle, (honly.mono (by simp)).trans ((only_finishReq _ _ _ _ _).mono (by simp)),
      replies_finishReq hback hhead _ _ _, ?_⟩
    simp only [tslot_finishReq, cip_finishReq]
    refine ⟨evicting_evictEnded s b t, dslots_evictEnded s b t, fun i h => tslot_evictEnded_other h, fun ht => ?_⟩
    obtain ⟨hkey, hcache, -⟩ := keyGone_evictEnded (s := s) (b := b) ht
    exact ⟨hkey, hcache, fun hw => tslot_evictEnded_idle ht hw⟩
  · obtain ⟨x, hsan, hkind, hbox, hjno, hsk, hst, hbusy, hdev⟩ := san_startSan (sanBusy s b) b k (fTarget f.bytes)
    refine ⟨_, x, exec_sanitize hat hop hr hk, hsan, hkind, hbox, hjno.trans (congrArg Plp.jSeq (only_sanBusy s b .plp (by simp))), hsk, hst,
      hbusy.trans (busy_sanBusy s b), hdev, fun i hi => ?_⟩
    obtain ⟨hslot, hadv, hnext, hemp, hgen⟩ := sanitized_of_busy (sanitized_startSan (b := b) ((sanTenants_sanBusy s b k _).symm ▸ hi))
    obtain ⟨hstate, hpersist⟩ := state_sanSlot (tslot s i)
    rw [← hslot] at hstate hpersist
    refine ⟨hstate, hpersist, hadv, hnext, fun z hz => ?_⟩
    obtain ⟨hst, hwp, hep, hmem⟩ := hemp z hz
    exact ⟨hst, hwp, hep, hmem, fun hk2 => hgen hk2 z hz⟩

end Sys2Proof.Machine
end

section
/-! PROOFS. Requests that configure (R312, R313, R316 to R322, R340, R368). -/

namespace Sys2Proof.Machine

/-! ### SET_CONFIG -/

/-- The undercoat hold limit is the only field of its image: it is applied as it stands (R320). -/
theorem applyImage_ucHold (s : State) {v : Nat} (h1 : 1 ≤ v) (h2 : v ≤ 60000) :
    applyImage s [{ id := 0x105, len := 4, val := v }] = { s := { s with adm := { s.adm with ucHoldMaxMs := v } }, report := [], count := 1 } := by
  have hclamp : clampR 1 60000 v = (v, 0) := by
    have hv : clampTo (1, 60000) v = v := by simp only [clampTo]; omega
    rw [clampR, hv, if_pos rfl]
  have hval : devValue s 0x105 v = (v, 0) := hclamp
  have happ : applyDev { s := s } 0x105 v = { s := { s with adm := { s.adm with ucHoldMaxMs := v } }, report := [], count := 1 } := by
    unfold applyDev
    dsimp only
    rw [hval]
    rfl
  exact (rfl : applyImage s [{ id := 0x105, len := 4, val := v }] = applyDev { s := s } 0x105 v).trans happ

/-- A configuration that SET_CONFIG leaves open until its journal record is durable. -/
def configured (a : Apply) (c : CfgSave) : State := { a.s with cfgReport := a.report, cfgOpen := some c }

theorem exec_setConfig {s : State} {b : Box} {f : Frame} {d : ReqData} {l : List Byte} (hat : AtRequest s b f) (hop : isOp 0x82 f = true)
    (hd : DataAt s b f d l) : exec (.setConfig b d) s = .next (match parseImage l with
    | none => finishReq s b 7 [] []
    | some (fields, trunc) => finishDurable (checkOver (configured (applyImage s fields) (cfgNow s s.plp.jSeq))) b 0
        [(applyImage s fields).count, (applyImage s fields).report.length / 16, trunc] (applyImage s fields).report) :=
  (runData_eq _ _ hat hd hop : execSetConfig b d s = _).trans rfl

/-- With room for what is dirty, the check of D_max clears the note that it was passed. -/
theorem checkOver_fits {s : State} (h : dirtyBytes s ≤ s.plp.dmaxMib * 1048576) : checkOver s = { s with plp := { s.plp with overD := false } } := by
  have ho : decide (s.plp.dmaxMib * 1048576 < dirtyBytes s) = false := decide_eq_false (by omega)
  rw [checkOver_eq, ho]
  rfl

/-- The undercoat hold limit set by an image, D_max kept. -/
def ucHoldSet (s : State) (v : Nat) (c : CfgSave) : State :=
  { s with adm := { s.adm with ucHoldMaxMs := v }, plp := { s.plp with overD := false }, cfgReport := [], cfgOpen := some c }

theorem only_ucHoldSet (s : State) (v : Nat) (c : CfgSave) : Only [.adm, .plp, .cfgReport, .cfgOpen] s (ucHoldSet s v c) :=
  fun q hq => by cases q <;> simp at hq <;> rfl

theorem checkOver_ucHold {s : State} {v : Nat} (c : CfgSave) (hfit : dirtyBytes s ≤ s.plp.dmaxMib * 1048576) :
    checkOver (configured { s := { s with adm := { s.adm with ucHoldMaxMs := v } }, report := [], count := 1 } c) = ucHoldSet s v c := by
  have hd : dirtyBytes (configured { s := { s with adm := { s.adm with ucHoldMaxMs := v } }, report := [], count := 1 } c) = dirtyBytes s := rfl
  have hp : (configured { s := { s with adm := { s.adm with ucHoldMaxMs := v } }, report := [], count := 1 } c).plp = s.plp := rfl
  rw [checkOver_fits (by rw [hd, hp]; exact hfit)]
  rfl

theorem setConfig_ucHold {s : State} {b : Box} {f : Frame} {d : ReqData} {l : List Byte} {v : Nat} (hat : AtRequest s b f) (hop : isOp 0x82 f = true)
    (hd : DataAt s b f d l) (hp : parseImage l = some ([{ id := 0x105, len := 4, val := v }], 0)) (h1 : 1 ≤ v) (h2 : v ≤ 60000)
    (hfit : dirtyBytes s ≤ s.plp.dmaxMib * 1048576) :
    ∃ u, exec (.setConfig b d) s = .next u ∧ Only [.mbxs, .adm, .plp, .cfgReport, .cfgOpen] s u ∧
      u.adm = { s.adm with ucHoldMaxMs := v } ∧ u.cfgReport = [] ∧ u.plp.jRecs = s.plp.jRecs + 1 ∧
      u.cfgOpen = some (cfgNow s s.plp.jSeq) ∧ (∀ r, (getMbx u b).held = some r → r.after = some s.plp.jSeq) ∧ Replies s u b f 0 [1, 0, 0] [] := by
  have hex : exec (.setConfig b d) s = .next (finishDurable (ucHoldSet s v (cfgNow s s.plp.jSeq)) b 0 [1, 0, 0] []) := by
    rw [exec_setConfig hat hop hd, hp]
    dsimp only
    rw [applyImage_ucHold s h1 h2, checkOver_ucHold _ hfit]
    simp only [List.length_nil, Nat.zero_div]
  refine ⟨_, hex, ?_⟩
  have honly := only_ucHoldSet s v (cfgNow s s.plp.jSeq)
  have hadm : (ucHoldSet s v (cfgNow s s.plp.jSeq)).adm = { s.adm with ucHoldMaxMs := v } := rfl
  have hreport : (ucHoldSet s v (cfgNow s s.plp.jSeq)).cfgReport = [] := rfl
  have hjrecs : (ucHoldSet s v (cfgNow s s.plp.jSeq)).plp.jRecs = s.plp.jRecs := rfl
  have hjseq : (ucHoldSet s v (cfgNow s s.plp.jSeq)).plp.jSeq = s.plp.jSeq := rfl
  have hopen : (ucHoldSet s v (cfgNow s s.plp.jSeq)).cfgOpen = some (cfgNow s s.plp.jSeq) := rfl
  generalize ucHoldSet s v (cfgNow s s.plp.jSeq) = w at honly hadm hreport hjrecs hjseq hopen
  have hfin := only_finishDurable w b 0 [1, 0, 0] []
  have hback : (getMbx w b).backlog = (getMbx s b).backlog := by rw [getMbx_of_only honly (by simp)]
  obtain ⟨hrep, hafter, hplp⟩ := replies_finishDurable hback (head?_of_nextReq hat.1) 0 [1, 0, 0] []
  exact ⟨(honly.mono (by simp)).andThen hfin (by simp), (hfin .adm (by simp)).trans hadm, (hfin .cfgReport (by simp)).trans hreport,
    (congrArg Plp.jRecs hplp).trans (congrArg (· + 1) hjrecs), (hfin .cfgOpen (by simp)).trans hopen, fun r hr => (hafter r hr).trans (by rw [hjseq]), hrep⟩

/-! ### TENANT_CREATE -/

/-- A table without values for any key is empty. -/
theorem tenants_nil {s : State} (hwf : Tab.wf none s.tenants = true) (h : tenants s = []) : s.tenants = [] := by
  cases ht : s.tenants with
  | nil => rfl
  | cons e t =>
    obtain ⟨k, v⟩ := e
    rw [ht] at hwf
    simp only [Tab.wf, Bool.and_eq_true, decide_eq_true_eq] at hwf
    obtain ⟨x, rfl⟩ := Option.ne_none_iff_exists'.mp hwf.1.1
    rw [tenants, ht] at h
    simp at h

/-- The state in which the fields of a tenant's image are applied (R312). -/
def tenantAdded (s : State) (t : Nat) (x : Tenant) : State :=
  { s with
    tenants := Tab.set none s.tenants t (some x)
    bpm := { s.bpm with floors := Tab.set 0 s.bpm.floors t 0, caps := Tab.set 0 s.bpm.caps t 0 } }

theorem getTen_tenantAdded (s : State) (t : Nat) (x : Tenant) : getTen (tenantAdded s t x) t = some x := by
  rw [getTen, tenantAdded, Tab.get_set_self]

theorem tenants_tenantAdded {s : State} (t : Nat) (x : Tenant) (h : s.tenants = []) : (tenantAdded s t x).tenants = [(t, some x)] := by
  simp [tenantAdded, h, Tab.set, Tab.del, Tab.ins]

theorem modTen_tenantAdded {s : State} (t : Nat) (x : Tenant) (f : Tenant → Tenant) (h : s.tenants = []) :
    modTen (tenantAdded s t x) t f = tenantAdded s t (f x) := by
  have htab : Tab.upd none (tenantAdded s t x).tenants t (fun o => o.map f) = (tenantAdded s t (f x)).tenants := by
    rw [tenants_tenantAdded t x h, tenants_tenantAdded t (f x) h]
    simp [Tab.upd, Tab.get, Tab.set, Tab.del, Tab.ins]
  rw [modTen, htab]
  rfl

/-- A new tenant with this many zones. -/
def zonedTenant (nz : Nat) : Tenant := { newTenant with nz := nz }

/-- An image that only gives the number of zones leaves every other field at its default (R312). -/
theorem tenPass_nz {s : State} {t nz : Nat} (h : s.tenants = []) (h1 : 1 ≤ nz) (h2 : nz ≤ 1024) :
    tenPass true t { s := tenantAdded s t newTenant } [{ id := 0x203, len := 4, val := nz }] =
      { s := tenantAdded s t (zonedTenant nz), report := [], count := 1 } := by
  have hclamp : clampR 1 4194304 nz = (nz, 0) := by
    have hv : clampTo (1, 4194304) nz = nz := by simp only [clampTo]; omega
    rw [clampR, hv, if_pos rfl]
  have hval : tenValue (tenantAdded s t newTenant) t 0x203 nz = (nz, 0) := hclamp
  have happ : applyTen { s := tenantAdded s t newTenant } t 0x203 nz =
      { s := modTen (tenantAdded s t newTenant) t fun x => { x with nz := nz }, report := [], count := 1 } := by
    unfold applyTen
    dsimp only
    rw [hval]
    rfl
  refine (rfl : _ = applyTen { s := tenantAdded s t newTenant } t 0x203 nz).trans (happ.trans ?_)
  rw [modTen_tenantAdded t newTenant _ h]
  rfl

/-- The limits of R109 and R275 for a device with one tenant. -/
theorem createLimit_one {s : State} {t nz : Nat} (h : s.tenants = []) (h2 : nz ≤ 1024)
    (hpool : (newTenant.w + parityN newTenant) * nz ≤ zonePool s) (hinst : instOf s t < 0x3FFFFF) :
    createLimit (tenantAdded s t (zonedTenant nz)) t = none := by
  have hts : (tenants (tenantAdded s t (zonedTenant nz))).map Prod.snd = [zonedTenant nz] := by
    rw [tenants, tenants_tenantAdded t _ h]
    rfl
  have hone : ∀ g : Tenant → Nat, sumBy g [zonedTenant nz] = g (zonedTenant nz) := fun g => by simp [sumBy]
  have hconv : convBytes (zonedTenant nz) = 0 := by
    have hnc : (zonedTenant nz).nc = 0 := rfl
    rw [convBytes, hnc]
    omega
  have hres : reservedBlocks (zonedTenant nz) = (newTenant.w + parityN newTenant) * nz := by
    have hnc : (zonedTenant nz).nc = 0 := rfl
    have hnz : (zonedTenant nz).nz = nz := rfl
    have hn : (zonedTenant nz).w + parityN (zonedTenant nz) = newTenant.w + parityN newTenant := rfl
    rw [reservedBlocks, hnc, hnz, hn]
    simp [Nat.mul_comm]
  have hz : zonePool (tenantAdded s t (zonedTenant nz)) = zonePool s := rfl
  have hi : instOf (tenantAdded s t (zonedTenant nz)) t = instOf s t := rfl
  have hnz : Tenant.nz (zonedTenant nz) = nz := rfl
  unfold createLimit
  dsimp only
  rw [hts, hone, hone, hone, hconv, hres, hz, hi, hnz, if_neg (by omega), if_neg (by omega), if_neg (by omega), if_neg (by omega)]

/-- The zone records of a tenant that is given up or starts. -/
theorem getZone_filtered {s u : State} {t z : Nat} (h : u.zones = s.zones.filter fun e => e.1 / 4194304 != t) (hz : z < 4194304) : getZone u t z = {} := by
  rw [getZone, h]
  refine Tab.get_of_not_mem _ fun hmem => ?_
  obtain ⟨e, he, hk⟩ := List.mem_map.mp hmem
  have hne : (e.1 / 4194304 != t) = true := (List.mem_filter.mp he).2
  rw [hk, zkey] at hne
  have hdiv : (t * 4194304 + z) / 4194304 = t := by omega
  rw [hdiv] at hne
  simp at hne

theorem getTen_startTenant (s : State) (t : Nat) : getTen (startTenant s t) t = (getTen s t).map resetTenant := by
  have h : getTen (startTenant s t) t = getTen (modTen s t resetTenant) t := rfl
  rw [h]
  simp only [getTen, modTen, Tab.get_upd_self]

theorem tslot_startTenant (s : State) (t : Nat) : tslot (startTenant s t) t = emptySlot (tslot s t) := by
  have h : tslot (startTenant s t) t = tslot (modTslot s t emptySlot) t := rfl
  rw [h, tslot_modTslot, if_pos rfl]

theorem instOf_startTenant (s : State) (t : Nat) : instOf (startTenant s t) t = instOf s t + 1 := by
  have h : instOf (startTenant s t) t = Tab.get 0 (Tab.set 0 s.cip.insts t (instOf s t + 1)) t := rfl
  rw [h, Tab.get_set_self]

theorem zones_startTenant (s : State) (t : Nat) : (startTenant s t).zones = s.zones.filter fun e => e.1 / 4194304 != t := rfl
theorem cfgOpen_startTenant (s : State) (t : Nat) : (startTenant s t).cfgOpen = s.cfgOpen := rfl
theorem mbxs_startTenant (s : State) (t : Nat) : (startTenant s t).mbxs = s.mbxs := rfl

theorem exec_tenantCreate {s : State} {b : Box} {f : Frame} {d : ReqData} {l : List Byte} (hat : AtRequest s b f) (hop : isOp 0x84 f = true)
    (hd : DataAt s b f d l) : exec (.tenantCreate b d) s = .next (
      if (getTen s (fTarget f.bytes)).isSome then finishReq s b 1 [] []
      else match parseImage l with
        | none => finishReq s b 7 [] []
        | some (fields, _) =>
          let a := tenPass true (fTarget f.bytes) { s := tenantAdded s (fTarget f.bytes) newTenant } fields
          if !(fields.any fun g => g.id == 0x203 && g.len == 4) then finishReq s b 6 [] []
          else match createLimit a.s (fTarget f.bytes) with
            | some e => finishReq s b e [] []
            | none =>
              let v := startTenant (configured a (cfgNow s s.plp.jSeq)) (fTarget f.bytes)
              finishDurable v b 0 [instOf v (fTarget f.bytes), a.count, a.report.length / 16, zoneSize (tenD v (fTarget f.bytes))] a.report) :=
  (runData_eq _ _ hat hd hop : execTenantCreate b d s = _).trans rfl

theorem tenantCreate_first {s : State} {b : Box} {f : Frame} {d : ReqData} {l : List Byte} {nz : Nat} (hat : AtRequest s b f) (hop : isOp 0x84 f = true)
    (hd : DataAt s b f d l) (hp : parseImage l = some ([{ id := 0x203, len := 4, val := nz }], 0)) (h1 : 1 ≤ nz) (h2 : nz ≤ 1024)
    (hwf : Tab.wf none s.tenants = true) (hten : tenants s = []) (hpool : (newTenant.w + parityN newTenant) * nz ≤ zonePool s)
    (hinst : instOf s (fTarget f.bytes) < 0x3FFFFF) :
    ∃ u x, exec (.tenantCreate b d) s = .next u ∧ getTen u (fTarget f.bytes) = some x ∧ x.nz = nz ∧ x.nextAccept = 0 ∧
      instOf u (fTarget f.bytes) = instOf s (fTarget f.bytes) + 1 ∧ (tslot u (fTarget f.bytes)).state = 0 ∧
      (∀ z, z < 4194304 → getZone u (fTarget f.bytes) z = {}) ∧ u.cfgOpen = some (cfgNow s s.plp.jSeq) ∧
      Replies s u b f 0 [instOf s (fTarget f.bytes) + 1, 1, 0, zoneSize x] [] := by
  have hnil := tenants_nil hwf hten
  have hnone : (getTen s (fTarget f.bytes)).isSome = false := by rw [getTen, hnil]; rfl
  refine ⟨_, resetTenant (zonedTenant nz), exec_tenantCreate hat hop hd, ?_⟩
  rw [hnone, if_neg (by decide), hp]
  dsimp only
  rw [if_neg (by simp), tenPass_nz hnil h1 h2]
  dsimp only
  rw [createLimit_one hnil h2 hpool hinst]
  dsimp only
  generalize hw : configured { s := tenantAdded s (fTarget f.bytes) (zonedTenant nz), report := [], count := 1 } (cfgNow s s.plp.jSeq) = w
  have hget : getTen (startTenant w (fTarget f.bytes)) (fTarget f.bytes) = some (resetTenant (zonedTenant nz)) := by
    have hadd : getTen w (fTarget f.bytes) = some (zonedTenant nz) := by rw [← hw]; exact getTen_tenantAdded _ _ _
    rw [getTen_startTenant, hadd, Option.map_some]
  have hi : instOf (startTenant w (fTarget f.bytes)) (fTarget f.bytes) = instOf s (fTarget f.bytes) + 1 := by
    rw [instOf_startTenant, ← hw]
    rfl
  have hopen : (startTenant w (fTarget f.bytes)).cfgOpen = some (cfgNow s s.plp.jSeq) := by rw [cfgOpen_startTenant, ← hw]; rfl
  have hbox : (startTenant w (fTarget f.bytes)).mbxs = s.mbxs := by rw [mbxs_startTenant, ← hw]; rfl
  have hslot := tslot_startTenant w (fTarget f.bytes)
  have hzones := zones_startTenant w (fTarget f.bytes)
  rw [hi, tenD, hget, Option.getD_some]
  generalize startTenant w (fTarget f.bytes) = v at hget hi hopen hbox hslot hzones
  have hfin := only_finishDurable v b 0 [instOf s (fTarget f.bytes) + 1, 1, ([] : List Byte).length / 16, zoneSize (resetTenant (zonedTenant nz))] ([] : List Byte)
  obtain ⟨hrep, -, -⟩ := replies_finishDurable (s := s) (s' := v) (b := b) (congrArg Mbx.backlog (getMbx_of_mbxs hbox b)) (head?_of_nextReq hat.1) 0
    [instOf s (fTarget f.bytes) + 1, 1, ([] : List Byte).length / 16, zoneSize (resetTenant (zonedTenant nz))] ([] : List Byte)
  refine ⟨?_, rfl, rfl, ?_, ?_, fun z hz => ?_, (hfin .cfgOpen (by simp)).trans hopen, hrep⟩
  · rw [getTen, show _ = v.tenants from hfin .tenants (by simp)]; exact hget
  · rw [instOf, show _ = v.cip from hfin .cip (by simp)]; exact hi
  · rw [tslot_of_cip (congrArg Cip.tslots (hfin .cip (by simp))), hslot]; rfl
  · rw [getZone_of_zones (hfin .zones (by simp))]
    exact getZone_filtered hzones hz

/-! ### TENANT_DELETE -/

/-- The keys of a tenant that is deleted are given up (R313). -/
def keysGivenUp (s : State) (t : Nat) : State :=
  let u := purgeTenant (modTslot s t emptySlot) t
  if (tslot s t).state = 1 then noticePf0 u 3 t 4 0 else u

theorem rest_keysGivenUp (s : State) (t : Nat) : rest (keysGivenUp s t) = rest (modTslot s t emptySlot) :=
  (rest_ite _ (rest_noticePf0 _ _ _ _ _) rfl).trans (rest_of_kept (kept_purgeTenant _ t))

/-- The data of a tenant that is deleted is dropped: each of its zone records is reset, and its streams end. -/
def dataGivenUp (s : State) (t : Nat) (zs : List Nat) : State := dropStreams (zs.foldl (fun s z => applyReset s t z) s) t

theorem rest_dataGivenUp (s : State) (t : Nat) (zs : List Nat) : rest (dataGivenUp s t zs) = rest s :=
  (rest_of_kept (kept_dropStreams _ _)).trans (rest_foldl _ (fun u z => rest_applyReset u t z) _ _)

/-- Its zone records go, and its versions are dead. -/
def recordsGivenUp (s : State) (t : Nat) : State :=
  { s with
    zones := s.zones.filter fun e => e.1 / 4194304 != t
    vers := Tab.mapv {} (fun _ x => if x.tenant = t then { x with dead := true } else x) s.vers }

theorem zones_recordsGivenUp (s : State) (t : Nat) : (recordsGivenUp s t).zones = s.zones.filter fun e => e.1 / 4194304 != t := rfl

theorem rest_recordsGivenUp (s : State) (t : Nat) : rest (recordsGivenUp s t) = rest s := rfl

/-- Its mailbox on a port is discarded. -/
def boxGivenUp (t : Nat) (s : State) (p : Port) : State := if fnExists s p (t + 1) then discardVfBox s p (t + 1) 5 else s

theorem only_discardBox (s : State) (b : Box) : Only [.mbxs, .rst] s (discardBox s b) := by
  unfold discardBox
  refine Only.trans ?_ ((only_modMbx _ _ _).mono (by simp))
  split
  · exact Only.ite ((only_rst s _).mono (by simp)) (Only.refl _ _)
  · exact Only.refl _ _

theorem getMbx_discardBox_ne {s : State} {b c : Box} (h : boxKey c ≠ boxKey b) : getMbx (discardBox s b) c = getMbx s c := by
  unfold discardBox
  rw [getMbx_modMbx_ne _ _ _ _ h]
  split
  · split <;> rfl
  · rfl

theorem only_discardVfBox (s : State) (p : Port) (fn cause : Nat) : Only [.mbxs, .rst, .pa, .pb, .out, .evr] s (discardVfBox s p fn cause) :=
  ((only_discardBox s _).mono (by simp)).andThen (only_logEv _ _ _ _ _) (by simp)

theorem getMbx_discardVfBox_pf0 (s : State) (p : Port) (fn cause n : Nat) (hn : n < 16) :
    getMbx (discardVfBox s p fn cause) (.pf0 n) = getMbx s (.pf0 n) := by
  have h : getMbx (discardVfBox s p fn cause) (.pf0 n) = getMbx (discardBox s (.vf p fn)) (.pf0 n) :=
    getMbx_of_only (only_logEv (discardBox s (.vf p fn)) _ _ _ _) (by simp) _
  rw [h]
  exact getMbx_discardBox_ne (by simp only [boxKey]; omega)

theorem only_boxGivenUp (t : Nat) (s : State) (p : Port) : Only [.mbxs, .rst, .pa, .pb, .out, .evr] s (boxGivenUp t s p) :=
  Only.ite (only_discardVfBox _ _ _ _) (Only.refl _ _)

theorem getMbx_boxGivenUp (t : Nat) (s : State) (p : Port) {n : Nat} (hn : n < 16) : getMbx (boxGivenUp t s p) (.pf0 n) = getMbx s (.pf0 n) := by
  unfold boxGivenUp
  split
  · exact getMbx_discardVfBox_pf0 _ _ _ _ _ hn
  · rfl

/-- What is left of a tenant once everything that hangs on it is given up. -/
def tenantBare (s : State) (t : Nat) : State :=
  [Port.a, Port.b].foldl (boxGivenUp t) (recordsGivenUp (dataGivenUp (keysGivenUp s t) t
    (((keysGivenUp s t).zones.filter fun e => e.1 / 4194304 == t).map fun e => e.1 % 4194304)) t)

/-- Its parameters go last. -/
def parametersGivenUp (s : State) (t : Nat) : State := { s with tenants := Tab.set none s.tenants t none }

theorem only_parametersGivenUp (s : State) (t : Nat) : Only [.tenants] s (parametersGivenUp s t) := only_tenants _ _

theorem getTen_parametersGivenUp (s : State) (t : Nat) : getTen (parametersGivenUp s t) t = none := by
  rw [getTen, parametersGivenUp, Tab.get_set_self]

theorem removeTenant_eq (s : State) (t : Nat) : removeTenant s t = freeFloor (parametersGivenUp (tenantBare s t) t) t := by
  unfold removeTenant tenantBare keysGivenUp
  simp only [decide_eq_true_eq]
  rfl

theorem only_removed (s : State) (t : Nat) : Only [.mbxs, .rst, .pa, .pb, .out, .evr, .tenants, .bpm] (recordsGivenUp (dataGivenUp (keysGivenUp s t) t
    (((keysGivenUp s t).zones.filter fun e => e.1 / 4194304 == t).map fun e => e.1 % 4194304)) t) (removeTenant s t) := by
  rw [removeTenant_eq]
  refine Only.trans ?_ ((only_freeFloor _ _).mono (by simp))
  refine Only.trans ?_ ((only_parametersGivenUp (tenantBare s t) t).mono (by simp))
  exact (only_foldl _ (fun u p => only_boxGivenUp t u p) _ _).mono (by simp)

theorem rest_recordsRemoved (s : State) (t : Nat) (zs : List Nat) :
    rest (recordsGivenUp (dataGivenUp (keysGivenUp s t) t zs) t) = rest (modTslot s t emptySlot) :=
  (rest_recordsGivenUp _ t).trans ((rest_dataGivenUp _ t zs).trans (rest_keysGivenUp s t))

theorem getTen_removeTenant (s : State) (t : Nat) : getTen (removeTenant s t) t = none := by
  have h : (removeTenant s t).tenants = (parametersGivenUp (tenantBare s t) t).tenants := by
    rw [removeTenant_eq]
    exact only_freeFloor _ _ .tenants (by simp)
  have hgone := getTen_parametersGivenUp (tenantBare s t) t
  rw [getTen] at hgone ⊢
  rw [h, hgone]

theorem keys_removeTenant (s : State) (t : Nat) : tslot (removeTenant s t) t = emptySlot (tslot s t) ∧ instOf (removeTenant s t) t = instOf s t := by
  have hrest := rest_recordsRemoved s t (((keysGivenUp s t).zones.filter fun e => e.1 / 4194304 == t).map fun e => e.1 % 4194304)
  have hcip := only_removed s t .cip (by simp)
  refine ⟨?_, ?_⟩
  · rw [tslot_of_cip (congrArg Cip.tslots hcip), tslot_of_cip (tslots_of_rest hrest), tslot_modTslot, if_pos rfl]
  · rw [instOf, show (removeTenant s t).cip = _ from hcip]
    exact instOf_of_rest hrest t

theorem getZone_removeTenant (s : State) {t z : Nat} (hz : z < 4194304) : getZone (removeTenant s t) t z = {} :=
  getZone_filtered ((only_removed s t .zones (by simp)).trans (zones_recordsGivenUp _ t)) hz

theorem backlog_removeTenant (s : State) (t : Nat) {n : Nat} (hn : n < 16) :
    (getMbx (removeTenant s t) (.pf0 n)).backlog = (getMbx s (.pf0 n)).backlog := by
  have hrest := rest_recordsRemoved s t (((keysGivenUp s t).zones.filter fun e => e.1 / 4194304 == t).map fun e => e.1 % 4194304)
  have hslot : getMbx (modTslot s t emptySlot) (.pf0 n) = getMbx s (.pf0 n) := getMbx_of_only (only_modTslot _ _ _) (by simp) _
  have hfree : getMbx (removeTenant s t) (.pf0 n) = getMbx (tenantBare s t) (.pf0 n) := by
    rw [removeTenant_eq, getMbx_of_only (only_freeFloor _ _) (by simp)]
    exact getMbx_of_only (only_parametersGivenUp (tenantBare s t) t) (by simp) _
  have hbare : getMbx (tenantBare s t) (.pf0 n) = getMbx (recordsGivenUp (dataGivenUp (keysGivenUp s t) t
      (((keysGivenUp s t).zones.filter fun e => e.1 / 4194304 == t).map fun e => e.1 % 4194304)) t) (.pf0 n) :=
    foldl_field (fun u => getMbx u (.pf0 n)) (boxGivenUp t) (fun u p => getMbx_boxGivenUp t u p hn) _ _
  rw [hfree, hbare, backlog_of_rest hrest, hslot]

theorem exec_tenantDelete {s : State} {b : Box} {f : Frame} (hat : AtRequest s b f) (hop : isOp 0x85 f = true) :
    exec (.tenantDelete b) s = .next (if s.cmds.any fun c => c.tenant == fTarget f.bytes then finishReq s b 1 [] []
      else finishDurable (removeTenant s (fTarget f.bytes)) b 0 [] []) := (runReq_eq _ _ hat hop : execTenantDelete b s = _).trans rfl

theorem tenantDelete_done {s : State} {b : Box} {f : Frame} (hat : AtRequest s b f) (hop : isOp 0x85 f = true)
    (hc : ∀ c ∈ s.cmds, c.tenant ≠ fTarget f.bytes) :
    ∃ u, exec (.tenantDelete b) s = .next u ∧ getTen u (fTarget f.bytes) = none ∧
      (tslot u (fTarget f.bytes)).state = 0 ∧ instOf u (fTarget f.bytes) = instOf s (fTarget f.bytes) ∧
      (∀ z, z < 4194304 → getZone u (fTarget f.bytes) z = {}) ∧ (∀ n, n < 8 → b = .pf0 n → Replies s u b f 0 [] []) := by
  have hany : (s.cmds.any fun c => c.tenant == fTarget f.bytes) = false := by
    rw [List.any_eq_false]
    exact fun c hmem => by simpa using hc c hmem
  refine ⟨_, exec_tenantDelete hat hop, ?_⟩
  rw [hany, if_neg (by decide)]
  obtain ⟨hslot, hinst⟩ := keys_removeTenant s (fTarget f.bytes)
  have hfin := only_finishDurable (removeTenant s (fTarget f.bytes)) b 0 [] []
  refine ⟨?_, ?_, ?_, fun z hz => ?_, fun n hn hb => ?_⟩
  · rw [getTen, show _ = (removeTenant s (fTarget f.bytes)).tenants from hfin .tenants (by simp)]
    exact getTen_removeTenant _ _
  · rw [tslot_of_cip (congrArg Cip.tslots (hfin .cip (by simp))), hslot]
    rfl
  · rw [instOf, show _ = (removeTenant s (fTarget f.bytes)).cip from hfin .cip (by simp)]
    exact hinst
  · rw [getZone_of_zones (hfin .zones (by simp))]
    exact getZone_removeTenant s hz
  · subst hb
    exact (replies_finishDurable (backlog_removeTenant s _ (by omega)) (head?_of_nextReq hat.1) 0 [] []).1

/-! ### THERMAL_SET and QUADRANT_RESET -/

theorem bit_all {m i : Nat} (hm : m = 0xF ∨ m = 0x10F) (hi : i < 4) : bit (bits m 0 4) i = true := by
  have hall : ∀ i < 4, bit (bits 0xF 0 4) i = true ∧ bit (bits 0x10F 0 4) i = true := by decide
  obtain rfl | rfl := hm
  · exact (hall i hi).1
  · exact (hall i hi).2

/-- The four thresholds that a THERMAL_SET asks for, each clamped to its range. -/
def askedThresholds (w : Nat) : List Nat := (List.range 4).map fun i => clampTo (thrRange i) (bits w (8 * i) 8)

/-- The thresholds taken at the next control period, and the configured ones. -/
def thresholdsSet (s : State) (l conf : List Nat) : State := { s with thm := { s.thm with tNext := l, tConf := conf } }

theorem exec_thermalSet {s : State} {b : Box} {f : Frame} (hat : AtRequest s b f) (hop : isOp 0x8A f = true)
    (hm : fArg f.bytes 0 = 0xF ∨ fArg f.bytes 0 = 0x10F) : exec (.thermalSet b) s = .next (
      let l := askedThresholds (fArg f.bytes 1)
      let vals := [threshWord l, maskOf 4 fun i => nth 0 l i != bits (fArg f.bytes 1) (8 * i) 8]
      if !thrOrder l then finishReq s b 1 [] []
      else if fArg f.bytes 0 = 0x10F then
        finishDurable { thresholdsSet s l l with cfgOpen := some (cfgNow s s.plp.jSeq) } b 0 vals []
      else finishReq (thresholdsSet s l s.thm.tConf) b 0 vals []) := by
  refine (runReq_eq _ _ hat hop : execThermalSet b s = _).trans ?_
  have hl : ((List.range 4).map fun i => if bit (bits (fArg f.bytes 0) 0 4) i then clampTo (thrRange i) (bits (fArg f.bytes 1) (8 * i) 8)
      else nth 0 s.thm.tNext i) = askedThresholds (fArg f.bytes 1) :=
    List.map_congr_left fun i hi => if_pos (bit_all hm (List.mem_range.mp hi))
  have hmask : (maskOf 4 fun i => bit (bits (fArg f.bytes 0) 0 4) i && clampTo (thrRange i) (bits (fArg f.bytes 1) (8 * i) 8) !=
      bits (fArg f.bytes 1) (8 * i) 8) = maskOf 4 fun i => nth 0 (askedThresholds (fArg f.bytes 1)) i != bits (fArg f.bytes 1) (8 * i) 8 := by
    have h0 := bit_all hm (i := 0) (by decide)
    have h1 := bit_all hm (i := 1) (by decide)
    have h2 := bit_all hm (i := 2) (by decide)
    have h3 := bit_all hm (i := 3) (by decide)
    have hr : List.range 4 = [0, 1, 2, 3] := rfl
    simp only [maskOf, askedThresholds, hr, sumBy, List.foldl_cons, List.foldl_nil, h0, h1, h2, h3, Bool.true_and, List.map_cons, List.map_nil, nth]
    rfl
  dsimp only
  rw [hl, hmask]
  obtain h | h := hm
  · have hb : bit (fArg f.bytes 0) 8 = false := by rw [h]; decide
    have hne : ¬ fArg f.bytes 0 = 0x10F := by rw [h]; decide
    simp only [hb, if_neg hne, Bool.false_eq_true, if_false, thresholdsSet]
  · have hb : bit (fArg f.bytes 0) 8 = true := by rw [h]; decide
    simp only [hb, if_pos h, if_true, thresholdsSet]

theorem thrOrder_iff (a c e g : Nat) : thrOrder [a, c, e, g] = true ↔ a ≤ c ∧ c + 4 ≤ e ∧ e + 3 ≤ g := by
  simp [thrOrder, nth, and_assoc]

/-- A quadrant asked to reset: it waits for D, unless it is already under way (R340). -/
def quadAsked (s : State) (b : Box) (q : Nat) : State :=
  { s with rst := { s.rst with
    qState := Tab.set 0 s.rst.qState q 1
    qPhase := if Tab.get 0 s.rst.qState q = 1 then s.rst.qPhase else Tab.set 0 s.rst.qPhase q 7
    qWait := s.rst.qWait ++ [(q, b, s.nowNs)] } }

theorem quadAsked_rst (s : State) (b : Box) (q : Nat) : Tab.get 0 (quadAsked s b q).rst.qState q = 1 ∧
    Tab.get 0 (quadAsked s b q).rst.qPhase q = (if Tab.get 0 s.rst.qState q = 1 then Tab.get 0 s.rst.qPhase q else 7) ∧
    (quadAsked s b q).rst.qWait = s.rst.qWait ++ [(q, b, s.nowNs)] := by
  refine ⟨Tab.get_set_self 0 s.rst.qState q 1, ?_, rfl⟩
  change Tab.get 0 (if Tab.get 0 s.rst.qState q = 1 then s.rst.qPhase else Tab.set 0 s.rst.qPhase q 7) q = _
  split
  · rfl
  · exact Tab.get_set_self 0 s.rst.qPhase q 7

theorem only_quadAsked (s : State) (b : Box) (q : Nat) : Only [.rst] s (quadAsked s b q) := only_rst _ _

theorem exec_quadrantReset {s : State} {b : Box} {f : Frame} (hat : AtRequest s b f) (hop : isOp 0x8C f = true) (hq : fArg f.bytes 0 ≤ 3) :
    exec (.quadrantReset b) s = .next (quadAsked (modMbx s b fun m => { m with busy := true }) b (fArg f.bytes 0)) := by
  refine (runReq_eq _ _ hat hop : execQuadrantReset b s = _).trans ?_
  dsimp only
  rw [if_neg (by omega)]
  simp only [beq_iff_eq]
  rfl

theorem quadrantReset_asked {s : State} {b : Box} {f : Frame} (hat : AtRequest s b f) (hop : isOp 0x8C f = true) (hq : fArg f.bytes 0 ≤ 3) :
    ∃ u, exec (.quadrantReset b) s = .next u ∧ Only [.mbxs, .rst] s u ∧ Tab.get 0 u.rst.qState (fArg f.bytes 0) = 1 ∧
      Tab.get 0 u.rst.qPhase (fArg f.bytes 0) =
        (if Tab.get 0 s.rst.qState (fArg f.bytes 0) = 1 then Tab.get 0 s.rst.qPhase (fArg f.bytes 0) else 7) ∧
      u.rst.qWait = s.rst.qWait ++ [(fArg f.bytes 0, b, s.nowNs)] ∧
      (getMbx u b).busy = true ∧ (getMbx u b).backlog = (getMbx s b).backlog := by
  refine ⟨_, exec_quadrantReset hat hop hq, ?_⟩
  have hmod := only_modMbx s b fun m => { m with busy := true }
  have hbox := getMbx_modMbx_self s b fun m => { m with busy := true }
  have hrst : (modMbx s b fun m => { m with busy := true }).rst = s.rst := hmod .rst (by simp)
  have hnow : (modMbx s b fun m => { m with busy := true }).nowNs = s.nowNs := hmod .nowNs (by simp)
  generalize (modMbx s b fun m => { m with busy := true }) = w at hmod hbox hrst hnow
  obtain ⟨hstate, hphase, hwait⟩ := quadAsked_rst w b (fArg f.bytes 0)
  rw [hrst] at hphase hwait
  rw [hnow] at hwait
  have hasked := only_quadAsked w b (fArg f.bytes 0)
  refine ⟨(hmod.mono (by simp)).trans (hasked.mono (by simp)), hstate, hphase, hwait, ?_, ?_⟩ <;> rw [getMbx_of_only hasked (by simp), hbox]

/-- Settles O46: each clause is the lemma of its request above. -/
theorem requestsConfigure : Obligations.RequestsConfigure := by
  unfold Obligations.RequestsConfigure
  intro s b f d l hat
  have hhead := head?_of_nextReq hat.1
  refine ⟨fun h hd => ⟨fun hp => ?_, fun v hp h1 h2 hfit => setConfig_ucHold hat (isOp_eq h) hd hp h1 h2 hfit⟩,
    fun h hd => ⟨fun hsome => ?_, fun nz hp h1 h2 hwf hten hpool hinst => tenantCreate_first hat (isOp_eq h) hd hp h1 h2 hwf hten hpool hinst⟩,
    fun h => ⟨fun ⟨c, hc, ht⟩ => ?_, fun hc => tenantDelete_done hat (isOp_eq h) hc⟩, fun h hm a c e g ha hc he hg => ?_,
    fun h => ⟨fun hq => ⟨_, (runReq_eq _ _ hat (isOp_eq h) : execQuadrantReset b s = _).trans (congrArg _ (if_pos hq)), finishReq_spec hat.1 1 [] []⟩,
      fun hq => quadrantReset_asked hat (isOp_eq h) hq⟩⟩
  · refine ⟨_, exec_setConfig hat (isOp_eq h) hd, ?_⟩
    rw [hp]
    exact finishReq_spec hat.1 7 [] []
  · refine ⟨_, exec_tenantCreate hat (isOp_eq h) hd, ?_⟩
    rw [if_pos hsome]
    exact finishReq_spec hat.1 1 [] []
  · refine ⟨_, exec_tenantDelete hat (isOp_eq h), ?_⟩
    rw [if_pos (List.any_eq_true.mpr ⟨c, hc, by simpa using ht⟩)]
    exact finishReq_spec hat.1 1 [] []
  · have hl : askedThresholds (fArg f.bytes 1) = [a, c, e, g] := by
      rw [← ha, ← hc, ← he, ← hg]
      rfl
    have hex := exec_thermalSet hat (isOp_eq h) hm
    rw [hl] at hex
    dsimp only at hex
    refine ⟨fun hac hce heg => ?_, fun hno => ?_⟩
    · rw [(thrOrder_iff a c e g).mpr ⟨hac, hce, heg⟩, if_neg (by decide)] at hex
      obtain h15 | h271 := hm
      · rw [if_neg (by rw [h15]; decide)] at hex
        have honly : Only [.thm] s (thresholdsSet s [a, c, e, g] s.thm.tConf) := only_thm s _
        have hfin := only_finishReq (thresholdsSet s [a, c, e, g] s.thm.tConf) b 0
          [threshWord [a, c, e, g], maskOf 4 fun i => nth 0 [a, c, e, g] i != bits (fArg f.bytes 1) (8 * i) 8] []
        have hall := (honly.mono (by simp)).andThen (l := [.mbxs, .thm]) hfin (by simp)
        exact ⟨_, hex, hall.mono (by simp), congrArg Thm.tNext (hfin .thm (by simp)), fun _ => ⟨hall, hfin .thm (by simp)⟩,
          fun h => absurd (h15.symm.trans h) (by decide), replies_finishReq (s' := thresholdsSet s [a, c, e, g] s.thm.tConf) rfl hhead _ _ _⟩
      · rw [if_pos h271] at hex
        have honly : Only [.thm, .cfgOpen] s { thresholdsSet s [a, c, e, g] [a, c, e, g] with cfgOpen := some (cfgNow s s.plp.jSeq) } :=
          fun q hq => by cases q <;> simp at hq <;> rfl
        have hfin := only_finishDurable { thresholdsSet s [a, c, e, g] [a, c, e, g] with cfgOpen := some (cfgNow s s.plp.jSeq) } b 0
          [threshWord [a, c, e, g], maskOf 4 fun i => nth 0 [a, c, e, g] i != bits (fArg f.bytes 1) (8 * i) 8] []
        obtain ⟨hrep, -, hplp⟩ := replies_finishDurable (s := s) (b := b)
          (s' := { thresholdsSet s [a, c, e, g] [a, c, e, g] with cfgOpen := some (cfgNow s s.plp.jSeq) }) rfl hhead 0
          [threshWord [a, c, e, g], maskOf 4 fun i => nth 0 [a, c, e, g] i != bits (fArg f.bytes 1) (8 * i) 8] []
        exact ⟨_, hex, (honly.mono (by simp)).andThen hfin (by simp), congrArg Thm.tNext (hfin .thm (by simp)),
          fun h => absurd (h.symm.trans h271) (by decide), fun _ => ⟨hfin .thm (by simp), hplp, hfin .cfgOpen (by simp)⟩, hrep⟩
    · rw [if_pos (by rw [Bool.not_eq_true', Bool.eq_false_iff]; exact fun hcon => hno ((thrOrder_iff a c e g).mp hcon))] at hex
      exact ⟨_, hex, finishReq_spec hat.1 1 [] []⟩

end Sys2Proof.Machine
end

section
/-! PROOFS. Selector and control registers of the blocks (R34, R223, R225, R245, R280). -/

namespace Sys2Proof.Machine

/-! ### Windows -/

/-- A selector write takes its snapshot into the writing port's window (R34). -/
def windowed (s : State) (p : Port) (f : Win → Win) : State := modPort (woken s p 3) p fun q => { q with win := f q.win }

theorem only_windowed (s : State) (p : Port) (f : Win → Win) : Only [portPart p] (woken s p 3) (windowed s p f) := only_modPort _ _ _

theorem win_windowed (s : State) (p : Port) (f : Win → Win) : (getPort (windowed s p f) p).win = f (getPort s p).win := by
  rw [windowed, getPort_modPort_self, win_woken]

theorem tenants_woken (s : State) (p : Port) (c : Nat) : (woken s p c).tenants = s.tenants := only_woken s p c .tenants (by cases p <;> simp [portPart])
theorem cmds_woken (s : State) (p : Port) (c : Nat) : (woken s p c).cmds = s.cmds := only_woken s p c .cmds (by cases p <;> simp [portPart])
theorem bpm_woken (s : State) (p : Port) (c : Nat) : (woken s p c).bpm = s.bpm := only_woken s p c .bpm (by cases p <;> simp [portPart])
theorem cip_woken (s : State) (p : Port) (c : Nat) : (woken s p c).cip = s.cip := only_woken s p c .cip (by cases p <;> simp [portPart])
theorem mep_woken (s : State) (p : Port) (c : Nat) : (woken s p c).mep = s.mep := only_woken s p c .mep (by cases p <;> simp [portPart])
theorem hlt_woken (s : State) (p : Port) (c : Nat) : (woken s p c).hlt = s.hlt := only_woken s p c .hlt (by cases p <;> simp [portPart])
theorem vers_woken (s : State) (p : Port) (c : Nat) : (woken s p c).vers = s.vers := only_woken s p c .vers (by cases p <;> simp [portPart])

theorem tenants_windowed (s : State) (p : Port) (f : Win → Win) : (windowed s p f).tenants = s.tenants :=
  (only_windowed s p f .tenants (by cases p <;> simp [portPart])).trans (tenants_woken s p 3)

theorem cip_windowed (s : State) (p : Port) (f : Win → Win) : (windowed s p f).cip = s.cip :=
  (only_windowed s p f .cip (by cases p <;> simp [portPart])).trans (cip_woken s p 3)

theorem getTen_of_tenants {s u : State} (h : u.tenants = s.tenants) (t : Nat) : getTen u t = getTen s t := by rw [getTen, h, getTen]

theorem getCls_of_tenants {s u : State} (h : u.tenants = s.tenants) (t : Nat) (c : Cls) : getCls u t c = getCls s t c := by
  rw [getCls, tenD, getTen_of_tenants h, getCls, tenD]

theorem bpmWindow_of {s u : State} (ht : u.tenants = s.tenants) (hb : u.bpm = s.bpm) (hv : u.vers = s.vers) (t : Nat) : bpmWindow u t = bpmWindow s t := by
  rw [bpmWindow, getTen_of_tenants ht, hb, hv, bpmWindow]

theorem inUse_of_cmds {s u : State} (h : u.cmds = s.cmds) (t : Nat) (c : Cls) : inUse u t c = inUse s t c := by rw [inUse, h, inUse]

theorem admWindow_of {s u : State} (ht : u.tenants = s.tenants) (hc : u.cmds = s.cmds) (t : Nat) (c : Cls) : admWindow u t c = admWindow s t c := by
  rw [admWindow, getTen_of_tenants ht, inUse_of_cmds hc, hc, admWindow]

theorem cipWindow_of {s u : State} (ht : u.tenants = s.tenants) (hc : u.cip = s.cip) (t : Nat) : cipWindow u t = cipWindow s t := by
  rw [cipWindow, getTen_of_tenants ht, instOf, hc, cipWindow, instOf]

/-! ### What CLR clears -/

theorem tcls_modCls_self (t : Tenant) (c : Cls) (f : TCls → TCls) : tcls (modCls t c f) c = f (tcls t c) := by cases c <;> rfl

/-- A class parameter that a rewrite gives a value, and that a tenant without parameters has too. -/
theorem getCls_modTCls_field {α : Type} (g : TCls → α) {a : α} (s : State) (t : Nat) (c : Cls) {f : TCls → TCls} (hf : ∀ x, g (f x) = a)
    (hd : g (tcls {} c) = a) : g (getCls (modTCls s t c f) t c) = a := by
  rw [getCls, tenD, modTCls, getTen_modTen_self]
  cases getTen s t with
  | none => exact hd
  | some x => rw [Option.map_some, Option.getD_some, tcls_modCls_self, hf]

/-- A window of a selector whose CLR clears something of another part (R149, Table 8.16). -/
theorem windowed_clears {l : List Part} {s v : State} {p : Port} {f : Win → Win} {b : Bool} (hv : Only l (windowed s p f) v)
    (hl : .pa ∉ l ∧ .pb ∉ l) : Only (portPart p :: l) (woken s p 3) (if b then v else windowed s p f) ∧
      (getPort (if b then v else windowed s p f) p).win = f (getPort s p).win ∧
      (b = false → (if b then v else windowed s p f).tenants = s.tenants ∧ (if b then v else windowed s p f).cip = s.cip) := by
  have hsel := (only_windowed s p f).mono (m := portPart p :: l) (by simp)
  cases b with
  | false => exact ⟨hsel, win_windowed s p f, fun _ => ⟨tenants_windowed s p f, cip_windowed s p f⟩⟩
  | true =>
    refine ⟨hsel.trans (hv.mono fun q hq => List.mem_cons_of_mem _ hq), ?_, fun h => by cases h⟩
    have hport : getPort v p = getPort (windowed s p f) p := by
      cases p
      · exact hv .pa hl.1
      · exact hv .pb hl.2
    exact (congrArg PortSt.win hport).trans (win_windowed s p f)

/-! ### Selectors -/

theorem hltTsel_spec {s : State} {p : Port} {v : Word} (h : Writable s p 0) (h1 : fld v 10 6 = 0) (h2 : fld v 18 13 = 0) :
    ∃ u, exec (.hltTsel p v) s = .next u ∧ Only [portPart p, .tenants] (woken s p 3) u ∧ (getPort u p).win =
        { (getPort s p).win with hltSel := v.toNat % 2147483648, hltSnap := (List.range 20).map fun k =>
            if (getTen s (fld v 0 10)).isSome then Tab.get 0 (getCls s (fld v 0 10) (clsOfNat (fld v 16 2))).rcnts k else 0 } ∧
      (flag v 31 = false → u.tenants = s.tenants) ∧ (flag v 31 = true → (getCls u (fld v 0 10) (clsOfNat (fld v 16 2))).rcnts = []) := by
  have hsnap : ((List.range 20).map fun k => if (getTen (woken s p 3) (fld v 0 10)).isSome then
      Tab.get 0 (getCls (woken s p 3) (fld v 0 10) (clsOfNat (fld v 16 2))).rcnts k else 0) = (List.range 20).map fun k =>
      if (getTen s (fld v 0 10)).isSome then Tab.get 0 (getCls s (fld v 0 10) (clsOfNat (fld v 16 2))).rcnts k else 0 := by
    rw [getTen_of_tenants (tenants_woken s p 3), getCls_of_tenants (tenants_woken s p 3)]
  have hex : exec (.hltTsel p v) s = _ := (regWrite_writable _ h : execHltTsel p v s = _).trans (if_neg (by omega))
  dsimp only at hex
  rw [hsnap] at hex
  obtain ⟨honly, hwin, hkeep⟩ := windowed_clears (b := flag v 31) (s := s) (p := p) (f := fun w => { w with
    hltSel := v.toNat % 2147483648
    hltSnap := (List.range 20).map fun k => if (getTen s (fld v 0 10)).isSome then
      Tab.get 0 (getCls s (fld v 0 10) (clsOfNat (fld v 16 2))).rcnts k else 0 })
    (only_modTCls _ (fld v 0 10) (clsOfNat (fld v 16 2)) fun x => { x with rcnts := [] }) (by simp)
  refine ⟨_, hex, honly, hwin, fun hf => (hkeep hf).1, fun hf => ?_⟩
  rw [if_pos hf]
  exact getCls_modTCls_field TCls.rcnts _ _ _ (fun _ => rfl) (by cases clsOfNat (fld v 16 2) <;> rfl)

theorem admTwinSel_spec {s : State} {p : Port} {v : Word} (h : Writable s p 0) (h1 : fld v 10 6 = 0) (h2 : fld v 18 13 = 0) :
    ∃ u, exec (.admTwinSel p v) s = .next u ∧ Only [portPart p, .tenants] (woken s p 3) u ∧ (getPort u p).win =
        { (getPort s p).win with admSel := mk [(0, 10, fld v 0 10), (16, 2, fld v 16 2)], admSnap := admWindow s (fld v 0 10) (clsOfNat (fld v 16 2)) } ∧
      (flag v 31 = false → u.tenants = s.tenants) ∧ (flag v 31 = true → Tab.get 0 (getCls u (fld v 0 10) (clsOfNat (fld v 16 2))).cnts 12 = 0) := by
  have hex : exec (.admTwinSel p v) s = _ := (regWrite_writable _ h : execAdmTwinSel p v s = _).trans (if_neg (by omega))
  dsimp only at hex
  rw [admWindow_of (tenants_woken s p 3) (cmds_woken s p 3)] at hex
  obtain ⟨honly, hwin, hkeep⟩ := windowed_clears (b := flag v 31) (s := s) (p := p) (f := fun w => { w with
    admSel := mk [(0, 10, fld v 0 10), (16, 2, fld v 16 2)], admSnap := admWindow s (fld v 0 10) (clsOfNat (fld v 16 2)) })
    (only_modTCls _ (fld v 0 10) (clsOfNat (fld v 16 2)) fun x => { x with cnts := Tab.set 0 x.cnts 12 0 }) (by simp)
  refine ⟨_, hex, honly, hwin, fun hf => (hkeep hf).1, fun hf => ?_⟩
  rw [if_pos hf]
  exact getCls_modTCls_field (fun x => Tab.get 0 x.cnts 12) _ _ _ (fun x => Tab.get_set_self 0 x.cnts 12 0) (by cases clsOfNat (fld v 16 2) <;> rfl)

theorem bpmTsel_spec {s : State} {p : Port} {v : Word} (h : Writable s p 0) (h1 : fld v 10 21 = 0) :
    ∃ u, exec (.bpmTsel p v) s = .next u ∧ Only [portPart p, .tenants] (woken s p 3) u ∧
      (getPort u p).win = { (getPort s p).win with bpmSel := fld v 0 10, bpmSnap := bpmWindow s (fld v 0 10) } ∧
      (flag v 31 = false → u.tenants = s.tenants) ∧
      (flag v 31 = true → ∀ x, getTen s (fld v 0 10) = some x → getTen u (fld v 0 10) = some { x with qhold := 0, dphold := 0 }) := by
  have hex : exec (.bpmTsel p v) s = _ := (regWrite_writable _ h : execBpmTsel p v s = _).trans (if_neg (by omega))
  dsimp only at hex
  rw [bpmWindow_of (tenants_woken s p 3) (bpm_woken s p 3) (vers_woken s p 3)] at hex
  obtain ⟨honly, hwin, hkeep⟩ := windowed_clears (b := flag v 31) (s := s) (p := p) (f := fun w => { w with
    bpmSel := fld v 0 10, bpmSnap := bpmWindow s (fld v 0 10) }) (only_modTen _ (fld v 0 10) fun x => { x with qhold := 0, dphold := 0 }) (by simp)
  refine ⟨_, hex, honly, hwin, fun hf => (hkeep hf).1, fun hf x hx => ?_⟩
  rw [if_pos hf, getTen_modTen_self]
  have hten := getTen_of_tenants (tenants_windowed s p fun w => { w with bpmSel := fld v 0 10, bpmSnap := bpmWindow s (fld v 0 10) }) (fld v 0 10)
  exact (congrArg _ (hten.trans hx)).trans rfl

/-- Counters of a table set to 0 one after another read as 0. -/
theorem get_cleared (base : Nat) (n : Nat) (t : Tab Nat) {k : Nat} (hk : k < n) :
    Tab.get 0 ((List.range n).foldl (fun c k => Tab.set 0 c (base + k) 0) t) (base + k) = 0 := by
  induction n with
  | zero => omega
  | succ n ih =>
    rw [List.range_succ, List.foldl_append, List.foldl_cons, List.foldl_nil]
    by_cases h : k = n
    · subst h
      exact Tab.get_set_self _ _ _ _
    · rw [Tab.get_set_ne _ _ _ _ _ (by omega)]
      exact ih (by omega)

theorem cipTsel_spec {s : State} {p : Port} {v : Word} (h : Writable s p 0) (h1 : fld v 10 21 = 0) :
    ∃ u, exec (.cipTsel p v) s = .next u ∧ Only [portPart p, .cip] (woken s p 3) u ∧
      (getPort u p).win = { (getPort s p).win with cipSel := fld v 0 10, cipSnap := cipWindow s (fld v 0 10) } ∧
      (flag v 31 = false → u.cip = s.cip) ∧
      (flag v 31 = true → ∀ k, k < 5 → Tab.get 0 u.cip.tcnts (fld v 0 10 * 8 + k) = 0) := by
  have hex : exec (.cipTsel p v) s = _ := (regWrite_writable _ h : execCipTsel p v s = _).trans (if_neg (by omega))
  dsimp only at hex
  rw [cipWindow_of (tenants_woken s p 3) (cip_woken s p 3)] at hex
  obtain ⟨honly, hwin, hkeep⟩ := windowed_clears (b := flag v 31) (s := s) (p := p) (f := fun w => { w with
    cipSel := fld v 0 10, cipSnap := cipWindow s (fld v 0 10) }) (only_cip _ _) (by simp)
  refine ⟨_, hex, honly, hwin, fun hf => (hkeep hf).2, fun hf k hk => ?_⟩
  rw [if_pos hf]
  exact get_cleared _ 5 _ hk

/-- Settles O31: each clause is the lemma of its register above, or its write unfolded. -/
theorem blockRegistersAct : Obligations.BlockRegistersAct := by
  unfold Obligations.BlockRegistersAct
  refine ⟨fun s p v h => ⟨fun h1 h2 => ⟨hltTsel_spec h h1 h2, admTwinSel_spec h h1 h2⟩, fun h1 => ⟨bpmTsel_spec h h1, cipTsel_spec h h1⟩,
    fun h1 => ?_, fun h1 hf => ?_⟩, fun s p h => ⟨fun w hw => ?_, ?_⟩⟩
  · refine (regWrite_writable _ h : execMepLogSel p v s = _).trans ((if_neg (by omega)).trans ?_)
    rw [mep_woken]
  · refine (regWrite_writable _ h : execHltTelSnap p v s = _).trans ((if_neg (by omega)).trans ((if_pos hf).trans ?_))
    have htel : telCount (woken s p 3) = telCount s := by
      funext k
      rw [telCount, hlt_woken, telCount]
    rw [htel]
  · subst hw
    exact ⟨(regWrite_writable _ h : execCntClrBpm p s = _), (regWrite_writable _ h : execCntClrMep p s = _), (regWrite_writable _ h : execLogClr p s = _),
      (regWrite_writable _ h : execCntClrThm p s = _), (regWrite_writable _ h : execCntClrCip p s = _), (regWrite_writable _ h : execPlainKekClose p s = _)⟩
  · have hex : exec (.bpmTest p) s = _ := (regWrite_writable _ h : execBpmTest p s = _)
    refine ⟨_, hex, only_bpm _ _, ?_, fun ptr hptr => ?_⟩
    · simp only [bpm_woken]
    · simp only [bpm_woken]
      rw [← hptr, pushCheck]
      refine ⟨fun h2 => if_pos (by omega), fun h2 h4 => ?_, fun h2 h4 ha => ?_, fun h2 h4 ha hw => ?_⟩ <;> rw [if_neg (by omega)]
      · rw [if_pos h4]
      · rw [if_neg (by omega)]
        exact if_pos ha
      · rw [if_neg (by omega)]
        refine (if_neg ha).trans (if_neg ?_)
        rw [List.any_eq_true]
        rintro ⟨e, he, hk⟩
        exact hw e he (by simpa using hk)

end Sys2Proof.Machine
end

section
/-! PROOFS. Register accesses of BAR0 and configuration space (R4, R31, R34, R36, R37). -/

namespace Sys2Proof.Machine

/-! ### A function that an access reaches is reached again -/

theorem reaches_woken {s : State} {p : Port} {fn : Nat} (h : Reaches s p fn) (c : Nat) : Reaches (woken s p c) p fn := by
  obtain ⟨hup, hclk, hd3, hfn, hmse⟩ := h
  have hport : getPort (woken s p c) p = { getPort s p with inL1 := false } := by rw [getPort_woken, if_pos rfl]
  have hckm : (woken s p c).ckm = s.ckm := only_woken s p c .ckm (by cases p <;> simp [portPart])
  refine ⟨by rw [hport]; exact hup, by rw [hckm]; exact hclk, by rw [hport]; exact hd3, ?_, by rw [getFn_woken]; exact hmse⟩
  rw [fnExists, hport]
  exact hfn

/-! ### Plain writes -/

theorem writePlain_pf0 {s : State} {p : Port} {o m : Nat} {v : Word} (h : Writable s p 0) (hr : rsvOf 0 o = some m) (hv : v.toNat &&& m = 0)
    (hc : ctlRow p o v = none) : writePlain p 0 o v s = .next (storePf0 (woken s p 3) p o v.toNat) := by
  rw [writePlain, regWrite_writable _ h]
  simp [hr, hv, hc]

theorem writePlain_vf {s : State} {p : Port} {fn o m : Nat} {v : Word} (h : Writable s p fn) (hfn : fn ≠ 0) (hr : rsvOf fn o = some m)
    (hv : v.toNat &&& m = 0) : writePlain p fn o v s = storeVf (woken s p 3) p fn o v.toNat := by
  rw [writePlain, regWrite_writable _ h]
  simp [hr, hv, hfn]

theorem writeBar_word {s : State} {p : Port} {fn off : Nat} {v : Word64} (h1 : fn = 0 ∧ off < 16777216 ∨ fn ≠ 0 ∧ 1024 ≤ off ∧ off < 65536)
    (h4 : off % 4 = 0) : writeBar p fn off 4 v s = write32 p fn off (v.setWidth 32) s := by
  have hin : ¬ (if fn = 0 then 16777216 else 65536) ≤ off := by split <;> omega
  rw [writeBar, if_neg hin, if_neg (by omega), if_pos ⟨rfl, h4⟩]

theorem inMsix_ring {fn k : Nat} (hfn : fn ≠ 0) (hk : k < 16) : inMsix fn (0x800 + 16 * k) = false := by
  simp only [inMsix, if_neg hfn]
  simp
  omega

/-- The reserved bits of RNG_BASELOn (R61). -/
theorem rsvOf_ringBase {fn k : Nat} (hfn : fn ≠ 0) (hk : k < 16) : rsvOf fn (0x800 + 16 * k) = some 0xFFF := by
  have hall : ∀ k < 16, rsvAt vfRegs (0x800 + 16 * k) = some 0xFFF := by decide
  rw [rsvOf, inMsix_ring hfn hk, if_neg (by decide), if_neg hfn]
  exact hall k hk

theorem vfRow_ringBase (p : Port) (fn : Nat) {k : Nat} (v : Word) (hk : k < 16) : vfRow p fn (0x800 + 16 * k) v = none := by
  rw [vfRow, if_neg (by omega), if_neg (by omega), if_neg (by omega)]

theorem storeVf_ringBase {s : State} {p : Port} {fn k n : Nat} (hfn : fn ≠ 0) (hk : k < 16) (hen : (getRing s p fn k).en = false) :
    storeVf s p fn (0x800 + 16 * k) n = .next (modRing s p fn k fun r => { r with baseLo := n }) := by
  have hidx : (0x800 + 16 * k - 0x800) / 16 = k := by omega
  have hmod : (0x800 + 16 * k) % 16 = 0 := by omega
  rw [storeVf, inMsix_ring hfn hk, if_neg (by decide), if_neg (by omega), if_pos (by omega)]
  simp only [hidx, hen, hmod, if_true]
  rfl

theorem write_ringBase {s : State} {p : Port} {fn k : Nat} {v : Word64} (h : Writable s p fn) (hfn : fn ≠ 0) (hk : k < 16)
    (hen : (getRing s p fn k).en = false) (hv : (v.setWidth 32).toNat &&& 0xFFF = 0) :
    exec (.registerWrite p fn .bar (0x800 + 16 * k) 4 v) s =
      .next (modRing (woken s p 3) p fn k fun r => { r with baseLo := (v.setWidth 32).toNat }) := by
  refine (writeBar_word (.inr ⟨hfn, by omega, by omega⟩) (by omega) : execRegisterWrite p fn .bar (0x800 + 16 * k) 4 v s = _).trans ?_
  rw [write32, if_neg hfn, vfRow_ringBase p fn _ hk]
  dsimp only
  rw [if_neg fun hc => hfn hc.1, writePlain_vf h hfn (rsvOf_ringBase hfn hk) hv]
  exact storeVf_ringBase hfn hk (by rw [getRing_woken]; exact hen)

/-! ### A 64-bit write -/

/-- A word of the buffer pool's test pointer. -/
theorem write32_test {s : State} {p : Port} {o : Nat} {v : Word} (h : Writable s p 0) (ho : o = 0x60500 ∨ o = 0x60504) :
    write32 p 0 o v s = .next (storePf0 (woken s p 3) p o v.toNat) := by
  have hrow : pf0Row p o v = none := by obtain rfl | rfl := ho <;> rfl
  have hctl : ctlRow p o v = none := by obtain rfl | rfl := ho <;> rfl
  have hrsv : rsvOf 0 o = some 0 := by obtain rfl | rfl := ho <;> decide
  rw [write32, if_pos rfl, hrow]
  dsimp only
  rw [if_neg (by omega), writePlain_pf0 h hrsv (Nat.and_zero _) hctl]

theorem storePf0_testLo (s : State) (p : Port) (n : Nat) : storePf0 s p 0x60500 n = { s with bpm := { s.bpm with testLo := n } } := rfl
theorem storePf0_testHi (s : State) (p : Port) (n : Nat) : storePf0 s p 0x60504 n = { s with bpm := { s.bpm with testHi := n } } := rfl

theorem unsupported_reaches {s : State} {p : Port} {off : Nat} (h : Reaches s p 0) (ho : off < 16777216) : unsupported s p 0 off = false := by
  obtain ⟨-, -, hd3, hfn, hmse⟩ := h
  simp [unsupported, hd3, hfn, hmse, ho]

theorem write_testPointer {s : State} {p : Port} {v : Word64} (h : Writable s p 0) :
    ∃ u, exec (.registerWrite p 0 .bar 0x60500 8 v) s = .next u ∧ Only [portPart p, .rst, .bpm] s u ∧
      u.bpm = { s.bpm with testLo := (v.setWidth 32).toNat, testHi := ((v >>> 32).setWidth 32).toNat } := by
  have hbar : exec (.registerWrite p 0 .bar 0x60500 8 v) s = bindRes (write32 p 0 0x60500 (v.setWidth 32) s) fun s =>
      write32 p 0 0x60504 ((v >>> 32).setWidth 32) s := by
    change writeBar p 0 0x60500 8 v s = _
    rw [writeBar, if_neg (by decide), if_neg (by decide), if_neg (by decide),
      if_pos ⟨rfl, by decide, h.1.1, by rw [h.1.2.1]; rfl, by rw [unsupported_reaches h.1 (by decide)]; rfl⟩]
  rw [write32_test h (.inl rfl), storePf0_testLo] at hbar
  generalize hw : ({ woken s p 3 with bpm := { (woken s p 3).bpm with testLo := (v.setWidth 32).toNat } } : State) = w at hbar
  have honly : Only [portPart p, .rst, .bpm] s w := by
    rw [← hw]
    exact ((only_woken s p 3).mono (by simp)).trans ((only_bpm _ _).mono (by simp))
  have hbpm : w.bpm = { s.bpm with testLo := (v.setWidth 32).toNat } := by rw [← hw, ← bpm_woken s p 3]
  have hwrite : Writable w p 0 := by
    have hr := reaches_woken h.1 3
    have hf : flushing (woken s p 3) = false := by rw [woken_flushing]; exact h.2
    subst hw
    generalize woken s p 3 = x at hr hf
    exact ⟨by cases p <;> exact hr, hf⟩
  refine ⟨_, hbar.trans (write32_test hwrite (.inr rfl)), ?_, ?_⟩
  · rw [storePf0_testHi]
    exact honly.trans (((only_woken w p 3).mono (by simp)).trans ((only_bpm _ _).mono (by simp)))
  · rw [storePf0_testHi]
    simp only [bpm_woken, hbpm]

/-! ### Accesses of another size or alignment -/

theorem write_discarded {s : State} {p : Port} {fn off size : Nat} {v : Word64} (h : Reaches s p fn)
    (ho : fn = 0 ∧ off < 16777216 ∨ 1024 ≤ off ∧ off < 65536) (h4 : size = 4 → off % 4 ≠ 0) (h8 : size = 8 → off % 8 ≠ 0) :
    exec (.registerWrite p fn .bar off size v) s = .next (woken s p 3) := by
  change writeBar p fn off size v s = _
  have hin : ¬ (if fn = 0 then 16777216 else 65536) ≤ off := by split <;> omega
  rw [writeBar, if_neg hin, if_neg (by omega), if_neg fun hc => h4 hc.1 hc.2, if_neg fun hc => h8 hc.1 hc.2.1, hostAccess_reaches _ _ h]

theorem write_unmapped {s : State} {p : Port} {fn off : Nat} {v : Word64} (h : Writable s p fn) (hfn : fn ≠ 0) (h1 : 1024 ≤ off) (h2 : off < 65536)
    (h4 : off % 4 = 0) (hrow : vfRow p fn off (v.setWidth 32) = none) (hr : rsvOf fn off = none) :
    exec (.registerWrite p fn .bar off 4 v) s = .fault (.unmappedWrite p fn off) := by
  refine (writeBar_word (.inr ⟨hfn, h1, h2⟩) h4 : execRegisterWrite p fn .bar off 4 v s = _).trans ?_
  rw [write32, if_neg hfn, hrow]
  dsimp only
  rw [if_neg fun hc => hfn hc.1, writePlain, regWrite_writable _ h, hr]

theorem read_discarded {s : State} {p : Port} {fn off size : Nat} (h : Reaches s p fn) (ho : fn = 0 ∧ off < 16777216 ∨ fn ≠ 0 ∧ off < 65536)
    (h4 : size = 4 → off % 4 ≠ 0) (h8 : size = 8 → off % 8 ≠ 0) :
    exec (.rcRegisterRead p fn ⟨.bar, off, size⟩) s = .next (emit (woken s p 3) (.value p 0)) := by
  change readBar p fn off size s = _
  have hin : ¬ (if fn = 0 then 16777216 else 65536) ≤ off := by split <;> omega
  rw [readBar, if_neg hin, if_neg fun hc => h4 hc.1 hc.2, if_neg fun hc => h8 hc.1 hc.2.1, hostAccess_reaches _ _ h]

/-! ### Registers cleared by read -/

/-- The registers that a read clears (R34). -/
theorem isRc_cases {fn o : Nat} (h : isRc fn o = true) : fn ≠ 0 ∧ o = 0x1058 ∨
    fn = 0 ∧ ((o = 0x60 ∨ o = 0x64 ∨ o = 0x4001C ∨ o = 0x40020 ∨ o = 0x40024 ∨ o = 0x8003C) ∨ ∃ n, n < 8 ∧ o = 0x30000 + 256 * n + 0x58) := by
  unfold isRc at h
  split at h
  · next hfn => exact .inl ⟨hfn, of_decide_eq_true h⟩
  · next hfn =>
    refine .inr ⟨Decidable.not_not.mp hfn, ?_⟩
    simp only [Bool.or_eq_true, Bool.and_eq_true, decide_eq_true_eq, List.contains_iff_mem, List.mem_cons, List.not_mem_nil, or_false] at h
    obtain h | h := h
    · exact .inl h
    · exact .inr ⟨(o - 0x30000) / 256, by omega, by omega⟩

/-- MBX_STATn as a mailbox holds it. -/
def boxCounts (m : Mbx) : Nat := mk [(16, 16, m.notices), (0, 16, m.drops)]

theorem regVal_boxCounts (s : State) (p : Port) {n : Nat} (hn : n < 8) : regVal s p 0 (0x30000 + 256 * n + 0x58) = boxCounts (getMbx s (.pf0 n)) := by
  obtain rfl | rfl | rfl | rfl | rfl | rfl | rfl | rfl : n = 0 ∨ n = 1 ∨ n = 2 ∨ n = 3 ∨ n = 4 ∨ n = 5 ∨ n = 6 ∨ n = 7 := by omega
  all_goals rfl

theorem boxCounts_cleared (m : Mbx) : boxCounts { m with notices := 0, drops := 0 } = 0 := by simp [boxCounts, mk]

theorem tieLosses_cleared : mk [(16, 16, 0), (0, 16, 0)] = 0 := by simp [mk]

theorem regVal_vfCounts (s : State) (p : Port) {fn : Nat} (hfn : fn ≠ 0) : regVal s p fn 0x1058 = boxCounts (getMbx s (.vf p fn)) := if_neg hfn

theorem clearRc_box (s : State) (p : Port) {n : Nat} (hn : n < 8) :
    clearRc s p 0 (0x30000 + 256 * n + 0x58) = modMbx s (.pf0 n) fun m => { m with notices := 0, drops := 0 } := by
  obtain rfl | rfl | rfl | rfl | rfl | rfl | rfl | rfl : n = 0 ∨ n = 1 ∨ n = 2 ∨ n = 3 ∨ n = 4 ∨ n = 5 ∨ n = 6 ∨ n = 7 := by omega
  all_goals rfl

theorem clearRc_vf (s : State) (p : Port) {fn : Nat} (hfn : fn ≠ 0) :
    clearRc s p fn 0x1058 = modMbx s (.vf p fn) fun m => { m with notices := 0, drops := 0 } := (if_pos hfn).trans rfl

theorem regVal_rc_of {s u : State} {p : Port} {fn o : Nat} (h : isRc fn o = true) (ha : u.pa.dropped = s.pa.dropped) (hb : u.pb.dropped = s.pb.dropped)
    (he : u.evr = s.evr) (had : u.adm = s.adm) (hm : u.mbxs = s.mbxs) : regVal u p fn o = regVal s p fn o := by
  obtain ⟨hfn, rfl⟩ | ⟨rfl, ho | ⟨n, hn, rfl⟩⟩ := isRc_cases h
  · rw [regVal_vfCounts _ _ hfn, regVal_vfCounts _ _ hfn, getMbx_of_mbxs hm]
  · obtain rfl | rfl | rfl | rfl | rfl | rfl := ho
    · exact ha
    · exact hb
    · exact congrArg Evr.holdLost he
    · exact congrArg Evr.unpersLost he
    · exact congrArg Evr.repeatCnt he
    · exact congrArg (fun a : Adm => mk [(16, 16, a.tieLossB), (0, 16, a.tieLossA)]) had
  · rw [regVal_boxCounts _ _ hn, regVal_boxCounts _ _ hn, getMbx_of_mbxs hm]

theorem regVal_clearRc {s : State} {p : Port} {fn o : Nat} (h : isRc fn o = true) : regVal (clearRc s p fn o) p fn o = 0 := by
  obtain ⟨hfn, rfl⟩ | ⟨rfl, ho | ⟨n, hn, rfl⟩⟩ := isRc_cases h
  · rw [regVal_vfCounts _ _ hfn, clearRc_vf _ _ hfn, getMbx_modMbx_self, boxCounts_cleared]
  · obtain rfl | rfl | rfl | rfl | rfl | rfl := ho
    · rfl
    · rfl
    · rfl
    · rfl
    · rfl
    · exact tieLosses_cleared
  · rw [regVal_boxCounts _ _ hn, clearRc_box _ _ hn, getMbx_modMbx_self, boxCounts_cleared]

theorem only_clearRc (s : State) (p : Port) (fn o : Nat) : Only [.pa, .pb, .evr, .adm, .mbxs] s (clearRc s p fn o) := by
  unfold clearRc
  split
  · exact Only.ite ((only_modMbx _ _ _).mono (by simp)) (Only.refl _ _)
  · split
    case h_7 => exact Only.ite ((only_modMbx _ _ _).mono (by simp)) (Only.refl _ _)
    all_goals exact fun q hq => by cases q <;> simp at hq <;> rfl

theorem clearRc_other {s : State} {p : Port} {fn o : Nat} (h : isRc fn o = false) : clearRc s p fn o = s := by
  unfold clearRc
  split
  · next hfn =>
    rw [isRc, if_pos hfn] at h
    exact if_neg (of_decide_eq_false h)
  · next hfn =>
    rw [isRc, if_neg hfn, Bool.or_eq_false_iff] at h
    obtain ⟨hlist, hbox⟩ := h
    split
    case h_7 => exact if_neg fun hc => by simp [hc] at hbox
    all_goals exact absurd hlist (by decide)

theorem isRc_plain {fn o : Nat} (h : isRc fn o = true) : (fn = 0 ∧ o < 16777216 ∨ fn ≠ 0 ∧ o < 65536) ∧ o % 4 = 0 ∧ isLock fn o = false ∧ o ≠ 0x4007C := by
  obtain ⟨hfn, rfl⟩ | ⟨rfl, ho | ⟨n, hn, rfl⟩⟩ := isRc_cases h
  · exact ⟨.inr ⟨hfn, by decide⟩, rfl, by simp [isLock], by decide⟩
  · obtain rfl | rfl | rfl | rfl | rfl | rfl := ho <;> exact ⟨.inl ⟨rfl, by decide⟩, rfl, by decide, by decide⟩
  · refine ⟨.inl ⟨rfl, by omega⟩, by omega, ?_, by omega⟩
    have hmod : (0x30000 + 256 * n + 0x58) % 256 = 0x58 := by omega
    simp [isLock, hmod]

theorem read_word {s : State} {p : Port} {fn off : Nat} (h : Reaches s p fn) (ho : fn = 0 ∧ off < 16777216 ∨ fn ≠ 0 ∧ off < 65536)
    (hl : isLock fn off = false) (he : fn = 0 → off ≠ 0x4007C) (h4 : off % 4 = 0) : exec (.rcRegisterRead p fn ⟨.bar, off, 4⟩) s =
      .next (clearRc (emit (woken s p 3) (.value p (BitVec.ofNat 32 (regVal (woken s p 3) p fn off)))) p fn off) := by
  change readBar p fn off 4 s = _
  have hin : ¬ (if fn = 0 then 16777216 else 65536) ≤ off := by split <;> omega
  rw [readBar, if_neg hin, if_pos ⟨rfl, h4⟩, read32, hl, if_neg (by decide), if_neg fun hc => he hc.1 hc.2, hostAccess_reaches _ _ h]

theorem read_rc {s : State} {p : Port} {fn off : Nat} (h : Reaches s p fn) (hrc : isRc fn off = true) :
    ∃ u, exec (.rcRegisterRead p fn ⟨.bar, off, 4⟩) s = .next u ∧ u.out = s.out ++ [.value p (BitVec.ofNat 32 (regVal s p fn off))] ∧
      regVal u p fn off = 0 ∧ u.cmds = s.cmds ∧ u.tenants = s.tenants := by
  obtain ⟨ho, h4, hl, he⟩ := isRc_plain hrc
  have honly := only_woken s p 3
  have hdrop : ∀ q, (getPort (woken s p 3) q).dropped = (getPort s q).dropped := fun q => by
    rw [getPort_woken]
    split <;> rfl
  have hval : regVal (woken s p 3) p fn off = regVal s p fn off :=
    regVal_rc_of hrc (hdrop .a) (hdrop .b) (honly .evr (by cases p <;> simp [portPart])) (honly .adm (by cases p <;> simp [portPart]))
      (honly .mbxs (by cases p <;> simp [portPart]))
  refine ⟨_, read_word h ho hl (fun _ => he) h4, ?_, regVal_clearRc hrc, ?_, ?_⟩
  · rw [hval]
    exact (only_clearRc _ p fn off .out (by simp)).trans (congrArg (· ++ _) (out_woken s p 3))
  · exact (only_clearRc _ p fn off .cmds (by simp)).trans (cmds_woken s p 3)
  · exact (only_clearRc _ p fn off .tenants (by simp)).trans (tenants_woken s p 3)

/-- Settles O32: each clause is the lemma of its access above; a memory address is looked up first. -/
theorem registersAreAccessed : Obligations.RegistersAreAccessed := by
  unfold Obligations.RegistersAreAccessed
  intro s p fn k off size v
  refine ⟨fun h hfn hk hen hv => write_ringBase h hfn hk hen hv, fun h => write_testPointer h, fun h ho h4 h8 => write_discarded h ho h4 h8,
    fun h hfn h1 h2 h4 hrow hr => write_unmapped h hfn h1 h2 h4 hrow hr, fun h hrc => read_rc h hrc,
    fun h ho hrc hl he h4 => (read_word h ho hl he h4).trans (by rw [clearRc_other hrc]), fun h ho h4 h8 => read_discarded h ho h4 h8,
    fun f o hm => ⟨?_, ?_⟩, fun h =>
    ⟨cfgAccess_reaches (fun u => .next (emit u (.value p (BitVec.ofNat 32 (cfgVal u p fn off))))) h, rfl, rfl⟩⟩
  · change execRegisterWrite p fn .mem k size v s = _
    rw [execRegisterWrite, hm]
    rfl
  · change execRcRegisterRead p fn ⟨.mem, k, size⟩ s = _
    rw [execRcRegisterRead]
    dsimp only
    rw [hm]
    rfl

end Sys2Proof.Machine
end

section
/-! PROOFS. The memories over time, and test accesses (R237, R239, R240, R246, R247). -/

namespace Sys2Proof.Machine

/-! ### Refresh, laps and rates -/

theorem hbmRefresh_spec {s : State} {k : Nat} (hclk : s.ckm.stopped = false) (hk : k < 2) (hr : s.bpm.ready = true) (hp : s.rst.pwr < 2) :
    ∃ u, exec (.hbmRefresh k) s = .next u ∧ Only [.mep] s u ∧ Tab.get 0 u.mep.refreshNs k = s.nowNs ∧
      Tab.get 0 u.mep.temps k = dieTemp s (5 + k) / 4 ∧
      (Tab.get 0 s.mep.bands k < refiBand (dieTemp s (5 + k) / 4) → Tab.get 0 u.mep.bands k = refiBand (dieTemp s (5 + k) / 4)) ∧
      (∀ j, j ≠ k → Tab.get 0 u.mep.bands j = Tab.get 0 s.mep.bands j ∧ Tab.get 0 u.mep.temps j = Tab.get 0 s.mep.temps j) := by
  have hex : exec (.hbmRefresh k) s = _ := (if_neg (by rw [hr, hclk]; simp; omega) : execHbmRefresh k s = _)
  refine ⟨_, hex, only_mep s _, Tab.get_set_self 0 s.mep.refreshNs k s.nowNs, Tab.get_set_self 0 s.mep.temps k _, fun hb => ?_, fun j hj => ⟨?_, ?_⟩⟩
  · refine (Tab.get_set_self 0 s.mep.bands k _).trans ?_
    exact if_pos hb
  · exact Tab.get_set_ne 0 s.mep.bands k j _ hj
  · exact Tab.get_set_ne 0 s.mep.temps k j _ hj

/-- An engine whose lap has passed its limit (R239). -/
def lapPassed (s : State) (e : Nat) : State := setMepBit (modSkim s e fun x => { x with slow := true }) 4

theorem only_lapPassed (s : State) (e : Nat) : Only [.mep] s (lapPassed s e) := only_mep s _

theorem getSkim_lapPassed (s : State) (e : Nat) : getSkim (lapPassed s e) e = { getSkim s e with slow := true } :=
  Tab.get_upd_self ({} : Skim) s.mep.skims e fun x => { x with slow := true }

theorem getSkim_of_mep {s u : State} (h : u.mep = s.mep) (e : Nat) : getSkim u e = getSkim s e := by rw [getSkim, h, getSkim]

theorem evt_setMepBit (s : State) (b : Nat) : bit (setMepBit s b).mep.evt b = true := bit_setBit_self s.mep.evt b

theorem skimSlow_spec {s : State} {k : Nat} (hk : k < 7) (ha : (getSkim s k).active = true) (hs : (getSkim s k).slow = false)
    (hl : lapLimit s k < lapNs s (getSkim s k)) : ∃ u, exec (.skimSlow k) s = .next u ∧ Only [.mep, .evr, .pa, .pb, .out] s u ∧
      getSkim u k = { getSkim s k with slow := true } ∧ bit u.mep.evt 4 = true := by
  have hex : exec (.skimSlow k) s = .next (genericEv (lapPassed s k) 1 5 (skimInst k) 4 0x50008 (lapPassed s k).mep.evt) :=
    (if_pos ⟨hk, ha, by rw [hs]; rfl, hl⟩ : execSkimSlow k s = _)
  have hev := only_genericEv (lapPassed s k) 1 5 (skimInst k) 4 0x50008 (lapPassed s k).mep.evt
  have hmep := hev .mep (by simp)
  refine ⟨_, hex, ((only_lapPassed s k).mono (by simp)).trans (hev.mono (by simp)), (getSkim_of_mep hmep k).trans (getSkim_lapPassed s k), ?_⟩
  rw [show Mep.evt _ = _ from congrArg Mep.evt hmep]
  exact evt_setMepBit _ 4

/-- The corrections of the hour that has ended are taken down (R240). -/
def hourEnded (s : State) (m : Nat) : State :=
  { s with mep := { s.mep with
      lastHour := Tab.set 0 s.mep.lastHour m (min 0xFFFF (Tab.get 0 s.mep.hourCe m)), hourCe := Tab.set 0 s.mep.hourCe m 0
      hourNo := Tab.set 0 s.mep.hourNo m ((s.nowNs - s.boot.startNs) / 3600000000000) } }

theorem hourEnded_spec (s : State) (m : Nat) : Only [.mep] s (hourEnded s m) ∧
    Tab.get 0 (hourEnded s m).mep.lastHour m = min 0xFFFF (Tab.get 0 s.mep.hourCe m) ∧ Tab.get 0 (hourEnded s m).mep.hourCe m = 0 ∧
    (hourEnded s m).mep.evt = s.mep.evt :=
  ⟨only_mep s _, Tab.get_set_self 0 s.mep.lastHour m _, Tab.get_set_self 0 s.mep.hourCe m 0, rfl⟩

theorem exec_ceRate {s : State} {m : Nat} (hclk : s.ckm.stopped = false) (hm : m < 16)
    (hh : Tab.get 0 s.mep.hourNo m < (s.nowNs - s.boot.startNs) / 3600000000000) : exec (.ceRate m) s =
      if Tab.get 4096 s.mep.thresh m ≠ 0 ∧ Tab.get 4096 s.mep.thresh m ≤ Tab.get 0 s.mep.hourCe m then
        .next (genericEv (setMepBit (hourEnded s m) 0) 1 5 m 0 0x50008 (setMepBit (hourEnded s m) 0).mep.evt)
      else .next (hourEnded s m) :=
  (if_neg (by rw [hclk]; simp only [not_or, Bool.false_eq_true, not_false_eq_true, and_true]; omega) : execCeRate m s = _)

theorem ceRate_spec {s : State} {m : Nat} (hclk : s.ckm.stopped = false) (hm : m < 16)
    (hh : Tab.get 0 s.mep.hourNo m < (s.nowNs - s.boot.startNs) / 3600000000000) :
    ∃ u, exec (.ceRate m) s = .next u ∧ Only [.mep, .evr, .pa, .pb, .out] s u ∧
      Tab.get 0 u.mep.lastHour m = min 0xFFFF (Tab.get 0 s.mep.hourCe m) ∧ Tab.get 0 u.mep.hourCe m = 0 ∧
      (0 < Tab.get 4096 s.mep.thresh m → Tab.get 4096 s.mep.thresh m ≤ Tab.get 0 s.mep.hourCe m → bit u.mep.evt 0 = true) ∧
      (Tab.get 0 s.mep.hourCe m < Tab.get 4096 s.mep.thresh m → u.mep.evt = s.mep.evt) := by
  have hex := exec_ceRate hclk hm hh
  obtain ⟨honly, hlast, hce, hevt⟩ := hourEnded_spec s m
  by_cases hthr : Tab.get 4096 s.mep.thresh m ≠ 0 ∧ Tab.get 4096 s.mep.thresh m ≤ Tab.get 0 s.mep.hourCe m
  · rw [if_pos hthr] at hex
    refine ⟨_, hex, ?_⟩
    have hev := only_genericEv (setMepBit (hourEnded s m) 0) 1 5 m 0 0x50008 (setMepBit (hourEnded s m) 0).mep.evt
    have hmep := hev .mep (by simp)
    have hset : Only [.mep] (hourEnded s m) (setMepBit (hourEnded s m) 0) := only_mep _ _
    refine ⟨((honly.trans hset).mono (by simp)).trans (hev.mono (by simp)), (congrArg (fun x : Mep => Tab.get 0 x.lastHour m) hmep).trans hlast,
      (congrArg (fun x : Mep => Tab.get 0 x.hourCe m) hmep).trans hce, fun _ _ => ?_, fun hlt => absurd hthr.2 (by omega)⟩
    rw [show Mep.evt _ = _ from congrArg Mep.evt hmep]
    exact evt_setMepBit _ 0
  · rw [if_neg hthr] at hex
    exact ⟨_, hex, honly.mono (by simp), hlast, hce, fun h0 h1 => absurd ⟨by omega, h1⟩ hthr, fun _ => hevt⟩

/-- Settles O35: each clause is the lemma of its event above. -/
theorem memoriesAreWatched : Obligations.MemoriesAreWatched := by
  unfold Obligations.MemoriesAreWatched
  exact fun s k hclk => ⟨fun hk hr hp => hbmRefresh_spec hclk hk hr hp, fun hk ha hs hl => skimSlow_spec hk ha hs hl, fun hk hh => ceRate_spec hclk hk hh⟩

/-! ### Injection and test accesses -/

theorem exec_mepFlipArm {s : State} {p : Port} {v : Word} (h : Writable s p 0) (hv : v.toNat &&& 0x1FE0FFF0 = 0) (ha : flag v 29 = true) :
    ∃ u, exec (.mepFlipArm p v) s = .next u ∧ Only [.mep] (woken s p 3) u ∧ u.mep = { s.mep with
      flipMem := fld v 16 4, flipGroup := fld v 0 4, flipAddrMatch := flag v 20, flipFired := false,
      flipArmed := some { mem := fld v 16 4, grp := fld v 0 4, amatch := flag v 20, addr := s.mep.flipAddr, dlo := s.mep.flipDlo, dhi := s.mep.flipDhi, chk := s.mep.flipChk, amask := s.mep.flipAmask } } := by
  change ∃ u, writeFlipCtl p v s = .next u ∧ _
  rw [writeFlipCtl, regWrite_writable _ h]
  dsimp only
  rw [if_neg (not_not_intro hv), if_pos ha]
  refine ⟨_, rfl, only_mep _ _, ?_⟩
  simp only [mep_woken, ha, Bool.not_true, Bool.and_false]

/-- MEP_TEST_CTL with an operation, its reserved bits 0 (R247). -/
def testSelected (s : State) (p : Port) (mem : Nat) : State := { woken s p 3 with mep := { (woken s p 3).mep with testMem := mem } }

theorem only_testSelected (s : State) (p : Port) (mem : Nat) : Only [.mep] (woken s p 3) (testSelected s p mem) := only_mep _ _

theorem mep_testSelected (s : State) (p : Port) (mem : Nat) : (testSelected s p mem).mep = { s.mep with testMem := mem } := by
  unfold testSelected
  simp only [mep_woken]

theorem getLine_testSelected (s : State) (p : Port) (mem m k : Nat) : getLine (testSelected s p mem) m k = getLine s m k := by
  rw [getLine, mep_testSelected, getLine]

theorem exec_mepTestWrite {s : State} {p : Port} {v : Word} (h : Writable s p 0) (hv : v.toNat &&& 0x7FF0FFFC = 0) (ho : fld v 0 2 = 1)
    (hm : fld v 16 4 < 2) : exec (.mepTestWrite p v) s = .next (
      let u := putLine (testSelected s p (fld v 16 4)) (fld v 16 4) s.mep.testLine { data := s.mep.testData, comp := s.mep.testComp }
      { u with mep := { u.mep with testDone := true } }) := by
  change writeTestCtl p v s = _
  rw [writeTestCtl, regWrite_writable _ h]
  dsimp only
  rw [if_neg (not_not_intro hv), if_pos ho, if_pos hm, if_pos hm]
  simp only [mep_woken, testSelected]

/-- A test line about to be written: its unit is primed, and a correction that waits for it is dropped (R238). -/
def lineFreed (s : State) (mem k : Nat) : State :=
  { s with mep := dropFix (if mem < 2 then prime s.mep (testAddr mem k / 64) else s.mep) mem (testAddr mem k) }

theorem only_lineFreed (s : State) (mem k : Nat) : Only [.mep] s (lineFreed s mem k) := only_mep s _

theorem flipHits_lineFreed {s : State} (mem k a : Nat) (h : s.mep.flipArmed = none) : flipHits (lineFreed s mem k) mem a = none := by
  have harm : (lineFreed s mem k).mep.flipArmed = none := by
    change (if mem < 2 then prime s.mep (testAddr mem k / 64) else s.mep).flipArmed = none
    split <;> exact h
  rw [flipHits, harm]

/-- With no injection armed, a test line is written as it is (R247). -/
theorem putLine_clean {s : State} (mem k : Nat) (data : Tab Nat) (comp : Nat) (h : s.mep.flipArmed = none) :
    Only [.mep] s (putLine s mem k { data := data, comp := comp }) ∧
      getLine (putLine s mem k { data := data, comp := comp }) mem k = { data := data, comp := comp } := by
  have hhit := flipHits_lineFreed mem k (testAddr mem k) h
  have honly := only_lineFreed s mem k
  have hput : putLine s mem k { data := data, comp := comp } = { lineFreed s mem k with
      mep := { (lineFreed s mem k).mep with lines := Tab.set {} (lineFreed s mem k).mep.lines (testKey mem k) { data := data, comp := comp } } } := by
    unfold lineFreed at hhit ⊢
    unfold putLine
    dsimp only
    rw [hhit]
    exact if_neg (by decide)
  rw [hput]
  generalize lineFreed s mem k = w at honly
  exact ⟨honly.trans (only_mep w _), Tab.get_set_self ({} : TestLine) w.mep.lines (testKey mem k) _⟩

theorem mepTestWrite_spec {s : State} {p : Port} {v : Word} (h : Writable s p 0) (hv : v.toNat &&& 0x7FF0FFFC = 0) (ho : fld v 0 2 = 1)
    (hm : fld v 16 4 < 2) (ha : s.mep.flipArmed = none) :
    ∃ u, exec (.mepTestWrite p v) s = .next u ∧ Only [.mep] (woken s p 3) u ∧ u.mep.testDone = true ∧
      getLine u (fld v 16 4) s.mep.testLine = { data := s.mep.testData, comp := s.mep.testComp } := by
  obtain ⟨honly, hline⟩ := putLine_clean (s := testSelected s p (fld v 16 4)) (fld v 16 4) s.mep.testLine s.mep.testData s.mep.testComp
    (by rw [mep_testSelected]; exact ha)
  refine ⟨_, exec_mepTestWrite h hv ho hm, ((only_testSelected s p _).trans honly).trans (only_mep _ _), rfl, hline⟩

theorem exec_mepTestRead {s : State} {p : Port} {v : Word} (h : Writable s p 0) (hv : v.toNat &&& 0x7FF0FFFC = 0) (ho : fld v 0 2 = 2) :
    exec (.mepTestRead p v) s = .next (readLine (testSelected s p (fld v 16 4)) (fld v 16 4) s.mep.testLine) := by
  change writeTestCtl p v s = _
  rw [writeTestCtl, regWrite_writable _ h]
  dsimp only
  rw [if_neg (not_not_intro hv), if_neg (by omega), if_pos ho]
  simp only [mep_woken, testSelected]

/-- What a read of a scratch line shows in the test registers (R247). -/
def lineShown (s : State) (kind pos : Nat) (data : Tab Nat) (comp : Nat) : State :=
  { s with
    freeCtr := s.freeCtr + 1
    mep := { s.mep with testKind := kind, testPos := pos, testDone := true, testData := data, testComp := comp } }

theorem only_lineShown (s : State) (kind pos : Nat) (data : Tab Nat) (comp : Nat) : Only [.mep, .freeCtr] s (lineShown s kind pos data comp) :=
  fun q hq => by cases q <;> simp at hq <;> rfl

/-- A scratch line with at most one symbol in error shows what was written (R228, R247). -/
theorem readLine_few {s : State} {mem k kind pos : Nat} (hm : mem < 2) (hkind : readKind s mem k = (kind, pos)) (hk : kind ≤ 1)
    (hfew : (badSymbols (getLine s mem k)).length ≤ 1) : readLine s mem k =
      let u := lineShown s kind pos (getLine s mem k).data (getLine s mem k).comp
      if kind = 0 then u else corrected u mem (testAddr mem k) 3 pos 0 := by
  have hdata : readData s mem k kind = ((getLine s mem k).data, (getLine s mem k).comp) := by
    rw [readData, if_pos]
    simp [hm, hfew, hk]
  unfold readLine
  dsimp only
  rw [hkind]
  dsimp only
  rw [hdata, if_pos hm, if_pos hm]
  obtain rfl | rfl : kind = 0 ∨ kind = 1 := by omega
  · rfl
  · rw [if_neg (by decide), if_pos rfl, if_neg (by decide)]
    rfl

theorem readKind_clean {s : State} {mem k : Nat} (hm : mem < 2) (hb : badSymbols (getLine s mem k) = []) : readKind s mem k = (0, 0xFF) := by
  rw [readKind, if_pos hm, hb]

theorem readKind_single {s : State} {mem k b : Nat} (hm : mem < 2) (hb : badSymbols (getLine s mem k) = [b]) (h72 : b < 72) :
    readKind s mem k = (1, b) := by
  rw [readKind, if_pos hm, hb]
  exact if_pos h72

theorem get_bump32 (t : Tab Nat) (k : Nat) : Tab.get 0 (bump32 t k) k = satAdd 0xFFFFFFFF (Tab.get 0 t k) 1 := Tab.get_upd_self 0 t k _

/-- A correction that the log takes (R240, R245). -/
theorem corrected_logged {s : State} (mem addr source pos by' : Nat) (h : s.mep.logHold = false) : ∃ e y,
    corrected s mem addr source pos by' = { s with
      freeCtr := s.freeCtr + 1
      mep := { s.mep with
        log := Tab.set none s.mep.log s.mep.logNext (some e), logNext := (s.mep.logNext + 1) % 64, ce := bump32 s.mep.ce mem
        hourCe := bump s.mep.hourCe mem 1
        pendFix := s.mep.pendFix.filter (fun e => !(e.1 == mem && e.2.1 == addr)) ++ [(mem, addr, by')] } } ∧
    e = { mem := mem, kind := 1, source := source, addr := addr, pos := pos, syndrome := y, timeMs := opMs s } := by
  refine ⟨_, (Config.syndrome s.freeCtr).toNat % (if mem < 2 then p32 else 256), ?_, rfl⟩
  have hhold : (s.mep.logHold && decide (64 ≤ s.mep.log.length)) = false := by rw [h, Bool.false_and]
  unfold corrected freeSynd logMem
  dsimp only
  rw [hhold, if_neg (by decide)]
  rfl

theorem mepTestRead_clean {s : State} {p : Port} {v : Word} (h : Writable s p 0) (hv : v.toNat &&& 0x7FF0FFFC = 0) (ho : fld v 0 2 = 2)
    (hm : fld v 16 4 < 2) (hb : badSymbols (getLine s (fld v 16 4) s.mep.testLine) = []) :
    ∃ u, exec (.mepTestRead p v) s = .next u ∧ Only [.mep, .freeCtr] (woken s p 3) u ∧ u.mep.testKind = 0 ∧
      u.mep.testData = (getLine s (fld v 16 4) s.mep.testLine).data ∧ u.mep.testComp = (getLine s (fld v 16 4) s.mep.testLine).comp ∧
      u.mep.ce = s.mep.ce ∧ u.mep.lines = s.mep.lines := by
  have hline := getLine_testSelected s p (fld v 16 4) (fld v 16 4) s.mep.testLine
  have hmep := mep_testSelected s p (fld v 16 4)
  have honly := only_testSelected s p (fld v 16 4)
  refine ⟨_, exec_mepTestRead h hv ho, ?_⟩
  generalize testSelected s p (fld v 16 4) = w at hline hmep honly
  rw [← hline] at hb
  rw [readLine_few hm (readKind_clean hm hb) (by omega) (by rw [hb]; exact Nat.zero_le 1), hline]
  dsimp only
  rw [if_pos rfl]
  have hce : w.mep.ce = s.mep.ce := by rw [hmep]
  have hlines : w.mep.lines = s.mep.lines := by rw [hmep]
  exact ⟨(honly.mono (by simp)).trans (only_lineShown w _ _ _ _), rfl, rfl, rfl, hce, hlines⟩

theorem mepTestRead_single {s : State} {p : Port} {v : Word} {b : Nat} (h : Writable s p 0) (hv : v.toNat &&& 0x7FF0FFFC = 0) (ho : fld v 0 2 = 2)
    (hm : fld v 16 4 < 2) (hb : badSymbols (getLine s (fld v 16 4) s.mep.testLine) = [b]) (h72 : b < 72) (hh : s.mep.logHold = false) :
    ∃ u, exec (.mepTestRead p v) s = .next u ∧ Only [.mep, .freeCtr] (woken s p 3) u ∧ u.mep.testKind = 1 ∧ u.mep.testPos = b ∧
      u.mep.testData = (getLine s (fld v 16 4) s.mep.testLine).data ∧
      Tab.get 0 u.mep.ce (fld v 16 4) = satAdd 0xFFFFFFFF (Tab.get 0 s.mep.ce (fld v 16 4)) 1 := by
  have hline := getLine_testSelected s p (fld v 16 4) (fld v 16 4) s.mep.testLine
  have hmep := mep_testSelected s p (fld v 16 4)
  have honly := only_testSelected s p (fld v 16 4)
  refine ⟨_, exec_mepTestRead h hv ho, ?_⟩
  generalize testSelected s p (fld v 16 4) = w at hline hmep honly
  rw [← hline] at hb
  rw [readLine_few hm (readKind_single hm hb h72) (by omega) (by rw [hb]; exact Nat.le_refl 1), hline]
  dsimp only
  rw [if_neg (by decide)]
  have hshown := only_lineShown w 1 b (getLine s (fld v 16 4) s.mep.testLine).data (getLine s (fld v 16 4) s.mep.testLine).comp
  have hwhold : w.mep.logHold = s.mep.logHold := by rw [hmep]
  have hwce : w.mep.ce = s.mep.ce := by rw [hmep]
  have hhold : (lineShown w 1 b (getLine s (fld v 16 4) s.mep.testLine).data (getLine s (fld v 16 4) s.mep.testLine).comp).mep.logHold = false :=
    hwhold.trans hh
  have hce : (lineShown w 1 b (getLine s (fld v 16 4) s.mep.testLine).data (getLine s (fld v 16 4) s.mep.testLine).comp).mep.ce = s.mep.ce :=
    hwce
  have hkind : (lineShown w 1 b (getLine s (fld v 16 4) s.mep.testLine).data (getLine s (fld v 16 4) s.mep.testLine).comp).mep.testKind = 1 := rfl
  have hpos : (lineShown w 1 b (getLine s (fld v 16 4) s.mep.testLine).data (getLine s (fld v 16 4) s.mep.testLine).comp).mep.testPos = b := rfl
  have hdata : (lineShown w 1 b (getLine s (fld v 16 4) s.mep.testLine).data (getLine s (fld v 16 4) s.mep.testLine).comp).mep.testData =
    (getLine s (fld v 16 4) s.mep.testLine).data := rfl
  generalize lineShown w 1 b (getLine s (fld v 16 4) s.mep.testLine).data (getLine s (fld v 16 4) s.mep.testLine).comp = x at hshown hhold hce hkind hpos hdata
  obtain ⟨e, y, hcor, -⟩ := corrected_logged (s := x) (fld v 16 4) (testAddr (fld v 16 4) s.mep.testLine) 3 b 0 hhold
  rw [hcor]
  refine ⟨((honly.mono (by simp)).trans hshown).trans fun q hq => by cases q <;> simp at hq <;> rfl, hkind, hpos, hdata, ?_⟩
  rw [← hce]
  exact get_bump32 x.mep.ce (fld v 16 4)

/-- Settles O36: each clause is the lemma of its access above. -/
theorem testAccessesReadBack : Obligations.TestAccessesReadBack := by
  unfold Obligations.TestAccessesReadBack
  exact fun s p v h => ⟨fun hv ha => exec_mepFlipArm h hv ha, fun hv ho hm ha => mepTestWrite_spec h hv ho hm ha, fun hv ho hm =>
    ⟨fun hb => mepTestRead_clean h hv ho hm hb, fun b hb h72 hh => mepTestRead_single h hv ho hm hb h72 hh⟩⟩

end Sys2Proof.Machine
end

section
/-! PROOFS. Array operations start, and suspensions serve reads (R167, R170, R172, R176). -/

namespace Sys2Proof.Machine

/-! ### What leaves a LUN as it is -/

section
variable (s : State) (l : Nat)

@[simp] theorem getLun_chCnt (c k n : Nat) : getLun (chCnt s c k n) l = getLun s l := rfl
@[simp] theorem getLun_mcnt (k n : Nat) : getLun (mcnt s k n) l = getLun s l := rfl
@[simp] theorem getLun_tel (k n : Nat) : getLun (tel s k n) l = getLun s l := rfl
@[simp] theorem getLun_stirQuad (m : Nat) : getLun (stirQuad s m) l = getLun s l := rfl
@[simp] theorem getLun_noteIdle (m : Nat) : getLun (noteIdle s m) l = getLun s l := rfl
@[simp] theorem getLun_modBlk (b : Nat) (f : FBlk → FBlk) : getLun (modBlk s b f) l = getLun s l := rfl
@[simp] theorem getLun_stageRec : getLun (stageRec s) l = getLun s l := rfl
@[simp] theorem getLun_modCmd (t seq : Nat) (f : Cmd → Cmd) : getLun (modCmd s t seq f) l = getLun s l := rfl

theorem getLun_of_media {s u : State} (h : u.media.luns = s.media.luns) (l : Nat) : getLun u l = getLun s l := by rw [getLun, h, getLun]

theorem getLun_countRd (m : Nat) (r : Rd) (stream : Bool) : getLun (countRd s m r stream) l = getLun s l := by
  unfold countRd
  dsimp only
  split <;> rfl
end

/-- A LUN without an overflow list has nothing to drain (R151). -/
theorem drainOvf_nil {s : State} {l : Nat} (h : (getLun s l).ovf = []) : drainOvf s l = s := by
  unfold drainOvf
  dsimp only
  rw [h]

/-! ### The next operation -/

theorem nextPg_nil {s : State} {u : Lun} (h : u.pq = []) : nextPg s u = none := by
  unfold nextPg
  rw [h]
  split <;> rfl

/-- A LUN with one program waiting starts that one, dirty data first or not (R170, R255). -/
theorem nextPg_single {s : State} {u : Lun} {p : Pg} (h : u.pq = [p]) : nextPg s u = some p := by
  unfold nextPg
  rw [h]
  split
  · cases hd : dirtyPg p <;> simp [hd]
  · rfl

theorem nextOp_read {s : State} {l : Nat} {r : Rd} (hq : (getLun s l).rq = [r]) (hp : (getLun s l).pq = []) (he : (getLun s l).eq = [])
    (hr : rebuildRd r = false) : nextOp s l = some (.rd r) := by
  unfold nextOp
  simp [nextPg_nil hp, hq, he, hr]

theorem nextOp_program {s : State} {l : Nat} {p : Pg} (hq : (getLun s l).rq = []) (hp : (getLun s l).pq = [p]) (he : (getLun s l).eq = [])
    (hr : pgReady s p.blk = true) (hw : powerOk s l (.pg p) = true) : nextOp s l = some (.pg p) := by
  unfold nextOp
  simp only [nextPg_single hp, hq, he]
  by_cases ho : p.sinceNs + 100000 ≤ s.nowNs <;> simp [ho, hr, hw]

theorem nextOp_erase {s : State} {l : Nat} {e : Er} (hq : (getLun s l).rq = []) (hp : (getLun s l).pq = []) (he : (getLun s l).eq = [e])
    (hr : eraseReady s e = true) (hw : powerOk s l (.er e) = true) : nextOp s l = some (.er e) := by
  unfold nextOp
  simp only [nextPg_nil hp, hq, he]
  generalize (List.head? [e]).any (fun e => decide (e.sinceNs + 2000000 ≤ s.nowNs)) = late
  cases late <;> simp [Option.filter, hr, hw]

theorem noteTokWait_none {s : State} {l : Nat} (hp : (getLun s l).pq = []) (he : (getLun s l).eq = []) : noteTokWait s l = s := by
  unfold noteTokWait
  simp [nextPg_nil hp, he]

theorem lunOk_of_lunRuns {s : State} {l : Nat} (h : lunRuns s l = true) : lunOk s l = true := by
  simp only [lunRuns, Bool.and_eq_true] at h
  exact h.1.1.2

/-- A free LUN that runs starts what is next on it (R170). -/
theorem exec_arrayOpStart {s : State} {l : Nat} {k : OpK} (hruns : lunRuns s l = true) (hop : (getLun s l).op = none) (hn : nextOp s l = some k) :
    exec (.arrayOpStart l) s = .next (match k with
      | .rd r => drainOvf (startRd (stirQuad (noteTokWait s l) l) l r) l
      | k => startWr (stirQuad s l) l k) := by
  change execArrayOpStart l s = _
  unfold execArrayOpStart
  simp only [lunOk_of_lunRuns hruns, hruns, hop, hn, Bool.not_true, Bool.and_false, Bool.false_eq_true, if_false]
  cases k <;> rfl

/-! ### The start of a read -/

/-- The entry that a read takes depends on its block and its volume, and on nothing that a LUN holds (R184). -/
theorem tableKey_modLun (s : State) (l : Nat) (f : Lun → Lun) (b page : Nat) : tableKey (modLun s l f) b page = tableKey s b page := rfl
theorem tableKey_stirQuad (s : State) (l b page : Nat) : tableKey (stirQuad s l) b page = tableKey s b page := rfl
theorem tableEntry_modLun (s : State) (l : Nat) (f : Lun → Lun) (key : Nat) (o : Bool) : tableEntry (modLun s l f) key o = tableEntry s key o := rfl
theorem tableEntry_stirQuad (s : State) (l key : Nat) (o : Bool) : tableEntry (stirQuad s l) key o = tableEntry s key o := rfl
theorem getBlk_modLun (s : State) (l : Nat) (f : Lun → Lun) (b : Nat) : getBlk (modLun s l f) b = getBlk s b := rfl
theorem getBlk_stirQuad (s : State) (l b : Nat) : getBlk (stirQuad s l) b = getBlk s b := rfl

/-- A read with the offsets of its entry as the table stands (R184, R185). -/
def offsTaken (s : State) (r : Rd) : Rd :=
  { r with key := some (tableKey s r.blk r.page), offs := tableEntry s (tableKey s r.blk r.page) (getBlk s r.blk).oneBit }

theorem withOffs_of {s : State} {r : Rd} (h : r.why ≠ .check) : withOffs s r = offsTaken s r := if_neg h

theorem offsTaken_modLun (s : State) (l : Nat) (f : Lun → Lun) (r : Rd) : offsTaken (modLun s l f) r = offsTaken s r := by
  rw [offsTaken, tableKey_modLun, tableEntry_modLun, getBlk_modLun, offsTaken]

theorem offsTaken_stirQuad (s : State) (l : Nat) (r : Rd) : offsTaken (stirQuad s l) r = offsTaken s r := by
  rw [offsTaken, tableKey_stirQuad, tableEntry_stirQuad, getBlk_stirQuad, offsTaken]

/-- A command's read that starts on a free LUN is the LUN's operation (R167, R170). -/
theorem getLun_startRd {s : State} {l t seq : Nat} {r : Rd} (hw : r.why = .cmd t seq) (hop : (getLun s l).op = none) :
    getLun (startRd s l r) l = { getLun s l with
      rq := (getLun s l).rq.filter fun x => x.id != r.id
      op := some { k := .rd (offsTaken s r), runNs := s.nowNs, tokens := 0, features := readOffs (offsTaken s r) != (getLun s l).loaded }
      sub := none
      last := none
      loaded := readOffs (offsTaken s r)
      fgReads := (getLun s l).fgReads + 1 } := by
  have htenant : tenantRd r = true := by rw [tenantRd, hw]
  have hstreams : streams (offsTaken s r) = false := by simp [streams, offsTaken, hw]
  have htenant' : tenantRd (offsTaken s r) = true := htenant
  have hwhy : (offsTaken s r).why = .cmd t seq := hw
  unfold startRd
  rw [htenant, if_neg (by simp), if_neg (by simp), withOffs_of (by rw [hw]; simp), offsTaken_modLun]
  generalize offsTaken s r = r' at hstreams htenant' hwhy ⊢
  dsimp only
  rw [hwhy]
  have hin : ∀ u, inStream u r' = false := fun u => by simp [inStream, hstreams]
  simp only [getLun_modCmd, getLun_countRd, getLun_modLun_self, hin, htenant', hop, Option.isNone_none, if_true, b2n]
  rfl

theorem read_starts {s : State} {l t seq : Nat} {r : Rd} (hruns : lunRuns s l = true) (hop : (getLun s l).op = none) (hov : (getLun s l).ovf = [])
    (hq : (getLun s l).rq = [r]) (hp : (getLun s l).pq = []) (he : (getLun s l).eq = []) (hw : r.why = .cmd t seq) :
    ∃ u, exec (.arrayOpStart l) s = .next u ∧
      (getLun u l).op =
        some { k := .rd (offsTaken s r), runNs := s.nowNs, tokens := 0, features := readOffs (offsTaken s r) != (getLun s l).loaded } ∧
      (getLun u l).rq = [] ∧ (getLun u l).loaded = readOffs (offsTaken s r) := by
  have hex := exec_arrayOpStart hruns hop (nextOp_read hq hp he (by rw [rebuildRd, hw]))
  dsimp only at hex
  rw [noteTokWait_none hp he] at hex
  have hlun := getLun_startRd (s := stirQuad s l) (l := l) hw hop
  rw [offsTaken_stirQuad, getLun_stirQuad] at hlun
  have hov' : (getLun (startRd (stirQuad s l) l r) l).ovf = [] := by rw [hlun]; exact hov
  rw [drainOvf_nil hov'] at hex
  refine ⟨_, hex, by rw [hlun]; rfl, ?_, by rw [hlun]⟩
  rw [hlun, hq]
  simp

/-! ### The start of a program or an erase -/

theorem getLun_endTokWait (s : State) (l : Nat) : getLun (endTokWait s l) l = { getLun s l with tokNs := none } := by
  unfold endTokWait
  split
  · next h => rw [← h]
  · rw [getLun_chCnt, getLun_modLun_self]

theorem nowNs_endTokWait (s : State) (l : Nat) : (endTokWait s l).nowNs = s.nowNs := by
  unfold endTokWait
  split <;> rfl

theorem getLun_startWr_pg (s : State) (l : Nat) (p : Pg) : getLun (startWr s l (.pg p)) l = { getLun s l with
    tokNs := none, op := some { k := .pg p, runNs := s.nowNs, tokens := tokNeed (.pg p) }, last := none
    pq := (getLun s l).pq.filter fun x => x.id != p.id } := by
  have hnow : (chCnt (endTokWait s l) (lunCh l) (if oneBitPg p then 3 else 4) 1).nowNs = s.nowNs := nowNs_endTokWait s l
  unfold startWr
  dsimp only
  rw [getLun_modLun_self, getLun_chCnt, getLun_endTokWait, hnow]

theorem getLun_startWr_er (s : State) (l : Nat) (e : Er) : getLun (startWr s l (.er e)) l = { getLun s l with
    tokNs := none, op := some { k := .er e, runNs := s.nowNs, tokens := tokNeed (.er e) }, last := none
    eq := (getLun s l).eq.filter fun x => x.blk != e.blk } := by
  have hnow : (mcnt (chCnt (endTokWait s l) (lunCh l) 6 1) 14 1).nowNs = s.nowNs := nowNs_endTokWait s l
  unfold startWr
  dsimp only
  rw [getLun_modLun_self, getLun_mcnt, getLun_chCnt, getLun_endTokWait, hnow]

/-- Settles O21: each kind of operation starts as its lemma above says. -/
theorem arrayOperationsStart : Obligations.ArrayOperationsStart := by
  unfold Obligations.ArrayOperationsStart
  intro s l hruns hop hsub hov
  refine ⟨fun r t seq hq hp he hw r' hr' => ?_, fun p hq hp he hr hpow => ?_, fun e hq hp he hr hpow => ?_⟩
  · subst hr'
    exact read_starts hruns hop hov hq hp he hw
  · refine ⟨_, exec_arrayOpStart hruns hop (nextOp_program hq hp he hr hpow), ?_⟩
    dsimp only
    rw [getLun_startWr_pg, getLun_stirQuad, hp]
    exact ⟨rfl, by simp⟩
  · refine ⟨_, exec_arrayOpStart hruns hop (nextOp_erase hq hp he hr hpow), ?_⟩
    dsimp only
    rw [getLun_startWr_er, getLun_stirQuad, he]
    exact ⟨rfl, by simp⟩

/-! ### Suspension -/

theorem exec_programSuspend {s : State} {l n c : Nat} {o : Op} {r : Rd} {rest : List Rd} (hop : (getLun s l).op = some o)
    (hq : (getLun s l).rq = r :: rest) (hruns : lunRuns s l = true) (ht : tenantRd r = true) (hs : o.susp = .none)
    (hk : (∃ p, o.k = .pg p) ∧ n = 4000 ∧ c = 8 ∨ (∃ e, o.k = .er e) ∧ n = 6000 ∧ c = 9) (hn : o.runNs + n ≤ s.nowNs) :
    exec (.programSuspend l) s = .next (chCnt (modLun s l fun u => { u with
      op := some { o with susp := .asked, askNs := s.nowNs }, rq := { r with susp := true } :: rest }) (lunCh l) c 1) := by
  change execProgramSuspend l s = _
  unfold execProgramSuspend
  dsimp only
  rw [hop, hq]
  obtain ⟨⟨p, hp⟩, rfl, rfl⟩ | ⟨⟨e, he⟩, rfl, rfl⟩ := hk
  · simp only [hp, hruns, ht, hs, hn]
    rfl
  · simp only [he, hruns, ht, hs, hn]
    rfl

/-- Settles O22: a suspend is a rewrite of the LUN and a count of its channel, the rest a rewrite of the LUN. -/
theorem suspensionServesReads : Obligations.SuspensionServesReads := by
  unfold Obligations.SuspensionServesReads
  intro s l o hop
  refine ⟨fun r rest hq hruns ht hs hk => ?_, fun hc hs => ?_, fun hruns hs hsub hserve => ?_⟩
  · obtain ⟨n, c, hk', hn⟩ : ∃ n c, ((∃ p, o.k = .pg p) ∧ n = 4000 ∧ c = 8 ∨ (∃ e, o.k = .er e) ∧ n = 6000 ∧ c = 9) ∧ o.runNs + n ≤ s.nowNs := by
      obtain ⟨hp, hn⟩ | ⟨he, hn⟩ := hk
      · exact ⟨4000, 8, .inl ⟨hp, rfl, rfl⟩, hn⟩
      · exact ⟨6000, 9, .inr ⟨he, rfl, rfl⟩, hn⟩
    refine ⟨_, exec_programSuspend hop hq hruns ht hs hk' hn, only_media s _, ?_⟩
    rw [getLun_chCnt, getLun_modLun_self]
  · change execSuspendReady l s = _
    unfold execSuspendReady
    simp only [hop, hc, hs]
    rfl
  · have hany : ((getLun s l).rq.any fun r => o.serve.contains r.id) = false := by
      rw [List.any_eq_false]
      exact fun r hr => by simpa using hserve r hr
    change execResume l s = _
    unfold execResume
    simp only [hop, hruns, hs, hsub, hany]
    rfl

end Sys2Proof.Machine
end

section
/-! PROOFS. What the queues of the LUNs leave unchanged, and the ends of programs, erases and verify reads (R168, R169, R194, R195, R207). -/

namespace Sys2Proof.Machine

/-! ### The state but for the queues of the LUNs -/

/-- The state without what the LUNs hold, the count of queued work and the idle times of the quadrants: what no entry of a queue changes. -/
def sansLuns (s : State) : State :=
  { s with media := { s.media with luns := [], idCtr := 0 }, rst := { s.rst with qIdleNs := [] } }

theorem only_sansLuns (s : State) : Only [.media, .rst] s (sansLuns s) := by intro q hq; cases q <;> simp at hq <;> rfl
theorem only_of_sansLuns_self (s : State) : Only [.media, .rst] (sansLuns s) s := by intro q hq; cases q <;> simp at hq <;> rfl

theorem only_of_sansLuns {s u : State} (h : sansLuns u = sansLuns s) : Only [.media, .rst] s u := by
  have h2 : Only [.media, .rst] (sansLuns s) u := h ▸ only_of_sansLuns_self u
  exact (only_sansLuns s).trans h2

theorem blks_of_sansLuns {s u : State} (h : sansLuns u = sansLuns s) : u.media.blks = s.media.blks := congrArg (fun w => w.media.blks) h
theorem chans_of_sansLuns {s u : State} (h : sansLuns u = sansLuns s) : u.media.chans = s.media.chans := congrArg (fun w => w.media.chans) h
theorem relocs_of_sansLuns {s u : State} (h : sansLuns u = sansLuns s) : u.media.relocs = s.media.relocs := congrArg (fun w => w.media.relocs) h
theorem zones_of_sansLuns {s u : State} (h : sansLuns u = sansLuns s) : u.zones = s.zones := congrArg (fun w => w.zones) h
theorem hlt_of_sansLuns {s u : State} (h : sansLuns u = sansLuns s) : u.hlt = s.hlt := congrArg (fun w => w.hlt) h
theorem plp_of_sansLuns {s u : State} (h : sansLuns u = sansLuns s) : u.plp = s.plp := congrArg (fun w => w.plp) h
theorem waitRoles_of_sansLuns {s u : State} (h : sansLuns u = sansLuns s) : u.media.waitRoles = s.media.waitRoles :=
  congrArg (fun w => w.media.waitRoles) h
theorem nowNs_of_sansLuns {s u : State} (h : sansLuns u = sansLuns s) : u.nowNs = s.nowNs := congrArg (fun w => w.nowNs) h
theorem roleOf_of_sansLuns {s u : State} (h : sansLuns u = sansLuns s) (b : Nat) : roleOf u b = roleOf s b := by
  have h2 : roleOf (sansLuns u) b = roleOf (sansLuns s) b := by rw [h]
  exact h2

theorem getBlk_of_blks {s u : State} (h : u.media.blks = s.media.blks) (b : Nat) : getBlk u b = getBlk s b := by rw [getBlk, h, getBlk]
theorem getBlk_of_sansLuns {s u : State} (h : sansLuns u = sansLuns s) (b : Nat) : getBlk u b = getBlk s b := getBlk_of_blks (blks_of_sansLuns h) b
theorem getBlk_of_only {l : List Part} {s u : State} (h : Only l s u) (hl : Part.media ∉ l) (b : Nat) : getBlk u b = getBlk s b := by
  have hm : u.media = s.media := h _ hl
  exact getBlk_of_blks (by rw [hm]) b
theorem getLun_of_only {p : List Part} {s u : State} (h : Only p s u) (hl : Part.media ∉ p) (l : Nat) : getLun u l = getLun s l := by
  have hm : u.media = s.media := h _ hl
  exact getLun_of_media (by rw [hm]) l
theorem memberAt_of_zones {s u : State} (h : u.zones = s.zones) (b : Nat) : memberAt u b = memberAt s b := by rw [memberAt, h, memberAt]

/-- What a LUN holds but for its reads. -/
def sansReads (u : Lun) : Lun := { u with rq := [], ovf := [], parked := [] }

theorem op_of_sansReads {u v : Lun} (h : sansReads u = sansReads v) : u.op = v.op := by
  have h2 : (sansReads u).op = (sansReads v).op := by rw [h]
  exact h2
theorem eq_of_sansReads {u v : Lun} (h : sansReads u = sansReads v) : u.eq = v.eq := by
  have h2 : (sansReads u).eq = (sansReads v).eq := by rw [h]
  exact h2

theorem sansReads_modLun_of (s : State) (l : Nat) (f : Lun → Lun) (h : ∀ u, sansReads (f u) = sansReads u) (m : Nat) :
    sansReads (getLun (modLun s l f) m) = sansReads (getLun s m) := by
  by_cases hm : m = l
  · rw [hm, getLun_modLun_self, h]
  · rw [getLun_modLun_ne _ _ _ _ hm]

section
variable (s : State) (l : Nat)

@[simp] theorem sansLuns_modLun (f : Lun → Lun) : sansLuns (modLun s l f) = sansLuns s := rfl
@[simp] theorem sansLuns_newId : sansLuns (newId s).1 = sansLuns s := rfl
@[simp] theorem sansLuns_noteIdle : sansLuns (noteIdle s l) = sansLuns s := rfl

@[simp] theorem sansLuns_enterRd (r : Rd) : sansLuns (enterRd s l r) = sansLuns s := by
  unfold enterRd
  dsimp only
  split <;> rfl

theorem sansReads_enterRd (r : Rd) (m : Nat) : sansReads (getLun (enterRd s l r) m) = sansReads (getLun s m) := by
  unfold enterRd
  dsimp only
  split
  · exact sansReads_modLun_of _ _ _ (by intro _; rfl) m
  · exact sansReads_modLun_of _ _ _ (by intro _; rfl) m

@[simp] theorem sansLuns_drainOvf : sansLuns (drainOvf s l) = sansLuns s := by
  unfold drainOvf
  dsimp only
  split
  · rfl
  · split
    · exact sansLuns_enterRd _ _ _
    · rfl

theorem sansReads_drainOvf (m : Nat) : sansReads (getLun (drainOvf s l) m) = sansReads (getLun s m) := by
  unfold drainOvf
  dsimp only
  split
  · rfl
  · split
    · exact (sansReads_enterRd _ _ _ _).trans (sansReads_modLun_of _ _ _ (by intro _; rfl) m)
    · rfl

@[simp] theorem sansLuns_unpark : sansLuns (unpark s l) = sansLuns s :=
  foldl_field sansLuns (fun u r => enterRd u l r) (fun u r => sansLuns_enterRd u l r) _ _

theorem sansReads_unpark (m : Nat) : sansReads (getLun (unpark s l) m) = sansReads (getLun s m) :=
  (foldl_field (fun u => sansReads (getLun u m)) (fun u r => enterRd u l r) (fun u r => sansReads_enterRd u l r m) _ _).trans
    (sansReads_modLun_of _ _ _ (by intro _; rfl) m)

@[simp] theorem sansLuns_queueRd (why : Why) (cls order b page : Nat) (qlc : Bool) (secs : List SecReq) (lr : Bool) :
    sansLuns (queueRd s why cls order b page qlc secs lr).1 = sansLuns s := sansLuns_enterRd _ _ _

theorem sansReads_queueRd (why : Why) (cls order b page : Nat) (qlc : Bool) (secs : List SecReq) (lr : Bool) (m : Nat) :
    sansReads (getLun (queueRd s why cls order b page qlc secs lr).1 m) = sansReads (getLun s m) := sansReads_enterRd _ _ _ _

/-- A verify read is queued, unless it is there already (R194). -/
theorem queueVerify_cases (b wl : Nat) :
    queueVerify s b wl = s ∨ ∃ page q, queueVerify s b wl = (queueRd s .verify 3 0 b page q [] false).1 := by
  have hcases (p : Prop) [Decidable p] (x y : State) : (if p then x else y) = x ∨ (if p then x else y) = y := by
    split
    · exact .inl rfl
    · exact .inr rfl
  exact (hcases _ _ _).imp_right fun h => ⟨_, _, h⟩

@[simp] theorem sansLuns_queueVerify (b wl : Nat) : sansLuns (queueVerify s b wl) = sansLuns s := by
  obtain h | ⟨page, q, h⟩ := queueVerify_cases s b wl
  · rw [h]
  · rw [h, sansLuns_queueRd]

theorem sansReads_queueVerify (b wl m : Nat) : sansReads (getLun (queueVerify s b wl) m) = sansReads (getLun s m) := by
  obtain h | ⟨page, q, h⟩ := queueVerify_cases s b wl
  · rw [h]
  · rw [h, sansReads_queueRd]

@[simp] theorem sansLuns_setRd_none : sansLuns (setRd s l none) = sansLuns s := by
  unfold setRd
  dsimp only
  split
  · exact sansLuns_unpark _ _
  · rfl

@[simp] theorem sansLuns_endOp : sansLuns (endOp s l) = sansLuns s := sansLuns_unpark _ _

/-- An operation that ends leaves its LUN to the read that a suspension let pass, if one runs (R172). -/
theorem op_endOp : (getLun (endOp s l) l).op = (getLun s l).sub := by
  rw [endOp, op_of_sansReads (sansReads_unpark _ l l), getLun_noteIdle, getLun_modLun_self]

/-- The read that ends leaves the queue of erases as it is. -/
theorem eq_setRd_none : (getLun (setRd s l none) l).eq = (getLun s l).eq := by
  have hm : (getLun (modLun s l fun u => if u.sub.isSome then { u with sub := none } else { u with op := none }) l).eq = (getLun s l).eq := by
    rw [getLun_modLun_self]
    split <;> rfl
  unfold setRd
  dsimp only [Option.map]
  split
  · exact (eq_of_sansReads (sansReads_unpark _ l l)).trans hm
  · exact hm

end

/-! ### Blocks and channels -/

theorem getBlk_modBlk_ne {s : State} {b c : Nat} {f : FBlk → FBlk} (h : c ≠ b) : getBlk (modBlk s b f) c = getBlk s c :=
  Tab.get_upd_ne _ _ _ _ _ h

/-- The rewriting of a block that a program leaves (Table 8.2). -/
theorem getBlk_stampBlk (s : State) (b wl : Nat) : ∃ st, getBlk (stampBlk s b wl) b = { getBlk s b with erased := false, stamps := st } :=
  ⟨_, getBlk_modBlk_self _ _ _⟩

theorem getBlk_stampBlk_ne {s : State} {b wl c : Nat} (h : c ≠ b) : getBlk (stampBlk s b wl) c = getBlk s c := getBlk_modBlk_ne h
theorem only_stampBlk (s : State) (b wl : Nat) : Only [.media] s (stampBlk s b wl) := only_media _ _
theorem only_modBlk (s : State) (b : Nat) (f : FBlk → FBlk) : Only [.media] s (modBlk s b f) := only_media _ _
theorem getLun_stampBlk (s : State) (b wl l : Nat) : getLun (stampBlk s b wl) l = getLun s l := rfl

/-! ### Relocations and failed blocks -/

theorem only_askReloc (s : State) (b : Nat) (why : RelWhy) : Only [.media] s (askReloc s b why) := by
  unfold askReloc
  split
  · split
    · exact only_media _ _
    · exact Only.refl _ _
  · split
    · exact Only.refl _ _
    · exact only_media _ _

/-- A relocation that is asked for is a record of its own: no block, channel or LUN changes (R196). -/
theorem media_askReloc (s : State) (b : Nat) (why : RelWhy) :
    ∃ r n, (askReloc s b why).media = { s.media with relocs := r, idCtr := n } := by
  unfold askReloc
  split
  · split
    · exact ⟨_, _, rfl⟩
    · exact ⟨_, _, rfl⟩
  · split
    · exact ⟨_, _, rfl⟩
    · exact ⟨_, _, rfl⟩

theorem getBlk_askReloc (s : State) (b : Nat) (why : RelWhy) (c : Nat) : getBlk (askReloc s b why) c = getBlk s c := by
  obtain ⟨r, n, h⟩ := media_askReloc s b why
  exact getBlk_of_blks (by rw [h]) c

theorem getChan_askReloc (s : State) (b : Nat) (why : RelWhy) (c : Nat) : getChan (askReloc s b why) c = getChan s c := by
  obtain ⟨r, n, h⟩ := media_askReloc s b why
  rw [getChan, h, getChan]

theorem cnt_chCnt_self (s : State) (c k n : Nat) : Tab.get 0 (getChan (chCnt s c k n) c).cnts k = Tab.get 0 (getChan s c).cnts k + n := by
  rw [chCnt, getChan_modChan_self]
  dsimp only [bump]
  exact Tab.get_upd_self 0 _ _ _

theorem getChan_modChan_ne {s : State} {c d : Nat} {f : Chan → Chan} (h : c ≠ d) : getChan (modChan s d f) c = getChan s c := by
  simp only [getChan, modChan]
  exact Tab.get_upd_ne _ _ _ _ _ h

theorem cnt_chCnt_ne {s : State} {c d k j n : Nat} (h : j ≠ k) : Tab.get 0 (getChan (chCnt s d k n) c).cnts j = Tab.get 0 (getChan s c).cnts j := by
  by_cases hc : c = d
  · rw [hc, chCnt, getChan_modChan_self]
    dsimp only [bump]
    exact Tab.get_upd_ne 0 _ _ _ _ h
  · rw [chCnt, getChan_modChan_ne hc]

/-- A head that ends its wait for tokens counts that wait, in another counter (Table 7.9). -/
theorem cnt_endTokWait {s : State} {l c j : Nat} (h : j ≠ 13) : Tab.get 0 (getChan (endTokWait s l) c).cnts j = Tab.get 0 (getChan s c).cnts j := by
  unfold endTokWait
  split
  · rfl
  · exact cnt_chCnt_ne h

theorem blks_endTokWait (s : State) (l : Nat) : (endTokWait s l).media.blks = s.media.blks := by
  unfold endTokWait
  split <;> rfl

theorem relocs_endTokWait (s : State) (l : Nat) : (endTokWait s l).media.relocs = s.media.relocs := by
  unfold endTokWait
  split <;> rfl

theorem cnt_dropPrograms {s : State} {bs es : List Nat} {c j : Nat} (h : j ≠ 13) :
    Tab.get 0 (getChan (dropPrograms s bs es) c).cnts j = Tab.get 0 (getChan s c).cnts j :=
  foldl_field (fun u => Tab.get 0 (getChan u c).cnts j) endTokWait (fun _ _ => cnt_endTokWait h) _ _

theorem blks_dropPrograms (s : State) (bs es : List Nat) : (dropPrograms s bs es).media.blks = s.media.blks :=
  foldl_field (fun u => u.media.blks) endTokWait blks_endTokWait _ _

theorem relocs_dropPrograms (s : State) (bs es : List Nat) : (dropPrograms s bs es).media.relocs = s.media.relocs :=
  foldl_field (fun u => u.media.relocs) endTokWait relocs_endTokWait _ _

/-- A block that is no relocation's target fails as what it is (R195): its own record says so, and its channel's counters stay. -/
theorem destinationFailed_member {s : State} {b : Nat} (hr : ∀ e ∈ s.media.relocs, e.2.tgt ≠ some b) :
    (getBlk (destinationFailed s b) b).failed = true ∧ (getBlk (destinationFailed s b) b).safe = (getBlk s b).safe ∧
      ∀ c j, j ≠ 13 → Tab.get 0 (getChan (destinationFailed s b) c).cnts j = Tab.get 0 (getChan s c).cnts j := by
  have hnone : ((dropPrograms (mcnt s 19 1) [b] []).media.relocs.find? fun e => e.2.tgt == some b) = none := by
    rw [relocs_dropPrograms, List.find?_eq_none]
    exact fun e he => by simpa using hr e he
  have hblk : getBlk (dropPrograms (mcnt s 19 1) [b] []) b = getBlk s b := getBlk_of_blks (blks_dropPrograms _ _ _) b
  unfold destinationFailed
  dsimp only
  rw [hnone]
  dsimp only
  refine ⟨?_, ?_, fun c j hj => ?_⟩
  · rw [getBlk_askReloc, getBlk_modBlk_self]
  · rw [getBlk_askReloc, getBlk_modBlk_self, hblk]
  · rw [getChan_askReloc]
    exact cnt_dropPrograms hj

/-! ### Programs -/

theorem exec_programDone {s : State} {l : Nat} {o : Op} {p : Pg} (pass : Bool) (hc : collects s l = true) (ho : (getLun s l).op = some o)
    (hk : o.k = .pg p) (hs : o.susp ≠ .ready) :
    exec (.programDone l pass) s = .next (if pass then pgPass (endOp s l) p else pgFail (endOp s l) p) := by
  obtain ⟨k, runNs, ran, tokens, susp, askNs, serve, stream, features⟩ := o
  subst hk
  change execProgramDone l pass s = _
  unfold execProgramDone
  rw [ho]
  dsimp only
  rw [if_neg (by simp [hc]; exact hs)]

theorem only_coarsePass (s : State) (b wl : Nat) : Only [.media] s (coarsePass s b wl) := (only_stampBlk s b wl).trans (only_modBlk _ _ _)

theorem getBlk_coarsePass (s : State) (b wl : Nat) :
    (getBlk (coarsePass s b wl) b).coarse = max (getBlk s b).coarse (wl + 1) ∧ (getBlk (coarsePass s b wl) b).erased = false := by
  obtain ⟨st, hst⟩ := getBlk_stampBlk s b wl
  rw [coarsePass, getBlk_modBlk_self, hst]
  exact ⟨rfl, rfl⟩

theorem getBlk_coarsePass_ne {s : State} {b wl c : Nat} (h : c ≠ b) : getBlk (coarsePass s b wl) c = getBlk s c := by
  rw [coarsePass, getBlk_modBlk_ne h, getBlk_stampBlk_ne h]

/-- The verify reads that a fine pass makes due (R168, R194). -/
def closeWindows (s : State) (b wl : Nat) : State :=
  let s := if 0 < wl then queueVerify s b (wl - 1) else s
  if wl = 127 then queueVerify s b wl else s

theorem closeWindows_spec (s : State) (b wl : Nat) :
    sansLuns (closeWindows s b wl) = sansLuns s ∧ ∀ l, sansReads (getLun (closeWindows s b wl) l) = sansReads (getLun s l) := by
  have hite : ∀ (u : State) (c : Prop) [Decidable c] (n : Nat), sansLuns (if c then queueVerify u b n else u) = sansLuns u ∧
      ∀ l, sansReads (getLun (if c then queueVerify u b n else u) l) = sansReads (getLun u l) := by
    intro u c _ n
    split
    · exact ⟨sansLuns_queueVerify _ _ _, sansReads_queueVerify _ _ _⟩
    · exact ⟨rfl, fun _ => rfl⟩
  obtain ⟨h1, h2⟩ := hite s (0 < wl) (wl - 1)
  obtain ⟨h3, h4⟩ := hite (if 0 < wl then queueVerify s b (wl - 1) else s) (wl = 127) wl
  exact ⟨h3.trans h1, fun l => (h4 l).trans (h2 l)⟩

theorem finePass_eq (s : State) (b wl : Nat) :
    finePass s b wl =
      let w := closeWindows (foldBufs (modBlk s b fun f => { f with fine := max f.fine (wl + 1) }) b wl) b wl
      if isParity w b then w else tel (telProg w 7 262144) 9 (padBytes w b wl) := rfl

theorem only_telProg_tel (s : State) (k n j m : Nat) : Only [.hlt] s (tel (telProg s k n) j m) :=
  ((only_hlt s _).trans (only_hlt (tel s k n) _)).trans (only_hlt (telProg s k n) _)

theorem getBlk_telProg_tel (s : State) (k n j m b : Nat) : getBlk (tel (telProg s k n) j m) b = getBlk s b := rfl
theorem getLun_telProg_tel (s : State) (k n j m l : Nat) : getLun (tel (telProg s k n) j m) l = getLun s l := rfl

/-- A fine pass of a block that is no member of a zone: its record, the verify reads due and the telemetry (R168, R194). -/
theorem finePass_spare {s : State} {b wl : Nat} (hm : memberAt s b = none) :
    Only [.media, .rst, .hlt] s (finePass s b wl) ∧ (∀ l, sansReads (getLun (finePass s b wl) l) = sansReads (getLun s l)) ∧
      (getBlk (finePass s b wl) b).fine = max (getBlk s b).fine (wl + 1) := by
  rw [finePass_eq]
  have hmod := only_modBlk s b fun f => { f with fine := max f.fine (wl + 1) }
  have hblk := getBlk_modBlk_self s b fun f => { f with fine := max f.fine (wl + 1) }
  have hlun : ∀ l, getLun (modBlk s b fun f => { f with fine := max f.fine (wl + 1) }) l = getLun s l := fun _ => rfl
  generalize modBlk s b (fun f => { f with fine := max f.fine (wl + 1) }) = w at hmod hblk hlun ⊢
  have hw : memberAt w b = none := (memberAt_of_zones (hmod .zones (by simp)) b).trans hm
  have hfold : foldBufs w b wl = w := by rw [foldBufs, hw]
  obtain ⟨hlun1, hread⟩ := closeWindows_spec w b wl
  rw [hfold]
  generalize closeWindows w b wl = v at hlun1 hread ⊢
  have hv : memberAt v b = none := (memberAt_of_zones (zones_of_sansLuns hlun1) b).trans hw
  have hpar : isParity v b = false := by rw [isParity, hv]
  dsimp only
  rw [hpar, if_neg (by simp)]
  refine ⟨?_, fun l => ?_, ?_⟩
  · exact ((hmod.mono (by simp)).trans ((only_of_sansLuns hlun1).mono (by simp))).trans ((only_telProg_tel v _ _ _ _).mono (by simp))
  · rw [getLun_telProg_tel, hread, hlun]
  · rw [getBlk_telProg_tel, getBlk_of_sansLuns hlun1, hblk]

theorem only_pushBufs (s : State) (r : Nat) (l : List Nat) : Only [.bpm, .pa, .pb, .out, .evr] s (pushBufs s r l) :=
  only_foldl _ (fun u i => only_pushPtr u r (i * 4096)) _ _

theorem only_poisonSec (s : State) (b page : Nat) (q : SecReq) : Only [.vers, .hlt, .pa, .pb, .out, .evr] s (poisonSec s b page q) := by
  unfold poisonSec
  split
  · exact Only.refl _ _
  · refine Only.trans ?_ ((only_logEv _ _ _ _ _).mono (by simp))
    intro q hq; cases q <;> simp at hq <;> rfl

theorem only_completeFua (s : State) : Only [.cmds, .bpm, .genCtr, .vers, .pa, .pb, .out, .evr] s (completeFua s) :=
  only_foldl _ (fun u c => Only.ite (only_genCompl_any _ _ _ _ _) (Only.ite (only_genCompl_any _ _ _ _ _) (Only.ite (only_genCompl_any _ _ _ _ _)
    (Only.ite (only_genCompl_any _ _ _ _ _) (Only.refl _ _))))) _ _

/-- What a staging piece changes of the flash: its extent's record (R192). -/
theorem media_passPiece (s : State) (e i : Nat) : ∃ x, (passPiece s e i).media = { s.media with exts := x } := by
  unfold passPiece
  dsimp only
  generalize hv : (modExt s e fun x => { x with passed := if x.passed.contains i then x.passed else x.passed ++ [i] }) = v
  have hvm : ∃ x, v.media = { s.media with exts := x } := ⟨_, by rw [← hv]; rfl⟩
  obtain ⟨x, hx⟩ := hvm
  split
  · have hm : (pushBufs v 2 (getExt v e).parity).media = v.media := only_pushBufs v 2 _ .media (by simp)
    refine ⟨Tab.upd {} x e fun x => { x with parity := [] }, ?_⟩
    rw [modExt, hm, hx]
  · exact ⟨x, hx⟩

/-- What extPass makes of one version whose sectors are all programmed (R198). -/
def versProgrammed (y : Ext) (e i : Nat) (s : State) (v : Nat) : State :=
  let z := getVer s v
  if z.ucProg || z.tcSafe then s
  else
    let s := if z.poison then poisonSec s (nth 0 (getSet s y.set).blks i) y.page
      { plane := 0, sector := 0, ver := v, sub := 0 } else s
    freeVer (modVer s v fun z => { z with ucProg := true, loc := .uc e }) v

theorem only_versProgrammed (y : Ext) (e i : Nat) (s : State) (v : Nat) :
    Only [.vers, .bpm, .hlt, .pa, .pb, .out, .evr] s (versProgrammed y e i s v) := by
  unfold versProgrammed
  dsimp only
  split
  · exact Only.refl _ _
  · refine Only.trans (Only.trans ?_ ((only_vers _ _).mono (by simp))) ((only_freeVer _ _).mono (by simp))
    split
    · exact (only_poisonSec _ _ _ _).mono (by simp)
    · exact Only.refl _ _

/-- The telemetry of a staging piece, parity pieces apart (Table 17.7). -/
def pieceTold (s : State) (e i : Nat) : State :=
  let x := getExt s e
  if i < 16 then
    let pads := (((x.secs.drop (16 * i)).take 16).filter (· == 0)).length + (16 - ((x.secs.drop (16 * i)).take 16).length)
    tel (telProg s 6 65536) 9 (pads * 4096)
  else s

theorem media_pieceTold (s : State) (e i : Nat) : (pieceTold s e i).media = s.media := by
  unfold pieceTold
  dsimp only
  split
  · exact only_telProg_tel s _ _ _ _ .media (by simp)
  · rfl

/-- The versions of a piece all of whose sectors have been programmed. -/
def wholeVers (y : Ext) (i : Nat) : List Nat :=
  (pieceVers y i).filter fun v => (List.range 16).all fun j => y.passed.contains j || !(pieceVers y j).contains v

theorem extPass_eq (s : State) (e i : Nat) :
    extPass s e i =
      (wholeVers (getExt (passPiece (pieceTold s e i) e i) e) i).foldl (versProgrammed (getExt (passPiece (pieceTold s e i) e i) e) e i)
        (passPiece (pieceTold s e i) e i) := rfl

theorem media_extPass (s : State) (e i : Nat) : ∃ x, (extPass s e i).media = { s.media with exts := x } := by
  obtain ⟨x, hx⟩ := media_passPiece (pieceTold s e i) e i
  refine ⟨x, ?_⟩
  rw [extPass_eq]
  generalize passPiece (pieceTold s e i) e i = u at hx ⊢
  have hm : ((wholeVers (getExt u e) i).foldl (versProgrammed (getExt u e) e i) u).media = u.media :=
    only_foldl _ (only_versProgrammed _ e i) _ u .media (by simp)
  rw [hm, hx, media_pieceTold]

/-- The record of a one-bit page's program, apart from its extent (R168). -/
theorem pgPass_uc {s : State} {p : Pg} {e i : Nat} (hk : p.kind = .uc e i) (l : Nat) :
    (getLun (pgPass s p) l).op = (getLun s l).op ∧ (getBlk (pgPass s p) p.blk).pages = max (getBlk s p.blk).pages (p.page + 1) ∧
      p.page ∈ (getBlk (pgPass s p) p.blk).safe := by
  unfold pgPass
  rw [hk]
  dsimp only
  obtain ⟨st, hst⟩ := getBlk_stampBlk s p.blk p.page
  have hlun : getLun (stampBlk s p.blk p.page) l = getLun s l := rfl
  generalize stampBlk s p.blk p.page = w at hst hlun ⊢
  have hblk := getBlk_modBlk_self w p.blk fun f => { f with
      pages := max f.pages (p.page + 1), safe := if f.safe.contains p.page then f.safe else f.safe ++ [p.page] }
  have hlun2 : getLun (modBlk w p.blk fun f => { f with
      pages := max f.pages (p.page + 1), safe := if f.safe.contains p.page then f.safe else f.safe ++ [p.page] }) l = getLun s l := hlun
  generalize (modBlk w p.blk fun f => { f with
      pages := max f.pages (p.page + 1), safe := if f.safe.contains p.page then f.safe else f.safe ++ [p.page] }) = v at hblk hlun2 ⊢
  have hkeep : ∀ u : State, u.media.blks = v.media.blks → u.media.luns = v.media.luns →
      (getLun u l).op = (getLun s l).op ∧ (getBlk u p.blk).pages = max (getBlk s p.blk).pages (p.page + 1) ∧ p.page ∈ (getBlk u p.blk).safe := by
    intro u hb hl
    rw [getLun_of_media hl, hlun2, getBlk_of_blks hb, hblk, hst]
    refine ⟨rfl, rfl, ?_⟩
    dsimp only
    split
    · next h => exact List.contains_iff_mem.mp h
    · simp
  split
  · exact hkeep v rfl rfl
  · have hm : (completeFua (extPass v e i)).media = (extPass v e i).media := only_completeFua _ .media (by simp)
    obtain ⟨x, hx⟩ := media_extPass v e i
    exact hkeep _ (by rw [hm, hx]) (by rw [hm, hx])

/-- Settles O25: each kind of program is the lemma above about it, after the end of its operation. -/
theorem programsEnd : Obligations.ProgramsEnd := by
  unfold Obligations.ProgramsEnd
  intro s l o p hc ho hk hs
  have hex := fun pass => exec_programDone pass hc ho hk hs
  have hlun := sansLuns_endOp s l
  have hop := op_endOp s l
  generalize endOp s l = w at hex hlun hop
  have hblk := getBlk_of_sansLuns hlun
  refine ⟨fun ⟨i, m, hp⟩ => ?_, fun ⟨i, m, hp⟩ hm => ?_, fun ⟨e, i, hp⟩ => ?_, fun ⟨i, m, hp⟩ hint htgt => ?_⟩
  · have hpass : pgPass w p = coarsePass w p.blk p.page := by rw [pgPass, hp]
    refine ⟨_, hex true, ?_⟩
    rw [if_pos rfl, hpass]
    refine ⟨(only_of_sansLuns hlun).trans ((only_coarsePass _ _ _).mono (by simp)), hop, ?_, ?_, fun b hb => ?_⟩
    · rw [(getBlk_coarsePass _ _ _).1, hblk]
    · exact (getBlk_coarsePass _ _ _).2
    · rw [getBlk_coarsePass_ne hb, hblk]
  · have hpass : pgPass w p = finePass w p.blk p.page := by rw [pgPass, hp]
    obtain ⟨honly, hread, hfine⟩ := finePass_spare (wl := p.page) ((memberAt_of_zones (zones_of_sansLuns hlun) p.blk).trans hm)
    refine ⟨_, hex true, ?_⟩
    rw [if_pos rfl, hpass]
    refine ⟨((only_of_sansLuns hlun).mono (by simp)).trans honly, ?_, ?_⟩
    · rw [op_of_sansReads (hread l), hop]
    · rw [hfine, hblk]
  · refine ⟨_, hex true, ?_⟩
    rw [if_pos rfl]
    obtain ⟨h1, h2, h3⟩ := pgPass_uc (s := w) hp l
    exact ⟨h1.trans hop, by rw [h2, hblk], h3⟩
  · have hfail : pgFail w p = destinationFailed (chCnt w (blkCh p.blk) 5 1) p.blk := by
      have hint' : (getBlk (chCnt w (blkCh p.blk) 5 1) p.blk).eraseIntent = false := by
        change (getBlk w p.blk).eraseIntent = false
        rw [hblk, hint]
      obtain hp | hp := hp
      · unfold pgFail
        rw [hp]
        dsimp only
        rw [hint', if_neg (by simp)]
      · unfold pgFail
        rw [hp]
        dsimp only
        rw [hint', if_neg (by simp)]
    have hrel : ∀ e ∈ (chCnt w (blkCh p.blk) 5 1).media.relocs, e.2.tgt ≠ some p.blk := by
      change ∀ e ∈ w.media.relocs, e.2.tgt ≠ some p.blk
      rw [relocs_of_sansLuns hlun]
      exact htgt
    obtain ⟨hf, -, hcnt⟩ := destinationFailed_member hrel
    refine ⟨_, hex false, ?_⟩
    rw [if_neg (by simp), hfail]
    refine ⟨hf, ?_⟩
    rw [hcnt _ _ (by simp), cnt_chCnt_self, getChan, chans_of_sansLuns hlun, getChan]

end Sys2Proof.Machine
end

section
/-! PROOFS. Erases, the check of erased blocks, and verify reads end (R194, R195, R203, R207). -/

namespace Sys2Proof.Machine

/-! ### A read that is queued is there -/

theorem mem_insBy {α : Type} (lt : α → α → Bool) (x : α) (l : List α) : x ∈ insBy lt x l := by
  induction l with
  | nil => exact List.mem_singleton.mpr rfl
  | cons y t ih =>
    unfold insBy
    split
    · exact List.mem_cons_self
    · exact List.mem_cons_of_mem _ ih

/-- A read that enters is in its LUN's queue, or in the overflow list (R151). -/
theorem mem_enterRd (s : State) (l : Nat) (r : Rd) :
    ∃ x, (x ∈ (getLun (enterRd s l r) l).rq ∨ x ∈ (getLun (enterRd s l r) l).ovf) ∧ x.why = r.why ∧ x.blk = r.blk ∧ x.cls = r.cls := by
  unfold enterRd
  dsimp only
  split
  · refine ⟨{ r with ahead := (passable s r.cls (getLun s l)).1.length + inProgress (getLun s l) }, .inl ?_, rfl, rfl, rfl⟩
    rw [getLun_modLun_self]
    simp
  · refine ⟨{ r with ovf := true }, .inr ?_, rfl, rfl, rfl⟩
    rw [getLun_modLun_self]
    exact mem_insBy _ _ _

theorem mem_queueRd (s : State) (why : Why) (cls order b page : Nat) (qlc : Bool) (secs : List SecReq) (lr : Bool) :
    ∃ x, (x ∈ (getLun (queueRd s why cls order b page qlc secs lr).1 (blkLun b)).rq ∨
      x ∈ (getLun (queueRd s why cls order b page qlc secs lr).1 (blkLun b)).ovf) ∧ x.why = why ∧ x.blk = b ∧ x.cls = cls :=
  mem_enterRd _ _ _

/-! ### Erases -/

/-- The state with the erase of a block done, recorded and its check queued. -/
theorem exec_eraseDone {s : State} {l : Nat} {o : Op} {e : Er} (hc : collects s l = true) (ho : (getLun s l).op = some o)
    (hk : o.k = .er e) (hs : o.susp ≠ .ready) :
    exec (.eraseDone l true) s = .next (queueRd (modBlk
      { endOp s l with plp := { (endOp s l).plp with jRecs := (endOp s l).plp.jRecs + 1 } } e.blk (erasedBlk false)) .check 3 0 e.blk 0 false [] false).1 := by
  obtain ⟨k, runNs, ran, tokens, susp, askNs, serve, stream, features⟩ := o
  subst hk
  change execEraseDone l true s = _
  unfold execEraseDone
  rw [ho]
  dsimp only
  rw [if_neg (by simp [hc]; exact hs), if_pos rfl]

/-- What an erase leaves: its block erased, the record, and the check in the queue (R207, R265). -/
theorem erased_checked (w : State) (b : Nat) {u : State}
    (hu : u = (queueRd (modBlk { w with plp := { w.plp with jRecs := w.plp.jRecs + 1 } } b (erasedBlk false)) .check 3 0 b 0 false [] false).1) :
    Only [.media, .rst, .plp] w u ∧ (∀ l, (getLun u l).op = (getLun w l).op) ∧ u.plp = { w.plp with jRecs := w.plp.jRecs + 1 } ∧
      getBlk u b = erasedBlk false (getBlk w b) ∧
      ∃ r, (r ∈ (getLun u (blkLun b)).rq ∨ r ∈ (getLun u (blkLun b)).ovf) ∧ r.why = .check ∧ r.blk = b ∧ r.cls = 3 := by
  have hplp : Only [.plp] w { w with plp := { w.plp with jRecs := w.plp.jRecs + 1 } } := only_plp _ _
  have hval : ({ w with plp := { w.plp with jRecs := w.plp.jRecs + 1 } } : State).plp = { w.plp with jRecs := w.plp.jRecs + 1 } := rfl
  have hlun : ∀ l, getLun { w with plp := { w.plp with jRecs := w.plp.jRecs + 1 } } l = getLun w l := fun _ => rfl
  have hblk : getBlk { w with plp := { w.plp with jRecs := w.plp.jRecs + 1 } } b = getBlk w b := rfl
  generalize ({ w with plp := { w.plp with jRecs := w.plp.jRecs + 1 } } : State) = v at *
  have hmod := only_modBlk v b (erasedBlk false)
  have hblk2 := getBlk_modBlk_self v b (erasedBlk false)
  have hlun2 : ∀ l, getLun (modBlk v b (erasedBlk false)) l = getLun v l := fun _ => rfl
  generalize modBlk v b (erasedBlk false) = x at *
  subst hu
  have hl := sansLuns_queueRd x .check 3 0 b 0 false [] false
  refine ⟨?_, fun l => ?_, ?_, ?_, mem_queueRd _ _ _ _ _ _ _ _ _⟩
  · exact ((hplp.mono (by simp)).trans (hmod.mono (by simp))).trans ((only_of_sansLuns hl).mono (by simp))
  · rw [op_of_sansReads (sansReads_queueRd _ _ _ _ _ _ _ _ _ l), hlun2, hlun]
  · rw [plp_of_sansLuns hl, ← hval]
    exact hmod .plp (by simp)
  · rw [getBlk_of_sansLuns hl, hblk2, hblk]

/-! ### The check of an erased block -/

/-- The read that a LUN runs is collected, and what waited in the overflow list may enter (R151). -/
def collected (s : State) (l : Nat) : State := drainOvf (setRd s l none) l

theorem sansLuns_collected (s : State) (l : Nat) : sansLuns (collected s l) = sansLuns s := by
  rw [collected, sansLuns_drainOvf, sansLuns_setRd_none]

theorem eq_collected (s : State) (l : Nat) : (getLun (collected s l) l).eq = (getLun s l).eq := by
  rw [collected, eq_of_sansReads (sansReads_drainOvf _ l l), eq_setRd_none]

theorem exec_halfEraseCheck {s : State} {l b : Nat} (zeros : List Nat) (hc : collects s l = true) (hr : runs s l .check b 0 = true)
    (hint : (getBlk s b).eraseIntent = false) (hrole : roleOf s b ≠ .retired) :
    exec (.halfEraseCheck l b zeros) s = .next (if zeros.any fun z => decide (64 < z) then eraseBlkQ (mcnt (collected s l) 13 1) b
      else
        let s := modBlk (collected s l) b fun f => { f with checked := true }
        if (getBlk s b).inUse ∨ roleOf s b ≠ .undercoat then s else fillWaiting s (· == blkCh b)) := by
  have hl := sansLuns_collected s l
  change execHalfEraseCheck l b zeros s = _
  unfold execHalfEraseCheck
  rw [hc, hr, if_pos (by simp)]
  dsimp only
  change (if roleOf (collected s l) b = .retired ∨ (getBlk (collected s l) b).eraseIntent then _ else _) = _
  rw [if_neg (by rw [roleOf_of_sansLuns hl, getBlk_of_sansLuns hl, hint]; simpa using hrole)]
  change (if zeros.any fun z => decide (64 < z) then Host.Outcome.next (eraseBlkQ (mcnt (collected s l) 13 1) b) else _) = _
  split <;> rfl

/-- With no exchange waiting there is none to serve (R202). -/
theorem fillWaiting_nil {s : State} (f : Nat → Bool) (h : s.media.waitRoles = []) : fillWaiting s f = s := by
  unfold fillWaiting
  rw [h]
  have hx : ({ s with media := { s.media with waitRoles := [] } } : State) = s := by rw [← h]
  exact hx

/-- A block that is checked: where no exchange waits for it nothing else changes (R207). -/
theorem checked_spec {w : State} {b : Nat} (h : (getBlk w b).inUse = true ∨ roleOf w b ≠ .undercoat ∨ w.media.waitRoles = []) :
    (let s := modBlk w b fun f => { f with checked := true }
      if (getBlk s b).inUse ∨ roleOf s b ≠ .undercoat then s else fillWaiting s (· == blkCh b)) = modBlk w b fun f => { f with checked := true } := by
  have hrole : roleOf (modBlk w b fun f => { f with checked := true }) b = roleOf w b := by
    unfold roleOf
    rw [getBlk_modBlk_self]
    rfl
  dsimp only
  rw [hrole, getBlk_modBlk_self]
  obtain h | h | h := h
  · rw [if_pos (.inl h)]
  · rw [if_pos (.inr h)]
  · split
    · rfl
    · exact fillWaiting_nil _ h

/-- A half-erased block is erased again under a new intent (R207, R265). -/
theorem eraseBlkQ_spec (s : State) (b : Nat) :
    Only [.media, .plp] s (eraseBlkQ s b) ∧ getBlk (eraseBlkQ s b) b = { getBlk s b with eraseIntent := true, erased := false } ∧
      (getLun (eraseBlkQ s b) (blkLun b)).eq = (getLun s (blkLun b)).eq ++ [{ blk := b, sinceNs := s.nowNs, jno := s.plp.jSeq }] ∧
      (eraseBlkQ s b).hlt = s.hlt := by
  unfold eraseBlkQ
  dsimp only
  have hmod := only_modBlk s b fun f => { f with eraseIntent := true, erased := false }
  have hblk := getBlk_modBlk_self s b fun f => { f with eraseIntent := true, erased := false }
  have hlun : getLun (modBlk s b fun f => { f with eraseIntent := true, erased := false }) (blkLun b) = getLun s (blkLun b) := rfl
  have hnow : (modBlk s b fun f => { f with eraseIntent := true, erased := false }).nowNs = s.nowNs := rfl
  generalize (modBlk s b fun f => { f with eraseIntent := true, erased := false }) = v at *
  have hplp : v.plp = s.plp := hmod .plp (by simp)
  have hhlt : v.hlt = s.hlt := hmod .hlt (by simp)
  refine ⟨?_, hblk, ?_, hhlt⟩
  · exact ((hmod.mono (by simp)).trans ((only_media v _).mono (by simp))).trans ((only_plp (modLun v _ _) _).mono (by simp))
  · change (getLun (modLun v (blkLun b) _) (blkLun b)).eq = _
    rw [getLun_modLun_self, hlun, hnow, hplp]

/-! ### The ready-block lists -/

/-- Rewriting every listed entry of a table, by a function that leaves the default as it is. -/
theorem Tab.get_mapv {α : Type} [DecidableEq α] {d : α} {f : Nat → α → α} {t : Tab α} (k : Nat) (hd : f k d = d) (hwf : Tab.wf d t = true) :
    Tab.get d (Tab.mapv d f t) k = f k (Tab.get d t k) := by
  induction t with
  | nil => simp [Tab.mapv, hd]
  | cons e t ih =>
    obtain ⟨j, v⟩ := e
    simp only [Tab.wf, Bool.and_eq_true] at hwf
    obtain ⟨⟨-, habove⟩, hwf'⟩ := hwf
    by_cases hj : j = k
    · subst hj
      have hnone : Tab.get d (Tab.mapv d f t) j = d := Tab.get_above _ _ _ (Tab.above_mapv d f t j habove)
      simp only [Tab.mapv, Tab.get]
      split
      · next hv => rw [hnone]; simp [hv]
      · simp [Tab.get]
    · simp only [Tab.mapv, Tab.get, if_neg hj]
      split
      · exact ih hwf'
      · rw [Tab.get, if_neg hj, ih hwf']

/-- A block as the refill of a group's ready-block lists leaves it (R203). -/
def listReady (s : State) (g b : Nat) (f : FBlk) : FBlk :=
  if chGrp (blkCh b) = g ∧ roleOf s b = .pool ∧ f.erased = true ∧ f.checked = true ∧ f.inUse = false then { f with ready := true } else f

/-- Where no writer waits for a ready block, the refill is the lists' alone (R13, R203). -/
theorem exec_readyListRefill {s : State} (g : Nat) (hr : running s = true) (hw : ∀ c ∈ s.cmds, c.ph ≠ .blockWait) :
    exec (.readyListRefill g) s = .next { s with media := { s.media with blks := Tab.mapv {} (listReady s g) s.media.blks } } := by
  change execReadyListRefill g s = _
  unfold execReadyListRefill
  rw [hr, if_neg (by simp)]
  dsimp only
  congr 1
  exact foldl_eq_self fun c hc => if_neg (hw c hc)

/-- Settles O26: each clause is the lemma above about its event. -/
theorem erasedBlocksAreChecked : Obligations.ErasedBlocksAreChecked := by
  unfold Obligations.ErasedBlocksAreChecked
  intro s l b
  refine ⟨fun o e hc ho hk hs => ?_, fun zeros hc hr hl hint hrole => ⟨fun hz hfree => ?_, fun hz => ?_⟩, fun g hr hwf hw => ?_⟩
  · obtain ⟨honly, hop, hplp, hblk, hrd⟩ := erased_checked (endOp s l) e.blk rfl
    have hlun := sansLuns_endOp s l
    refine ⟨_, exec_eraseDone hc ho hk hs, ((only_of_sansLuns hlun).mono (by simp)).trans honly, ?_, ?_, ?_, hrd⟩
    · rw [hop, op_endOp]
    · rw [hplp, plp_of_sansLuns hlun]
    · rw [hblk, getBlk_of_sansLuns hlun]
      rfl
  · have hcol := sansLuns_collected s l
    have hany : (zeros.any fun z => decide (64 < z)) = false := by
      rw [List.any_eq_false]
      exact fun z hm => by simpa using hz z hm
    refine ⟨_, exec_halfEraseCheck zeros hc hr hint hrole, ?_⟩
    rw [hany, if_neg (by simp), checked_spec (by rwa [getBlk_of_sansLuns hcol, roleOf_of_sansLuns hcol, waitRoles_of_sansLuns hcol])]
    refine ⟨(only_of_sansLuns hcol).trans ((only_modBlk _ _ _).mono (by simp)), ?_⟩
    rw [getBlk_modBlk_self, getBlk_of_sansLuns hcol]
  · have hcol := sansLuns_collected s l
    have hany : (zeros.any fun z => decide (64 < z)) = true := by
      rw [List.any_eq_true]
      obtain ⟨z, hm, hlt⟩ := hz
      exact ⟨z, hm, by simpa using hlt⟩
    have heq := eq_collected s l
    refine ⟨_, exec_halfEraseCheck zeros hc hr hint hrole, ?_⟩
    rw [hany, if_pos rfl]
    have hcnt : Tab.get 0 (mcnt (collected s l) 13 1).hlt.mcnts 13 = Tab.get 0 (collected s l).hlt.mcnts 13 + 1 := by
      dsimp only [mcnt, bump]
      exact Tab.get_upd_self 0 _ _ _
    have hm : Only [.hlt] (collected s l) (mcnt (collected s l) 13 1) := only_hlt _ _
    have hblk : getBlk (mcnt (collected s l) 13 1) b = getBlk (collected s l) b := rfl
    have hlun : getLun (mcnt (collected s l) 13 1) l = getLun (collected s l) l := rfl
    generalize mcnt (collected s l) 13 1 = w at *
    obtain ⟨honly, hb, he, hh⟩ := eraseBlkQ_spec w b
    refine ⟨?_, ?_, ?_, ?_⟩
    · exact (((only_of_sansLuns hcol).mono (by simp)).trans (hm.mono (by simp))).trans (honly.mono (by simp))
    · rw [hb, hblk, getBlk_of_sansLuns hcol]
    · have hnow : w.nowNs = s.nowNs := (hm .nowNs (by simp)).trans (nowNs_of_sansLuns hcol)
      have hj : w.plp = s.plp := (hm .plp (by simp)).trans (plp_of_sansLuns hcol)
      rw [hl] at he
      rw [he, hlun, heq, hnow, hj]
    · rw [hh, hcnt, hlt_of_sansLuns hcol]
  · refine ⟨_, exec_readyListRefill g hr hw, only_media _ _, fun b => ?_⟩
    rw [getBlk]
    exact Tab.get_mapv b (by simp [listReady]) hwf

/-! ### Verify reads -/

/-- The counts of a verify read (Tables 8.10 and 17.7). -/
def verifyCounted (s : State) (n k m : Nat) : State := mcnt (mcnt (tel s 8 n) 0 k) 5 m

theorem only_verifyCounted (s : State) (n k m : Nat) : Only [.hlt] s (verifyCounted s n k m) :=
  ((only_hlt s _).trans (only_hlt (tel s 8 n) _)).trans (only_hlt (mcnt (tel s 8 n) 0 k) _)

theorem verifyMax_verifyCounted (s : State) (n k m : Nat) : (verifyCounted s n k m).hlt.verifyMax = s.hlt.verifyMax := rfl

theorem exec_wordlineVerifyDone {s : State} {l b wl : Nat} (got : List SectorRead) (hc : collects s l = true)
    (hr : runs s l .verify b (if (getBlk s b).oneBit then wl else 4 * wl) = true) (hs : wl ∉ (getBlk s b).safe)
    (hint : (getBlk s b).eraseIntent = false) (hf : (getBlk s b).failed = false) :
    ∃ n k m, exec (.wordlineVerifyDone l b wl got) s = .next (
      let w := verifyCounted (collected s l) n k m
      if verifyOk w (verifySecs s b wl) got then wlSafe w b wl else destinationFailed w b) := by
  refine ⟨(if (getBlk s b).oneBit then 1 else 4) * 65536, decodes got - metaFails (verifySecs s b wl) got, metaFails (verifySecs s b wl) got, ?_⟩
  change execWordlineVerifyDone l b wl got s = _
  unfold execWordlineVerifyDone
  dsimp only
  rw [hc, hr, hint, hf, if_pos (by simp), if_neg (by simpa using hs)]
  rfl

/-- A wordline of a block that no relocation or zone holds is safe: its record alone (R194). -/
theorem wlSafe_spare {s : State} {b wl : Nat} (hr : ∀ e ∈ s.media.relocs, e.2.tgt ≠ some b) (hm : memberAt s b = none) :
    wlSafe s b wl = modBlk s b fun f => { f with safe := f.safe ++ [wl] } := by
  have hnone : (s.media.relocs.find? fun e => e.2.tgt == some b) = none := by
    rw [List.find?_eq_none]
    exact fun e he => by simpa using hr e he
  have hnone' : ((modBlk s b fun f => { f with safe := f.safe ++ [wl] }).media.relocs.find? fun e => e.2.tgt == some b) = none := hnone
  have hm' : memberAt (modBlk s b fun f => { f with safe := f.safe ++ [wl] }) b = none := hm
  unfold wlSafe
  dsimp only
  rw [hnone', hm']

/-- A verify read that passes: every sector decodes within the bound, and passes its check (R194). -/
theorem verifyOk_iff (s : State) (want : List SecReq) (got : List SectorRead) : verifyOk s want got = true ↔
    want.length ≤ got.length ∧ ∀ e ∈ want.zip got, ∃ ok poison n, e.2 = .decoded ok poison n ∧ (ok = true ∨ e.1.ver = 0) ∧ n ≤ s.hlt.verifyMax := by
  simp only [verifyOk, Bool.and_eq_true, decide_eq_true_eq, List.all_eq_true]
  refine and_congr_right fun _ => forall₂_congr fun e _ => ?_
  cases h : e.2 with
  | decoded ok poison n =>
    simp only [Bool.and_eq_true, Bool.or_eq_true, beq_iff_eq, decide_eq_true_eq]
    constructor
    · exact fun hq => ⟨ok, poison, n, rfl, hq⟩
    · rintro ⟨_, _, _, heq, hq⟩
      cases heq
      exact hq
  | failed => simp

/-- Settles O27: the two outcomes of the verify read. -/
theorem verifyReadsEnd : Obligations.VerifyReadsEnd := by
  unfold Obligations.VerifyReadsEnd
  intro s l b wl got hc hr hs hint hf htgt
  obtain ⟨n, k, m, hex⟩ := exec_wordlineVerifyDone got hc hr hs hint hf
  dsimp only at hex
  have hcol := sansLuns_collected s l
  have honly := only_verifyCounted (collected s l) n k m
  have hmax := verifyMax_verifyCounted (collected s l) n k m
  generalize verifyCounted (collected s l) n k m = w at hex honly hmax
  rw [hlt_of_sansLuns hcol] at hmax
  have hmedia : w.media = (collected s l).media := honly .media (by simp)
  have hblk : getBlk w b = getBlk s b := (getBlk_of_only honly (by simp) b).trans (getBlk_of_sansLuns hcol b)
  have hrel : ∀ e ∈ w.media.relocs, e.2.tgt ≠ some b := by rw [hmedia, relocs_of_sansLuns hcol]; exact htgt
  refine ⟨fun hlen hall hmem => ?_, fun hbad => ?_⟩
  · have hok : verifyOk w (verifySecs s b wl) got = true := by rw [verifyOk_iff, hmax]; exact ⟨hlen, hall⟩
    have hmw : memberAt w b = none := (memberAt_of_zones ((honly .zones (by simp)).trans (zones_of_sansLuns hcol)) b).trans hmem
    refine ⟨_, hex, ?_⟩
    rw [hok, if_pos rfl, wlSafe_spare hrel hmw]
    refine ⟨(((only_of_sansLuns hcol).mono (by simp)).trans (honly.mono (by simp))).trans ((only_modBlk _ _ _).mono (by simp)), ?_⟩
    rw [getBlk_modBlk_self, hblk]
  · have hnot : ¬ verifyOk w (verifySecs s b wl) got = true := by
      rw [verifyOk_iff, hmax]
      rintro ⟨hlen, hall⟩
      obtain hlt | ⟨e, he, hfail | ⟨ok, poison, n, hdec, hb⟩⟩ := hbad
      · omega
      · obtain ⟨ok, poison, n, hdec, -⟩ := hall e he
        rw [hfail] at hdec
        cases hdec
      · obtain ⟨ok', poison', n', hdec', hgood, hn⟩ := hall e he
        rw [hdec] at hdec'
        cases hdec'
        obtain ⟨h1, h2⟩ | h3 := hb
        · obtain h | h := hgood
          · rw [h] at h1; cases h1
          · exact h2 h
        · omega
    obtain ⟨hfail, hsafe, -⟩ := destinationFailed_member hrel
    refine ⟨_, hex, ?_⟩
    rw [if_neg hnot, hsafe, hblk]
    exact ⟨hfail, hs⟩

end Sys2Proof.Machine
end

section
/-! PROOFS. The decode tiers of a page read, and the end of soft decode (R167, R188, R190). -/

namespace Sys2Proof.Machine

/-! ### The read that a LUN runs -/

theorem runningRd_of_op {u : Lun} {o : Op} {r : Rd} (hs : u.sub = none) (ho : u.op = some o) (hk : o.k = .rd r) : runningRd u = some r := by
  obtain ⟨k, runNs, ran, tokens, susp, askNs, serve, stream, features⟩ := o
  subst hk
  rw [runningRd, hs, ho]

/-- A read goes on as a further one: its LUN runs it, with LUN Set Features (R167). -/
theorem getLun_setRd_some {s : State} {l : Nat} {r : Rd} (hs : (getLun s l).sub = none) :
    getLun (setRd s l (some r)) l =
      { getLun s l with op := some { k := .rd r, runNs := s.nowNs, tokens := 0, features := true }, loaded := readOffs r } := by
  unfold setRd
  dsimp only [Option.map]
  rw [getLun_countRd, getLun_modLun_self, getLun_modLun_self, hs]
  rfl

theorem only_modLun (s : State) (l : Nat) (f : Lun → Lun) : Only [.media] s (modLun s l f) := only_media _ _
theorem only_chCnt (s : State) (c k n : Nat) : Only [.media] s (chCnt s c k n) := only_media _ _

theorem only_countRd (s : State) (l : Nat) (r : Rd) (stream : Bool) : Only [.media] s (countRd s l r stream) := by
  unfold countRd
  dsimp only
  split
  · exact (only_chCnt _ _ _ _).trans (only_chCnt _ _ _ _)
  · exact only_chCnt _ _ _ _

theorem only_setRd_some (s : State) (l : Nat) (r : Rd) : Only [.media] s (setRd s l (some r)) :=
  ((only_modLun s l _).trans (only_modLun _ l _)).trans (only_countRd _ l r false)

/-- A read that ends leaves its LUN without one (R170). -/
theorem op_setRd_none {s : State} {l : Nat} (hs : (getLun s l).sub = none) : (getLun (setRd s l none) l).op = none := by
  have hm : (getLun (modLun s l fun u => if u.sub.isSome then { u with sub := none } else { u with op := none }) l).op = none := by
    rw [getLun_modLun_self, hs]
    rfl
  unfold setRd
  dsimp only [Option.map]
  split
  · exact (op_of_sansReads (sansReads_unpark _ l l)).trans hm
  · exact hm

theorem idCtr_unpark (s : State) (l : Nat) : (unpark s l).media.idCtr = s.media.idCtr := by
  refine (foldl_field (fun u => u.media.idCtr) (fun u r => enterRd u l r) (fun u r => ?_) _ _).trans rfl
  unfold enterRd
  dsimp only
  split <;> rfl

theorem idCtr_setRd_none (s : State) (l : Nat) : (setRd s l none).media.idCtr = s.media.idCtr := by
  unfold setRd
  dsimp only
  split
  · exact idCtr_unpark _ _
  · rfl

theorem deeps_of_sansLuns {s u : State} (h : sansLuns u = sansLuns s) : u.media.deeps = s.media.deeps := congrArg (fun w => w.media.deeps) h
theorem cmds_of_sansLuns {s u : State} (h : sansLuns u = sansLuns s) : u.cmds = s.cmds := congrArg (fun w => w.cmds) h

/-! ### The tiers -/

/-- The counts of a page read (Tables 8.10 and 17.7). -/
def pageCounted (s : State) (n m p : Nat) : State := mcnt (mcnt (tel s 8 n) 5 m) 6 p

theorem only_pageCounted (s : State) (n m p : Nat) : Only [.hlt] s (pageCounted s n m p) :=
  ((only_hlt s _).trans (only_hlt (tel s 8 n) _)).trans (only_hlt (mcnt (tel s 8 n) 5 m) _)

/-- A read whose one sector fails goes on at its next tier (Table 8.4). -/
theorem exec_flashReadDone_failed {s : State} {l : Nat} {r : Rd} {q : SecReq} (ab : List Nat) (hc : collects s l = true)
    (hr : runningRd (getLun s l) = some r) (h1 : r.why ≠ .calib) (h2 : r.why ≠ .verify) (h3 : r.why ≠ .check) (hq : r.secs = [q])
    (ht : r.tier < 8 ∨ (r.tier = 8 ∧ r.lr = false)) :
    ∃ n m p, exec (.flashReadDone l [.failed] ab) s =
      .next (drainOvf (setRd (pageCounted s n m p) l (some { r with tier := r.tier + 1 })) l) := by
  have hstop : (r.tier == 8 && r.lr) = false := by
    obtain h | ⟨-, h⟩ := ht
    · simp; omega
    · simp [h]
  have hr' : { r with secs := [q], tier := r.tier + 1 } = { r with tier := r.tier + 1 } := by rw [← hq]
  refine ⟨r.secs.length * 4096, 0, 0, ?_⟩
  change execFlashReadDone l [.failed] ab s = _
  unfold execFlashReadDone
  rw [hr]
  dsimp only
  rw [if_neg (by simp [hc, h1, h2, h3]), if_neg (by omega), if_neg (by omega), hq]
  simp only [hstop, secPasses, List.length_singleton, Nat.sub_self, List.replicate_zero, List.append_nil, List.zip_cons_cons, List.zip_nil_left,
    List.filter_cons, List.filter_nil, Bool.not_false, if_true, Bool.false_eq_true, if_false, List.map_cons, List.map_nil, List.isEmpty_cons,
    Bool.or_false, List.any_nil, List.foldl_nil, hr', List.length_nil]
  rfl

theorem exec_flashReadDone_soft {s : State} {l : Nat} {r : Rd} (ab : List Nat) (hc : collects s l = true)
    (hr : runningRd (getLun s l) = some r) (h1 : r.why ≠ .calib) (h2 : r.why ≠ .verify) (h3 : r.why ≠ .check) :
    (r.tier = 9 → exec (.flashReadDone l [] ab) s = .next (setRd (tel s 8 (r.secs.length * 4096)) l (some { r with tier := 10 }))) ∧
    (r.tier = 10 → exec (.flashReadDone l [] ab) s =
      let (w, id) := newId (setRd (tel s 8 (r.secs.length * 4096)) l none)
      .next (drainOvf { w with media := { w.media with deeps := w.media.deeps ++ [(id, { rd := r, secs := r.secs })] } } l)) := by
  refine ⟨fun ht => ?_, fun ht => ?_⟩
  · change execFlashReadDone l [] ab s = _
    unfold execFlashReadDone
    rw [hr]
    dsimp only
    rw [if_neg (by simp [hc, h1, h2, h3]), if_pos ht]
  · change execFlashReadDone l [] ab s = _
    unfold execFlashReadDone
    rw [hr]
    dsimp only
    rw [if_neg (by simp [hc, h1, h2, h3]), if_neg (by omega), if_pos (by omega)]

/-! ### Sectors that nobody recovers -/

/-- That a sector was found unrecovered, and the work beyond the ladder. -/
def deepWork (s : State) : Bool × Tab Deep := (s.hlt.unrec, s.media.deeps)

theorem deepWork_of_only {l : List Part} {s u : State} (h : Only l s u) (h1 : Part.hlt ∉ l) (h2 : Part.media ∉ l) : deepWork u = deepWork s := by
  have hh : u.hlt = s.hlt := h _ h1
  have hm : u.media = s.media := h _ h2
  rw [deepWork, hh, hm, deepWork]

section
variable (s : State)

theorem deepWork_logEv (sev source code : Nat) (pl : List Byte) : deepWork (logEv s sev source code pl) = deepWork s :=
  deepWork_of_only (only_logEv _ _ _ _ _) (by simp) (by simp)

theorem deepWork_setHltBit (b : Nat) : deepWork (setHltBit s b) = deepWork s := by
  unfold setHltBit
  split
  · rfl
  · dsimp only
    split
    · exact (deepWork_of_only (only_firePf0 _ _) (by simp) (by simp)).trans rfl
    · rfl

theorem deepWork_setHltEvt (b inst sev : Nat) : deepWork (setHltEvt s b inst sev) = deepWork s := by
  unfold setHltEvt
  split
  · rfl
  · dsimp only
    split
    · exact ((deepWork_of_only (only_firePf0 _ _) (by simp) (by simp)).trans
        (deepWork_of_only (only_genericEv _ _ _ _ _ _ _) (by simp) (by simp))).trans rfl
    · rfl

theorem deepWork_checkReadOnly : deepWork (checkReadOnly s) = deepWork s := by
  unfold checkReadOnly
  split
  · dsimp only
    rw [foldl_field deepWork _ fun u e => deepWork_of_only (only_noticeTenant u _ _ _ _ _) (by simp) (by simp),
      deepWork_of_only (only_noticePf0 _ _ _ _ _) (by simp) (by simp)]
    split
    · rw [deepWork_of_only (only_firePf0 _ _) (by simp) (by simp), deepWork_of_only (only_genericEv _ _ _ _ _ _ _) (by simp) (by simp)]
      rfl
    · rw [deepWork_of_only (only_genericEv _ _ _ _ _ _ _) (by simp) (by simp)]
      rfl
  · rfl

theorem deepWork_ite {p : Prop} [Decidable p] {a b : State} (ha : deepWork a = deepWork s) (hb : deepWork b = deepWork s) :
    deepWork (if p then a else b) = deepWork s := by
  split <;> assumption

theorem deepWork_loseSpares (g n : Nat) : deepWork (loseSpares s g n) = deepWork s := by
  unfold loseSpares
  dsimp only
  have h0 : deepWork { s with media := { s.media with spareRem := Tab.upd 0 s.media.spareRem g (· - n) } } = deepWork s := rfl
  generalize ({ s with media := { s.media with spareRem := Tab.upd 0 s.media.spareRem g (· - n) } } : State) = w at h0
  have h1 : deepWork (if !spareLow s g && spareLow w g then setHltEvt w 2 g 1 else w) = deepWork s :=
    deepWork_ite s ((deepWork_setHltEvt w _ _ _).trans h0) h0
  generalize (if !spareLow s g && spareLow w g then setHltEvt w 2 g 1 else w) = v at h1
  rw [deepWork_checkReadOnly]
  exact deepWork_ite s ((deepWork_setHltEvt v _ _ _).trans h1) h1

theorem deepWork_askReloc (b : Nat) (why : RelWhy) : deepWork (askReloc s b why) = deepWork s := by
  obtain ⟨r, n, h⟩ := media_askReloc s b why
  rw [deepWork, h, only_askReloc s b why .hlt (by simp), deepWork]

theorem deepWork_retireAs (b reason : Nat) (r : Role) : deepWork (retireAs s b reason r) = deepWork s := by
  unfold retireAs
  refine deepWork_ite s rfl ?_
  dsimp only
  rw [deepWork_checkReadOnly]
  have h0 : deepWork (mcnt (modBlk s b fun f => { f with
      role := some .retired, failed := true, inUse := false, ready := false, retireWhy := reason }) (7 + reason) 1) = deepWork s := rfl
  generalize mcnt (modBlk s b fun f => { f with
      role := some .retired, failed := true, inUse := false, ready := false, retireWhy := reason }) (7 + reason) 1 = w at h0 ⊢
  have h1 : ∀ pl, deepWork (if reason = 1 then w else logEv w 2 (src 0xB (blkLun b)) 0xB003 pl) = deepWork s := fun pl =>
    deepWork_ite s h0 ((deepWork_logEv w _ _ _ _).trans h0)
  exact (deepWork_ite s ((deepWork_loseSpares _ _ _).trans (h1 _)) (h1 _) : deepWork (if r = .spare then loseSpares _ _ 1 else _) = _)

theorem deepWork_condemn (b reason : Nat) : deepWork (condemn s b reason) = deepWork s := by
  unfold condemn
  dsimp only
  exact deepWork_ite s ((deepWork_askReloc _ _ _).trans rfl) ((deepWork_retireAs _ _ _ _).trans rfl)

/-- A sector that nobody recovers is noted as such, and the other work beyond the ladder stays (R190). -/
theorem deepWork_unrecSec (r : Rd) (q : SecReq) : deepWork (unrecSec s r q) = (true, s.media.deeps) := by
  unfold unrecSec
  dsimp only
  rw [deepWork_condemn]
  generalize hw : logEv s 3 (src 0xB (blkLun r.blk)) 0xB001 (secPayload s r.blk r.page q) = w
  have hm : deepWork w = deepWork s := by rw [← hw, deepWork_logEv]
  change deepWork (setHltBit (mcnt { w with hlt := { w.hlt with unrec := true } } 4 1) 4) = _
  rw [deepWork_setHltBit]
  exact congrArg (fun x => (true, x.2)) hm

end

/-- A sector of a patrol read that no parity group can rebuild is unrecovered (R190). -/
theorem startRebuild_patrol {s : State} {r : Rd} {q : SecReq} (hw : r.why = .patrol) (hp : partners s r.blk r.page q = none) :
    startRebuild s r q = unrecSec s r q := by
  have hread : readMoved s r q = loseSec s r q := by
    unfold readMoved
    rw [hw]
  rw [startRebuild, hp]
  dsimp only
  rw [hread, loseSec, secEnd, hw]
  rfl

theorem getDeep_dropped (s : State) (id : Nat) : getDeep (dropDeep s id) id = none := by
  have h : ((s.media.deeps.filter fun e => e.1 != id).find? fun e => e.1 == id) = none := by
    rw [List.find?_eq_none]
    intro e he
    have := (List.mem_filter.mp he).2
    simpa using this
  rw [getDeep, dropDeep]
  exact congrArg (Option.map Prod.snd) h

/-- Soft decode of a patrol read's one sector: what it comes to by the decoder's word (R188). -/
theorem exec_softDecodeDone_patrol {s : State} {id : Nat} {d : Deep} {q : SecReq} (ok : Bool) (ha : alive s = true) (hp : s.rst.actState = 0)
    (hd : getDeep s id = some d) (hr : d.rebuild = false) (hc : d.cipher = false) (hw : d.rd.why = .patrol) (hq : d.secs = [q])
    (hl : lostSec s q = false) (hpo : isPoison s q = false) :
    exec (.softDecodeDone id [ok] [false] []) s =
      .next (if ok then askReloc (mcnt (dropDeep s id) 2 1) d.rd.blk .retention else startRebuild (dropDeep s id) d.rd q) := by
  have hpause : paused s = false := by simp [paused, hp]
  have hl' : lostSec (dropDeep s id) q = false := hl
  have hpo' : isPoison (dropDeep s id) q = false := hpo
  change execSoftDecodeDone id [ok] [false] [] s = _
  unfold execSoftDecodeDone
  rw [hd]
  dsimp only
  rw [if_neg (by simp [hr, hc, ha, hpause]), hq]
  cases ok with
  | true => simp [nth, hw, hl', hpo', secEnd]
  | false => simp [nth, hw]

/-- Settles O23: the tiers by the lemmas about a read's end, soft decode by the one about its sector. -/
theorem decodeTiersFollow : Obligations.DecodeTiersFollow := by
  unfold Obligations.DecodeTiersFollow
  refine ⟨fun s l o r q ab hc ho hk hs hov h1 h2 h3 => ⟨fun hq ht => ?_, fun ht => ?_, fun ht => ?_⟩, ?_⟩
  · obtain ⟨n, m, p, hex⟩ := exec_flashReadDone_failed ab hc (runningRd_of_op hs ho hk) h1 h2 h3 hq ht
    have honly := only_pageCounted s n m p
    have hlun := getLun_of_only honly (by simp) l
    have hnow : (pageCounted s n m p).nowNs = s.nowNs := honly .nowNs (by simp)
    generalize pageCounted s n m p = w at hex honly hlun hnow
    have hset := getLun_setRd_some (r := { r with tier := r.tier + 1 }) (show (getLun w l).sub = none by rw [hlun, hs])
    have honly2 := only_setRd_some w l { r with tier := r.tier + 1 }
    generalize setRd w l (some { r with tier := r.tier + 1 }) = v at hex hset honly2
    rw [drainOvf_nil (by rw [hset, hlun]; exact hov)] at hex
    refine ⟨v, hex, by rw [hset, hnow], ?_, ?_⟩
    · exact (honly2 .cmds (by simp)).trans (honly .cmds (by simp))
    · exact (honly2 .vers (by simp)).trans (honly .vers (by simp))
  · have hex := (exec_flashReadDone_soft ab hc (runningRd_of_op hs ho hk) h1 h2 h3).1 ht
    have honly : Only [.hlt] s (tel s 8 (r.secs.length * 4096)) := only_hlt _ _
    generalize tel s 8 (r.secs.length * 4096) = w at hex honly
    have hnow : w.nowNs = s.nowNs := honly .nowNs (by simp)
    have hset := getLun_setRd_some (r := { r with tier := 10 }) (show (getLun w l).sub = none by rw [getLun_of_only honly (by simp), hs])
    refine ⟨_, hex, by rw [hset, hnow], ?_⟩
    exact (only_setRd_some w l _ .cmds (by simp)).trans (honly .cmds (by simp))
  · have hex := (exec_flashReadDone_soft ab hc (runningRd_of_op hs ho hk) h1 h2 h3).2 ht
    have honly : Only [.hlt] s (tel s 8 (r.secs.length * 4096)) := only_hlt _ _
    generalize tel s 8 (r.secs.length * 4096) = w at hex honly
    have hmedia : w.media = s.media := honly .media (by simp)
    have hop := op_setRd_none (show (getLun w l).sub = none by rw [getLun_of_only honly (by simp), hs])
    have hid := idCtr_setRd_none w l
    have hlun := sansLuns_setRd_none w l
    generalize setRd w l none = v at hex hop hid hlun
    have hdrain := sansLuns_drainOvf { (newId v).1 with media := { (newId v).1.media with
      deeps := (newId v).1.media.deeps ++ [((newId v).2, { rd := r, secs := r.secs })] } } l
    have hreads := sansReads_drainOvf { (newId v).1 with media := { (newId v).1.media with
      deeps := (newId v).1.media.deeps ++ [((newId v).2, { rd := r, secs := r.secs })] } } l l
    refine ⟨_, hex, (op_of_sansReads hreads).trans hop, (deeps_of_sansLuns hdrain).trans ?_, ?_⟩
    · change v.media.deeps ++ [(v.media.idCtr, _)] = _
      rw [hid, deeps_of_sansLuns hlun, hmedia]
    · exact (cmds_of_sansLuns hdrain).trans ((cmds_of_sansLuns hlun).trans (honly .cmds (by simp)))
  · intro s id d q ha hp hd hr hc hw hq hl hpo
    refine ⟨exec_softDecodeDone_patrol true ha hp hd hr hc hw hq hl hpo, fun hpart => ?_⟩
    have hex := exec_softDecodeDone_patrol false ha hp hd hr hc hw hq hl hpo
    rw [if_neg (by simp), startRebuild_patrol hw hpart] at hex
    have hwork := deepWork_unrecSec (dropDeep s id) d.rd q
    refine ⟨_, hex, congrArg Prod.fst hwork, ?_⟩
    have hdeeps : (unrecSec (dropDeep s id) d.rd q).media.deeps = (dropDeep s id).media.deeps := congrArg Prod.snd hwork
    rw [← getDeep_dropped s id, getDeep, hdeeps, getDeep]

end Sys2Proof.Machine
end

section
/-! PROOFS. The head cache of the free stack, and charges that are presented again (R213, R222, R226). -/

namespace Sys2Proof.Machine

/-! ### The head cache -/

theorem spillHead_spec {b : Bpm} (h : 6144 < b.head) : ∃ m, spillHead b = { b with head := b.head - 16 * m, stack := b.stack + 16 * m } ∧
    16 * m ≤ b.head ∧ 4080 < b.head - 16 * m ∧ b.head - 16 * m ≤ 4096 := by
  refine ⟨cdiv (b.head - 4096) 16, ?_, ?_⟩
  · rw [spillHead, Nat.mul_comm 16]
  · unfold cdiv
    omega

theorem refillHead_deep {b : Bpm} (h : b.head < 2048) (hs : 4096 ≤ b.stack) :
    ∃ m, refillHead b = { b with head := b.head + 16 * m, stack := b.stack - 16 * m } ∧ 16 * m ≤ b.stack ∧
      4096 ≤ b.head + 16 * m ∧ b.head + 16 * m < 4112 := by
  have hm : min (cdiv (4096 - b.head) 16 * 16) b.stack = 16 * cdiv (4096 - b.head) 16 := by
    unfold cdiv
    omega
  refine ⟨cdiv (4096 - b.head) 16, ?_, ?_⟩
  · unfold refillHead
    dsimp only
    rw [hm]
  · unfold cdiv
    omega

theorem refillHead_shallow {b : Bpm} (hs : b.stack + b.head ≤ 4096) : refillHead b = { b with head := b.head + b.stack, stack := 0 } := by
  have hm : min (cdiv (4096 - b.head) 16 * 16) b.stack = b.stack := by
    unfold cdiv
    omega
  unfold refillHead
  dsimp only
  rw [hm, Nat.sub_self]

theorem exec_bpmSpill {s : State} (hr : s.bpm.ready = true) (h : 6144 < s.bpm.head) :
    exec .bpmSpill s = .next { s with bpm := spillHead s.bpm } := by
  change execBpmSpill s = _
  rw [execBpmSpill, hr, if_pos (by simpa using h)]

theorem exec_bpmRefill {s : State} (hr : s.bpm.ready = true) (h : s.bpm.head < 2048) :
    exec .bpmRefill s = .next { s with bpm := refillHead s.bpm } := by
  change execBpmRefill s = _
  rw [execBpmRefill, hr, if_pos (by simpa using h)]

/-! ### Requests that wait to be presented again -/

/-- The state once a request that was refused is taken from those that wait (R222). -/
def presented (s : State) (e : Nat × Nat × Nat) : State := { s with bpm := { s.bpm with retries := s.bpm.retries.erase e } }

theorem takeRetry_due {s : State} {k n after : Nat} {e : Nat × Nat × Nat} (hf : s.bpm.retries.find? (fun e => e.1 == k && e.2.1 == n) = some e)
    (h : e.2.2 + after ≤ s.nowNs) : takeRetry s k n after = some (presented s e) := by
  unfold takeRetry
  rw [hf]
  exact if_pos h

/-- A lost tie is a count (R221). -/
theorem tieCount_eq (s : State) (r k n : Nat) (tie : Bool) : ∃ t, tieCount s r k n tie = { s with bpm := { s.bpm with tie := t } } := by
  unfold tieCount
  split
  · exact ⟨_, rfl⟩
  · exact ⟨s.bpm.tie, rfl⟩

/-- A refused charge waits again: counted, and nothing charged (R222). -/
theorem backOff_spec (s : State) (k n : Nat) : Only [.bpm] s (backOff s k n) ∧ (backOff s k n).bpm.retries = s.bpm.retries ++ [(k, n, s.nowNs)] ∧
    (backOff s k n).bpm.charges = s.bpm.charges ∧
    Tab.get 0 (backOff s k n).bpm.backoff (k - kFold) = satAdd 0xFFFFFFFF (Tab.get 0 s.bpm.backoff (k - kFold)) 1 := by
  refine ⟨only_bpm s _, rfl, rfl, ?_⟩
  dsimp only [backOff, chargeRefused]
  exact Tab.get_upd_self 0 _ _ _

/-! ### Pops -/

theorem only_refillMiss (s : State) (r k : Nat) : Only [.bpm, .tenants, .pa, .pb, .out, .evr] s (refillMiss s r k) := by
  unfold refillMiss
  refine Only.ite ?_ (Only.refl _ _)
  dsimp only
  refine Only.trans ?_ ((only_logUpTo _ _ _ _ _ _).mono (by simp))
  refine Only.trans ?_ ((only_bpm _ _).mono (by simp))
  split
  · exact ((only_bpm s _).mono (by simp)).trans ((only_tenants _ _).mono (by simp))
  · exact (only_bpm s _).mono (by simp)

theorem only_discardEntry (s : State) (w : Nat) : Only [.bpm, .pa, .pb, .out, .evr] s (discardEntry s w) :=
  (((only_bpm s _).trans (only_bpm (setBpmBit s _) _)).mono (by simp)).trans ((only_logEv _ _ _ _ _).mono (by simp))

/-- What pops may change: no stored data, no command, no block. -/
def popParts : List Part := [.bpm, .tenants, .mep, .freeCtr, .pa, .pb, .out, .evr]

theorem only_drawn (s : State) (n : Nat) (b : Bpm) : Only popParts s { s with freeCtr := n, bpm := b } :=
  ((only_freeCtr s n).mono (by simp [popParts])).trans ((only_bpm { s with freeCtr := n } b).mono (by simp [popParts]))

/-- The requests that wait and what is charged. -/
def pledged (s : State) : List (Nat × Nat × Nat) × Tab Nat := (s.bpm.retries, s.bpm.charges)

theorem pledged_of_only {l : List Part} {s u : State} (h : Only l s u) (hl : Part.bpm ∉ l) : pledged u = pledged s := by
  have hb : u.bpm = s.bpm := h _ hl
  rw [pledged, hb, pledged]

theorem pledged_refillMiss (s : State) (r k : Nat) : pledged (refillMiss s r k) = pledged s := by
  unfold refillMiss
  split
  · dsimp only
    rw [pledged_of_only (only_logUpTo _ _ _ _ _ _) (by simp)]
    split <;> rfl
  · rfl

theorem pledged_discardEntry (s : State) (w : Nat) : pledged (discardEntry s w) = pledged s :=
  (pledged_of_only (only_logEv _ _ _ _ _) (by simp)).trans rfl

theorem takeEntry_spec (r k n : Nat) (s : State) : Only popParts s (takeEntry r k n s).1 ∧ pledged (takeEntry r k n s).1 = pledged s := by
  have hmiss : ∀ u : State, Only popParts u (refillMiss u r k) := fun u => (only_refillMiss u r k).mono (by simp [popParts])
  have hzero : ∀ u, Only popParts u (takeEntry r k 0 u).1 ∧ pledged (takeEntry r k 0 u).1 = pledged u := fun u => by
    unfold takeEntry
    exact ⟨(hmiss u).trans (only_drawn _ _ _), pledged_refillMiss u r k⟩
  induction n generalizing s with
  | zero => exact hzero s
  | succ n ih =>
    unfold takeEntry
    split
    · exact hzero s
    · dsimp only
      have h1 := (hmiss s).trans (only_drawn (refillMiss s r k) ((refillMiss s r k).freeCtr + 1)
        { (refillMiss s r k).bpm with head := (refillMiss s r k).bpm.head - 1 })
      split
      · exact ⟨h1, pledged_refillMiss s r k⟩
      · refine ⟨(h1.trans ?_).trans (ih _).1, (ih _).2.trans ((pledged_discardEntry _ _).trans (pledged_refillMiss s r k))⟩
        exact ((only_bpm _ _).mono (by simp [popParts])).trans ((only_discardEntry _ _).mono (by simp [popParts]))

theorem only_popped (s : State) (b : Bpm) (m : Mep) : Only popParts s { s with bpm := b, mep := m } :=
  ((only_bpm s b).mono (by simp [popParts])).trans ((only_mep { s with bpm := b } m).mono (by simp [popParts]))

theorem popBuf_spec (s : State) (r k : Nat) : Only popParts s (popBuf s r k).1 ∧ pledged (popBuf s r k).1 = pledged s := by
  obtain ⟨h1, h2⟩ := takeEntry_spec r k s.bpm.spoilt.length s
  unfold popBuf
  dsimp only
  generalize takeEntry r k s.bpm.spoilt.length s = e at h1 h2 ⊢
  exact ⟨h1.trans (only_popped e.1 _ _), h2⟩

theorem popBufs_spec (s : State) (r k n : Nat) : Only popParts s (popBufs s r k n).1 ∧ pledged (popBufs s r k n).1 = pledged s := by
  induction n generalizing s with
  | zero => exact ⟨Only.refl _ _, rfl⟩
  | succ n ih =>
    obtain ⟨h1, h2⟩ := popBuf_spec s r k
    obtain ⟨h3, h4⟩ := ih (popBuf s r k).1
    exact ⟨h1.trans h3, h4.trans h2⟩

/-! ### Folds -/

/-- Nothing that a fold group's passes queue makes it wait for a charge: only flash records change. -/
def FoldKept (n : Nat) (s u : State) : Prop := Only [.media] s u ∧ (getFold u n).waiting = (getFold s n).waiting

theorem FoldKept.refl (n : Nat) (s : State) : FoldKept n s s := ⟨Only.refl _ _, rfl⟩
theorem FoldKept.trans {n : Nat} {s u w : State} (h : FoldKept n s u) (h' : FoldKept n u w) : FoldKept n s w :=
  ⟨h.1.trans h'.1, h'.2.trans h.2⟩

theorem foldKept_foldl {α : Type} {n : Nat} {f : State → α → State} (h : ∀ s x, FoldKept n s (f s x)) (l : List α) (s : State) :
    FoldKept n s (l.foldl f s) := by
  induction l generalizing s with
  | nil => exact FoldKept.refl _ _
  | cons x l ih => exact (h s x).trans (ih _)

theorem foldKept_of_folds {n : Nat} {s u : State} (h : Only [.media] s u) (hf : u.media.folds = s.media.folds) : FoldKept n s u :=
  ⟨h, by rw [getFold, hf, getFold]⟩

theorem foldKept_modFold (n id : Nat) (s : State) {f : Fold → Fold} (hf : ∀ x, (f x).waiting = x.waiting) : FoldKept n s (modFold s id f) := by
  refine ⟨only_media _ _, ?_⟩
  by_cases h : n = id
  · subst h
    rw [getFold, modFold, Tab.get_upd_self, hf, getFold]
  · rw [getFold, modFold, Tab.get_upd_ne _ _ _ _ _ h, getFold]

theorem enterRd_eq (s : State) (l : Nat) (r : Rd) : ∃ f, enterRd s l r = modLun s l f := by
  unfold enterRd
  dsimp only
  split <;> exact ⟨_, rfl⟩

/-- A read that is queued changes its LUN and the number of queued work. -/
theorem queueRd_eq (s : State) (why : Why) (cls order b page : Nat) (qlc : Bool) (secs : List SecReq) (lr : Bool) :
    ∃ f, (queueRd s why cls order b page qlc secs lr).1 = modLun (newId s).1 (blkLun b) f := enterRd_eq _ _ _

theorem only_queueRd (s : State) (why : Why) (cls order b page : Nat) (qlc : Bool) (secs : List SecReq) (lr : Bool) :
    Only [.media] s (queueRd s why cls order b page qlc secs lr).1 := by
  obtain ⟨f, h⟩ := queueRd_eq s why cls order b page qlc secs lr
  rw [h]
  exact (only_media s _).trans (only_modLun (newId s).1 _ _)

theorem foldKept_queueRd (n : Nat) (s : State) (why : Why) (cls order b page : Nat) (qlc : Bool) (secs : List SecReq) (lr : Bool) :
    FoldKept n s (queueRd s why cls order b page qlc secs lr).1 := by
  obtain ⟨f, h⟩ := queueRd_eq s why cls order b page qlc secs lr
  exact foldKept_of_folds (only_queueRd _ _ _ _ _ _ _ _ _) (by rw [h]; rfl)

theorem only_queuePg (s : State) (k : PgKind) (b page : Nat) (fua bg : Bool) : Only [.media] s (queuePg s k b page fua bg) :=
  (only_media s _).trans (only_modLun (newId s).1 _ _)

theorem foldKept_queuePg (n : Nat) (s : State) (k : PgKind) (b page : Nat) (fua bg : Bool) : FoldKept n s (queuePg s k b page fua bg) :=
  foldKept_of_folds (only_queuePg _ _ _ _ _ _) rfl

theorem foldKept_ite {n : Nat} {p : Prop} [Decidable p] {s a b : State} (ha : FoldKept n s a) (hb : FoldKept n s b) :
    FoldKept n s (if p then a else b) := by
  split <;> assumption

theorem foldKept_queueQlc (n : Nat) (s : State) (coarse fine : PgKind) (b wl : Nat) (last bg : Bool) :
    FoldKept n s (queueQlc s coarse fine b wl last bg) := by
  have h1 := foldKept_queuePg n s coarse b wl false bg
  have h2 : ∀ u : State, FoldKept n u (if (getBlk u b).fine < wl then queuePg u fine b (wl - 1) false bg else u) := fun u =>
    foldKept_ite (foldKept_queuePg n u _ _ _ _ _) (FoldKept.refl n u)
  exact (h1.trans (h2 _)).trans (foldKept_ite (foldKept_queuePg n _ _ _ _ _ _) (FoldKept.refl n _))

theorem foldKept_queueVerify (n : Nat) (s : State) (b wl : Nat) : FoldKept n s (queueVerify s b wl) := by
  obtain h | ⟨page, q, h⟩ := queueVerify_cases s b wl
  · rw [h]; exact FoldKept.refl n s
  · rw [h]; exact foldKept_queueRd n s _ _ _ _ _ _ _ _

theorem foldKept_queuePasses (n : Nat) (s : State) (fid : Nat) (f : Fold) (m b : Nat) : FoldKept n s (queuePasses s fid f m b) :=
  foldKept_ite (foldKept_ite (foldKept_queueVerify n s _ _) (FoldKept.refl n s)) (foldKept_queueQlc n s _ _ _ _ _ _)

theorem foldKept_pumpFolds (n : Nat) (s : State) (t z : Nat) : FoldKept n s (pumpFolds s t z) := by
  have hdone : ∀ (u : State) (e : Nat) (m : Nat), FoldKept n u (modFold u e fun g => { g with todo := g.todo.filter (· != m) }) := fun u e m =>
    foldKept_modFold n e u fun _ => rfl
  refine foldKept_foldl (fun u e => ?_) _ s
  dsimp only
  refine foldKept_ite (FoldKept.refl n u) (foldKept_foldl (fun w m => ?_) _ u)
  split
  · exact hdone _ _ _
  · exact FoldKept.refl n w
  · exact foldKept_ite (FoldKept.refl n w) ((foldKept_queuePasses n w _ _ _ _).trans (hdone _ _ _))

/-- The source reads of a fold group leave it with its charge (R193). -/
theorem foldReads_spec (s : State) (n : Nat) : Only [.media] s (foldReads s n) ∧ (getFold (foldReads s n) n).waiting = false := by
  unfold foldReads
  dsimp only
  generalize (groupPages ((getFold s n).vers.flatMap fun v => match (getVer s v).loc with
    | .uc _ => flashPlace s v
    | _ => [])) = pages
  have h0 : Only [.media] s (modFold s n fun f => { f with readsLeft := sumBy (fun g => g.2.2.2.length) pages, waiting := false }) := only_media _ _
  have hw : (getFold (modFold s n fun f => { f with readsLeft := sumBy (fun g => g.2.2.2.length) pages, waiting := false }) n).waiting = false := by
    rw [getFold, modFold, Tab.get_upd_self]
  generalize (modFold s n fun f => { f with readsLeft := sumBy (fun g => g.2.2.2.length) pages, waiting := false }) = w at h0 hw ⊢
  have h1 := foldKept_foldl (n := n) (fun u (g : Nat × Nat × Bool × List SecReq) =>
    foldKept_queueRd n u (.fold n) 3 n g.1 g.2.1 g.2.2.1 g.2.2.2 false) pages w
  have h2 := h1.trans (foldKept_ite (p := pages.isEmpty) (foldKept_pumpFolds n _ (getFold s n).tenant (getFold s n).zone) (FoldKept.refl n _))
  exact ⟨h0.trans h2.1, h2.2.trans hw⟩

theorem modFold_same {s : State} {n : Nat} (h : (getFold s n).waiting = true) : getFold (modFold s n fun f => { f with waiting := true }) n = getFold s n := by
  rw [getFold, modFold, Tab.get_upd_self]
  change { getFold s n with waiting := true } = getFold s n
  rw [← h]

/-- A fold group's charge of `k` buffers refused: it waits again (R222). -/
theorem beginFold_refused {s : State} {n k : Nat} (hk : k = if (getFold s n).vers.isEmpty then 0 else foldNeed s (getFold s n))
    (h : chargeOk s.bpm kFold k = false) : beginFold s n = backOff (modFold s n fun f => { f with waiting := true }) kFold n := by
  unfold beginFold
  dsimp only
  rw [← hk, h, if_neg (by simp)]

/-- A fold group's charge of `k` buffers granted: it begins (R219). -/
theorem beginFold_granted {s : State} {n k : Nat} (hk : k = if (getFold s n).vers.isEmpty then 0 else foldNeed s (getFold s n))
    (h : chargeOk s.bpm kFold k = true) :
    pledged (beginFold s n) = (s.bpm.retries, bump s.bpm.charges kFold k) ∧ (getFold (beginFold s n) n).waiting = false := by
  unfold beginFold
  dsimp only
  rw [← hk, h, if_pos rfl]
  obtain ⟨-, hpl⟩ := popBufs_spec { s with bpm := charge s.bpm kFold k }
    (quadReq (((getZone s (getFold s n).tenant (getFold s n).zone).members.head?.map Member.ch).getD 0)) kFold k
  generalize popBufs { s with bpm := charge s.bpm kFold k }
    (quadReq (((getZone s (getFold s n).tenant (getFold s n).zone).members.head?.map Member.ch).getD 0)) kFold k = w at hpl ⊢
  obtain ⟨h1, h2⟩ := foldReads_spec (modFold w.1 n fun f => { f with bufs := f.bufs ++ w.2 }) n
  exact ⟨(pledged_of_only h1 (by simp)).trans hpl, h2⟩

/-! ### Relocations -/

theorem relocs_of_only {l : List Part} {s u : State} (h : Only l s u) (hl : Part.media ∉ l) : u.media.relocs = s.media.relocs := by
  have hm : u.media = s.media := h _ hl
  rw [hm]

theorem relocs_foldl {α : Type} (f : State → α → State) (h : ∀ u x, (f u x).media.relocs = u.media.relocs) (l : List α) (s : State) :
    (l.foldl f s).media.relocs = s.media.relocs := foldl_field (fun u => u.media.relocs) f h l s

section
variable (s : State)

theorem relocs_ite {p : Prop} [Decidable p] {a b : State} (ha : a.media.relocs = s.media.relocs) (hb : b.media.relocs = s.media.relocs) :
    (if p then a else b).media.relocs = s.media.relocs := by
  split <;> assumption

theorem relocs_queueRd (why : Why) (cls order b page : Nat) (qlc : Bool) (secs : List SecReq) (lr : Bool) :
    (queueRd s why cls order b page qlc secs lr).1.media.relocs = s.media.relocs := relocs_of_sansLuns (sansLuns_queueRd _ _ _ _ _ _ _ _ _)

theorem relocs_queueQlc (coarse fine : PgKind) (b wl : Nat) (last bg : Bool) : (queueQlc s coarse fine b wl last bg).media.relocs = s.media.relocs :=
  relocs_ite s (relocs_ite s rfl rfl) (relocs_ite s rfl rfl)

theorem relocs_queuePasses (fid : Nat) (f : Fold) (m b : Nat) : (queuePasses s fid f m b).media.relocs = s.media.relocs :=
  relocs_ite s (relocs_ite s (relocs_of_sansLuns (sansLuns_queueVerify _ _ _)) rfl) (relocs_queueQlc s _ _ _ _ _ _)

theorem relocs_pumpFolds (t z : Nat) : (pumpFolds s t z).media.relocs = s.media.relocs := by
  refine relocs_foldl _ (fun u e => ?_) _ s
  dsimp only
  refine relocs_ite u rfl (relocs_foldl _ (fun w m => ?_) _ u)
  split
  · rfl
  · rfl
  · exact relocs_ite w rfl (relocs_queuePasses w _ _ _ _)

theorem relocs_foldReads (id : Nat) : (foldReads s id).media.relocs = s.media.relocs := by
  unfold foldReads
  dsimp only
  refine relocs_ite s ?_ ?_
  · rw [relocs_pumpFolds, relocs_foldl _ fun u g => relocs_queueRd u _ _ _ _ _ _ _ _]
    rfl
  · rw [relocs_foldl _ fun u g => relocs_queueRd u _ _ _ _ _ _ _ _]
    rfl

theorem relocs_popBufs (r k m : Nat) : (popBufs s r k m).1.media.relocs = s.media.relocs :=
  relocs_of_only (popBufs_spec s r k m).1 (by simp [popParts])

theorem relocs_beginFold (id : Nat) : (beginFold s id).media.relocs = s.media.relocs := by
  unfold beginFold
  dsimp only
  refine relocs_ite s ?_ rfl
  rw [relocs_foldReads]
  exact relocs_popBufs { s with bpm := charge s.bpm kFold (if (getFold s id).vers.isEmpty then 0 else foldNeed s (getFold s id)) } _ _ _

theorem relocs_refold (id m : Nat) : (refold s id m).media.relocs = s.media.relocs := by
  unfold refold
  dsimp only
  refine relocs_ite s rfl (relocs_ite s ?_ ?_)
  · exact (relocs_pumpFolds _ _ _).trans rfl
  · exact (relocs_beginFold _ _).trans rfl

theorem relocs_relIssued (id : Nat) (x : Reloc) (b : Nat) : (relIssued s id x b).media.relocs = s.media.relocs := by
  unfold relIssued
  dsimp only
  refine relocs_ite s (relocs_foldl _ (fun u k => relocs_queueQlc u _ _ _ _ _ _) _ s) ?_
  split
  · rfl
  · exact (relocs_pumpFolds _ _ _).trans (relocs_foldl _ (fun u f => relocs_refold u f _) _ s)

end

/-- A relocation that waits for no charge goes on without one. -/
def RelKept (n : Nat) (s u : State) : Prop := (getReloc s n).waiting = false → (getReloc u n).waiting = false

theorem RelKept.refl (n : Nat) (s : State) : RelKept n s s := id
theorem RelKept.trans {n : Nat} {s u w : State} (h : RelKept n s u) (h' : RelKept n u w) : RelKept n s w := fun hs => h' (h hs)

theorem relKept_of_relocs {n : Nat} {s u : State} (h : u.media.relocs = s.media.relocs) : RelKept n s u := by
  intro hs
  rw [getReloc, h]
  exact hs

theorem relKept_of_only {n : Nat} {l : List Part} {s u : State} (h : Only l s u) (hl : Part.media ∉ l) : RelKept n s u :=
  relKept_of_relocs (relocs_of_only h hl)

theorem relKept_foldl {α : Type} {n : Nat} {f : State → α → State} (h : ∀ s x, RelKept n s (f s x)) (l : List α) (s : State) :
    RelKept n s (l.foldl f s) := by
  induction l generalizing s with
  | nil => exact RelKept.refl _ _
  | cons x l ih => exact (h s x).trans (ih _)

theorem relKept_modReloc (n id : Nat) (s : State) {f : Reloc → Reloc} (hf : ∀ x, x.waiting = false → (f x).waiting = false) :
    RelKept n s (modReloc s id f) := by
  intro hs
  by_cases h : n = id
  · subst h
    rw [getReloc, modReloc, Tab.get_upd_self]
    exact hf _ hs
  · rw [getReloc, modReloc, Tab.get_upd_ne _ _ _ _ _ h]
    exact hs

theorem relKept_ite {n : Nat} {p : Prop} [Decidable p] {s a b : State} (ha : RelKept n s a) (hb : RelKept n s b) :
    RelKept n s (if p then a else b) := by
  split <;> assumption

section
variable (n : Nat) (s : State)

theorem relKept_askReloc (b : Nat) (why : RelWhy) : RelKept n s (askReloc s b why) := by
  unfold askReloc
  split
  · exact relKept_ite (relKept_modReloc n _ s fun _ h => h) (RelKept.refl n s)
  · refine relKept_ite (RelKept.refl n s) ?_
    exact (relKept_of_relocs rfl : RelKept n s (newId s).1).trans (relKept_modReloc n _ _ fun _ _ => rfl)

theorem relKept_loseSpares (g m : Nat) : RelKept n s (loseSpares s g m) := by
  have hset : ∀ (p : Prop) [Decidable p] (u : State) b i v, RelKept n u (if p then setHltEvt u b i v else u) := fun p _ u b i v =>
    relKept_ite (relKept_of_only (only_setHltEvt u b i v) (by simp [healthParts])) (RelKept.refl n u)
  unfold loseSpares
  dsimp only
  refine RelKept.trans ?_ (relKept_of_only (only_checkReadOnly _) (by simp [healthParts]))
  exact ((relKept_of_relocs rfl : RelKept n s { s with media := { s.media with spareRem := Tab.upd 0 s.media.spareRem g (· - m) } }).trans
    (hset _ _ _ _ _)).trans (hset _ _ _ _ _)

theorem relKept_retireAs (b reason : Nat) (r : Role) : RelKept n s (retireAs s b reason r) := by
  unfold retireAs
  refine relKept_ite (RelKept.refl n s) ?_
  dsimp only
  refine RelKept.trans ?_ (relKept_of_only (only_checkReadOnly _) (by simp [healthParts]))
  have h0 : RelKept n s (mcnt (modBlk s b fun f => { f with
      role := some .retired, failed := true, inUse := false, ready := false, retireWhy := reason }) (7 + reason) 1) := relKept_of_relocs rfl
  generalize mcnt (modBlk s b fun f => { f with
      role := some .retired, failed := true, inUse := false, ready := false, retireWhy := reason }) (7 + reason) 1 = w at h0 ⊢
  have h1 : ∀ pl, RelKept n s (if reason = 1 then w else logEv w 2 (src 0xB (blkLun b)) 0xB003 pl) := fun pl =>
    relKept_ite h0 (h0.trans (relKept_of_only (only_logEv _ _ _ _ _) (by simp)))
  have h2 : ∀ u : State, RelKept n s u → RelKept n s (if r = .spare then loseSpares u (chGrp (blkCh b)) 1 else u) := fun u hu =>
    relKept_ite (hu.trans (relKept_loseSpares n u _ _)) hu
  exact (h2 _ (h1 _)).trans (relKept_of_relocs rfl)

theorem relKept_condemn (b reason : Nat) : RelKept n s (condemn s b reason) := by
  unfold condemn
  dsimp only
  exact (relKept_of_relocs rfl : RelKept n s (modBlk s b _)).trans
    (relKept_ite (relKept_askReloc n _ _ _) (relKept_retireAs n _ _ _ _))

theorem only_setHltBit (b : Nat) : Only healthParts s (setHltBit s b) := by
  have h := (only_hlt s { s.hlt with evt := setBit s.hlt.evt b }).mono (m := healthParts) (by simp [healthParts])
  exact Only.ite (Only.refl _ _) (Only.ite (h.andThen (only_firePf0 _ _) (by simp [healthParts])) h)

theorem relKept_unrecSec (r : Rd) (q : SecReq) : RelKept n s (unrecSec s r q) := by
  unfold unrecSec
  dsimp only
  refine RelKept.trans ?_ (relKept_condemn n _ _ _)
  refine RelKept.trans ?_ (relKept_of_only (only_vers _ _) (by simp))
  refine RelKept.trans ?_ (relKept_of_only (only_setHltBit _ _) (by simp [healthParts]))
  exact (relKept_of_only (only_logEv s _ _ _ _) (by simp)).trans (relKept_of_relocs rfl)

theorem relKept_relPrograms (id : Nat) : RelKept n s (relPrograms s id) := by
  unfold relPrograms
  dsimp only
  split
  · exact RelKept.refl n s
  · next b _ =>
    have h0 : RelKept n s (modReloc s id fun x => { x with next := x.next + 1 }) := relKept_modReloc n id s fun _ h => h
    generalize (modReloc s id fun x => { x with next := x.next + 1 }) = w at h0 ⊢
    have h1 : ∀ (p : Prop) [Decidable p] wl, RelKept n s (if p then queueQlc w (.reloc id 1) (.reloc id 2) b wl (wl == 127) true
        else queuePg w (.reloc id 0) b wl false true) := fun p _ wl =>
      h0.trans (relKept_of_relocs (relocs_ite w (relocs_queueQlc w _ _ _ _ _ _) rfl))
    exact relKept_ite ((h1 _ _).trans (relKept_of_relocs (relocs_relIssued _ _ _ _))) (h1 _ _)

theorem relKept_relSec (id : Nat) (r : Rd) (q : SecReq) (ok : Bool) : RelKept n s (relSec s id r q ok) := by
  unfold relSec
  refine relKept_ite (RelKept.refl n s) ?_
  dsimp only
  have h0 : RelKept n s (if ok then s else poisonSec s r.blk r.page q) :=
    relKept_ite (RelKept.refl n s) (relKept_of_only (only_poisonSec s _ _ _) (by simp))
  have h1 := h0.trans (relKept_modReloc n id (if ok then s else poisonSec s r.blk r.page q)
    (f := fun x => { x with readsLeft := x.readsLeft - 1 }) fun _ h => h)
  exact relKept_ite (h1.trans (relKept_relPrograms n _ _)) h1

theorem relKept_secEnd {id : Nat} {r : Rd} (hw : r.why = .reloc id) (q : SecReq) (tier : Nat) (ok bad : Bool) :
    RelKept n s (secEnd s r q tier ok bad) := by
  unfold secEnd
  rw [hw]
  exact relKept_relSec n s id r q ok

theorem relKept_loseSec {id : Nat} {r : Rd} (hw : r.why = .reloc id) (q : SecReq) : RelKept n s (loseSec s r q) :=
  (relKept_unrecSec n s r q).trans (relKept_secEnd n _ hw _ _ _ _)

theorem relKept_startRebuild {id : Nat} {r : Rd} (hw : r.why = .reloc id) (q : SecReq) : RelKept n s (startRebuild s r q) := by
  have hm : ∀ k, RelKept n s (mcnt s k 1) := fun _ => relKept_of_relocs rfl
  have hmoved : RelKept n s (readMoved s r q) := by
    unfold readMoved
    rw [hw]
    exact relKept_loseSec n s hw q
  have hrebuilt : RelKept n s (rebuilt s r q false) :=
    relKept_ite (relKept_loseSec n s hw q) (relKept_ite ((hm 6).trans (relKept_loseSec n _ hw q)) ((hm 3).trans (relKept_secEnd n _ hw _ _ _ _)))
  unfold startRebuild
  split
  · exact hmoved
  · next l _ =>
    refine relKept_ite (relKept_loseSec n s hw q) (relKept_ite hrebuilt ?_)
    refine relKept_of_relocs ?_
    dsimp only
    rw [relocs_foldl _ fun u g => relocs_queueRd u _ _ _ _ _ _ _ _]
    rfl

theorem relKept_readPage (id order b page : Nat) (qlc : Bool) (secs : List SecReq) :
    RelKept n s (readPage s (.reloc id) order b page qlc secs) := by
  unfold readPage
  exact relKept_ite (relKept_foldl (fun u q => relKept_startRebuild n u rfl q) secs s) (relKept_of_relocs (relocs_queueRd s _ _ _ _ _ _ _ _))

end

/-- A relocation's next wordline is to be read, under a charge of 64 buffers (R197, R219). -/
theorem stepReloc_charges {s : State} {n : Nat} (hlt : (getReloc s n).next < (getReloc s n).count) (ht : (getReloc s n).tgt.isSome = true)
    (hk : (getReloc s n).next ∉ (getReloc s n).kept) :
    (chargeOk s.bpm kReloc 64 = false → stepReloc s n = backOff (modReloc s n fun x => { x with waiting := true }) kReloc n) ∧
    (chargeOk s.bpm kReloc 64 = true → (getReloc (stepReloc s n) n).waiting = false) := by
  have hcond : ¬ ((getReloc s n).count ≤ (getReloc s n).next ∨ (getReloc s n).tgt.isNone = true) := by
    rw [not_or]
    refine ⟨by omega, ?_⟩
    rw [Option.isNone_iff_eq_none]
    exact Option.isSome_iff_ne_none.mp ht
  have hkept : ¬ (getReloc s n).kept.contains (getReloc s n).next = true := by simpa using hk
  unfold stepReloc
  dsimp only
  rw [if_neg hcond, if_neg hkept]
  refine ⟨fun h => by rw [h, if_neg (by simp)], fun h => ?_⟩
  rw [h, if_pos rfl]
  generalize popBufs { s with bpm := charge s.bpm kReloc 64 } (quadReq (blkCh ((getReloc s n).tgt.getD 0))) kReloc 64 = w
  generalize relPages w.1 (getReloc s n) = pages
  have h0 : (getReloc (modReloc w.1 n fun x => { x with
      bufs := x.bufs ++ w.2, readsLeft := sumBy (fun g => g.2.2.2.length) pages, waiting := false }) n).waiting = false := by
    rw [getReloc, modReloc, Tab.get_upd_self]
  split
  · exact relKept_relPrograms n _ n h0
  · exact relKept_foldl (fun u (g : Nat × Nat × Bool × List SecReq) => relKept_readPage n u n n g.1 g.2.1 g.2.2.1 g.2.2.2) pages _ h0

/-! ### The obligation -/

theorem exec_backOffRetry_out {s : State} {cls q n : Nat} {tie : Bool} (h : quadOut s q = true) : exec (.backOffRetry cls q ⟨n, tie⟩) s = .next s := by
  change execBackOffRetry cls q ⟨n, tie⟩ s = _
  unfold execBackOffRetry
  dsimp only
  rw [h]
  exact if_pos (.inr (.inr rfl))

theorem any_key {α : Type} {l : List (Nat × α)} {n : Nat} (h : ∃ r ∈ l, r.1 = n) : (l.any fun e => e.1 == n) = true := by
  obtain ⟨r, hr, hn⟩ := h
  exact List.any_eq_true.mpr ⟨r, hr, by simpa using hn⟩

/-- A fold group that is due presents its charge again (R222). -/
theorem exec_backOffRetry_fold {s : State} {q n : Nat} {tie : Bool} {e : Nat × Nat × Nat}
    (hf : s.bpm.retries.find? (fun e => e.1 == kFold + 0 && e.2.1 == n) = some e) (hdue : e.2.2 + 10000 ≤ s.nowNs) (hout : quadOut s q = false)
    (hq : q = chQuad (((getZone s (getFold s n).tenant (getFold s n).zone).members.head?.map Member.ch).getD 0))
    (hin : ∃ r ∈ s.media.folds, r.1 = n) (hw : (getFold s n).waiting = true) :
    ∃ t, exec (.backOffRetry 0 q ⟨n, tie⟩) s = .next (beginFold { presented s e with bpm := { (presented s e).bpm with tie := t } } n) := by
  obtain ⟨t, ht⟩ := tieCount_eq (presented s e) (5 + q) kFold
    (if (getFold (presented s e) n).vers.isEmpty then 0 else foldNeed (presented s e) (getFold (presented s e) n)) tie
  refine ⟨t, ?_⟩
  have hany : ((presented s e).media.folds.any fun e => e.1 == n) = true := any_key hin
  have hw' : (getFold (presented s e) n).waiting = true := hw
  change execBackOffRetry 0 q ⟨n, tie⟩ s = _
  unfold execBackOffRetry
  dsimp only
  rw [if_pos rfl, if_neg (by rw [hout, ← hq]; simp), takeRetry_due hf hdue]
  dsimp only
  rw [if_pos rfl, hany, hw', if_pos (by simp), ht]

/-- A relocation that is due presents its charge again (R222). -/
theorem exec_backOffRetry_reloc {s : State} {q n : Nat} {tie : Bool} {e : Nat × Nat × Nat}
    (hf : s.bpm.retries.find? (fun e => e.1 == kFold + 1 && e.2.1 == n) = some e) (hdue : e.2.2 + 10000 ≤ s.nowNs) (hout : quadOut s q = false)
    (hq : q = relQuad s (getReloc s n)) (hin : ∃ r ∈ s.media.relocs, r.1 = n) (hw : (getReloc s n).waiting = true) :
    ∃ t, exec (.backOffRetry 1 q ⟨n, tie⟩) s = .next (stepReloc { presented s e with bpm := { (presented s e).bpm with tie := t } } n) := by
  obtain ⟨t, ht⟩ := tieCount_eq (presented s e) (5 + q) kReloc 64 tie
  refine ⟨t, ?_⟩
  have hany : ((presented s e).media.relocs.any fun e => e.1 == n) = true := any_key hin
  have hw' : (getReloc (presented s e) n).waiting = true := hw
  change execBackOffRetry 1 q ⟨n, tie⟩ s = _
  unfold execBackOffRetry
  dsimp only
  rw [if_neg (by rw [hout, ← hq]; simp), takeRetry_due hf hdue]
  dsimp only
  rw [if_neg (by simp), hany, hw', if_pos (by simp), ht]

theorem only_presented_tie (s : State) (e : Nat × Nat × Nat) (t : Tab Nat) :
    Only [.bpm] s { presented s e with bpm := { (presented s e).bpm with tie := t } } := only_bpm s _

/-- Settles O33: the cache by its two moves, the retries by what is presented again and what comes of the charge. -/
theorem poolRetries : Obligations.PoolRetries := by
  unfold Obligations.PoolRetries
  intro s n q tie hr
  refine ⟨fun h => ?_, fun h hs => ?_, fun h hs => ?_, fun e d hf hdue hd => ⟨fun hch => ?_, fun t seq sec rest hch hw hsecs => ?_⟩,
    fun e cls hf hdue hout => ⟨fun hcls hq hin hw k hk => ⟨fun hch => ?_, fun hch => ?_⟩,
      fun hcls hq hin hw hlt htgt hkept => ⟨fun hch => ?_, fun hch => ?_⟩⟩, fun cls hout => exec_backOffRetry_out hout⟩
  · obtain ⟨m, hm, h1, h2, h3⟩ := spillHead_spec h
    refine ⟨_, m, exec_bpmSpill hr h, only_bpm s _, hm, h1, ?_⟩
    rw [hm]
    exact ⟨h2, h3⟩
  · obtain ⟨m, hm, h1, h2, h3⟩ := refillHead_deep h hs
    refine ⟨_, m, exec_bpmRefill hr h, only_bpm s _, hm, h1, ?_⟩
    rw [hm]
    exact ⟨h2, h3⟩
  · rw [exec_bpmRefill hr h, refillHead_shallow hs]
  · obtain ⟨t, ht⟩ := tieCount_eq (presented s e) 3 kCipher 1 tie
    have hex : exec (.cipherChargeRetry ⟨n, tie⟩) s = .next (backOff (tieCount (presented s e) 3 kCipher 1 tie) kCipher n) := by
      have hd' : getDeep (presented s e) n = some d := hd
      have hch' : chargeOk (presented s e).bpm kCipher 1 = false := hch
      change execCipherChargeRetry ⟨n, tie⟩ s = _
      unfold execCipherChargeRetry
      dsimp only
      rw [takeRetry_due hf hdue, hd]
      dsimp only
      rw [hch', if_neg (by simp)]
    rw [ht] at hex
    obtain ⟨h1, h2, h3, -⟩ := backOff_spec { presented s e with bpm := { (presented s e).bpm with tie := t } } kCipher n
    exact ⟨_, hex, (only_presented_tie s e t).trans h1, h2, h3⟩
  · have hch' : chargeOk (presented s e).bpm kCipher 1 = true := hch
    change execCipherChargeRetry ⟨n, tie⟩ s = _
    unfold execCipherChargeRetry
    dsimp only
    rw [takeRetry_due hf hdue, hd]
    dsimp only
    rw [hch', if_pos rfl, hw, hsecs]
    rfl
  · subst hcls
    obtain ⟨t, hex⟩ := exec_backOffRetry_fold (tie := tie) hf hdue hout hq hin hw
    have honly := only_presented_tie s e t
    have hfold : getFold { presented s e with bpm := { (presented s e).bpm with tie := t } } n = getFold s n := rfl
    have hneed : k = if (getFold { presented s e with bpm := { (presented s e).bpm with tie := t } } n).vers.isEmpty then 0
      else foldNeed { presented s e with bpm := { (presented s e).bpm with tie := t } }
        (getFold { presented s e with bpm := { (presented s e).bpm with tie := t } } n) := hk
    have hch' : chargeOk ({ presented s e with bpm := { (presented s e).bpm with tie := t } } : State).bpm kFold k = false := hch
    have hret : ({ presented s e with bpm := { (presented s e).bpm with tie := t } } : State).bpm.retries = s.bpm.retries.erase e := rfl
    have hcharge : ({ presented s e with bpm := { (presented s e).bpm with tie := t } } : State).bpm.charges = s.bpm.charges := rfl
    have hback : ({ presented s e with bpm := { (presented s e).bpm with tie := t } } : State).bpm.backoff = s.bpm.backoff := rfl
    generalize ({ presented s e with bpm := { (presented s e).bpm with tie := t } } : State) = w at *
    rw [beginFold_refused hneed hch'] at hex
    obtain ⟨h1, h2, h3, h4⟩ := backOff_spec (modFold w n fun f => { f with waiting := true }) kFold n
    refine ⟨_, hex, ?_, ?_, ?_, ?_, ?_⟩
    · exact ((honly.mono (by simp)).trans ((only_media w _).mono (by simp))).trans (h1.mono (by simp))
    · rw [h2]
      change w.bpm.retries ++ [(kFold, n, w.nowNs)] = _
      rw [hret, honly .nowNs (by simp)]
    · rw [h3]
      exact hcharge
    · have hsame := modFold_same (s := w) (n := n) (by rw [hfold]; exact hw)
      exact (hsame.trans hfold : getFold (modFold w n fun f => { f with waiting := true }) n = _)
    · have h5 : Tab.get 0 (modFold w n fun f => { f with waiting := true }).bpm.backoff 0 = Tab.get 0 s.bpm.backoff 0 := by
        change Tab.get 0 w.bpm.backoff 0 = _
        rw [hback]
      rw [Nat.sub_self, h5] at h4
      exact h4
  · subst hcls
    obtain ⟨t, hex⟩ := exec_backOffRetry_fold (tie := tie) hf hdue hout hq hin hw
    have hneed : k = if (getFold { presented s e with bpm := { (presented s e).bpm with tie := t } } n).vers.isEmpty then 0
      else foldNeed { presented s e with bpm := { (presented s e).bpm with tie := t } }
        (getFold { presented s e with bpm := { (presented s e).bpm with tie := t } } n) := hk
    obtain ⟨h1, h2⟩ := beginFold_granted hneed hch
    refine ⟨_, hex, congrArg Prod.fst h1, h2, ?_⟩
    have h3 := congrArg (fun x => Tab.get 0 x.2 kFold) h1
    refine h3.trans ?_
    dsimp only [bump]
    exact Tab.get_upd_self 0 _ _ _
  · subst hcls
    obtain ⟨t, hex⟩ := exec_backOffRetry_reloc (tie := tie) hf hdue hout hq hin hw
    have honly := only_presented_tie s e t
    have hrel : getReloc { presented s e with bpm := { (presented s e).bpm with tie := t } } n = getReloc s n := rfl
    have hch' : chargeOk ({ presented s e with bpm := { (presented s e).bpm with tie := t } } : State).bpm kReloc 64 = false := hch
    have hret : ({ presented s e with bpm := { (presented s e).bpm with tie := t } } : State).bpm.retries = s.bpm.retries.erase e := rfl
    have hcharge : ({ presented s e with bpm := { (presented s e).bpm with tie := t } } : State).bpm.charges = s.bpm.charges := rfl
    have hback : ({ presented s e with bpm := { (presented s e).bpm with tie := t } } : State).bpm.backoff = s.bpm.backoff := rfl
    generalize ({ presented s e with bpm := { (presented s e).bpm with tie := t } } : State) = w at *
    rw [← hrel] at hlt htgt hkept
    rw [(stepReloc_charges hlt htgt hkept).1 hch'] at hex
    obtain ⟨h1, h2, h3, h4⟩ := backOff_spec (modReloc w n fun x => { x with waiting := true }) kReloc n
    refine ⟨_, hex, ?_, ?_, ?_, ?_⟩
    · exact ((honly.mono (by simp)).trans ((only_media w _).mono (by simp))).trans (h1.mono (by simp))
    · rw [h2]
      change w.bpm.retries ++ [(kReloc, n, w.nowNs)] = _
      rw [hret, honly .nowNs (by simp)]
    · rw [h3]
      exact hcharge
    · have h5 : Tab.get 0 (modReloc w n fun x => { x with waiting := true }).bpm.backoff 1 = Tab.get 0 s.bpm.backoff 1 := by
        change Tab.get 0 w.bpm.backoff 1 = _
        rw [hback]
      have hk1 : kReloc - kFold = 1 := rfl
      rw [hk1, h5] at h4
      exact h4
  · subst hcls
    obtain ⟨t, hex⟩ := exec_backOffRetry_reloc (tie := tie) hf hdue hout hq hin hw
    exact ⟨_, hex, (stepReloc_charges (s := { presented s e with bpm := { (presented s e).bpm with tie := t } }) hlt htgt hkept).2 hch⟩

end Sys2Proof.Machine
end

section
/-! PROOFS. The heads of the lanes are released, or held (R105, R143, R144). -/

namespace Sys2Proof.Machine

/-! ### Tenant-classes -/

theorem getCls_modTCls {s : State} {t : Nat} {x : Tenant} (c : Cls) (f : TCls → TCls) (h : getTen s t = some x) :
    getCls (modTCls s t c f) t c = f (getCls s t c) := by
  rw [getCls, tenD, modTCls, getTen_modTen_self, h, Option.map_some, Option.getD_some, tcls_modCls_self, getCls, tenD, h, Option.getD_some]

/-- What a rewriting of a tenant-class leaves of it. -/
theorem getCls_modTCls_keeps {α : Type} (g : TCls → α) (s : State) (t : Nat) (c : Cls) {f : TCls → TCls} (hf : ∀ x, g (f x) = g x) :
    g (getCls (modTCls s t c f) t c) = g (getCls s t c) := by
  rw [getCls, tenD, modTCls, getTen_modTen_self, getCls, tenD]
  cases getTen s t with
  | none => rfl
  | some x => rw [Option.map_some, Option.getD_some, tcls_modCls_self, hf, Option.getD_some]

theorem cipherOff_modTCls (s : State) (t : Nat) (c : Cls) (f : TCls → TCls) : (tenD (modTCls s t c f) t).cipherOff = (tenD s t).cipherOff := by
  rw [tenD, modTCls, getTen_modTen_self, tenD]
  cases getTen s t with
  | none => rfl
  | some x => cases c <;> rfl

/-- The two buckets of a tenant-class (R144). -/
def buckets (x : TCls) : Int × Int := (x.bktB, x.bktO)

theorem buckets_admCnt (s : State) (t : Nat) (c : Cls) (k n : Nat) : buckets (getCls (admCnt s t c k n) t c) = buckets (getCls s t c) :=
  getCls_modTCls_keeps buckets s t c fun _ => rfl

theorem buckets_countWait (s : State) (t : Nat) (c : Cls) (us : Nat) : buckets (getCls (countWait s t c us) t c) = buckets (getCls s t c) :=
  (getCls_modTCls_keeps buckets _ t c (by intro _; rfl)).trans (buckets_admCnt s t c 11 us)

/-! ### A release -/

/-- The state once a head has taken its tokens, and its release is counted (R144, Table 6.10). -/
def paid (s : State) (c : Cmd) : State :=
  let w := modTCls s c.tenant (cCls c) fun x => { x with bktB := takeTok x.bktB c.credB (costB s c), bktO := takeTok x.bktO c.credO opUnit }
  let w := admCnt w c.tenant (cCls c) (if w.nowNs - c.grantNs < 1000 then 2 else 3) 1
  countWait (admCnt (admCnt w c.tenant (cCls c) 13 (costB s c / byteUnit)) c.tenant (cCls c) 14 1) c.tenant (cCls c) (waitUs s c)

/-- The state once it is charged, too, and marked as released (R143, R218). -/
def released (s : State) (c : Cmd) : State :=
  let w := paid s c
  let w := { w with adm := { w.adm with direct := w.adm.direct - directBytes w c } }
  let n := if isWriter (cOp c) then writerCharge w c else 0
  let w := { w with bpm := charge w.bpm c.tenant n }
  let op := cOp c
  modCmd w c.tenant c.seq fun x => { x with
    released := true, relNs := w.nowNs, queueUs := waitUs s c, gate := .none, charge := n, ph := .exec
    committed := op == opRead || op == opVerify || op == opReport || op == opFlush
    skip := if isReader op then unplaced w c else [] }

theorem releaseCmd_eq (s : State) (c : Cmd) : releaseCmd s c = match getCmd (released s c) c.tenant c.seq with
    | none => released s c
    | some d => checkOver (stage4 (released s c) d) := rfl

theorem only_paid (s : State) (c : Cmd) : Only [.tenants] s (paid s c) :=
  ((((only_modTCls s _ _ _).trans (only_admCnt _ _ _ _ _)).trans (only_admCnt _ _ _ _ _)).trans (only_admCnt _ _ _ _ _)).trans
    (only_countWait _ _ _ _)

theorem buckets_paid {s : State} {c : Cmd} {x : Tenant} (h : getTen s c.tenant = some x) :
    buckets (getCls (paid s c) c.tenant (cCls c)) =
      (takeTok (getCls s c.tenant (cCls c)).bktB c.credB (costB s c), takeTok (getCls s c.tenant (cCls c)).bktO c.credO opUnit) := by
  unfold paid
  dsimp only
  rw [buckets_countWait, buckets_admCnt, buckets_admCnt, buckets_admCnt, getCls_modTCls _ _ h]
  rfl

theorem cipherOff_paid (s : State) (c : Cmd) : (tenD (paid s c) c.tenant).cipherOff = (tenD s c.tenant).cipherOff := by
  unfold paid countWait admCnt
  dsimp only
  simp only [cipherOff_modTCls]

/-- What a release leaves of its command: released, its wait noted, in execution. -/
theorem released_spec {s : State} {c : Cmd} {x : Tenant} (h : getTen s c.tenant = some x) (hc : getCmd s c.tenant c.seq = some c) :
    (∃ d, getCmd (released s c) c.tenant c.seq = some d ∧ d.ph = .exec ∧ d.released = true ∧ d.relNs = s.nowNs ∧ d.queueUs = waitUs s c ∧
      d.pkt = c.pkt ∧ d.tenant = c.tenant ∧ d.seq = c.seq) ∧
    buckets (getCls (released s c) c.tenant (cCls c)) =
      (takeTok (getCls s c.tenant (cCls c)).bktB c.credB (costB s c), takeTok (getCls s c.tenant (cCls c)).bktO c.credO opUnit) ∧
    keyReady (released s c) c.tenant = keyReady s c.tenant := by
  have honly := only_paid s c
  have hbuckets := buckets_paid h
  have hoff := cipherOff_paid s c
  unfold released
  dsimp only
  generalize paid s c = w at honly hbuckets hoff ⊢
  have hcw : getCmd w c.tenant c.seq = some c := (getCmd_of_only honly (by simp) _ _).trans hc
  have hnow : w.nowNs = s.nowNs := honly .nowNs (by simp)
  have hcip : w.cip = s.cip := honly .cip (by simp)
  refine ⟨⟨_, getCmd_modCmd_self _ hcw (by intro _; exact ⟨rfl, rfl⟩), rfl, rfl, hnow, rfl, rfl, rfl, rfl⟩, hbuckets, ?_⟩
  change ((tenD w c.tenant).cipherOff || (Tab.get {} w.cip.tslots c.tenant).state == 1) = _
  rw [hoff, hcip, keyReady]

/-- A head that is released goes by the rest of its decode (R105, Table 4.9). -/
theorem exec_admissionRelease {s : State} {t : Nat} {cls : Cls} {w tie : Bool} {h : Cmd} (hl : laneHead s t cls w = some h)
    (hstop : s.adm.stop = false) (ho : ∀ o, laneHead s t cls (!w) = some o → o.seq < h.seq → canRelease s o = false) :
    exec (.admissionRelease t cls ⟨w, tie⟩) s = .next (if canRelease s h then releaseCmd s h
      else noteHold (tieCount s (match h.port with | .a => 0 | .b => 1) t (writerCharge s h) (tie && tokensOk s h && gateOf s h == .none)) h) := by
  change execAdmissionRelease t cls ⟨w, tie⟩ s = _
  unfold execAdmissionRelease
  dsimp only
  rw [hl]
  dsimp only
  have hfirst : ∀ first : Bool, first = false → (if (s.adm.stop || first) = true then .next s
      else if canRelease s h then .next (releaseCmd s h)
      else .next (noteHold (tieCount s (match h.port with | .a => 0 | .b => 1) t (writerCharge s h) (tie && tokensOk s h && gateOf s h == .none)) h)) =
        (.next (if canRelease s h then releaseCmd s h
          else noteHold (tieCount s (match h.port with | .a => 0 | .b => 1) t (writerCharge s h) (tie && tokensOk s h && gateOf s h == .none)) h) : Res) := by
    rintro first rfl
    rw [hstop, if_neg (by simp)]
    split <;> rfl
  refine hfirst _ ?_
  split
  · rfl
  · next o hlane =>
    by_cases hseq : o.seq < h.seq
    · simp [ho o hlane hseq]
    · simp [hseq]

theorem laneHead_spec {s : State} {t : Nat} {cls : Cls} {w : Bool} {h : Cmd} (hl : laneHead s t cls w = some h) :
    h.tenant = t ∧ h.ph = .queued ∧ cCls h = cls := by
  have hf := List.find?_some hl
  simp only [Bool.and_eq_true, beq_iff_eq] at hf
  obtain ⟨⟨⟨h1, h2⟩, h3⟩, -⟩ := hf
  exact ⟨h1, h2, h3⟩

/-- A head that a gate, its tokens or the quota holds is noted as held (R143). -/
theorem noteHold_spec {s : State} {c : Cmd} (hc : getCmd s c.tenant c.seq = some c) :
    (∃ d, getCmd (noteHold s c) c.tenant c.seq = some d ∧ d.ph = c.ph ∧ d.gate = gateOf s c) ∧
      ∀ t seq, ¬(t = c.tenant ∧ seq = c.seq) → getCmd (noteHold s c) t seq = getCmd s t seq := by
  unfold noteHold
  dsimp only
  generalize (tokensOk s c && gateOf s c == .none && !quotaOk s c) = refused
  have h1 : ∀ u : State, u.cmds = s.cmds → (watchGate (if refused && !c.qheld then modTen u c.tenant fun t => { t with qhold := t.qhold + 1 } else u)).cmds =
      s.cmds := by
    intro u hu
    split
    · exact hu
    · exact hu
  have h2 : (if refused then { s with bpm := chargeRefused s.bpm } else s : State).cmds = s.cmds := by
    split <;> rfl
  have h3 := h1 _ h2
  generalize (watchGate (if refused && !c.qheld then modTen (if refused then { s with bpm := chargeRefused s.bpm } else s) c.tenant
    fun t => { t with qhold := t.qhold + 1 } else if refused then { s with bpm := chargeRefused s.bpm } else s)) = w at h3 ⊢
  have hcw : getCmd w c.tenant c.seq = some c := (getCmd_of_cmds h3 _ _).trans hc
  exact ⟨⟨_, getCmd_modCmd_self _ hcw (by intro _; exact ⟨rfl, rfl⟩), rfl, rfl⟩, fun t seq hne => (getCmd_modCmd_ne _ _ _ _ _ _ hne (by intro _; exact ⟨rfl, rfl⟩)).trans (getCmd_of_cmds h3 _ _)⟩

/-- Settles O14: what a release leaves of the head and its buckets, by stage 4; a head that is held is noted. -/
theorem headsAreReleased : Obligations.HeadsAreReleased := by
  unfold Obligations.HeadsAreReleased
  intro s t cls w tie h hl hc hstop ho ⟨x, hx⟩
  obtain ⟨ht, hph, hcls⟩ := laneHead_spec hl
  subst ht hcls
  have hex := exec_admissionRelease (tie := tie) hl hstop ho
  obtain ⟨⟨d, hd, hdph, hdrel, hdns, hdq, hdp, hdt, hds⟩, hbuck, hkey⟩ := released_spec hx hc
  have hop : cOp d = cOp h := by rw [cOp, hdp, cOp]
  have hgo : canRelease s h = true → exec (.admissionRelease h.tenant (cCls h) ⟨w, tie⟩) s = .next (checkOver (stage4 (released s h) d)) := by
    intro hcan
    rw [hex, hcan, if_pos rfl, releaseCmd_eq, hd]
  generalize released s h = v at hd hbuck hkey hgo
  have hpay : ∀ u : State, u.tenants = v.tenants →
      (getCls (checkOver u) h.tenant (cCls h)).bktB = takeTok (getCls s h.tenant (cCls h)).bktB h.credB (costBytes s h * 64000) ∧
      (getCls (checkOver u) h.tenant (cCls h)).bktO = takeTok (getCls s h.tenant (cCls h)).bktO h.credO 64000000000 := by
    intro u hu
    rw [getCls_of_tenants ((only_checkOver u .tenants (by simp)).trans hu)]
    exact ⟨congrArg Prod.fst hbuck, congrArg Prod.snd hbuck⟩
  refine ⟨fun hcan hneed hno => ?_, fun hcan hkeyok hxl => ?_, fun hheld => ?_⟩
  · have hstage : stage4 v d =
        genCompl (cipT (cipCnt v 8 1) h.tenant 3 1) h.tenant h.seq stNoKey (noEffectResult (cOp h)) := by
      unfold stage4
      rw [hop, hdt, hkey, hneed, hno, hds, if_pos (by rfl)]
    refine ⟨_, hgo hcan, ?_, ?_⟩
    · rw [hstage]
      have hd' : getCmd (cipT (cipCnt v 8 1) h.tenant 3 1) h.tenant h.seq = some d := hd
      exact (completes_genCompl (st := stNoKey) (r := noEffectResult (cOp h)) hd' (by rw [hdph]; simp)).of_getCmd
        (getCmd_of_only (only_checkOver _) (by simp) _ _)
    · rw [hstage]
      exact hpay _ (only_genCompl_any _ _ _ _ _ .tenants (by simp))
  · have hneed : (needsKey (cOp d) && !keyReady v d.tenant) = false := by
      rw [hop, hdt, hkey]
      obtain h0 | h0 := hkeyok <;> simp [h0]
    have hstage : stage4 v d = modCmd v h.tenant h.seq fun x => { x with
        ph := .listWait, committed := x.committed || (cOp d == opRead || cOp d == opReport) } := by
      unfold stage4
      rw [hneed, if_neg (by simp), hdp, hxl, if_pos rfl, hdt, hds]
    refine ⟨_, { d with ph := .listWait, committed := d.committed || (cOp d == opRead || cOp d == opReport) }, hgo hcan, ?_, rfl, hdrel, hdns, hdq, ?_, ?_⟩
    · rw [getCmd_of_only (only_checkOver _) (by simp), hstage]
      exact getCmd_modCmd_self _ hd (by intro _; exact ⟨rfl, rfl⟩)
    · intro hb
      rw [hdq, waitUs, heldNs, hb]
    · rw [hstage]
      exact hpay _ rfl
  · rw [hheld, if_neg (by simp)] at hex
    obtain ⟨n, hn⟩ := tieCount_eq s (match h.port with | .a => 0 | .b => 1) h.tenant (writerCharge s h) (tie && tokensOk s h && gateOf s h == .none)
    rw [hn] at hex
    obtain ⟨⟨d', hd', h1, h2⟩, h3⟩ := noteHold_spec (s := { s with bpm := { s.bpm with tie := n } }) (c := h) hc
    exact ⟨_, d', hex, hd', h1.trans hph, h2, h3⟩

end Sys2Proof.Machine
end

section
/-! PROOFS. Commands in flight go on as themselves: each command of a later state stems from one of the earlier state, with its tenant, its number
and the function that captured it, and stays redirected once it is (R40, R45). -/

namespace Sys2Proof.Machine

/-- Every command of `u` stems from one of `s`. -/
def Stems (s u : State) : Prop :=
  ∀ d ∈ u.cmds, ∃ c ∈ s.cmds, c.tenant = d.tenant ∧ c.seq = d.seq ∧ c.port = d.port ∧ c.fn = d.fn ∧ (c.redirected = true → d.redirected = true)

theorem stems_of_cmds {s u : State} (h : u.cmds = s.cmds) : Stems s u := fun d hd => ⟨d, h ▸ hd, rfl, rfl, rfl, rfl, id⟩
theorem stems_of_kept {s u : State} (h : kept u = kept s) : Stems s u := stems_of_cmds (cmds_of_kept h)
theorem Stems.refl (s : State) : Stems s s := stems_of_cmds rfl

theorem Stems.trans {s u w : State} (h : Stems s u) (h' : Stems u w) : Stems s w := by
  intro d hd
  obtain ⟨c, hc, h1, h2, h3, h4, h5⟩ := h' d hd
  obtain ⟨b, hb, g1, g2, g3, g4, g5⟩ := h c hc
  exact ⟨b, hb, g1.trans h1, g2.trans h2, g3.trans h3, g4.trans h4, fun hr => h5 (g5 hr)⟩

theorem stems_ite {p : Prop} [Decidable p] {s a b : State} (ha : Stems s a) (hb : Stems s b) : Stems s (if p then a else b) := by
  split <;> assumption

theorem stems_foldl {α : Type} {f : State → α → State} (h : ∀ s x, Stems s (f s x)) (l : List α) (s : State) : Stems s (l.foldl f s) := by
  induction l generalizing s with
  | nil => exact Stems.refl _
  | cons x l ih => exact (h s x).trans (ih _)

/-- What a rewriting keeps of a command: who it is, and that it is redirected. -/
def SameCmd (f : Cmd → Cmd) : Prop :=
  ∀ x, (f x).tenant = x.tenant ∧ (f x).seq = x.seq ∧ (f x).port = x.port ∧ (f x).fn = x.fn ∧ (x.redirected = true → (f x).redirected = true)

theorem stems_map {s u : State} {f : Cmd → Cmd} (hf : SameCmd f) (h : u.cmds = s.cmds.map f) : Stems s u := by
  intro d hd
  rw [h, List.mem_map] at hd
  obtain ⟨c, hc, rfl⟩ := hd
  obtain ⟨h1, h2, h3, h4, h5⟩ := hf c
  exact ⟨c, hc, h1.symm, h2.symm, h3.symm, h4.symm, h5⟩

theorem SameCmd.ite {f : Cmd → Cmd} (hf : SameCmd f) (p : Cmd → Bool) : SameCmd fun x => if p x then f x else x := by
  intro x
  dsimp only
  split
  · exact hf x
  · exact ⟨rfl, rfl, rfl, rfl, id⟩

theorem stems_modCmd (s : State) (t seq : Nat) {f : Cmd → Cmd} (hf : SameCmd f) : Stems s (modCmd s t seq f) :=
  stems_map (hf.ite fun c => c.tenant == t && c.seq == seq) rfl

theorem sameCmd_id {f : Cmd → Cmd} (h : ∀ x, (f x).tenant = x.tenant ∧ (f x).seq = x.seq ∧ (f x).port = x.port ∧ (f x).fn = x.fn ∧
    (f x).redirected = x.redirected) : SameCmd f := fun x =>
  ⟨(h x).1, (h x).2.1, (h x).2.2.1, (h x).2.2.2.1, fun hr => (h x).2.2.2.2.trans hr⟩

/-- A rewriting leaves its command the same one. -/
abbrev Keeps (f : Cmd → Cmd) : Prop :=
  ∀ x, (f x).tenant = x.tenant ∧ (f x).seq = x.seq ∧ (f x).port = x.port ∧ (f x).fn = x.fn ∧ (f x).redirected = x.redirected

theorem Stems.cmds {s u w : State} (h : Stems s u) (hc : w.cmds = u.cmds) : Stems s w := h.trans (stems_of_cmds hc)
theorem Stems.kept {s u w : State} (h : Stems s u) (hk : kept w = kept u) : Stems s w := h.trans (stems_of_kept hk)
theorem Stems.mod {s u : State} {t seq : Nat} {f : Cmd → Cmd} (h : Stems s u) (hf : Keeps f) : Stems s (modCmd u t seq f) :=
  h.trans (stems_modCmd u t seq (sameCmd_id hf))

section
variable (s : State)

theorem stems_dropCmd (t seq : Nat) : Stems s (dropCmd s t seq) := by
  have h1 : Stems s { s with cmds := s.cmds.filter fun c => !(c.tenant == t && c.seq == seq) } := fun d hd =>
    ⟨d, (List.mem_filter.mp hd).1, rfl, rfl, rfl, rfl, id⟩
  refine h1.trans (stems_map (f := fun c => if c.tenant == t && c.waitFor == some seq then
    { c with waitFor := none, genNo := if c.redirected then c.genNo else s.genCtr } else c) (fun x => ?_) rfl)
  dsimp only
  split
  · exact ⟨rfl, rfl, rfl, rfl, id⟩
  · exact ⟨rfl, rfl, rfl, rfl, id⟩

/-! ### The end of a command -/

theorem stems_endEntry (t seq status result : Nat) (c : Cmd) : Stems s (endEntry s t seq status result c) := by
  unfold endEntry
  dsimp only
  have h0 : Stems s (if c.committed then s else { s with bpm := uncharge s.bpm t c.charge }) := stems_ite (Stems.refl s) (stems_of_cmds rfl)
  generalize (if c.committed then s else { s with bpm := uncharge s.bpm t c.charge }) = u at h0 ⊢
  exact (h0.mod (t := t) (seq := seq) (f := fun x => { x with
    ph := .gen, status := status, result := result, genNo := u.genCtr, gate := .none, charge := if x.committed then x.charge else 0 })
    fun _ => ⟨rfl, rfl, rfl, rfl, rfl⟩).cmds rfl

theorem stems_genCompl (t seq status result : Nat) : Stems s (genCompl s t seq status result) := by
  unfold genCompl
  split
  · exact Stems.refl s
  · exact stems_ite (Stems.refl s) (stems_ite ((stems_endEntry s _ _ _ _ _).kept (kept_sweepVers _)) (stems_endEntry s _ _ _ _ _))

theorem stems_failBlock (t seq lba status : Nat) : Stems s (failBlock s t seq lba status) := (Stems.refl s).mod fun _ => ⟨rfl, rfl, rfl, rfl, rfl⟩

theorem stems_awaitJournal (t seq result : Nat) : Stems s (awaitJournal s t seq result) :=
  Stems.cmds (u := modCmd s t seq fun c => { c with ph := .exec, journal := true, result := result })
    ((Stems.refl s).mod fun _ => ⟨rfl, rfl, rfl, rfl, rfl⟩) rfl

/-! ### Readers -/

theorem stems_endReader (c : Cmd) (status result : Nat) : Stems s (endReader s c status result) :=
  (stems_genCompl s _ _ _ _).kept (kept_purgeOld _ _ _)

theorem stems_finishReader (t seq : Nat) : Stems s (finishReader s t seq) := by
  have hread : ∀ c st r, Stems s (endReader (countRead s c st) c st r) := fun c st r =>
    (stems_of_kept (kept_countRead s c st)).trans (stems_endReader _ _ _ _)
  unfold finishReader
  split
  · exact Stems.refl s
  · refine stems_ite (Stems.refl s) ?_
    split
    · refine stems_ite (Stems.trans (Stems.kept (Stems.kept (Stems.refl s) (kept_logEv s _ _ _ _)) (kept_leaveWriter _ _ _)) (stems_endReader _ _ _ _))
        (hread _ _ _)
    · exact stems_ite (Stems.refl s) (stems_ite (stems_endReader s _ _ _) (hread _ _ _))

theorem stems_readNow (t seq z lba i : Nat) : Stems s (readNow s t seq z lba i) := by
  unfold readNow
  split
  · exact Stems.refl s
  · split
    · exact stems_of_kept (kept_gotBlock _ _ _ _)
    · refine stems_ite (stems_failBlock s _ _ _ _) (stems_ite ((Stems.refl s).mod fun _ => ⟨rfl, rfl, rfl, rfl, rfl⟩) (stems_ite ?_ ?_))
      · exact (stems_of_kept (kept_authFail s _)).trans (stems_failBlock _ _ _ _ _)
      · exact (stems_of_kept (kept_decryptBlock s _)).kept (kept_gotBlock _ _ _ _)
    · exact (Stems.refl s).mod fun _ => ⟨rfl, rfl, rfl, rfl, rfl⟩

theorem stems_loseReader (t seq : Nat) : Stems s (loseReader s t seq) := by
  unfold loseReader
  split
  · exact Stems.refl s
  · split
    · exact Stems.refl s
    · refine Stems.trans (Stems.trans (Stems.mod (Stems.refl s) ?_) (stems_failBlock _ _ _ _ _)) (stems_finishReader _ _ _)
      exact fun _ => ⟨rfl, rfl, rfl, rfl, rfl⟩

theorem stems_issueReads (c : Cmd) : Stems s (issueReads s c) :=
  stems_ite (stems_loseReader s _ _) (stems_of_kept (kept_issueReads_pages s c _))

theorem stems_startReader (t seq : Nat) : Stems s (startReader s t seq) := by
  unfold startReader
  split
  · exact Stems.refl s
  · next c _ =>
    have hread := stems_foldl (fun u i => stems_readNow u t seq (pZone c.pkt) (pLba c.pkt) i) (List.range (pCount c.pkt)) s
    dsimp only
    split
    · exact hread
    · exact (hread.trans (stems_issueReads _ _)).trans (stems_finishReader _ _ _)

theorem stems_readerStage (t seq : Nat) : Stems s (readerStage s t seq) := by
  unfold readerStage
  split
  · exact Stems.refl s
  · refine stems_ite ((Stems.refl s).mod fun _ => ⟨rfl, rfl, rfl, rfl, rfl⟩) (Stems.trans (Stems.mod (Stems.refl s) ?_) (stems_startReader _ t seq))
    exact fun _ => ⟨rfl, rfl, rfl, rfl, rfl⟩

/-! ### Writers -/

theorem stems_makeVer (c : Cmd) (lba0 i : Nat) : Stems s (makeVer s c lba0 i) := by
  have hfor : Stems s (if (tenD s c.tenant).cipherOff then s else takeFor s c.tenant (wZone c.pkt)) :=
    stems_ite (Stems.refl s) (stems_of_kept (kept_takeFor _ _ _))
  unfold makeVer
  dsimp only
  generalize (if (tenD s c.tenant).cipherOff then s else takeFor s c.tenant (wZone c.pkt)) = u at hfor
  have hbufs : Stems s (popBufs u (if cOp c = opCopy then 3 else c.port.num) c.tenant
      (min (subs (tenD s c.tenant)) (Tab.get 0 u.bpm.rsvds c.tenant))).1 := hfor.kept (kept_popBufs u _ _ _)
  refine Stems.mod ?_ fun _ => ⟨rfl, rfl, rfl, rfl, rfl⟩
  exact stems_ite (Stems.kept (hbufs.cmds rfl) (kept_mapWrite _ _ _ _ _)) (hbufs.cmds rfl)

theorem stems_commitWriter (c : Cmd) : Stems s (commitWriter s c) := by
  have hzone : ∀ (u : State) (p : Prop) [Decidable p] (f g : Zone → Zone) (z : Nat),
      Stems u (if p then modZone u c.tenant z f else modZone u c.tenant z g) := fun u p _ f g z => stems_ite (stems_of_cmds rfl) (stems_of_cmds rfl)
  have hmade : ∀ (u : State) n l, Stems u ((List.range n).foldl (fun s i => makeVer s c l i) u) := fun u n l =>
    stems_foldl (fun w i => stems_makeVer w c l i) _ _
  have hplaced : ∀ (u : State) (l : List Nat), Stems u (l.foldl (fun s v => if (getVer s v).sup then s else placeUc s v) u) := fun u l =>
    stems_foldl (fun w v => stems_ite (Stems.refl w) (stems_of_kept (kept_placeUc w v))) _ _
  have hfull : ∀ (u : State) (p : Prop) [Decidable p] (z : Nat) (f : Zone → Zone),
      Stems u (if p then watchGate (modZone u c.tenant z f) else u) := fun u p _ z f => stems_ite (stems_of_cmds rfl) (Stems.refl u)
  have hcmd : ∀ l, Stems s (modCmd s c.tenant c.seq fun x => { x with committed := true, ph := .exec, lba0 := l }) := fun l =>
    (Stems.refl s).mod fun _ => ⟨rfl, rfl, rfl, rfl, rfl⟩
  have hreturn : ∀ (u : State) n x, Stems u { returnParity u c n with hlt := { (returnParity u c n).hlt with telLife := x } } := fun _ _ _ =>
    stems_of_cmds rfl
  unfold commitWriter
  dsimp only
  refine Stems.trans ?_ (hreturn _ _ _)
  refine stems_ite ?_ (Stems.trans ?_ (hplaced _ _))
  · exact (((hcmd _).trans (hzone _ _ _ _ _)).trans (hmade _ _ _)).trans (hfull _ _ _ _)
  · exact (((hcmd _).trans (hzone _ _ _ _ _)).trans (hmade _ _ _)).trans (hfull _ _ _ _)

theorem cmds_goReadOnly (t z reason : Nat) : (goReadOnly s t z reason).cmds = s.cmds := by
  have hzone : ∀ f pl, (logEv (watchGate (modZone (stageRec s) t z f)) 2 (src 8 t) 0x8002 pl).cmds = s.cmds := fun f pl =>
    only_logEv _ _ _ _ _ .cmds (by simp)
  have hclosed : ∀ u : State, u.cmds = s.cmds → (stageClosed (noticeTenant u t 4 z ZSt.readOnly.code reason) t z).cmds = s.cmds := fun u hu =>
    (cmds_of_kept (kept_stageClosed _ _ _)).trans ((only_noticeTenant _ _ _ _ _ _ .cmds (by simp)).trans hu)
  unfold goReadOnly
  dsimp only
  split
  · exact (cmds_of_kept (kept_setHltEvt _ _ _ _)).trans (hclosed _ (hzone _ _))
  · exact hclosed _ (hzone _ _)

theorem stems_writerStage (c : Cmd) : Stems s (writerStage s c) := by
  have hspare : Stems s (genCompl (goReadOnly s c.tenant (wZone c.pkt) 1) c.tenant c.seq stSpareExh allOnes64) :=
    (stems_of_cmds (cmds_goReadOnly s _ _ _)).trans (stems_genCompl _ _ _ _ _)
  unfold writerStage
  dsimp only
  split
  · refine Stems.trans ?_ (stems_genCompl _ _ _ _ _)
    have hro : ∀ (p : Prop) [Decidable p],
        Stems s (if p then setCipEvt (goReadOnly s c.tenant (wZone c.pkt) 2) 3 c.tenant 1 else s) := fun p _ =>
      stems_ite ((stems_of_cmds (cmds_goReadOnly s _ _ _)).kept (kept_setCipEvt _ _ _ _)) (Stems.refl s)
    exact stems_ite ((hro _).kept (kept_cipCnt _ _ _)) (hro _)
  · refine stems_ite (stems_ite hspare (stems_commitWriter s c)) ?_
    have hopen : Stems s (if (getZone s c.tenant (wZone c.pkt)).st = .empty then openEmpty s c.tenant (wZone c.pkt) (pHint c.pkt)
        else modZone s c.tenant (wZone c.pkt) fun r => { r with st := .opened }) :=
      stems_ite (stems_of_kept (kept_openEmpty s _ _ _)) (stems_of_cmds rfl)
    refine stems_ite hspare ?_
    split
    · next hs => exact (hopen.kept (kept_supply _ hs)).trans (stems_commitWriter _ c)
    · exact (Stems.refl s).mod fun _ => ⟨rfl, rfl, rfl, rfl, rfl⟩

/-! ### Zone commands -/

theorem stems_endFua (t z : Nat) : Stems s (endFua s t z) := stems_foldl (fun u _ => stems_ite (stems_genCompl u _ _ _ _) (Stems.refl u)) _ _

theorem stems_applyReset (t z : Nat) : Stems s (applyReset s t z) := by
  have hpurged : ∀ (f : Zone → Zone) (vs es bs bs' : List Nat), Stems s (purgeOld (bs.foldl queueEr (es.foldl releaseExt (watchGate (vs.foldl freeVer
      (modZone (dropMoves (dropPrograms (dropParity (endFua s t z) t z) bs es) t z bs') t z f))))) t z) := fun f vs es bs bs' => by
    refine (stems_endFua s t z).kept ?_
    rw [kept_purgeOld, kept_foldl _ fun u b => kept_queueEr u b, kept_foldl _ fun u e => kept_releaseExt u e, kept_watchGate,
      kept_foldl _ fun u v => kept_freeVer u v, kept_modZone, kept_dropMoves, kept_dropPrograms, kept_dropParity]
  unfold applyReset
  dsimp only
  exact stems_ite ((hpurged _ _ _ _ _).kept (kept_setCipEvt _ _ _ _)) (hpurged _ _ _ _ _)

theorem stems_resetStage (c : Cmd) : Stems s (resetStage s c) := by
  unfold resetStage
  dsimp only
  refine stems_ite (Stems.mod (stems_of_cmds rfl) fun _ => ⟨rfl, rfl, rfl, rfl, rfl⟩) (Stems.trans (Stems.trans (Stems.mod (Stems.refl s) ?_)
    (stems_applyReset _ _ _)) (stems_awaitJournal _ _ _ _))
  exact fun _ => ⟨rfl, rfl, rfl, rfl, rfl⟩

theorem stems_openStage (c : Cmd) : Stems s (openStage s c) := by
  have h : Stems s (if (getZone s c.tenant (pZone c.pkt)).st = .empty then openEmpty s c.tenant (pZone c.pkt) (pHint c.pkt)
      else modZone (stageRec s) c.tenant (pZone c.pkt) fun r => { r with st := .opened }) :=
    stems_ite (stems_of_kept (kept_openEmpty s _ _ _)) (stems_of_cmds rfl)
  exact (h.kept (kept_applyHint _ _ _ _ _)).trans (stems_genCompl _ _ _ _ _)

theorem stems_closeStage (c : Cmd) : Stems s (closeStage s c) := by
  unfold closeStage
  dsimp only
  refine Stems.trans ?_ (stems_genCompl _ _ _ _ _)
  refine stems_ite (Stems.refl s) (stems_ite (stems_of_cmds rfl) (Stems.kept (stems_of_cmds ?_) (kept_stageClosed _ _ _)))
  rfl

theorem stems_finishStage (c : Cmd) : Stems s (finishStage s c) := by
  unfold finishStage
  dsimp only
  refine stems_ite (stems_genCompl s _ _ _ _) (Stems.trans (Stems.kept (stems_of_cmds ?_) (kept_stageClosed _ _ _)) (stems_awaitJournal _ _ _ _))
  rfl

theorem stems_hintStage (c : Cmd) : Stems s (hintStage s c) :=
  (stems_of_kept (kept_applyHint _ _ _ _ _)).trans (stems_genCompl _ _ _ _ _)

theorem stems_flushStage (c : Cmd) : Stems s (flushStage s c) := by
  have hforced : ∀ (u : State) (l : List Nat), Stems u (l.foldl (fun s v => match current s (getVer s v).tenant (getVer s v).zone (getVer s v).lba with
      | none => s
      | some (w, _) => forceVer s w) u) := fun u l =>
    stems_foldl (fun w v => by
      split
      · exact Stems.refl w
      · exact stems_of_kept (kept_forceVer w _)) _ _
  have hcmd : ∀ cov, Stems s (modCmd s c.tenant c.seq fun x => { x with ph := .exec, committed := true, cover := cov }) := fun _ =>
    (Stems.refl s).mod fun _ => ⟨rfl, rfl, rfl, rfl, rfl⟩
  unfold flushStage
  dsimp only
  have h := fun cov => (hcmd cov).trans (hforced _ cov)
  split
  · exact h _
  · exact stems_ite ((h _).trans (stems_genCompl _ _ _ _ _)) (stems_ite ((h _).trans (stems_genCompl _ _ _ _ _)) (h _))

theorem stems_sendAll (c : Cmd) (l : List (Nat × Nat)) (a : State × List Byte) : Stems a.1 (l.foldl (fun (acc : State × List Byte) g =>
    (sendData acc.1 c.port c.fn (.bytes c.port c.fn g.1 (acc.2.take g.2) (relaxedFn s c.port c.fn)), acc.2.drop g.2)) a).1 := by
  induction l generalizing a with
  | nil => exact Stems.refl _
  | cons g l ih => exact (stems_of_kept (kept_sendData _ _ _ _)).trans (ih _)

theorem stems_reportStage (c : Cmd) : Stems s (reportStage s c) := by
  unfold reportStage
  dsimp only
  refine Stems.trans (Stems.mod (stems_sendAll s c _ _) ?_) (stems_genCompl _ _ _ _ _)
  exact fun _ => ⟨rfl, rfl, rfl, rfl, rfl⟩

/-! ### Stage 5 -/

theorem stems_copyStage (c : Cmd) : Stems s (copyStage s c) := by
  unfold copyStage
  refine stems_ite ((Stems.refl s).mod fun _ => ⟨rfl, rfl, rfl, rfl, rfl⟩) ?_
  dsimp only
  split
  · exact stems_writerStage s c
  · exact stems_ite (stems_writerStage s c) ((stems_writerStage s c).trans (stems_startReader _ _ _))

theorem stems_zoneStage (t seq : Nat) : Stems s (zoneStage s t seq) := by
  have hmod : ∀ f : Cmd → Cmd, Keeps f → Stems s (modCmd s t seq f) := fun f hf => (Stems.refl s).mod hf
  have hcommit : Stems s (modCmd s t seq fun c => { c with committed := true }) := hmod _ fun _ => ⟨rfl, rfl, rfl, rfl, rfl⟩
  unfold zoneStage
  split
  · exact Stems.refl s
  · next c _ =>
    dsimp only
    refine stems_ite (Stems.refl s) (stems_ite (hmod _ fun _ => ⟨rfl, rfl, rfl, rfl, rfl⟩) (stems_ite (stems_genCompl s _ _ _ _) (stems_ite
      (stems_genCompl s _ _ _ _) (stems_ite (hmod _ fun _ => ⟨rfl, rfl, rfl, rfl, rfl⟩) (stems_ite (hcommit.trans (stems_readerStage _ _ _)) (stems_ite
        (stems_copyStage s c) (stems_ite (stems_writerStage s c) (stems_ite (stems_flushStage s c) (stems_ite (stems_reportStage s c) ?_)))))))))
    split
    · exact stems_genCompl s _ _ _ _
    · exact stems_ite (stems_resetStage s c) (stems_ite (hcommit.trans (stems_openStage _ c)) (stems_ite (hcommit.trans (stems_closeStage _ c))
        (stems_ite (hcommit.trans (stems_finishStage _ c)) (hcommit.trans (stems_hintStage _ c)))))

theorem stems_wakeHeld (t z : Nat) : Stems s (wakeHeld s t z) := stems_foldl (fun u _ => stems_ite (stems_zoneStage u _ _) (Stems.refl u)) _ _

theorem stems_endPath (c : Cmd) (status : Nat) (blocks : List Nat) : Stems s (endPath s c status blocks) := by
  have hleft : Stems s (if c.acked then c.vers.foldl (fun s v => modVer s v fun x => { x with left := true }) s else leaveWriter s c blocks) :=
    stems_ite (stems_foldl (fun u v => stems_of_kept (kept_modVer u v _)) _ _) (stems_of_kept (kept_leaveWriter s c blocks))
  exact stems_ite (stems_ite (hleft.trans (stems_genCompl _ _ _ _ _)) (stems_genCompl s _ _ _ _)) (stems_genCompl s _ _ _ _)

end

end Sys2Proof.Machine
end

section
/-! PROOFS. Lost ports and removed functions (R40 to R46): every command of theirs is redirected, and the functions are in their reset state. -/

namespace Sys2Proof.Machine

/-! ### Redirection -/

section
variable (s : State)

theorem stems_endQueued (c : Cmd) : Stems s (endQueued s c) := by
  have h := (stems_of_cmds (only_admCnt s c.tenant (cCls c) 10 1 .cmds (by simp))).mod (t := c.tenant) (seq := c.seq)
    (f := fun x => { x with queueUs := waitUs s c }) fun _ => ⟨rfl, rfl, rfl, rfl, rfl⟩
  exact stems_ite h (Stems.refl s)

theorem stems_dropCompl (c : Cmd) : Stems s (dropCompl s c) :=
  (stems_of_cmds (only_modPort s c.port _ .cmds (by cases c.port <;> simp [portPart]))).trans (stems_dropCmd _ _ _)

/-- The effects of a redirected command are fixed (R40 step 3). -/
def pathEnded (c : Cmd) (status : Nat) (blocks : List Nat) : State :=
  let s := endQueued s c
  let s := if c.ph = .resetWait then modZone s c.tenant (pZone c.pkt) fun r => { r with resetWait := none } else s
  if c.ph = .gen then s else endPath s c status blocks

/-- Its completion is bound to its failover ring. -/
def boundOver (c : Cmd) (status : Nat) : State :=
  let s := modCmd s c.tenant c.seq fun x => { x with
    status := status, result := pathResult c, redirected := true, outPort := c.port.other, outFn := c.fn
    outRing := pFail c.pkt, reserve := x.reserve || !c.granted, ph := .gen, todo := [], keyWait := [], genNo := s.genCtr }
  { s with genCtr := s.genCtr + 1 }

/-- The completion leaves, or is dropped (R41), and the zone's waiters go on. -/
def handedOver (c : Cmd) : State :=
  let s := sweepVers (if failoverOk s c then s else dropCompl s c)
  if c.ph = .resetWait then wakeHeld s c.tenant (pZone c.pkt) else s

theorem redirect_eq (reached : List Reached) (status : Nat) (c : Cmd) : redirect s reached status c =
    handedOver (boundOver (pathEnded s c status (((reached.find? fun r => r.tenant == c.tenant && r.seq == c.seq).map Reached.blocks).getD [])) c status)
      c := rfl

theorem stems_pathEnded (c : Cmd) (status : Nat) (blocks : List Nat) : Stems s (pathEnded s c status blocks) := by
  have h := (stems_endQueued s c).trans (stems_ite (p := c.ph = .resetWait) (stems_of_cmds (s := endQueued s c)
    (u := modZone (endQueued s c) c.tenant (pZone c.pkt) fun r => { r with resetWait := none }) rfl) (Stems.refl _))
  exact stems_ite h (h.trans (stems_endPath _ _ _ _))

theorem stems_boundOver (c : Cmd) (status : Nat) : Stems s (boundOver s c status) := by
  refine Stems.cmds (u := modCmd s c.tenant c.seq fun x => { x with
    status := status, result := pathResult c, redirected := true, outPort := c.port.other, outFn := c.fn
    outRing := pFail c.pkt, reserve := x.reserve || !c.granted, ph := .gen, todo := [], keyWait := [], genNo := s.genCtr })
    (stems_modCmd s _ _ ?_) rfl
  exact fun x => ⟨rfl, rfl, rfl, rfl, fun _ => rfl⟩

theorem redirected_boundOver (c : Cmd) (status : Nat) {d : Cmd} (hd : d ∈ (boundOver s c status).cmds) (ht : d.tenant = c.tenant) (hs : d.seq = c.seq) :
    d.redirected = true := by
  obtain ⟨x, -, rfl⟩ := List.mem_map.mp hd
  split
  · rfl
  · next hk => simp [hk] at ht hs; simp [ht, hs] at hk

theorem stems_handedOver (c : Cmd) : Stems s (handedOver s c) := by
  have h : Stems s (sweepVers (if failoverOk s c then s else dropCompl s c)) :=
    (stems_ite (Stems.refl s) (stems_dropCompl s c)).kept (kept_sweepVers _)
  exact stems_ite (h.trans (stems_wakeHeld _ _ _)) h

theorem stems_redirect (reached : List Reached) (status : Nat) (c : Cmd) : Stems s (redirect s reached status c) :=
  ((stems_pathEnded s c status _).trans (stems_boundOver _ c status)).trans (stems_handedOver _ c)

/-- A redirected command is redirected (R40 step 3). -/
theorem redirected_redirect (reached : List Reached) (status : Nat) (c : Cmd) {d : Cmd} (hd : d ∈ (redirect s reached status c).cmds)
    (ht : d.tenant = c.tenant) (hs : d.seq = c.seq) : d.redirected = true := by
  rw [redirect_eq] at hd
  obtain ⟨x, hx, h1, h2, -, -, hr⟩ := stems_handedOver _ c d hd
  exact hr (redirected_boundOver _ c status hx (h1.trans ht) (h2.trans hs))

theorem stems_redirectAll (p : Port) (f : Nat → Bool) (reached : List Reached) (status : Nat) : Stems s (redirectAll s p f reached status) :=
  (stems_foldl (fun u c => stems_dropCompl u c) _ s).trans (stems_foldl (fun u c => stems_redirect u reached status c) _ _)

end

/-- Of the commands that are redirected in turn, none is left that is not. -/
theorem redirected_foldl (reached : List Reached) (status : Nat) (l : List Cmd) (s : State) {c d : Cmd} (hc : c ∈ l)
    (hd : d ∈ (l.foldl (fun s c => redirect s reached status c) s).cmds) (ht : c.tenant = d.tenant) (hs : c.seq = d.seq) : d.redirected = true := by
  induction l generalizing s with
  | nil => simp at hc
  | cons x l ih =>
    rcases List.mem_cons.mp hc with rfl | hc
    · obtain ⟨y, hy, h1, h2, -, -, hr⟩ := stems_foldl (fun u c => stems_redirect u reached status c) l _ d hd
      exact hr (redirected_redirect s reached status c hy (h1.trans ht.symm) (h2.trans hs.symm))
    · exact ih _ hc hd

/-- No command captured through the functions picked out is left that is not redirected (R40, R45). -/
theorem redirected_redirectAll (s : State) (p : Port) (f : Nat → Bool) (reached : List Reached) (status : Nat) {d : Cmd}
    (hd : d ∈ (redirectAll s p f reached status).cmds) (hp : d.port = p) (hf : f d.fn = true) : d.redirected = true := by
  unfold redirectAll at hd
  dsimp only at hd
  generalize (s.cmds.filter fun c => c.redirected && c.outPort == p && f c.outFn).foldl dropCompl s = u at hd
  obtain ⟨c, hc, h1, h2, h3, h4, h5⟩ := stems_foldl (fun w c => stems_redirect w reached status c) _ u d hd
  by_cases hr : c.redirected = true
  · exact h5 hr
  · refine redirected_foldl reached status _ u (List.mem_filter.mpr ⟨hc, ?_⟩) hd h1 h2
    simp [h3, h4, hp, hf, hr]

/-! ### What a port keeps -/

/-- A record keeps what neither the event recorder nor a vector of PF0 changes. -/
theorem logEv_keeps {α : Type} (g : State → α) (he : ∀ u e, g { u with evr := e } = g u) (hf : ∀ u v, g (firePf0 u v) = g u) (s : State)
    (sev source code : Nat) (pl : List Byte) : g (logEv s sev source code pl) = g s := by
  have hraw : ∀ (u : State) sev source code pl, g (rawEv u sev source code pl) = g u := fun u sev source code pl => by
    have hfire : ∀ (w : State) e, g w = g u → g (if sev ≥ 3 then firePf0 { w with evr := e } 8 else w) = g u := fun w e hw => by
      split
      · rw [hf, he, hw]
      · exact hw
    unfold rawEv
    dsimp only
    refine hfire _ _ ?_
    split <;> simp only [he]
  have hsec : g (endSecond s) = g s := by
    unfold endSecond
    split
    · rfl
    · rw [foldl_field g _ (fun u x => by rw [hraw, he]) _ _, he]
  unfold logEv logUpTo
  dsimp only
  split
  · rw [he, hsec]
  · rw [hraw, he, hsec]

theorem getPort_of_only {l : List Part} {s u : State} (h : Only l s u) (ha : Part.pa ∉ l) (hb : Part.pb ∉ l) (p : Port) : getPort u p = getPort s p := by
  cases p
  · exact h .pa ha
  · exact h .pb hb

theorem getPort_fireVec_ne {p q : Port} (s : State) (fn v : Nat) (h : p ≠ q) : getPort (fireVec s q fn v) p = getPort s p := by
  unfold fireVec
  dsimp only
  split
  · exact getPort_modPort_ne _ _ _ _ h
  · cases p <;> rfl

/-- A vector of PF0 that fires leaves what is not PF0's. -/
theorem getPort_firePf0 {α : Type} (g : PortSt → α) (hg : ∀ x f, g { x with pf0 := f } = g x) (s : State) (v : Nat) (p : Port) :
    g (getPort (firePf0 s v) p) = g (getPort s p) := by
  have h1 : ∀ (u : State) (q : Port), g (getPort (fireVec u q 0 v) p) = g (getPort u p) := fun u q => by
    by_cases hq : p = q
    · subst hq
      unfold fireVec
      dsimp only
      split
      · simp only [modFn, getPort_modPort_self, if_true, hg]
      · cases p <;> rfl
    · rw [getPort_fireVec_ne _ _ _ hq]
  unfold firePf0
  dsimp only
  split <;> split <;> simp only [h1]

/-- No vector fires on a port whose link is down (R38). -/
theorem getPort_firePf0_down {s : State} {p : Port} (h : (getPort s p).linkUp = false) (v : Nat) : getPort (firePf0 s v) p = getPort s p := by
  unfold firePf0
  dsimp only
  cases p with
  | a =>
    have h' : s.pa.linkUp = false := h
    have hsame : (if s.pa.linkUp then fireVec s .a 0 v else s) = s := if_neg (by simp [h'])
    rw [hsame]
    split
    · exact getPort_fireVec_ne _ _ _ (by decide)
    · rfl
  | b =>
    have h' : s.pb.linkUp = false := h
    have hne : (if s.pa.linkUp then fireVec s .a 0 v else s).pb = s.pb := by
      split
      · exact getPort_fireVec_ne (p := .b) _ _ _ (by decide)
      · rfl
    rw [if_neg (by simp [hne, h'])]
    exact hne

section
variable (s : State) (p : Port) (fn cause n breaker : Nat)

theorem cmds_dropVfBox : (dropVfBox s p fn cause).cmds = s.cmds := 
  ((only_discardVfBox s p fn cause).andThen (only_modMbx _ _ _) (by simp)) .cmds (by simp)

theorem only_breakLock : Only [.mbxs, .rst, .pa, .pb, .out, .evr] s (breakLock s n cause breaker) :=
  (((only_discardBox s _).mono (by simp)).andThen (only_modMbx _ _ _) (by simp)).andThen (only_logEv _ _ _ _ _) (by simp)

theorem cmds_breakPort : (breakPort s p cause).cmds = s.cmds :=
  only_foldl _ (fun u x => Only.ite (only_breakLock u cause x 0) (Only.refl _ u)) _ s .cmds (by simp)

/-- A tenant mailbox's discard leaves the ports but for the vectors of PF0. -/
theorem vfs_dropVfBox (q : Port) : (getPort (dropVfBox s p fn cause) q).vfs = (getPort s q).vfs := by
  have hlog := fun u sev source code pl => logEv_keeps (fun u => (getPort u q).vfs) (fun _ _ => by cases q <;> rfl)
    (fun u v => getPort_firePf0 PortSt.vfs (fun _ _ => rfl) u v q) u sev source code pl
  have hbox : getPort (dropVfBox s p fn cause) q = getPort (discardVfBox s p fn cause) q :=
    getPort_of_only (only_modMbx _ _ _) (by simp) (by simp) q
  rw [hbox]
  unfold discardVfBox
  dsimp only
  rw [hlog, getPort_of_only (only_discardBox s _) (by simp) (by simp) q]

end

/-! ### Functions that are reset -/

theorem getFn_of_vfs {s u : State} {p : Port} {f : Nat} (hf : f ≠ 0) (h : (getPort u p).vfs = (getPort s p).vfs) : getFn u p f = getFn s p f := by
  simp only [getFn, hf, if_false, h]

theorem getPort_resetVf (s : State) (p : Port) (f : Nat) :
    getPort (resetVf s p f) p = { getPort s p with vfs := Tab.set {} (getPort s p).vfs f {} } := by
  unfold resetVf
  rw [getPort_modPort_self]
  cases p <;> rfl

theorem getFn_resetVf (s : State) (p : Port) (f g : Nat) (hg : g ≠ 0) : getFn (resetVf s p f) p g = if g = f then {} else getFn s p g := by
  simp only [getFn, hg, if_false, getPort_resetVf, Tab.get_set]

theorem cmds_resetVf (s : State) (p : Port) (f : Nat) : (resetVf s p f).cmds = s.cmds := by cases p <;> rfl
theorem cmds_resetFns (s : State) (p : Port) : (resetFns s p).cmds = s.cmds := by cases p <;> rfl

theorem getPort_resetFns (s : State) (p : Port) : getPort (resetFns s p) p = { getPort s p with
    pf0 := {}, vfs := [], vfEn := false, numVfs := 0, d3hot := false, vfBar := 0, win := {}, inL1 := false } := by
  unfold resetFns
  rw [getPort_modPort_self]
  cases p <;> rfl

theorem getFn_resetFns (s : State) (p : Port) (f : Nat) : getFn (resetFns s p) p f = {} := by
  unfold getFn
  rw [getPort_resetFns]
  split <;> rfl

theorem getFn_dropVfBox (s : State) (p q : Port) (fn cause f : Nat) (hf : f ≠ 0) : getFn (dropVfBox s p fn cause) q f = getFn s q f :=
  getFn_of_vfs hf (vfs_dropVfBox s p fn cause q)

/-- The functions of a list are removed one after another. -/
def removedVfs (s : State) (p : Port) (l : List Nat) (cause : Nat) : State := l.foldl (fun s f => resetVf (dropVfBox s p f cause) p f) s

theorem removeVfs_eq (s : State) (p : Port) (l : List Nat) (reached : List Reached) (cause : Nat) :
    removeVfs s p l reached cause = removedVfs (redirectAll s p (fun f => l.contains f) reached stFnReset) p l cause := rfl

theorem cmds_removedVfs (s : State) (p : Port) (l : List Nat) (cause : Nat) : (removedVfs s p l cause).cmds = s.cmds :=
  foldl_field State.cmds _ (fun u f => (cmds_resetVf _ p f).trans (cmds_dropVfBox u p f cause)) l s

theorem getFn_removedVfs (s : State) (p : Port) (l : List Nat) (cause : Nat) {f : Nat} (hf : f ≠ 0) :
    getFn (removedVfs s p l cause) p f = if f ∈ l then {} else getFn s p f := by
  induction l generalizing s with
  | nil => simp [removedVfs]
  | cons x l ih =>
    change getFn (removedVfs (resetVf (dropVfBox s p x cause) p x) p l cause) p f = _
    rw [ih, getFn_resetVf _ _ _ _ hf, getFn_dropVfBox _ _ _ _ _ _ hf]
    by_cases hx : f = x
    · simp [hx]
    · simp [hx]

/-- A function that is removed is in its reset state, and what was captured through it is redirected (R45). -/
theorem removeVfs_spec (s : State) (p : Port) {l : List Nat} {f : Nat} (reached : List Reached) (cause : Nat) (hf : f ≠ 0) (hl : f ∈ l) :
    getFn (removeVfs s p l reached cause) p f = {} ∧
      ∀ c ∈ (removeVfs s p l reached cause).cmds, c.port = p → c.fn = f → c.redirected = true := by
  rw [removeVfs_eq]
  refine ⟨by rw [getFn_removedVfs _ _ _ _ hf, if_pos hl], fun c hc hp hfn => ?_⟩
  rw [cmds_removedVfs] at hc
  exact redirected_redirectAll s p _ reached stFnReset hc hp (by simp [hfn, hl])

theorem mem_vfList {s : State} {p : Port} {f : Nat} (h : fnExists s p f = true) (hf : f ≠ 0) : f ∈ vfList s p := by
  simp only [fnExists, Bool.or_eq_true, beq_iff_eq, hf, false_or, Bool.and_eq_true, decide_eq_true_eq] at h
  obtain ⟨hen, hle⟩ := h
  rw [vfList, if_pos hen, List.mem_map]
  exact ⟨f - 1, List.mem_range.mpr (by omega), by omega⟩

/-- PF0 is reached wherever a VF is. -/
theorem CfgReaches.pf0 {s : State} {p : Port} {f : Nat} (h : CfgReaches s p f) : CfgReaches s p 0 := ⟨h.1, h.2.1, rfl⟩

theorem getFn_modPort_fields (s : State) (p : Port) (g : PortSt → PortSt) (f : Nat) (hf : f ≠ 0) (hg : ∀ x, (g x).vfs = x.vfs) :
    getFn (modPort s p g) p f = getFn s p f := getFn_of_vfs hf (by rw [getPort_modPort_self, hg])

/-- Settles O18: each removal is `removeVfs` of the function (`removeVfs_spec`), and PF0's own reset clears every function. -/
theorem removedFunctionsAreReset : Obligations.RemovedFunctionsAreReset := by
  unfold Obligations.RemovedFunctionsAreReset
  intro s p f v r i hf hreach hen hi
  have hlist : f ∈ vfList (woken s p 3) p := by rw [vfList_woken]; exact mem_vfList hreach.2.2 hf
  have hcmds : ∀ (u : State) (g : PortSt → PortSt), (modPort u p g).cmds = u.cmds := fun u g => by cases p <;> rfl
  rcases hi with rfl | rfl | rfl | ⟨rfl, hv, hmax⟩
  case inl =>
    obtain ⟨h1, h2⟩ := removeVfs_spec (woken s p 3) p r 1 hf (l := [f]) (by simp)
    refine ⟨removeVfs (woken s p 3) p [f] r 1, ?_, h1, h2, by simp, by simp, by simp⟩
    change execFlr p f r s = _
    exact (cfgAccess_reaches _ hreach).trans (if_neg hf)
  case inr.inl =>
    obtain ⟨-, h2⟩ := removeVfs_spec (woken s p 3) p r 4 hf hlist
    refine ⟨resetFns (breakPort (removeVfs (woken s p 3) p (vfList (woken s p 3) p) r 4) p 1) p, ?_, getFn_resetFns _ _ _, ?_,
      fun _ => ⟨getFn_resetFns _ _ _, by rw [getPort_resetFns], by rw [getPort_resetFns]⟩, by simp, by simp⟩
    · change execPf0Flr p r s = _
      exact cfgAccess_reaches _ hreach.pf0
    · rw [cmds_resetFns, cmds_breakPort]
      exact h2
  case inr.inr.inl =>
    obtain ⟨h1, h2⟩ := removeVfs_spec (woken s p 3) p r 4 hf hlist
    refine ⟨modPort (removeVfs (woken s p 3) p (vfList (woken s p 3) p) r 4) p fun q => { q with vfEn := false }, ?_, ?_, ?_, by simp,
      fun _ => by rw [getPort_modPort_self], by simp⟩
    · change execVfEnableWrite p false r s = _
      exact (cfgAccess_reaches _ hreach.pf0).trans (if_neg (by simp))
    · rw [getFn_modPort_fields _ _ _ _ hf (by intro _; rfl)]
      exact h1
    · rw [hcmds]
      exact h2
  case inr.inr.inr =>
    obtain ⟨h1, h2⟩ := removeVfs_spec (woken s p 3) p r 4 hf (l := (vfList (woken s p 3) p).filter (v < ·))
      (List.mem_filter.mpr ⟨hlist, by simpa using hv⟩)
    refine ⟨modPort (removeVfs (woken s p 3) p ((vfList (woken s p 3) p).filter (v < ·)) r 4) p fun q => { q with numVfs := v }, ?_, ?_, ?_, by simp,
      by simp, fun h => ?_⟩
    · change execNumvfsWrite p v r s = _
      exact (cfgAccess_reaches _ hreach.pf0).trans (if_neg (by omega))
    · rw [getFn_modPort_fields _ _ _ _ hf (by intro _; rfl)]
      exact h1
    · rw [hcmds]
      exact h2
    · rw [getPort_modPort_self]

/-! ### Port loss and return -/

/-- The port's link is down, as a loss leaves it. -/
def linkDown (s : State) (p : Port) : State :=
  modPort s p fun q => { q with linkUp := false, lossDue := false, speed := 0, width := 0, flit := false }

/-- A port loss up to its flag (R40): the commands are redirected, the mailboxes discarded, the functions reset. -/
def lostFns (s : State) (p : Port) (reached : List Reached) : State :=
  let s := redirectAll (linkDown s p) p (fun _ => true) reached stPathLost
  resetFns (breakPort ((vfList s p).foldl (fun s f => dropVfBox s p f 2) s) p 2) p

theorem losePort_eq (s : State) (p : Port) (cause : LossCause) (reached : List Reached) : losePort s p cause reached =
    setPortEvt (logEv (lostFns s p reached) 3 (src 1 p.num) 0x1001 (leBytes 4 cause.code ++ leBytes 4 (acceptedOn s p))) p.num := rfl

theorem linkUp_dropCompl (s : State) (c : Cmd) (p : Port) : (getPort (dropCompl s c) p).linkUp = (getPort s p).linkUp := by
  have h : getPort (dropCompl s c) p = getPort (modPort s c.port fun q => { q with dropped := satAdd 0xFFFFFFFF q.dropped 1 }) p := by cases p <;> rfl
  rw [h]
  by_cases hp : p = c.port
  · subst hp; rw [getPort_modPort_self]
  · rw [getPort_modPort_ne _ _ _ _ hp]

theorem linkUp_of_rest {s u : State} (h : rest u = rest s) (p : Port) : (getPort u p).linkUp = (getPort s p).linkUp :=
  linkUp_of_hostView (host_of_rest h) p

theorem linkUp_redirect (s : State) (reached : List Reached) (status : Nat) (c : Cmd) (p : Port) :
    (getPort (redirect s reached status c) p).linkUp = (getPort s p).linkUp := by
  have hended : ∀ blocks, (getPort (pathEnded s c status blocks) p).linkUp = (getPort s p).linkUp := fun blocks => by
    have hq : getPort (endQueued s c) p = getPort s p := by
      unfold endQueued
      split
      · cases p <;> rfl
      · rfl
    have hz : getPort (if c.ph = .resetWait then modZone (endQueued s c) c.tenant (pZone c.pkt) fun r => { r with resetWait := none } else endQueued s c) p =
        getPort s p := by
      rw [← hq]
      split
      · cases p <;> rfl
      · rfl
    unfold pathEnded
    dsimp only
    split
    · rw [hz]
    · rw [linkUp_of_rest (rest_endPath _ _ _ _), hz]
  have hbound : ∀ u : State, (getPort (boundOver u c status) p).linkUp = (getPort u p).linkUp := fun u => by cases p <;> rfl
  have hover : ∀ u : State, (getPort (handedOver u c) p).linkUp = (getPort u p).linkUp := fun u => by
    have hs : (getPort (sweepVers (if failoverOk u c then u else dropCompl u c)) p).linkUp = (getPort u p).linkUp := by
      rw [linkUp_of_rest (rest_of_kept (kept_sweepVers _))]
      split
      · rfl
      · exact linkUp_dropCompl u c p
    unfold handedOver
    dsimp only
    split
    · rw [linkUp_of_rest (rest_wakeHeld _ _ _), hs]
    · exact hs
  rw [redirect_eq, hover, hbound, hended]

theorem linkUp_redirectAll (s : State) (p q : Port) (f : Nat → Bool) (reached : List Reached) (status : Nat) :
    (getPort (redirectAll s p f reached status) q).linkUp = (getPort s q).linkUp :=
  (foldl_field (fun u => (getPort u q).linkUp) _ (fun u c => linkUp_redirect u reached status c q) _ _).trans
    (foldl_field (fun u => (getPort u q).linkUp) _ (fun u c => linkUp_dropCompl u c q) _ _)

/-- A record leaves whether a link is up. -/
theorem linkUp_logEv (s : State) (sev source code : Nat) (pl : List Byte) (p : Port) : (getPort (logEv s sev source code pl) p).linkUp = (getPort s p).linkUp :=
  linkUp_of_hostView (hostView_logEv _ _ _ _ _) p

theorem linkUp_breakPort (s : State) (p q : Port) (cause : Nat) : (getPort (breakPort s p cause) q).linkUp = (getPort s q).linkUp := by
  refine foldl_field (fun u => (getPort u q).linkUp) _ (fun u n => ?_) _ s
  split
  · unfold breakLock
    rw [linkUp_logEv, getPort_of_only ((only_discardBox u _).andThen (only_modMbx _ _ _) (by simp)) (by simp) (by simp)]
  · rfl

theorem linkUp_dropVfBox (s : State) (p q : Port) (fn cause : Nat) : (getPort (dropVfBox s p fn cause) q).linkUp = (getPort s q).linkUp := by
  have hbox : getPort (dropVfBox s p fn cause) q = getPort (discardVfBox s p fn cause) q :=
    getPort_of_only (only_modMbx _ _ _) (by simp) (by simp) q
  rw [hbox]
  unfold discardVfBox
  rw [linkUp_logEv, getPort_of_only (only_discardBox s _) (by simp) (by simp)]

theorem getPort_lostFns (s : State) (p : Port) (reached : List Reached) : (getPort (lostFns s p reached) p).linkUp = false ∧
    (getPort (lostFns s p reached) p).pf0 = {} ∧ (getPort (lostFns s p reached) p).vfs = [] ∧ (getPort (lostFns s p reached) p).vfEn = false := by
  unfold lostFns
  dsimp only
  rw [getPort_resetFns]
  refine ⟨?_, rfl, rfl, rfl⟩
  rw [linkUp_breakPort, foldl_field (fun u => (getPort u p).linkUp) _ (fun u f => linkUp_dropVfBox u p p f 2) _ _, linkUp_redirectAll, linkDown,
    getPort_modPort_self]

/-- A port whose link is down is left as it is by records and flags. -/
theorem getPort_logEv_down {s : State} {p : Port} (h : (getPort s p).linkUp = false) (sev source code : Nat) (pl : List Byte) :
    getPort (logEv s sev source code pl) p = getPort s p := by
  have hview := logEv_keeps (fun u => if (getPort u p).linkUp then none else some (getPort u p)) (fun u e => by cases p <;> rfl) (fun u v => by
    have hup : (getPort (firePf0 u v) p).linkUp = (getPort u p).linkUp := getPort_firePf0 PortSt.linkUp (fun _ _ => rfl) u v p
    by_cases hu : (getPort u p).linkUp = true
    · simp [hup, hu]
    · rw [hup, getPort_firePf0_down (by simpa using hu)]) s sev source code pl
  have hdown : (getPort (logEv s sev source code pl) p).linkUp = false := by rw [linkUp_logEv, h]
  simpa [h, hdown] using hview

theorem getPort_setPortEvt_down {s : State} {p : Port} (h : (getPort s p).linkUp = false) (b : Nat) : getPort (setPortEvt s b) p = getPort s p := by
  have hset : getPort { s with portEvt := setBit s.portEvt b } p = getPort s p := by cases p <;> rfl
  exact (getPort_firePf0_down (by rw [hset, h]) 10).trans hset

theorem getPort_losePort (s : State) (p : Port) (cause : LossCause) (reached : List Reached) :
    getPort (losePort s p cause reached) p = getPort (lostFns s p reached) p := by
  have hdown := (getPort_lostFns s p reached).1
  rw [losePort_eq, getPort_setPortEvt_down (by rw [linkUp_logEv, hdown]), getPort_logEv_down hdown]

theorem portEvt_setPortEvt (s : State) (b : Nat) : (setPortEvt s b).portEvt = setBit s.portEvt b := only_firePf0 _ _ .portEvt (by simp)

/-- No command of a lost port is left that is not redirected (R40). -/
theorem redirected_losePort (s : State) (p : Port) (cause : LossCause) (reached : List Reached) {c : Cmd} (hc : c ∈ (losePort s p cause reached).cmds)
    (hp : c.port = p) : c.redirected = true := by
  have hset : (losePort s p cause reached).cmds = (lostFns s p reached).cmds :=
    (only_firePf0 _ _ .cmds (by simp)).trans (only_logEv _ _ _ _ _ .cmds (by simp))
  have hlost : (lostFns s p reached).cmds = (redirectAll (linkDown s p) p (fun _ => true) reached stPathLost).cmds := by
    unfold lostFns
    dsimp only
    rw [cmds_resetFns, cmds_breakPort]
    exact foldl_field State.cmds _ (fun u f => cmds_dropVfBox u p f 2) _ _
  rw [hset, hlost] at hc
  exact redirected_redirectAll (linkDown s p) p _ reached stPathLost hc hp rfl

theorem getPort_wake (s : State) (cause : Nat) (p : Port) : getPort (wake s cause) p = getPort s p :=
  getPort_of_only (only_wake s cause) (by simp) (by simp) p

theorem only_startPhy (s : State) (p : Port) : Only [.ckm] s (startPhy s p) := by
  have hpll : Only [.ckm] s (startPll s (11 + p.num) p) := only_modPll s _ _
  exact Only.ite (Only.refl _ s) (Only.ite (hpll.trans (only_modPll _ _ _)) (hpll.trans (only_modRef _ _ _)))

/-- PERST# deasserted: the PHY starts and its clock node is on (R46, R335). -/
theorem perstDeassert_spec (s : State) (p : Port) :
    ∃ u, exec (.perstDeassert p) s = .next u ∧ (getPort u p).perst = false ∧ bit u.ckm.gEn (5 + p.num) = true ∧
      bit u.ckm.gHostOff (5 + p.num) = false ∧ Only [portPart p, .ckm, .rst] s u := by
  refine ⟨_, rfl, ?_, ?_, ?_, ?_⟩
  · rw [getPort_wake, getPort_of_only ((only_startPhy (modPort s p fun q => { q with perst := false }) p).trans (only_ckm _ _)) (by simp) (by simp),
      getPort_modPort_self]
  · rw [only_wake _ _ .ckm (by simp)]
    exact bit_setBit_self _ _
  · rw [only_wake _ _ .ckm (by simp)]
    exact bit_clrBit_self _ _
  · exact ((((only_modPort s p _).mono (by simp)).andThen (only_startPhy _ p) (by simp)).andThen (only_ckm _ _) (by simp)).andThen (only_wake _ 4) (by simp)

/-- Settles O19: the loss is `losePort` (`redirected_losePort`, `getPort_losePort`), whose records and flags fire nothing on a port that is
down. -/
theorem portsAreLostAndReturn : Obligations.PortsAreLostAndReturn := by
  unfold Obligations.PortsAreLostAndReturn
  intro s p cause r sp w fl
  refine ⟨fun hup => ?lost, fun hlogic hdown hdue hmode => ?up, perstDeassert_spec s p, fun hup => ?l1⟩
  case lost =>
    obtain ⟨s', hs', hup'⟩ : ∃ s', (if cause = .perst then resetPhy (modPort s p fun q => { q with perst := true }) p else s) = s' ∧
        (getPort s' p).linkUp = true := by
      refine ⟨_, rfl, ?_⟩
      split
      · rw [resetPhy, getPort_of_only (only_modPll _ _ _) (by simp) (by simp), getPort_modPort_self, hup]
      · exact hup
    obtain ⟨h1, h2, h3, h4⟩ := getPort_lostFns s' p r
    refine ⟨wake (losePort s' p cause r) 4, ?_, ?_, fun f => ?_, ?_, ?_, fun c hc hp => ?_⟩
    · change execPortLost p cause r s = _
      unfold execPortLost
      rw [hs']
      exact if_pos (.inl hup')
    · rw [getPort_wake, getPort_losePort, h1]
    · rw [getFn, getPort_wake, getPort_losePort, h2, h3]
      split <;> rfl
    · rw [getPort_wake, getPort_losePort, h4]
    · rw [only_wake _ _ .portEvt (by simp), losePort_eq, portEvt_setPortEvt]
      exact bit_setBit_self _ _
    · rw [only_wake _ _ .cmds (by simp)] at hc
      exact redirected_losePort s' p cause r hc hp
  case up =>
    refine ⟨wake (setPortEvt (modPort s p fun q => { q with linkUp := true, speed := sp, width := w, flit := fl }) (2 + p.num)) 4, ?_, ?_⟩
    · change execPortUp p sp w fl s = _
      exact if_pos (by simp [hlogic, hdown, hdue, hmode])
    · have hkeep : ∀ {α : Type} (g : PortSt → α), (∀ x f, g { x with pf0 := f } = g x) → ∀ u b, g (getPort (setPortEvt u b) p) = g (getPort u p) :=
        fun g hg u b => (getPort_firePf0 g hg _ 10 p).trans (by cases p <;> rfl)
      rw [getPort_wake, hkeep PortSt.linkUp (fun _ _ => rfl), hkeep PortSt.speed (fun _ _ => rfl), hkeep PortSt.width (fun _ _ => rfl),
        hkeep PortSt.flit (fun _ _ => rfl), getPort_modPort_self, only_wake _ _ .portEvt (by simp), portEvt_setPortEvt]
      exact ⟨rfl, rfl, rfl, rfl, bit_setBit_self _ _⟩
  case l1 =>
    change execAspmL1Entry p s = _
    exact if_pos hup

end Sys2Proof.Machine
end

section
/-! PROOFS. Commands that end before they move data, or while they do (R29, R83, R146). -/

namespace Sys2Proof.Machine

/-! ### Refusal after waiting -/

/-- A command as `endBlockWait` or `countWait` leaves it: itself, whatever it waited for. -/
theorem getCmd_endBlockWait {s : State} {t seq : Nat} {c d : Cmd} (hd : getCmd s t seq = some d) (ht : c.tenant = t) (hs : c.seq = seq) :
    ∃ e, getCmd (endBlockWait s c) t seq = some e ∧ e.pkt = d.pkt ∧ (e.ph = d.ph ∨ e.ph = .exec) ∧ e.granted = d.granted := by
  unfold endBlockWait
  split
  · exact ⟨d, hd, rfl, .inl rfl, rfl⟩
  · subst ht hs
    have hd' := fun n => (getCmd_of_only ((only_admCnt s c.tenant (cCls c) 11 n).trans (only_modTCls _ c.tenant (cCls c)
      fun x => { x with cnts := Tab.upd 0 x.cnts 12 (max (c.queueUs + n)) })) (by simp) c.tenant c.seq).trans hd
    exact ⟨_, getCmd_modCmd_self _ (hd' _) (by intro _; exact ⟨rfl, rfl⟩), rfl, .inr rfl, rfl⟩

/-- The command is itself after its refusal is noted, with its wait in QUEUE_US (R146). -/
theorem getCmd_refusalNoted {s : State} {t seq : Nat} {c : Cmd} (hc : getCmd s t seq = some c) (st : Nat) :
    ∃ d, getCmd (refusalNoted s c st) t seq = some d ∧ d.pkt = c.pkt ∧ (d.ph = c.ph ∨ d.ph = .exec) ∧ d.granted = c.granted ∧ d.queueUs = waitUs s c := by
  obtain ⟨ht, hs⟩ := getCmd_key hc
  unfold refusalNoted
  dsimp only
  have hcounted : ∀ (w : State) n k, getCmd w t seq = some c → getCmd (admCnt w c.tenant (cCls c) k n) t seq = some c := fun w n k hw =>
    (getCmd_of_only (only_admCnt _ _ _ _ _) (by simp) t seq).trans hw
  have hu := hcounted s 1 (if st = stThermal then 6 else if st = stUcFull then 7 else 9) hc
  generalize admCnt s c.tenant (cCls c) (if st = stThermal then 6 else if st = stUcFull then 7 else 9) 1 = v at hu ⊢
  have huc : getCmd (if st = stUcFull ∧ heldBy v c = .dirty then admCnt v c.tenant (cCls c) 8 1 else v) t seq = some c := by
    split
    · exact hcounted v 1 8 hu
    · exact hu
  generalize (if st = stUcFull ∧ heldBy v c = .dirty then admCnt v c.tenant (cCls c) 8 1 else v) = u at huc ⊢
  obtain ⟨e, he, hpkt, hph, hg⟩ : ∃ e, getCmd (if c.blockNs.isSome then endBlockWait u c else countWait u c.tenant (cCls c) (waitUs s c)) t seq = some e ∧
      e.pkt = c.pkt ∧ (e.ph = c.ph ∨ e.ph = .exec) ∧ e.granted = c.granted := by
    split
    · exact getCmd_endBlockWait huc ht hs
    · exact ⟨c, (getCmd_of_only (only_countWait _ _ _ _) (by simp) t seq).trans huc, rfl, .inl rfl, rfl⟩
  subst ht hs
  exact ⟨_, getCmd_modCmd_self _ he (by intro _; exact ⟨rfl, rfl⟩), hpkt, hph, hg, rfl⟩

theorem refuseStatus_range (s : State) (c : Cmd) (b : Bound) :
    (refuseStatus s c b = 0x3003 ∨ refuseStatus s c b = 0x3004 ∨ refuseStatus s c b = 0x3005) ∧ (heldBy s c ≠ .none → refuseStatus s c b = 0x3004) := by
  unfold refuseStatus
  by_cases hh : heldBy s c = .none
  · rw [if_neg (by simp [hh])]
    refine ⟨?_, fun h => absurd hh h⟩
    split <;> split <;> simp [stThermal, stDeadline]
  · rw [if_pos hh]
    exact ⟨.inr (.inl rfl), fun _ => rfl⟩

theorem endParts_of_pkt {c d : Cmd} (h : d.pkt = c.pkt) : endParts d = endParts c := by unfold endParts cOp; rw [h]

/-- A refusal after waiting has no effect (R146). -/
theorem refuseQueued_spec {s : State} {t seq : Nat} {c : Cmd} (hc : getCmd s t seq = some c) (hph : c.ph ≠ .gen) (st : Nat) :
    Only (.tenants :: endParts c) s (refuseQueued s c st) ∧ Completes (refuseQueued s c st) t seq st (noEffectResult (cOp c)) ∧
      (getCmd (refuseQueued s c st) t seq).map Cmd.queueUs = some (waitUs s c) ∧
      (getCmd (refuseQueued s c st) t seq).map Cmd.granted = some c.granted := by
  obtain ⟨d, hd, hpkt, hdph, hg, hq⟩ := getCmd_refusalNoted hc st
  have hne : d.ph ≠ .gen := by
    obtain h | h := hdph <;> rw [h]
    · exact hph
    · decide
  obtain ⟨ht, hs⟩ := getCmd_key hc
  rw [refuseQueued_eq, ht, hs]
  refine ⟨?_, completes_genCompl hd hne, ?_, ?_⟩
  · refine Only.trans ((only_refusalNoted s c st).mono ?_) ((only_genCompl _ _ hd).mono ?_)
    · unfold endParts
      split <;> decide
    · rw [endParts_of_pkt hpkt]
      exact fun q hq => .tail _ hq
  · rw [getCmd_genCompl_self _ _ hd hne, Option.map_some, ended, hq]
  · rw [getCmd_genCompl_self _ _ hd hne, Option.map_some, ended, hg]

/-! ### Failed reads of host memory -/

theorem aer_of_rest {s u : State} (h : rest u = rest s) (p : Port) (fn : Nat) : (getFn u p fn).aer = (getFn s p fn).aer :=
  congrArg (fun v => ((v p).2 fn).aer) (host_of_rest h)

/-- A command whose list cannot be read ends with no effect, and the error is in its function's AER (R29, R83). -/
theorem dmaFail_list {s : State} {t seq : Nat} {c : Cmd} (hc : getCmd s t seq = some c) (hph : c.ph = .listWait) (b : Nat) (reached : List Nat) :
    ∃ u, dmaFail t seq b reached s = .next u ∧ Only (portPart c.port :: endParts c) s u ∧ Completes u t seq 0x1005 (noEffectResult (cOp c)) ∧
      (getFn u c.port c.fn).aer = setBit (getFn s c.port c.fn).aer b := by
  have honly : Only [portPart c.port] s (modFn s c.port c.fn fun f => { f with aer := setBit f.aer b }) := only_modPort _ _ _
  have hc' := (getCmd_of_only honly (by cases c.port <;> simp [portPart]) t seq).trans hc
  refine ⟨genCompl (modFn s c.port c.fn fun f => { f with aer := setBit f.aer b }) t seq stDmaFault (noEffectResult (cOp c)), ?_, ?_,
    completes_genCompl hc' (by rw [hph]; decide), ?_⟩
  · unfold dmaFail
    rw [hc]
    exact if_pos hph
  · exact (honly.mono (by simp)).andThen (only_genCompl _ _ hc') fun q hq => .tail _ hq
  · rw [aer_of_rest (rest_genCompl _ _ _ _ _), getFn_modFn_self]

/-- A writer past its commit point whose data cannot be read ends with its first LBA (R29). -/
theorem dmaFail_data {s : State} {t seq : Nat} {c : Cmd} (hc : getCmd s t seq = some c) (hph : c.ph = .exec) (hcom : c.committed = true)
    (hack : c.acked = false) (hop : cOp c = 0x02 ∨ cOp c = 0x03) (b : Nat) (reached : List Nat) :
    ∃ u, dmaFail t seq b reached s = .next u ∧ Completes u t seq 0x1005 c.lba0 := by
  have honly : Only [portPart c.port] s (modFn s c.port c.fn fun f => { f with aer := setBit f.aer b }) := only_modPort _ _ _
  have hc' := (getCmd_of_only honly (by cases c.port <;> simp [portPart]) t seq).trans hc
  obtain ⟨ht, hs⟩ := getCmd_key hc
  refine ⟨endPath (modFn s c.port c.fn fun f => { f with aer := setBit f.aer b }) c stDmaFault reached, ?_, ?_⟩
  · unfold dmaFail
    rw [hc]
    dsimp only
    rw [if_neg (by simp [hph]), if_pos ⟨hph, hcom, by simp [hack], hop⟩]
  · have hw : isWriter (cOp c) = true := by obtain h | h := hop <;> rw [h] <;> rfl
    unfold endPath
    rw [if_pos hw, if_pos hcom, if_neg (by simp [hack]), ht, hs]
    exact completes_genCompl ((getCmd_of_cmds (cmds_of_kept (kept_leaveWriter _ _ _)) t seq).trans hc') (by rw [hph]; decide)

/-- Settles O13: a wait's bound refuses by `refuseQueued_spec`; a list is parsed, and failed reads end their command. -/
theorem waitersEnd : Obligations.WaitersEnd := by
  unfold Obligations.WaitersEnd
  refine ⟨fun s t seq c hc hph hstop hb => ?_, fun s t seq c hc => ⟨fun hph bytes hrun hbad => ?_, fun hph bytes hrun hok => ?_, fun i err b reached hi => ?_⟩⟩
  · obtain ⟨honly, hcompl, hus, hg⟩ := refuseQueued_spec hc (by obtain h | h := hph <;> rw [h] <;> decide) (refuseStatus s c (boundOf s c))
    obtain ⟨hst, hheld⟩ := refuseStatus_range s c (boundOf s c)
    refine ⟨_, _, ?_, honly, hcompl, hst, hheld, hus, hg⟩
    change execRefusalAfterWaiting t seq s = _
    unfold execRefusalAfterWaiting
    rw [hc]
    exact if_pos ⟨hph, by simp [hstop], hb⟩
  · refine ⟨genCompl s t seq stInvalidField (noEffectResult (cOp c)), ?_, only_genCompl _ _ hc, completes_genCompl hc (by rw [hph]; decide)⟩
    change execExtentListFetch t seq bytes s = _
    unfold execExtentListFetch
    rw [hc]
    dsimp only
    rw [if_pos ⟨hph, hrun⟩, if_neg (by simp [hbad])]
  · change execExtentListFetch t seq bytes s = _
    unfold execExtentListFetch
    rw [hc]
    dsimp only
    rw [if_pos ⟨hph, hrun⟩, if_pos hok]
  · have hex : exec i s = dmaFail t seq b reached s := by
      obtain ⟨rfl, rfl⟩ | ⟨rfl, rfl, hlate⟩ := hi
      · rfl
      · change execCompletionTimeout t seq reached s = _
        unfold execCompletionTimeout
        rw [hc]
        exact if_pos hlate
    rw [hex]
    exact ⟨fun hph => dmaFail_list hc hph b reached, fun hph hcom hack hop => dmaFail_data hc hph hcom hack hop b reached⟩

end Sys2Proof.Machine
end

section
/-! PROOFS. Transfers that end: acknowledgement of writers, and readers that go on (R95, R122, R123). -/

namespace Sys2Proof.Machine

/-! ### A completion that is generated stays as it is -/

/-- Generating any completion leaves a generated one. -/
theorem Completes.genCompl {s : State} {t seq st r : Nat} (h : Completes s t seq st r) (t' seq' st' r' : Nat) :
    Completes (genCompl s t' seq' st' r') t seq st r := by
  by_cases hk : t = t' ∧ seq = seq'
  · obtain ⟨rfl, rfl⟩ := hk
    obtain ⟨c, hc, hph, -⟩ := id h
    rwa [genCompl_gen hc hph]
  · exact h.of_getCmd (getCmd_genCompl_ne s st' r' hk)

theorem Completes.foldl {α : Type} {t seq st r : Nat} {f : State → α → State} (hf : ∀ s x, Completes s t seq st r → Completes (f s x) t seq st r)
    (l : List α) {s : State} (h : Completes s t seq st r) : Completes (l.foldl f s) t seq st r := by
  induction l generalizing s with
  | nil => exact h
  | cons x l ih => exact ih (hf s x h)

theorem Completes.completeFua {s : State} {t seq st r : Nat} (h : Completes s t seq st r) : Completes (completeFua s) t seq st r := by
  refine Completes.foldl (fun u c hu => ?_) s.cmds h
  split
  · exact hu.genCompl _ _ _ _
  split
  · exact hu.genCompl _ _ _ _
  split
  · exact hu.genCompl _ _ _ _
  split
  · exact hu.genCompl _ _ _ _
  · exact hu

/-! ### Acknowledgement -/

/-- A writer without FUA is acknowledged and completes (R95). -/
theorem acknowledged {s : State} {t seq : Nat} {c : Cmd} (hc : getCmd s t seq = some c) (hph : c.ph = .exec) (hcom : c.committed = true)
    (hack : c.acked = false) (hdone : (cOp c = 0x02 ∨ cOp c = 0x03) ∧ dmaRuns s c = true ∨ cOp c = 0x0B ∧ c.todo = [] ∧ c.failLba = none)
    (hkeys : ∀ v ∈ c.vers, (getVer s v).hbm = true ∨ keyGone s v = false) (hfua : pFUA c.pkt = false) :
    ∃ u, exec (.writeAcknowledgement t seq) s = .next u ∧ Completes u t seq 0 c.lba0 := by
  have hw : isWriter (cOp c) = true := by
    obtain ⟨h | h, -⟩ | ⟨h, -⟩ := hdone <;> rw [h] <;> rfl
  have hready : (if cOp c = opCopy then c.todo.isEmpty && c.failLba.isNone else dmaRuns s c) = true := by
    obtain ⟨h | h, hrun⟩ | ⟨h, htodo, hfail⟩ := hdone
    · rw [h, if_neg (by decide), hrun]
    · rw [h, if_neg (by decide), hrun]
    · rw [h, if_pos (by decide), htodo, hfail]; rfl
  have hnokey : (c.vers.any fun v => !(getVer s v).hbm && keyGone s v) = false := by
    refine List.any_eq_false.mpr fun v hv => ?_
    obtain h | h := hkeys v hv <;> simp [h]
  have hex : exec (.writeAcknowledgement t seq) s = .next (completeFua (genCompl (onward (modCmd (if cOp c = opCopy then
      c.vers.foldl (fun s v => modVer (if (getVer s v).hbm then s else encryptBlock s v) v fun x => { x with hbm := true, acked := true }) s
    else tel (c.vers.foldl (fun s v => modVer (if (getVer s v).hbm then s else encryptBlock s v) v fun x => { x with hbm := true, acked := true }) s)
      (if c.port = .a then 1 else 3) (pLen c.pkt)) t seq fun x => { x with acked := true }) c) t seq stSuccess c.lba0)) := by
    change execWriteAcknowledgement t seq s = _
    unfold execWriteAcknowledgement
    rw [hc]
    dsimp only
    rw [if_pos ⟨hph, hcom, hw, by simp [hack], hready, by simp [hnokey]⟩, if_neg (by simp [hfua])]
  refine ⟨_, hex, Completes.completeFua ?_⟩
  have hvers : kept (c.vers.foldl (fun s v => modVer (if (getVer s v).hbm then s else encryptBlock s v) v fun x =>
      { x with hbm := true, acked := true }) s) = kept s := kept_foldl _ (fun u v => by rw [kept_modVer]; exact kept_ite u rfl (kept_encryptBlock u v)) _ _
  have hcmds : (if cOp c = opCopy then
      c.vers.foldl (fun s v => modVer (if (getVer s v).hbm then s else encryptBlock s v) v fun x => { x with hbm := true, acked := true }) s
    else tel (c.vers.foldl (fun s v => modVer (if (getVer s v).hbm then s else encryptBlock s v) v fun x => { x with hbm := true, acked := true }) s)
      (if c.port = .a then 1 else 3) (pLen c.pkt)).cmds = s.cmds := by
    split
    · exact cmds_of_kept hvers
    · exact cmds_of_kept ((kept_tel _ _ _).trans hvers)
  generalize (if cOp c = opCopy then _ else _ : State) = v at hcmds ⊢
  have hv := (getCmd_of_cmds hcmds t seq).trans hc
  refine completes_genCompl ((getCmd_of_cmds (cmds_of_kept (kept_onward _ c)) t seq).trans
    (getCmd_modCmd_self (fun x => { x with acked := true }) hv fun _ => ⟨rfl, rfl⟩)) ?_
  dsimp only
  rw [hph]
  decide

/-! ### A reader of zeros -/

/-- What decides which version a reader returns. -/
def visView (s : State) : Tab Ver × Tab Zone × Nat := (s.vers, s.zones, s.hlt.pcycle)

theorem visView_sendData (s : State) (p : Port) (fn : Nat) (o : Out) : visView (sendData s p fn o) = visView s := by
  unfold sendData
  split <;> rfl

theorem visView_sendBlock (s : State) (c : Cmd) (i : Nat) (x : Content) : visView (sendBlock s c i x) = visView s := by
  unfold sendBlock
  split
  · rfl
  · exact visView_sendData _ _ _ _

theorem visibleTo_of_visView {s u : State} (h : visView u = visView s) (t z lba seq : Nat) (skip : List Nat) :
    visibleTo u t z lba seq skip = visibleTo s t z lba seq skip := by
  have hv : u.vers = s.vers := congrArg Prod.fst h
  have hz : u.zones = s.zones := congrArg (fun v => v.2.1) h
  have hp : u.hlt.pcycle = s.hlt.pcycle := congrArg (fun v => v.2.2) h
  have hlive : ∀ v, live u v = live s v := fun v => by unfold live getZone; rw [hz]
  unfold visibleTo
  simp only [hv, hp, hlive]

/-- A block that was never written is sent as zeros (R122). -/
theorem readNow_zeros {s : State} {t seq : Nat} {c : Cmd} (hc : getCmd s t seq = some c) (hop : cOp c = 0x01) (z lba i : Nat)
    (hnone : visibleTo s t z (lba + i) seq c.skip = none) : readNow s t seq z lba i = sendBlock s c i .zeros := by
  have hsrc : blockSrc s t z (lba + i) seq c.skip = .zeros := by unfold blockSrc; rw [hnone]
  unfold readNow
  rw [hc]
  dsimp only
  rw [hsrc]
  exact if_neg (by rw [hop]; decide)

theorem readAll_zeros {t seq : Nat} {c : Cmd} (hop : cOp c = 0x01) (z lba : Nat) (l : List Nat) {s : State} (hc : getCmd s t seq = some c)
    (hnone : ∀ a, visibleTo s t z a seq c.skip = none) : getCmd (l.foldl (fun s i => readNow s t seq z lba i) s) t seq = some c := by
  induction l generalizing s with
  | nil => exact hc
  | cons i l ih =>
    change getCmd (l.foldl _ (readNow s t seq z lba i)) t seq = some c
    rw [readNow_zeros hc hop z lba i (hnone _)]
    refine ih ((getCmd_of_cmds (cmds_of_kept (kept_sendBlock _ _ _ _)) t seq).trans hc) fun a => ?_
    rw [visibleTo_of_visView (visView_sendBlock s c i .zeros), hnone]

/-- A READ that waits for nothing is counted and completes (R89). -/
theorem finishReader_eq {s : State} {t seq : Nat} {c : Cmd} (hc : getCmd s t seq = some c) (hop : cOp c = 0x01) (hph : c.ph = .exec)
    (htodo : c.todo = []) (hkw : c.keyWait = []) (hfail : c.failLba = none) :
    finishReader s t seq = purgeOld (genCompl (countRead s c stSuccess) t seq stSuccess 0) t (pZone c.pkt) := by
  obtain ⟨ht, hs⟩ := getCmd_key hc
  unfold finishReader
  rw [hc]
  dsimp only
  rw [if_neg (by rw [hph, htodo, hkw, hop]; decide), hfail]
  dsimp only
  rw [if_neg (by rw [hop]; decide), if_neg (by rw [hop]; decide), endReader, ht, hs]

/-- A reader that waits for nothing ends with SUCCESS. -/
theorem finishReader_done {s : State} {t seq : Nat} {c : Cmd} (hc : getCmd s t seq = some c) (hop : cOp c = 0x01) (hph : c.ph = .exec)
    (htodo : c.todo = []) (hkw : c.keyWait = []) (hfail : c.failLba = none) : Completes (finishReader s t seq) t seq 0 0 := by
  rw [finishReader_eq hc hop hph htodo hkw hfail]
  have hc' := (getCmd_of_cmds (cmds_of_kept (kept_countRead s c stSuccess)) t seq).trans hc
  exact (completes_genCompl hc' (by rw [hph]; decide)).of_getCmd (getCmd_of_cmds (cmds_of_kept (kept_purgeOld _ _ _)) t seq)

/-- A reader that runs, and none of whose blocks has ever been written, ends with SUCCESS (R122). -/
theorem startReader_zeros {s : State} {t seq : Nat} {c : Cmd} (hc : getCmd s t seq = some c) (hop : cOp c = 0x01) (hph : c.ph = .exec)
    (htodo : c.todo = []) (hkw : c.keyWait = []) (hfail : c.failLba = none) (hnone : ∀ a, visibleTo s t (pZone c.pkt) a seq c.skip = none) :
    Completes (startReader s t seq) t seq 0 0 := by
  have hall := readAll_zeros hop (pZone c.pkt) (pLba c.pkt) (List.range (pCount c.pkt)) hc hnone
  unfold startReader
  rw [hc]
  dsimp only
  generalize (List.range (pCount c.pkt)).foldl (fun s i => readNow s t seq (pZone c.pkt) (pLba c.pkt) i) s = u at hall ⊢
  rw [hall]
  have hissue : issueReads u c = u := by
    unfold issueReads
    simp [htodo, groupPages]
  dsimp only
  rw [hissue]
  exact finishReader_done hall hop hph htodo hkw hfail

/-- Rewriting a reader does not change what holds it (R123). -/
theorem readerHeld_modCmd (s : State) {t seq : Nat} {c d : Cmd} (f : Cmd → Cmd) (hs : c.seq = seq) (hf : ∀ x, (f x).seq = x.seq)
    (hd : d.tenant = c.tenant ∧ d.seq = c.seq ∧ d.skip = c.skip ∧ d.pkt = c.pkt) : readerHeld (modCmd s t seq f) d = readerHeld s c := by
  obtain ⟨h1, h2, h3, h4⟩ := hd
  unfold readerHeld modCmd
  rw [h1, h2, h3, h4, List.any_map]
  congr 1
  funext w
  rw [Function.comp_apply]
  split
  · next hk =>
    simp only [Bool.and_eq_true, beq_iff_eq] at hk
    have hw : decide (w.seq < c.seq) = false := by rw [hs, hk.2]; simp
    rw [hf, hw]
    simp
  · rfl

/-- A READ at the zone sequencer that nothing holds runs (R123). -/
theorem zoneStage_read {s : State} {t seq : Nat} {c : Cmd} (hc : getCmd s t seq = some c) (hheld : readerHeld s c = false) (hop : cOp c = 0x01)
    (hlost : (getZone s t (pZone c.pkt)).tabLost = false) (hoff : (getZone s t (pZone c.pkt)).st ≠ .offline)
    (hwait : (getZone s t (pZone c.pkt)).resetWait = none) : zoneStage s t seq =
      startReader (modCmd (modCmd s t seq fun c => { c with committed := true }) t seq fun c => { c with ph := .exec }) t seq := by
  obtain ⟨ht, hs⟩ := getCmd_key hc
  have hpop : pOp c.pkt = 0x01 := hop
  have hzs : namedZones c.pkt = [pZone c.pkt] := by
    unfold namedZones
    rw [hpop]
    rfl
  have hc1 := getCmd_modCmd_self (fun c => { c with committed := true }) hc fun _ => ⟨rfl, rfl⟩
  have hheld1 : readerHeld (modCmd s t seq fun c => { c with committed := true }) { c with committed := true } = false := by
    rw [readerHeld_modCmd (t := t) (c := c) (d := { c with committed := true }) s _ hs (by intro _; rfl) ⟨rfl, rfl, rfl, rfl⟩, hheld]
  have hrefuse : resetRefuses (cOp c) = false := by rw [hop]; rfl
  have hfw : fwCarried (cOp c) = false := by rw [hop]; rfl
  unfold zoneStage
  rw [hc]
  dsimp only
  rw [hzs, if_neg (by simp [hlost]), if_neg (by simp [hfw]), if_neg (by simp [hoff]), if_neg (by simp [hrefuse]), if_neg (by simp [hwait]),
    if_pos (.inl hop)]
  unfold readerStage
  rw [hc1]
  exact if_neg (by simp [hheld1])

/-- Settles O16: `acknowledged`, and a held READ that goes on to zeros (`zoneStage_read`, `startReader_zeros`). -/
theorem transfersEnd : Obligations.TransfersEnd := by
  unfold Obligations.TransfersEnd
  refine ⟨fun s t seq c hc hph hcom hack hdone hkeys hfua => acknowledged hc hph hcom hack hdone hkeys hfua,
    fun s t seq c hc hph hheld hpause => ⟨?_, fun hop htodo hkw hfail hlost hoff hwait hnone => ?_⟩⟩
  · have hp : (paused s && fwCarried (cOp c)) = false := by
      obtain h | h := hpause
      · simp [paused, h]
      · rw [h]; simp [fwCarried, opOpen, opClose, opFinish, opReset, opCopy, opVerify, opReport, opHint]
    change execReaderResume t seq s = _
    unfold execReaderResume
    rw [hc]
    exact if_pos ⟨hph, by simp [hheld], by simp [hp]⟩
  · rw [zoneStage_read hc hheld hop hlost hoff hwait]
    have hc1 := getCmd_modCmd_self (fun c => { c with committed := true }) hc fun _ => ⟨rfl, rfl⟩
    have hc2 := getCmd_modCmd_self (fun c => { c with ph := .exec }) hc1 fun _ => ⟨rfl, rfl⟩
    exact startReader_zeros hc2 hop rfl htodo hkw hfail fun a => hnone a

end Sys2Proof.Machine
end

section
/-! PROOFS. A READ's last sector (R89, R188, R286): its data leaves, and the command completes. -/

namespace Sys2Proof.Machine

/-! ### What has been sent stays sent -/

section
variable {o : Out} {s : State}

theorem sent_foldl {α : Type} {f : State → α → State} (h : ∀ u x, o ∈ u.out → o ∈ (f u x).out) (l : List α) (hs : o ∈ s.out) :
    o ∈ (l.foldl f s).out := by
  induction l generalizing s with
  | nil => exact hs
  | cons x l ih => exact ih (h s x hs)

theorem sent_fireVec (p : Port) (fn v : Nat) (hs : o ∈ s.out) : o ∈ (fireVec s p fn v).out := by
  unfold fireVec
  dsimp only
  split
  · cases p <;> exact hs
  · exact List.mem_append_left _ hs

theorem sent_firePf0 (v : Nat) (hs : o ∈ s.out) : o ∈ (firePf0 s v).out := by
  have ha : o ∈ (if s.pa.linkUp then fireVec s .a 0 v else s).out := by
    split
    · exact sent_fireVec _ _ _ hs
    · exact hs
  unfold firePf0
  generalize (if s.pa.linkUp then fireVec s .a 0 v else s) = u at ha
  dsimp only
  by_cases h : u.pb.linkUp = true
  · rw [if_pos h]
    exact sent_fireVec _ _ _ ha
  · rw [if_neg h]
    exact ha

theorem sent_rawEv (sev source code : Nat) (pl : List Byte) (hs : o ∈ s.out) : o ∈ (rawEv s sev source code pl).out := by
  unfold rawEv
  dsimp only
  split
  · refine sent_firePf0 _ ?_
    split <;> exact hs
  · split <;> exact hs

theorem sent_endSecond (hs : o ∈ s.out) : o ∈ (endSecond s).out := by
  unfold endSecond
  split
  · exact hs
  · refine sent_foldl (fun u x hu => sent_rawEv 1 0 0x0003 _ ?_) _ ?_
    · exact hu
    · exact hs

theorem sent_logEv (sev source code : Nat) (pl : List Byte) (hs : o ∈ s.out) : o ∈ (logEv s sev source code pl).out := by
  have hsec := sent_endSecond hs
  unfold logEv logUpTo
  generalize endSecond s = u at hsec
  dsimp only
  split
  · exact hsec
  · exact sent_rawEv _ _ _ _ hsec

theorem sent_pushPtr (r ptr : Nat) (hs : o ∈ s.out) : o ∈ (pushPtr s r ptr).out := by
  have hreject : ∀ c, o ∈ (rejectPush s r c ptr).out := fun c => sent_logEv _ _ _ _ hs
  unfold pushPtr
  split
  · exact hreject 1
  · exact hreject 2
  · exact hreject 3
  · rw [only_acceptPush s _ .out (by simp)]
    exact hs

theorem sent_freeVer (v : Nat) (hs : o ∈ s.out) : o ∈ (freeVer s v).out := by
  unfold freeVer
  dsimp only
  split
  · exact hs
  · exact sent_foldl (fun u i hu => sent_pushPtr _ _ hu) _ (show o ∈ (modVer s v fun x => { x with dirty := false }).out from hs)

theorem sent_sweepVers (hs : o ∈ s.out) : o ∈ (sweepVers s).out := sent_foldl (fun _ _ hu => sent_freeVer _ hu) _ hs

theorem sent_genCompl (t seq st r : Nat) (hs : o ∈ s.out) : o ∈ (genCompl s t seq st r).out := by
  have hentry : ∀ c, o ∈ (endEntry s t seq st r c).out := fun c => by
    unfold endEntry
    dsimp only
    split <;> exact hs
  unfold genCompl
  split
  · exact hs
  · split
    · exact hs
    · dsimp only
      split
      · exact sent_sweepVers (hentry _)
      · exact hentry _

end

/-! ### A sector that passes -/

theorem only_readCnt (s : State) (c : Cmd) (k : Nat) : Only [.tenants] s (readCnt s c k) := only_modTCls _ _ _ _

theorem only_countRead (s : State) (c : Cmd) (st : Nat) : Only [.tenants] s (countRead s c st) := by
  have hopt : ∀ (u : State) (p : Prop) [Decidable p] (k : Nat), Only [.tenants] u (if p then readCnt u c k else u) := fun u p _ k =>
    Only.ite (only_readCnt u c k) (Only.refl _ u)
  unfold countRead
  refine Only.ite (Only.refl _ s) ?_
  dsimp only
  exact ((((((((only_readCnt s c 0).trans (only_readCnt _ c _)).trans (hopt _ _ _)).trans (hopt _ _ _)).trans (hopt _ _ _)).trans (hopt _ _ _)).trans
    (hopt _ _ _)).trans (hopt _ _ _)).trans (hopt _ _ _)

theorem only_purgeOld (s : State) (t z : Nat) : Only [.cip] s (purgeOld s t z) := only_cip s _

/-- A reader as its last sector, done at its first sense, leaves it. -/
def lastSectorDone (q : SecReq) (c : Cmd) : Cmd :=
  { c with tier := max c.tier 0, todo := c.todo.filter (· != q.ver * 4 + q.sub) }

theorem only_decryptBlock (s : State) (v : Nat) : Only [.cip] s (decryptBlock s v) := by
  have hcip : ∀ (u : State) a b, Only [.cip] u (cipT (cipCnt u 1 1) a b 1) := fun u a b => (only_cip u _).trans (only_cip _ _)
  exact Only.ite (Only.refl _ s) ((only_cip s _).trans (hcip (derive s (getVer s v)) _ _))

theorem only_sendData (s : State) (p : Port) (fn : Nat) (o : Out) : Only [.out, .hlt, .heldOut] s (sendData s p fn o) := by
  unfold sendData
  refine Only.ite ?_ ?_
  · intro q hq; cases q <;> simp at hq <;> rfl
  · intro q hq; cases q <;> simp at hq <;> rfl

theorem only_sendNow (s : State) (p : Port) (o : Out) : Only [.out, .hlt] s (sendNow s p o) := by
  intro q hq; cases q <;> simp at hq <;> rfl

theorem mem_sendNow (s : State) (p : Port) (o : Out) : o ∈ (sendNow s p o).out := List.mem_append_right s.out (List.mem_singleton.mpr rfl)

/-- The data that the block's sector completes (R84). -/
def sentBlock (s : State) (c : Cmd) (t seq v : Nat) : Out :=
  .data c.port c.fn t seq ((getVer s v).lba - pLba c.pkt) (hostSegs s c ((getVer s v).lba - pLba c.pkt)) (getVer s v).content
    (getFn s c.port c.fn).relaxed

/-- A block whose tag matches is decrypted and its data leaves (R84, R286). -/
theorem blockDone_sends {s : State} {t seq v : Nat} {c : Cmd} (hc : getCmd s t seq = some c) (hop : cOp c = 0x01) (hph : c.ph = .exec)
    (hred : c.redirected = false) (hbad : c.bad = []) (hkey : keyGone s v = false) (htag : tagOk s v = true) (hcan : canWrite s c.port c.fn = true) :
    Only [.cip, .out, .hlt, .heldOut] s (blockDone s t seq v false) ∧ sentBlock s c t seq v ∈ (blockDone s t seq v false).out := by
  obtain ⟨ht, hs⟩ := getCmd_key hc
  have hdec := only_decryptBlock s v
  have hport : ∀ q, getPort (decryptBlock s v) q = getPort s q := getPort_of_only hdec (by simp) (by simp)
  have hfn : ∀ q n, getFn (decryptBlock s v) q n = getFn s q n := fun q n => by unfold getFn; rw [hport]
  have hcan' : canWrite (decryptBlock s v) c.port c.fn = true := by
    rw [← hcan, canWrite, canWrite, hport, hfn, hdec .ckm (by simp)]
  have hsegs : ∀ i, hostSegs (decryptBlock s v) c i = hostSegs s c i := fun i => by
    have hten : (decryptBlock s v).tenants = s.tenants := hdec .tenants (by simp)
    unfold hostSegs tenD getTen
    rw [hten]
  have hdone : blockDone s t seq v false = sendNow (decryptBlock s v) c.port (sentBlock s c t seq v) := by
    unfold blockDone
    rw [hc]
    dsimp only
    rw [if_neg (by simp [hbad]), if_neg (by simp [hkey]), if_neg (by simp [htag]), gotBlock, if_neg (by rw [hop]; decide), sendBlock,
      if_neg (by simp [hop, hred, hph, opRead]), sendData, if_pos hcan', relaxedFn, hfn, hsegs, ht, hs, sentBlock]
  rw [hdone]
  generalize sentBlock s c t seq v = o
  generalize decryptBlock s v = u at hdec ⊢
  exact ⟨(hdec.mono (by simp)).trans ((only_sendNow u c.port o).mono (by simp)), mem_sendNow u c.port o⟩

/-- The last sector of a reader, done at its first sense, sends the block and ends the command (R89). -/
theorem cmdSec_last {s : State} {t seq : Nat} {c : Cmd} {r : Rd} {q : SecReq} (hc : getCmd s t seq = some c) (hop : cOp c = 0x01) (hph : c.ph = .exec)
    (hred : c.redirected = false) (hkw : c.keyWait = []) (hbad : c.bad = []) (hfail : c.failLba = none) (htodo : c.todo = [q.ver * 4 + q.sub])
    (hkey : keyGone s q.ver = false) (htag : tagOk s q.ver = true) (hcan : canWrite s c.port c.fn = true) :
    Completes (cmdSec s t seq r q 0 true false) t seq 0 0 ∧ sentBlock s c t seq q.ver ∈ (cmdSec s t seq r q 0 true false).out ∧
      (cmdSec s t seq r q 0 true false).media = s.media := by
  have hc' := getCmd_modCmd_self (lastSectorDone q) hc fun _ => ⟨rfl, rfl⟩
  have hempty : (lastSectorDone q c).todo = [] := by simp [lastSectorDone, htodo]
  have hcmd : cmdSec s t seq r q 0 true false =
      sweepVers (finishReader (blockDone (modCmd s t seq (lastSectorDone q)) t seq q.ver false) t seq) := by
    have hmod : cmdSec s t seq r q 0 true false = match getCmd (modCmd s t seq (lastSectorDone q)) t seq with
        | none => modCmd s t seq (lastSectorDone q)
        | some c => if c.todo.any fun x => x / 4 == q.ver then modCmd s t seq (lastSectorDone q)
          else sweepVers (finishReader (blockDone (modCmd s t seq (lastSectorDone q)) t seq q.ver false) t seq) := rfl
    rw [hmod, hc']
    dsimp only
    rw [hempty]
    rfl
  obtain ⟨honly, hsent⟩ := blockDone_sends (s := modCmd s t seq (lastSectorDone q)) hc' hop hph hred hbad hkey htag hcan
  rw [hcmd]
  have hd := (getCmd_of_only honly (by simp) t seq).trans hc'
  have hmedia : (blockDone (modCmd s t seq (lastSectorDone q)) t seq q.ver false).media = s.media := honly .media (by simp)
  have hdata : sentBlock s c t seq q.ver ∈ (blockDone (modCmd s t seq (lastSectorDone q)) t seq q.ver false).out := hsent
  generalize blockDone (modCmd s t seq (lastSectorDone q)) t seq q.ver false = u at hd hmedia hdata ⊢
  refine ⟨(finishReader_done hd hop hph hempty hkw hfail).of_getCmd (getCmd_of_only (only_sweepVers _) (by simp) t seq), sent_sweepVers ?_, ?_⟩
  · rw [finishReader_eq hd hop hph hempty hkw hfail]
    refine sent_genCompl (s := countRead u (lastSectorDone q c) stSuccess) t seq stSuccess 0 ?_
    rw [only_countRead u _ _ .out (by simp)]
    exact hdata
  · rw [only_sweepVers _ .media (by simp), finishReader_eq hd hop hph hempty hkw hfail, only_purgeOld _ _ _ .media (by simp),
      only_genCompl_any _ _ _ _ _ .media (by simp), only_countRead u _ _ .media (by simp), hmedia]

/-! ### The page read -/

/-- A page read of one sector that decodes at its first sense: the LUN is free, and the sector is handed on (R188). -/
theorem exec_flashReadDone_passed {s : State} {l t seq n : Nat} {r : Rd} {q : SecReq} (hcol : collects s l = true)
    (hr : runningRd (getLun s l) = some r) (hwhy : r.why = .cmd t seq) (htier : r.tier = 0) (hq : r.secs = [q]) (hv : q.ver ≠ 0)
    (hpoison : isPoison s q = false) (hlost : lostSec s q = false) :
    exec (.flashReadDone l [.decoded true false n] []) s =
      .next (drainOvf (secEnd (mcnt (setRd (pageCounted s 4096 0 0) l none) 0 1) r q 0 true false) l) := by
  have hpass : ∀ u : State, u.vers = s.vers → secPasses u q (.decoded true false n) = (true, false) := fun u hu => by
    have hl : lostSec u q = false := by rw [← hlost, lostSec, lostSec, getVer, getVer, hu]
    simp [secPasses, hv, hl]
  have hpois : ∀ u : State, u.vers = s.vers → isPoison u q = false := fun u hu => by rw [← hpoison, isPoison, isPoison, getVer, getVer, hu]
  have hsec : ∀ u : State, u.vers = s.vers → passSec u r q (.decoded true false n) [] = secEnd (mcnt u 0 1) r q 0 true false := fun u hu => by
    unfold passSec
    rw [hwhy, htier]
    dsimp only
    rw [hpois u hu, if_neg (by simp), if_neg (by simp), if_pos rfl]
    rfl
  have hidle : (setRd (pageCounted s 4096 0 0) l none).vers = s.vers :=
    (only_of_sansLuns (sansLuns_setRd_none _ l) .vers (by simp)).trans (only_pageCounted s 4096 0 0 .vers (by simp))
  rw [← hsec _ hidle]
  change execFlashReadDone l [.decoded true false n] [] s = _
  unfold execFlashReadDone
  rw [hr]
  dsimp only
  rw [if_neg (by simp [hcol, hwhy]), if_neg (by omega), if_neg (by omega), hq]
  have htel : (tel s 8 4096).vers = s.vers := rfl
  have hmc : (mcnt (tel s 8 4096) 5 0).vers = s.vers := rfl
  simp only [htier, List.length_singleton, Nat.sub_self, List.replicate_zero, List.append_nil, List.zip_cons_cons, List.zip_nil_left, Nat.one_mul,
    List.filter_cons, List.filter_nil, hpass _ htel, hpois _ hmc, Bool.not_true, Bool.false_eq_true, if_false, if_true, List.map_nil,
    List.isEmpty_nil, List.any_cons, List.any_nil, Bool.or_false, List.foldl_cons, List.foldl_nil, List.length_nil]
  rfl

/-- Settles O24: the sector that passes ends its block (`blockDone_sends`) and the command (`cmdSec_last`). -/
theorem flashReadReturnsData : Obligations.FlashReadReturnsData := by
  unfold Obligations.FlashReadReturnsData
  intro s l o r q t seq n c hcol hop hk hsub hovf hwhy htier hq hv hpoison hlost hkey htag hcan hc hph hred hkw hcop htodo hpart hbad hfail
  have hex := exec_flashReadDone_passed (n := n) hcol (runningRd_of_op hsub hop hk) hwhy htier hq hv hpoison hlost
  have hview : sansLuns (setRd (pageCounted s 4096 0 0) l none) = sansLuns (pageCounted s 4096 0 0) := sansLuns_setRd_none _ l
  have honly : Only [.media, .rst, .hlt] s (mcnt (setRd (pageCounted s 4096 0 0) l none) 0 1) :=
    (((only_pageCounted s 4096 0 0).mono (by simp)).andThen (only_of_sansLuns hview) (by simp)).andThen (only_hlt _ _) (by simp)
  have hlun : ∀ (u : State) k n, getLun (mcnt u k n) l = getLun u l := fun _ _ _ => rfl
  have hsame : getLun (pageCounted s 4096 0 0) l = getLun s l := by rw [pageCounted, hlun, hlun]; rfl
  have hidle : (getLun (mcnt (setRd (pageCounted s 4096 0 0) l none) 0 1) l).op = none := by
    rw [hlun]
    exact op_setRd_none (by rw [hsame]; exact hsub)
  generalize mcnt (setRd (pageCounted s 4096 0 0) l none) 0 1 = w at hex honly hidle
  have hcw := (getCmd_of_only honly (by simp) t seq).trans hc
  have hvers : w.vers = s.vers := honly .vers (by simp)
  have hcip : w.cip = s.cip := honly .cip (by simp)
  have hten : w.tenants = s.tenants := honly .tenants (by simp)
  have hport : ∀ p, getPort w p = getPort s p := getPort_of_only honly (by simp) (by simp)
  have hver : getVer w q.ver = getVer s q.ver := by rw [getVer, hvers, getVer]
  have hkeyw : keyGone w q.ver = false := by rw [← hkey]; unfold keyGone keyTag instOf; rw [hver, hcip]
  have htagw : tagOk w q.ver = true := by rw [← htag]; unfold tagOk; rw [hver, hcip]
  have hcanw : canWrite w c.port c.fn = true := by rw [← hcan]; unfold canWrite getFn; rw [hport, honly .ckm (by simp)]
  have hsent : sentBlock w c t seq q.ver = sentBlock s c t seq q.ver := by unfold sentBlock hostSegs tenD getTen getFn; rw [hver, hten, hport]
  have hsecEnd : secEnd w r q 0 true false = cmdSec w t seq r q 0 true false := by
    have hcopy : ((getCmd w t seq).any fun c => cOp c == opCopy) = false := by rw [hcw, Option.any_some, hcop]; rfl
    unfold secEnd
    rw [hwhy]
    simp [hcopy]
  obtain ⟨hcompl, hout, hmedia⟩ := cmdSec_last (r := r) hcw hcop hph hred hkw hbad hfail htodo hkeyw htagw hcanw
  rw [hsecEnd] at hex
  generalize cmdSec w t seq r q 0 true false = u at hex hcompl hout hmedia
  have hdrain : sansLuns (drainOvf u l) = sansLuns u := sansLuns_drainOvf u l
  refine ⟨drainOvf u l, hex, hcompl.of_getCmd (getCmd_of_only (only_of_sansLuns hdrain) (by simp) t seq), ?_, ?_⟩
  · rw [only_of_sansLuns hdrain .out (by simp)]
    rw [hsent] at hout
    exact hout
  · rw [op_of_sansReads (sansReads_drainOvf u l l), getLun, hmedia]
    exact hidle

end Sys2Proof.Machine
end

section
/-! PROOFS. Zone commands (R98 to R100, R104): what each does to its zone once it is released. -/

namespace Sys2Proof.Machine

/-! ### Staging leaves a zone without a reservation as it is -/

/-- A zone whose reservation is spent keeps its record (R130). -/
def SpentKept (t z : Nat) (s u : State) : Prop := (getZone s t z).resv = 0 → getZone u t z = getZone s t z

section
variable {t z : Nat} {s u w : State}

theorem spentKept_of_zones (h : u.zones = s.zones) : SpentKept t z s u := fun _ => getZone_of_zones h t z

theorem SpentKept.trans (h : SpentKept t z s u) (h' : SpentKept t z u w) : SpentKept t z s w := fun hr =>
  (h' ((congrArg Zone.resv (h hr)).trans hr)).trans (h hr)

theorem SpentKept.zones (h : SpentKept t z s u) (hw : w.zones = u.zones) : SpentKept t z s w := h.trans (spentKept_of_zones hw)

theorem spentKept_ite {p : Prop} [Decidable p] (h : SpentKept t z s u) (h' : SpentKept t z s w) : SpentKept t z s (if p then u else w) := by
  split <;> assumption

theorem spentKept_foldl {α : Type} {f : State → α → State} (h : ∀ s x, SpentKept t z s (f s x)) (l : List α) (s : State) : SpentKept t z s (l.foldl f s) := by
  induction l generalizing s with
  | nil => exact spentKept_of_zones rfl
  | cons x l ih => exact (h s x).trans (ih _)

theorem zones_allocBlk (s : State) (b : Nat) (f : FBlk → FBlk) : (allocBlk s b f).zones = s.zones :=
  (only_queueRd (modBlk (stageRec s) b fun x => { f x with inUse := true, checked := false, ready := false, allocNo := s.plp.jSeq + 1 })
    .check 3 0 b 0 false [] false) .zones (by simp)

theorem zones_setIn {s : State} {tn grp q : Nat} {r : State × Nat} (h : setIn s tn grp q = some r) : r.1.zones = s.zones := by
  unfold setIn at h
  split at h
  · injection h with h; rw [← h]
  · unfold newSet at h
    dsimp only at h
    split at h
    · cases h
    · injection h with h
      rw [← h]
      have hset : ∀ (u : State) n f, (modSet u n f).zones = u.zones := fun _ _ _ => rfl
      have hid : (newId s).1.zones = s.zones := rfl
      dsimp only
      rw [hset, zones_foldl _ _ fun u b => zones_allocBlk u b _, hid]

/-- The MiB that an extent takes from a zone's reservation (R130). -/
theorem spentKept_takeResv {s v : State} {tn : Nat} (h : v.zones = s.zones) (y : Nat) :
    SpentKept t z s (if decide (0 < (getZone v tn y).resv) = true then modZone v tn y fun r => { r with resv := r.resv - 1 } else v) := by
  split
  · next hpos =>
    intro hr
    rw [getZone_modZone]
    split
    · next hk =>
      rw [decide_eq_true_eq, getZone_of_zones h, getZone, ← hk, ← getZone, hr] at hpos
      exact absurd hpos (by simp)
    · exact getZone_of_zones h t z
  · exact spentKept_of_zones h

/-- A staging extent takes its MiB from the reservation of a zone that has one (R130). -/
theorem spentKept_newExt {s : State} {tn : Nat} {zone : Option Nat} {gen hint : Nat} {r : State × Nat} (h : newExt s tn zone gen hint = some r) :
    SpentKept t z s r.1 := by
  have hset : ∀ {u : State} {i : Nat}, u.zones = s.zones → (modSet (newId u).1 i fun x => { x with pages := x.pages + 1 }).zones = s.zones := fun hu => hu
  unfold newExt at h
  dsimp only at h
  split at h
  · cases h
  · next u i hu =>
    obtain ⟨q, -, hq⟩ := List.exists_of_findSome?_eq_some hu
    replace hset := hset (i := i) ((zones_setIn hq).trans rfl)
    injection h with h
    rw [← h]
    generalize modSet (newId u).1 i (fun x => { x with pages := x.pages + 1 }) = v at hset
    cases zone with
    | none => exact (spentKept_of_zones hset).zones rfl
    | some y => exact (spentKept_takeResv hset y).zones rfl

theorem spentKept_placeUc (s : State) (v : Nat) : SpentKept t z s (placeUc s v) := by
  unfold placeUc
  dsimp only
  split
  · exact spentKept_of_zones rfl
  · next u e hu =>
    refine SpentKept.zones (u := u) ?_ rfl
    split at hu
    · next r hr =>
      split at hr
      · split at hr
        · cases hr; cases hu; exact spentKept_of_zones rfl
        · cases hr
      · cases hr
    · split at hu
      · cases hu
      · next r hr =>
        cases hu
        exact (spentKept_newExt hr).zones ((popBufs_spec _ _ _ _).1 .zones (by simp [popParts]))

theorem zones_issueExt (s : State) (e : Nat) (fua : Bool) : (issueExt s e fua).zones = s.zones := by
  have hset : ∀ (u : State) n f, (modExt u n f).zones = u.zones := fun _ _ _ => rfl
  have hpg : ∀ (u : State) k b n a c, (queuePg u k b n a c).zones = u.zones := fun _ _ _ _ _ _ => rfl
  unfold issueExt
  dsimp only
  split
  · rfl
  · rw [zones_foldl _ _ fun u i => hpg u _ _ _ _ _, hset]

theorem spentKept_closeExt (s : State) (e : Nat) (fua : Bool) : SpentKept t z s (closeExt s e fua) := by
  unfold closeExt
  dsimp only
  refine SpentKept.trans (spentKept_of_zones ?_) (spentKept_foldl (fun u v => spentKept_placeUc u v) _ _)
  have hver : ∀ (u : State) n f, (modVer u n f).zones = u.zones := fun _ _ _ => rfl
  rw [zones_foldl _ _ fun u v => hver u v _, zones_issueExt]
  rfl

theorem spentKept_stageClosed (s : State) (tn zn : Nat) : SpentKept t z s (stageClosed s tn zn) := by
  refine spentKept_ite (spentKept_of_zones rfl) (SpentKept.trans (spentKept_foldl (fun u e => ?_) _ s) (spentKept_foldl (fun u e => spentKept_closeExt u e false) _ _))
  exact spentKept_ite (spentKept_placeUc u _) (spentKept_of_zones rfl)

end

/-! ### A zone command at the zone sequencer -/

theorem only_released (s : State) (c : Cmd) : Only [.tenants, .adm, .bpm, .cmds] s (released s c) := by
  have h := (only_paid s c).mono (m := [.tenants, .adm, .bpm, .cmds]) (by simp)
  unfold released
  dsimp only
  generalize paid s c = w at h ⊢
  refine Only.andThen (h.trans ?_) (only_modCmd _ _ _ _) (by simp)
  intro q hq; cases q <;> simp at hq <;> rfl

/-- The sizes and limits of a tenant (Table 5.1, R115). -/
def tenShape (x : Tenant) : Nat × Nat × Nat × Nat := (x.nc, x.w, x.blk, x.openMax)

theorem tenShape_modTCls (s : State) (t : Nat) (c : Cls) (f : TCls → TCls) : tenShape (tenD (modTCls s t c f) t) = tenShape (tenD s t) := by
  rw [tenD, modTCls, getTen_modTen_self, tenD]
  cases getTen s t with
  | none => rfl
  | some x => cases c <;> rfl

theorem tenShape_released (s : State) (c : Cmd) : tenShape (tenD (released s c) c.tenant) = tenShape (tenD s c.tenant) := by
  have hpaid : tenShape (tenD (paid s c) c.tenant) = tenShape (tenD s c.tenant) := by
    unfold paid countWait admCnt
    dsimp only
    simp only [tenShape_modTCls]
  exact hpaid

theorem zoneCap_of_tenShape {x y : Tenant} (h : tenShape x = tenShape y) (z : Nat) (r : Zone) : zoneCap x z r = zoneCap y z r := by
  simp only [tenShape, Prod.mk.injEq] at h
  obtain ⟨h1, h2, h3, -⟩ := h
  unfold zoneCap isConv zoneSize
  rw [h1, h2, h3]

/-- The zone commands whose reach is their own zone (R98, R104). -/
def zoneOps : List Nat := [opOpen, opClose, opFinish, opHint]

/-- A zone command past its checks is past its commit point, and does what its opcode names (Table 4.9). -/
theorem zoneStage_zoneOp {s : State} {t seq : Nat} {c : Cmd} (hc : getCmd s t seq = some c) (hop : cOp c ∈ zoneOps)
    (hlost : (getZone s t (pZone c.pkt)).tabLost = false) (hoff : (getZone s t (pZone c.pkt)).st ≠ .offline)
    (hwait : (getZone s t (pZone c.pkt)).resetWait = none) (hact : s.rst.actState = 0) (hcheck : zoneCmdCheck s c = none) :
    zoneStage s t seq =
      (if cOp c = opOpen then openStage (modCmd s t seq fun c => { c with committed := true }) c
        else if cOp c = opClose then closeStage (modCmd s t seq fun c => { c with committed := true }) c
        else if cOp c = opFinish then finishStage (modCmd s t seq fun c => { c with committed := true }) c
        else hintStage (modCmd s t seq fun c => { c with committed := true }) c) := by
  have hzs : namedZones c.pkt = [pZone c.pkt] := by
    have hp : pOp c.pkt ∈ zoneOps := hop
    unfold namedZones
    generalize pOp c.pkt = op at hp
    simp only [zoneOps, List.mem_cons, List.not_mem_nil, or_false] at hp
    obtain rfl | rfl | rfl | rfl := hp <;> rfl
  have hkind : isReader (cOp c) = false ∧ isWriter (cOp c) = false ∧ cOp c ≠ opRead ∧ cOp c ≠ opVerify ∧ cOp c ≠ opCopy ∧ cOp c ≠ opFlush ∧
      cOp c ≠ opReport ∧ cOp c ≠ opReset := by
    generalize cOp c = op at hop
    simp only [zoneOps, List.mem_cons, List.not_mem_nil, or_false] at hop
    obtain rfl | rfl | rfl | rfl := hop <;> decide
  obtain ⟨hr, hw, h1, h2, h3, h4, h5, h6⟩ := hkind
  have hwz : wZone c.pkt = pZone c.pkt := if_neg (by simpa [cOp] using h3)
  unfold zoneStage
  rw [hc]
  dsimp only
  rw [hzs, hwz, if_neg (by simp [hlost]), if_neg (by simp [paused, hact]), if_neg (by simp [hoff]), if_neg (by simp [hwait]), if_neg (by simp [hr]),
    if_neg (by simp [h1, h2]), if_neg h3, if_neg (by simp [hw]), if_neg h4, if_neg h5, hcheck]
  exact if_neg h6

/-- A released zone command goes to the zone sequencer with its zone as it was. -/
theorem zoneOp_released {s : State} {t : Nat} {cls : Cls} {tie : Bool} {h : Cmd} {x : Tenant} (hl : laneHead s t cls false = some h)
    (hc : getCmd s t h.seq = some h) (hstop : s.adm.stop = false) (hlane : laneHead s t cls true = none) (hcan : canRelease s h = true)
    (hx : getTen s t = some x) (hxl : pXL h.pkt = false) (hop : cOp h ∈ zoneOps) :
    ∃ v d, exec (.admissionRelease t cls ⟨false, tie⟩) s = .next (checkOver (zoneStage v t h.seq)) ∧ getCmd v t h.seq = some d ∧
      d.pkt = h.pkt ∧ d.ph = .exec ∧ d.tenant = t ∧ d.seq = h.seq ∧ tenShape (tenD v t) = tenShape x ∧
      v.zones = s.zones ∧ v.rst = s.rst ∧ v.plp = s.plp := by
  obtain ⟨ht, -, hcls⟩ := laneHead_spec hl
  subst ht hcls
  have hex := exec_admissionRelease (tie := tie) hl hstop (fun o ho => by rw [Bool.not_false, hlane] at ho; cases ho)
  obtain ⟨⟨d, hd, hdph, -, -, -, hdp, hdt, hds⟩, -, -⟩ := released_spec hx hc
  have hshape := tenShape_released s h
  have honly := only_released s h
  rw [hcan, if_pos rfl, releaseCmd_eq, hd] at hex
  generalize released s h = v at hex hd hshape honly
  have hstage : stage4 v d = zoneStage v h.tenant h.seq := by
    have hneed : needsKey (cOp d) = false := by
      rw [cOp, hdp, ← cOp]
      generalize cOp h = op at hop
      simp only [zoneOps, List.mem_cons, List.not_mem_nil, or_false] at hop
      obtain rfl | rfl | rfl | rfl := hop <;> rfl
    unfold stage4
    rw [hneed, if_neg (by simp), hdp, if_neg (by simp [hxl]), hdt, hds]
  dsimp only at hex
  rw [hstage] at hex
  refine ⟨v, d, hex, hd, hdp, hdph, hdt, hds, ?_, honly .zones (by simp), honly .rst (by simp), honly .plp (by simp)⟩
  rw [hshape, tenD, hx, Option.getD_some]

/-! ### Each zone command -/

section
variable {s : State} {c e : Cmd}

theorem applyHint_eq (s : State) (t z want : Nat) {hint : Nat} (hh : hint ≠ 3) :
    applyHint s t z hint want = (watchGate (modZone (stageRec s) t z fun r => { r with hint := hint, resv := 0 }), 0) := if_neg hh

theorem getZone_gated (s : State) (t z : Nat) (f : Zone → Zone) : getZone (watchGate (modZone s t z f)) t z = f (getZone s t z) :=
  (getZone_modZone s t z t z f).trans (if_pos rfl)

theorem getZone_stageRec (s : State) (t z : Nat) : getZone (stageRec s) t z = getZone s t z := rfl

/-- ZONE_OPEN of an EMPTY zone (R98). -/
theorem openStage_spec (hc : getCmd s c.tenant c.seq = some e) (hph : e.ph ≠ .gen) (hst : (getZone s c.tenant (pZone c.pkt)).st = .empty)
    (hh : pHint c.pkt ≠ 3) : Completes (openStage s c) c.tenant c.seq 0 0 ∧ (getZone (openStage s c) c.tenant (pZone c.pkt)).st = .opened ∧
      (getZone (openStage s c) c.tenant (pZone c.pkt)).hint = pHint c.pkt ∧
      (getZone (openStage s c) c.tenant (pZone c.pkt)).wp = (getZone s c.tenant (pZone c.pkt)).wp := by
  have hstage : openStage s c = genCompl (watchGate (modZone (stageRec (openEmpty s c.tenant (pZone c.pkt) (pHint c.pkt))) c.tenant (pZone c.pkt)
      fun r => { r with hint := pHint c.pkt, resv := 0 })) c.tenant c.seq stSuccess 0 := by
    unfold openStage
    dsimp only
    rw [if_pos hst, applyHint_eq _ _ _ _ hh]
  have hzone : getZone (openStage s c) c.tenant (pZone c.pkt) = { getZone (openEmpty s c.tenant (pZone c.pkt) (pHint c.pkt)) c.tenant (pZone c.pkt) with
      hint := pHint c.pkt, resv := 0 } := by
    rw [hstage, getZone_of_zones (zones_genCompl _ _ _ _ _), getZone_gated, getZone_stageRec]
  have hopened : getZone (openEmpty s c.tenant (pZone c.pkt) (pHint c.pkt)) c.tenant (pZone c.pkt) = { getZone s c.tenant (pZone c.pkt) with
      st := .opened, hint := pHint c.pkt, members := newMembers s (tenD s c.tenant) (pZone c.pkt) (pHint c.pkt), lastWriteNs := s.nowNs } := by
    rw [openEmpty, getZone_modZone, if_pos rfl, getZone_stageRec]
  rw [hzone, hopened]
  refine ⟨?_, rfl, rfl, rfl⟩
  rw [hstage]
  exact completes_genCompl (c := e) hc hph

/-- ZONE_CLOSE at write pointer 0 (R98). -/
theorem closeStage_spec (hc : getCmd s c.tenant c.seq = some e) (hph : e.ph ≠ .gen) (hst : (getZone s c.tenant (pZone c.pkt)).st = .opened)
    (hwp : (getZone s c.tenant (pZone c.pkt)).wp = 0) : Completes (closeStage s c) c.tenant c.seq 0 0 ∧
      (getZone (closeStage s c) c.tenant (pZone c.pkt)).st = .empty ∧ (getZone (closeStage s c) c.tenant (pZone c.pkt)).members = [] := by
  have hzone : getZone (watchGate (modZone (stageRec s) c.tenant (pZone c.pkt) fun r => { r with st := .empty, members := [], resv := 0 })) c.tenant
      (pZone c.pkt) = { getZone s c.tenant (pZone c.pkt) with st := .empty, members := [], resv := 0 } := by rw [getZone_gated, getZone_stageRec]
  have hstage : closeStage s c = genCompl (watchGate (modZone (stageRec s) c.tenant (pZone c.pkt) fun r => { r with st := .empty, members := [], resv := 0 }))
      c.tenant c.seq stSuccess 0 := by
    unfold closeStage
    dsimp only
    rw [if_neg (by simp [hst]), if_pos hwp, hzone]
    exact congrArg _ hwp
  rw [hstage, getZone_of_zones (zones_genCompl _ _ _ _ _), hzone]
  exact ⟨completes_genCompl (c := e) hc hph, rfl, rfl⟩

/-- HINT (R104). -/
theorem hintStage_spec (hc : getCmd s c.tenant c.seq = some e) (hph : e.ph ≠ .gen) (hh : pHint c.pkt ≠ 3) :
    Completes (hintStage s c) c.tenant c.seq 0 0 ∧
      getZone (hintStage s c) c.tenant (pZone c.pkt) = { getZone s c.tenant (pZone c.pkt) with hint := pHint c.pkt, resv := 0 } := by
  have hstage : hintStage s c = genCompl (watchGate (modZone (stageRec s) c.tenant (pZone c.pkt) fun r => { r with hint := pHint c.pkt, resv := 0 }))
      c.tenant c.seq stSuccess 0 := by
    unfold hintStage
    rw [applyHint_eq _ _ _ _ hh]
  rw [hstage, getZone_of_zones (zones_genCompl _ _ _ _ _), getZone_gated, getZone_stageRec]
  exact ⟨completes_genCompl (c := e) hc hph, rfl⟩

/-- A zone that ZONE_FINISH has filled (R98, R117). -/
def finishedZone (s : State) (t z : Nat) (r : Zone) : Zone :=
  { r with st := .full, wp := zoneCap (tenD s t) z r, finished := true, finWp := r.wp, finJno := s.plp.jSeq, resv := 0 }

/-- The state with a zone filled. -/
def filled (s : State) (t z : Nat) : State :=
  watchGate (modZone s t z fun r => { finishedZone s t z r with members := (getZone s t z).members })

theorem finishStage_spec (hc : getCmd s c.tenant c.seq = some e) (hst : (getZone s c.tenant (pZone c.pkt)).st = .opened) :
    ∃ d, getCmd (finishStage s c) c.tenant c.seq = some d ∧ d.journal = true ∧
      d.result = zoneCap (tenD s c.tenant) (pZone c.pkt) (getZone s c.tenant (pZone c.pkt)) ∧
      getZone (finishStage s c) c.tenant (pZone c.pkt) = finishedZone s c.tenant (pZone c.pkt) (getZone s c.tenant (pZone c.pkt)) := by
  have hzone : getZone (filled s c.tenant (pZone c.pkt)) c.tenant (pZone c.pkt) =
      finishedZone s c.tenant (pZone c.pkt) (getZone s c.tenant (pZone c.pkt)) := getZone_gated _ _ _ _
  have hcmd : getCmd (filled s c.tenant (pZone c.pkt)) c.tenant c.seq = some e := hc
  have hstage : finishStage s c = awaitJournal (stageClosed (filled s c.tenant (pZone c.pkt)) c.tenant (pZone c.pkt)) c.tenant c.seq
      (getZone (filled s c.tenant (pZone c.pkt)) c.tenant (pZone c.pkt)).wp := by
    unfold finishStage
    dsimp only
    rw [if_neg (by simp [hst]), if_neg (by simp [hst])]
    rfl
  rw [hstage, hzone]
  generalize filled s c.tenant (pZone c.pkt) = u at hzone hcmd ⊢
  have hstaged := (getCmd_of_cmds (cmds_of_kept (kept_stageClosed u c.tenant (pZone c.pkt))) c.tenant c.seq).trans hcmd
  have hkept := spentKept_stageClosed (t := c.tenant) (z := pZone c.pkt) u c.tenant (pZone c.pkt) (by rw [hzone]; rfl)
  refine ⟨_, getCmd_modCmd_self (fun x => { x with
    ph := .exec, journal := true, result := (finishedZone s c.tenant (pZone c.pkt) (getZone s c.tenant (pZone c.pkt))).wp }) hstaged
    fun _ => ⟨rfl, rfl⟩, rfl, rfl, ?_⟩
  exact hkept.trans hzone

end

end Sys2Proof.Machine
end

section
/-! PROOFS. ZONE_RESET that waited (R99, R100, R121), and the zone commands' obligation. -/

namespace Sys2Proof.Machine

/-! ### What a reset leaves staged, and of its command -/

/-- The records staged for the journal do not get fewer. -/
def Staged (s u : State) : Prop := s.plp.jRecs ≤ u.plp.jRecs

section
variable {s u : State}

theorem staged_of_only {l : List Part} (h : Only l s u) (hl : Part.plp ∉ l) : Staged s u := by
  have hplp : u.plp = s.plp := h .plp hl
  exact Nat.le_of_eq (congrArg (fun x => x.jRecs) hplp).symm

theorem Staged.trans {w : State} (h : Staged s u) (h' : Staged u w) : Staged s w := Nat.le_trans h h'

theorem Staged.plp {w : State} (h : Staged s u) (hp : w.plp = u.plp) : Staged s w := by rw [Staged, hp]; exact h

theorem staged_foldl {α : Type} {f : State → α → State} (h : ∀ s x, Staged s (f s x)) (l : List α) (s : State) : Staged s (l.foldl f s) := by
  induction l generalizing s with
  | nil => exact Nat.le_refl _
  | cons x l ih => exact (h s x).trans (ih _)

theorem staged_queueEr (s : State) (b : Nat) : Staged s (queueEr s b) := Nat.le_succ _

end

theorem staged_endFua (s : State) (t z : Nat) : Staged s (endFua s t z) := by
  refine staged_foldl (fun u c => ?_) _ s
  split
  · exact staged_of_only (only_genCompl_any _ _ _ _ _) (by simp)
  · exact Nat.le_refl _

theorem staged_releaseExt (s : State) (e : Nat) : Staged s (releaseExt s e) := by
  have hpush : Staged s (pushBufs s 2 (getExt s e).parity) := staged_of_only (only_pushBufs _ _ _) (by simp)
  have hext : ∀ (u : State) n f, (modExt u n f).plp = u.plp := fun _ _ _ => rfl
  have hset : ∀ (u : State) n f, (modSet u n f).plp = u.plp := fun _ _ _ => rfl
  have hgate : ∀ u : State, (watchGate u).plp = u.plp := fun _ => rfl
  unfold releaseExt
  dsimp only
  generalize pushBufs s 2 (getExt s e).parity = v at hpush ⊢
  split
  · exact Nat.le_refl _
  · split
    · refine Staged.trans (hpush.plp ?_) (staged_foldl staged_queueEr _ _)
      rw [hset, hgate, hset, hext]
    · refine hpush.plp ?_
      rw [hgate, hset, hext]

theorem plp_endTokWait (s : State) (l : Nat) : (endTokWait s l).plp = s.plp := by
  unfold endTokWait
  split <;> rfl

theorem plp_dropPrograms (s : State) (blks exts : List Nat) : (dropPrograms s blks exts).plp = s.plp :=
  Eq.trans (foldl_field State.plp endTokWait (fun u l => plp_endTokWait u l) _ _) rfl

theorem staged_dropMoves (s : State) (t z : Nat) (blks : List Nat) : Staged s (dropMoves s t z blks) := by
  have hpush : ∀ l, Staged s (pushBufs s 9 l) := fun l => staged_of_only (only_pushBufs s 9 l) (by simp)
  unfold dropMoves
  dsimp only
  refine Staged.trans ?_ (staged_foldl staged_queueEr _ _)
  rw [Staged, plp_dropPrograms]
  exact hpush _

theorem staged_applyReset (s : State) (t z : Nat) : Staged s (applyReset s t z) := by
  have hdrop : ∀ bs es bs', Staged s (dropMoves (dropPrograms (dropParity (endFua s t z) t z) bs es) t z bs') := fun bs es bs' => by
    have hp : (dropPrograms (dropParity (endFua s t z) t z) bs es).plp = (endFua s t z).plp := by
      rw [plp_dropPrograms]
      unfold dropParity
      dsimp only
      split <;> rfl
    refine Staged.trans ?_ (staged_dropMoves _ t z bs')
    rw [Staged, hp]
    exact staged_endFua s t z
  have hrest : ∀ (u : State) (vs es bs : List Nat), Staged u (purgeOld (bs.foldl queueEr (es.foldl releaseExt (watchGate (vs.foldl freeVer u)))) t z) :=
    fun u vs es bs => by
      have hfreed : Staged u (watchGate (vs.foldl freeVer u)) := (staged_foldl (fun w v => staged_of_only (only_freeVer w v) (by simp)) vs u).plp rfl
      exact ((hfreed.trans (staged_foldl staged_releaseExt es _)).trans (staged_foldl staged_queueEr bs _)).plp rfl
  unfold applyReset
  dsimp only
  have hmod : ∀ u : State, Staged u (modZone u t z nextGen) := fun u => Nat.le_refl _
  have hall := fun bs es bs' vs es' bs'' => ((hdrop bs es bs').trans (hmod _)).trans (hrest _ vs es' bs'')
  split
  · exact (hall _ _ _ _ _ _).trans (staged_of_only (only_setCipEvt _ _ _ _) (by simp))
  · exact hall _ _ _ _ _ _

/-- No command is held for a reset. -/
def NoneHeld (s : State) : Prop := ∀ x ∈ s.cmds, x.ph ≠ .heldReset

theorem NoneHeld.of_cmds {s u : State} (h : NoneHeld s) (hc : u.cmds = s.cmds) : NoneHeld u := fun x hx => h x (hc ▸ hx)

theorem NoneHeld.modCmd {s : State} (h : NoneHeld s) (t seq : Nat) {f : Cmd → Cmd} (hf : ∀ x, x.ph ≠ .heldReset → (f x).ph ≠ .heldReset) :
    NoneHeld (modCmd s t seq f) := by
  intro d hd
  obtain ⟨x, hx, rfl⟩ := List.mem_map.mp hd
  split
  · exact hf x (h x hx)
  · exact h x hx

theorem NoneHeld.genCompl {s : State} (h : NoneHeld s) (t seq st r : Nat) : NoneHeld (genCompl s t seq st r) := by
  have hentry : ∀ c, NoneHeld (endEntry s t seq st r c) := fun c => by
    unfold endEntry
    dsimp only
    have h0 : NoneHeld (if c.committed then s else { s with bpm := uncharge s.bpm t c.charge }) := by split <;> exact h
    generalize (if c.committed then s else { s with bpm := uncharge s.bpm t c.charge } : State) = u at h0 ⊢
    exact (h0.modCmd t seq (f := fun x => { x with
      ph := .gen, status := st, result := r, genNo := u.genCtr, gate := .none, charge := if x.committed then x.charge else 0 })
      fun _ _ => by simp).of_cmds rfl
  unfold Machine.genCompl
  split
  · exact h
  · split
    · exact h
    · dsimp only
      split
      · exact (hentry _).of_cmds (cmds_of_kept (kept_sweepVers _))
      · exact hentry _

/-- Where no reader is held for a reset, none wakes (R100). -/
theorem wakeHeld_none {s : State} (h : NoneHeld s) (t z : Nat) : wakeHeld s t z = s :=
  foldl_eq_self fun x hx => if_neg fun hx' => h x hx hx'.2.1

/-- A command stays in flight while completions are generated (R62). -/
theorem getCmd_genCompl_some {s : State} {t seq : Nat} {c : Cmd} (h : getCmd s t seq = some c) (t' seq' st r : Nat) :
    ∃ d, getCmd (genCompl s t' seq' st r) t seq = some d := by
  by_cases hk : t = t' ∧ seq = seq'
  · obtain ⟨rfl, rfl⟩ := hk
    by_cases hg : c.ph = .gen
    · exact ⟨c, by rw [genCompl_gen h hg, h]⟩
    · exact ⟨_, getCmd_genCompl_self st r h hg⟩
  · exact ⟨c, (getCmd_genCompl_ne s st r hk).trans h⟩

theorem foldl_invariant {α : Type} (P : State → Prop) {f : State → α → State} (h : ∀ s x, P s → P (f s x)) (l : List α) {s : State} (hs : P s) :
    P (l.foldl f s) := by
  induction l generalizing s with
  | nil => exact hs
  | cons x l ih => exact ih (h s x hs)

/-- What a reset does to the commands: it ends the FUA writers of its zone (R100). -/
theorem cmds_applyReset (s : State) (t z : Nat) : (applyReset s t z).cmds = (endFua s t z).cmds := by
  have hpurged : ∀ (f : Zone → Zone) (vs es bs bs' : List Nat), kept (purgeOld (bs.foldl queueEr (es.foldl releaseExt (watchGate (vs.foldl freeVer
      (modZone (dropMoves (dropPrograms (dropParity (endFua s t z) t z) bs es) t z bs') t z f))))) t z) = kept (endFua s t z) := fun f vs es bs bs' => by
    rw [kept_purgeOld, kept_foldl _ fun u b => kept_queueEr u b, kept_foldl _ fun u e => kept_releaseExt u e, kept_watchGate,
      kept_foldl _ fun u v => kept_freeVer u v, kept_modZone, kept_dropMoves, kept_dropPrograms, kept_dropParity]
  unfold applyReset
  dsimp only
  split
  · rw [cmds_of_kept (kept_setCipEvt _ _ _ _)]
    exact cmds_of_kept (hpurged _ _ _ _ _)
  · exact cmds_of_kept (hpurged _ _ _ _ _)

/-- A ZONE_RESET that waited applies (R99, R100). -/
theorem zoneResetApply_spec {s : State} {t seq : Nat} {c : Cmd} (hc : getCmd s t seq = some c) (hph : c.ph = .resetWait)
    (hfree : transfersInto s t (pZone c.pkt) = false) (hact : s.rst.actState = 0) (hheld : NoneHeld s) :
    ∃ u d, exec (.zoneResetApply t seq) s = .next u ∧ getZone u t (pZone c.pkt) = nextGen (getZone s t (pZone c.pkt)) ∧
      getCmd u t seq = some d ∧ d.journal = true ∧ d.ph = .exec ∧ d.result = ((getZone s t (pZone c.pkt)).gen + 1) % p32 ∧
      u.plp.jRecs ≥ s.plp.jRecs + 1 := by
  have hzone : getZone (applyReset (modCmd s t seq fun x => { x with committed := true }) t (pZone c.pkt)) t (pZone c.pkt) =
      nextGen (getZone s t (pZone c.pkt)) := (getZone_applyReset _ _ _ _ _).trans (if_pos rfl)
  have hex : exec (.zoneResetApply t seq) s = .next (wakeHeld (awaitJournal (applyReset (modCmd s t seq fun x => { x with committed := true }) t
      (pZone c.pkt)) t seq ((getZone s t (pZone c.pkt)).gen + 1 |> (· % p32))) t (pZone c.pkt)) := by
    change execZoneResetApply t seq s = _
    unfold execZoneResetApply
    rw [hc]
    dsimp only
    rw [if_pos ⟨hph, by simp [hfree], by simp [paused, hact]⟩, hzone]
    rfl
  have hheld1 : NoneHeld (modCmd s t seq fun x => { x with committed := true }) := hheld.modCmd t seq fun _ h => h
  have hc1 := getCmd_modCmd_self (fun x => { x with committed := true }) hc fun _ => ⟨rfl, rfl⟩
  have hstaged := staged_applyReset (modCmd s t seq fun x => { x with committed := true }) t (pZone c.pkt)
  have hcmds := cmds_applyReset (modCmd s t seq fun x => { x with committed := true }) t (pZone c.pkt)
  obtain ⟨hend, d, hd⟩ : NoneHeld (endFua (modCmd s t seq fun x => { x with committed := true }) t (pZone c.pkt)) ∧
      ∃ d, getCmd (endFua (modCmd s t seq fun x => { x with committed := true }) t (pZone c.pkt)) t seq = some d := by
    refine foldl_invariant (fun u => NoneHeld u ∧ ∃ d, getCmd u t seq = some d) (fun u x hu => ?_) _ ⟨hheld1, _, hc1⟩
    obtain ⟨h1, d, h2⟩ := hu
    split
    · exact ⟨h1.genCompl _ _ _ _, getCmd_genCompl_some h2 _ _ _ _⟩
    · exact ⟨h1, d, h2⟩
  replace hd := (getCmd_of_cmds hcmds t seq).trans hd
  replace hend := hend.of_cmds hcmds
  replace hstaged : s.plp.jRecs ≤ _ := hstaged
  generalize applyReset (modCmd s t seq fun x => { x with committed := true }) t (pZone c.pkt) = u at hzone hex hd hend hstaged
  have hwake : ∀ r, NoneHeld (awaitJournal u t seq r) := fun r =>
    (hend.modCmd t seq (f := fun x => { x with ph := .exec, journal := true, result := r }) fun _ _ => by simp).of_cmds rfl
  rw [wakeHeld_none (hwake _)] at hex
  exact ⟨_, _, hex, hzone, getCmd_modCmd_self (fun x => { x with ph := .exec, journal := true, result := ((getZone s t (pZone c.pkt)).gen + 1) % p32 }) hd
    fun _ => ⟨rfl, rfl⟩, rfl, rfl, rfl, Nat.succ_le_succ hstaged⟩

/-! ### Released zone commands -/

theorem openRoom_of_zones {s v : State} {t : Nat} {x : Tenant} (hz : v.zones = s.zones) (hshape : tenShape (tenD v t) = tenShape x)
    (h1 : openCount s t < x.openMax) (h2 : openAll s < 65536) : openRoom v t = true := by
  have hmax : (tenD v t).openMax = x.openMax := congrArg (fun y => y.2.2.2) hshape
  have hc : openCount v t = openCount s t := by rw [openCount, hz, openCount]
  have ha : openAll v = openAll s := by rw [openAll, hz, openAll]
  simp [openRoom, hmax, hc, ha, h1, h2]

/-- Settles O15: a released zone command is its stage's lemma; the reset is `zoneResetApply_spec`. -/
theorem zonesChange : Obligations.ZonesChange := by
  unfold Obligations.ZonesChange
  refine ⟨fun s t cls tie h x hl hc hstop hlane hcan hx hxl hnc hwait hlost hact hhint => ?_, fun s t seq c hc hph hfree hact hheld =>
    zoneResetApply_spec hc hph hfree hact hheld⟩
  have hgo : cOp h ∈ zoneOps → (getZone s t (pZone h.pkt)).st ≠ .offline → (getZone s t (pZone h.pkt)).st ≠ .readOnly →
      (cOp h = opOpen → (getZone s t (pZone h.pkt)).st = .empty ∧ openCount s t < x.openMax ∧ openAll s < 65536) →
      ∃ w d, exec (.admissionRelease t cls ⟨false, tie⟩) s = .next (checkOver (if cOp h = opOpen then openStage w d
          else if cOp h = opClose then closeStage w d else if cOp h = opFinish then finishStage w d else hintStage w d)) ∧
        (∃ e, getCmd w d.tenant d.seq = some e ∧ e.ph = .exec) ∧ d.tenant = t ∧ d.seq = h.seq ∧ d.pkt = h.pkt ∧
        tenShape (tenD w t) = tenShape x ∧ w.zones = s.zones ∧ w.plp = s.plp := by
    intro hop hoff hro hopen
    obtain ⟨v, d, hex, hd, hdp, hdph, hdt, hds, hshape, hz, hr, hp⟩ := zoneOp_released (tie := tie) hl hc hstop hlane hcan hx hxl hop
    have hzone := getZone_of_zones hz t (pZone h.pkt)
    have hdop : cOp d = cOp h := by rw [cOp, hdp, cOp]
    have hcheck : zoneCmdCheck v d = none := by
      unfold zoneCmdCheck
      dsimp only
      rw [hdt, hdp, hdop, hzone]
      by_cases ho : cOp h = opOpen
      · obtain ⟨he, h1, h2⟩ := hopen ho
        simp [he, openRoom_of_zones hz hshape h1 h2]
      · simp [hro, ho]
    rw [zoneStage_zoneOp hd (by rw [hdop]; exact hop) (by rw [hdp, hzone]; exact hlost) (by rw [hdp, hzone]; exact hoff) (by rw [hdp, hzone]; exact hwait)
      (by rw [hr]; exact hact) hcheck, hdop] at hex
    refine ⟨modCmd v t h.seq fun c => { c with committed := true }, d, hex, ?_, hdt, hds, hdp, hshape, hz, hp⟩
    rw [hdt, hds]
    exact ⟨_, getCmd_modCmd_self _ hd fun _ => ⟨rfl, rfl⟩, hdph⟩
  have hafter : ∀ u : State, getZone (checkOver u) t (pZone h.pkt) = getZone u t (pZone h.pkt) := fun u =>
    getZone_of_zones (only_checkOver u .zones (by simp)) _ _
  have hcmd : ∀ u : State, getCmd (checkOver u) t h.seq = getCmd u t h.seq := fun u => getCmd_of_only (only_checkOver u) (by simp) _ _
  refine ⟨fun hop hst h1 h2 => ?_, fun hop hst hwp => ?_, fun hop hst => ?_, fun hop hst => ?_⟩
  · obtain ⟨w, d, hex, ⟨e, he, heph⟩, hdt, hds, hdp, -, hz, -⟩ := hgo (by rw [hop]; decide) (by simp [hst]) (by simp [hst]) fun _ => ⟨hst, h1, h2⟩
    have hzone := getZone_of_zones hz t (pZone h.pkt)
    rw [hop, if_pos (by rfl)] at hex
    obtain ⟨g1, g2, g3, g4⟩ := openStage_spec (c := d) he (by simp [heph]) (by rw [hdt, hdp, hzone, hst]) (by rw [hdp]; exact hhint)
    rw [hdt, hds] at g1
    rw [hdt, hdp] at g2 g3 g4
    refine ⟨_, hex, g1.of_getCmd (hcmd _), ?_, ?_, ?_⟩
    · rw [hafter, g2]
    · rw [hafter, g3]
    · rw [hafter, g4, hzone]
  · obtain ⟨w, d, hex, ⟨e, he, heph⟩, hdt, hds, hdp, -, hz, -⟩ := hgo (by rw [hop]; decide) (by simp [hst]) (by simp [hst]) (by rw [hop]; intro h; cases h)
    have hzone := getZone_of_zones hz t (pZone h.pkt)
    rw [hop, if_neg (by decide), if_pos (by rfl)] at hex
    obtain ⟨g1, g2, g3⟩ := closeStage_spec (c := d) he (by simp [heph]) (by rw [hdt, hdp, hzone, hst]) (by rw [hdt, hdp, hzone, hwp])
    rw [hdt, hds] at g1
    rw [hdt, hdp] at g2 g3
    refine ⟨_, hex, g1.of_getCmd (hcmd _), ?_, ?_⟩
    · rw [hafter, g2]
    · rw [hafter, g3]
  · obtain ⟨w, d, hex, ⟨e, he, heph⟩, hdt, hds, hdp, hshape, hz, hp⟩ := hgo (by rw [hop]; decide) (by simp [hst]) (by simp [hst])
      (by rw [hop]; intro h; cases h)
    have hzone := getZone_of_zones hz t (pZone h.pkt)
    rw [hop, if_neg (by decide), if_neg (by decide), if_pos (by rfl)] at hex
    obtain ⟨f, hf, g1, g2, g3⟩ := finishStage_spec (c := d) he (by rw [hdt, hdp, hzone, hst])
    rw [hdt, hds] at hf
    rw [hdt, hdp, hzone, zoneCap_of_tenShape hshape] at g2
    rw [hdt, hdp, hzone] at g3
    refine ⟨_, f, hex, (hcmd _).trans hf, g1, g2, ?_⟩
    rw [hafter, g3, finishedZone, zoneCap_of_tenShape hshape, hp]
  · obtain ⟨w, d, hex, ⟨e, he, heph⟩, hdt, hds, hdp, -, hz, -⟩ := hgo (by rw [hop]; decide) (by simp [hst]) (by simp [hst]) (by rw [hop]; intro h; cases h)
    have hzone := getZone_of_zones hz t (pZone h.pkt)
    rw [hop, if_neg (by decide), if_neg (by decide), if_neg (by decide)] at hex
    obtain ⟨g1, g2⟩ := hintStage_spec (c := d) he (by simp [heph]) (by rw [hdp]; exact hhint)
    rw [hdt, hds] at g1
    rw [hdt, hdp, hzone] at g2
    exact ⟨_, hex, g1.of_getCmd (hcmd _), (hafter _).trans g2⟩

end Sys2Proof.Machine
end

section
/-! PROOFS. Patrol, calibration and health (R185, R191, R199, R208): the block number that stands for none is never listed for relocation. -/

namespace Sys2Proof.Machine

/-- The number that a relocation record holds where it names no block (one past the last of 67,108,864). -/
def noBlock : Nat := 67108864

/-- The record of a retention relocation of `noBlock` is that of an unlisted one. -/
theorem relocs_askReloc_noBlock {s : State} (hr : s.media.relocs = []) (hc : s.media.convs = []) :
    (askReloc s noBlock .retention).media.relocs = [] := by
  unfold askReloc
  rw [hr]
  dsimp only [List.find?]
  split
  · exact hr
  · have hrel : (newId s).1.media.relocs = [] := hr
    have hconv : (newId s).1.media.convs = [] := hc
    unfold modReloc
    dsimp only
    rw [hrel, hconv]
    rfl

/-- The end of a calibration read asks for its block's relocation, and lists no other (R191). -/
theorem relocs_endCalib_noBlock {s : State} (l key : Nat) (ms : List Int) (hr : s.media.relocs = []) (hc : s.media.convs = []) :
    (endCalib s l noBlock key ms 2).media.relocs = [] := by
  have hview : sansLuns (drainOvf (setRd { s with freeCtr := s.freeCtr + 1 } l none) l) = sansLuns { s with freeCtr := s.freeCtr + 1 } :=
    (sansLuns_drainOvf _ l).trans (sansLuns_setRd_none _ l)
  have hrel : (drainOvf (setRd { s with freeCtr := s.freeCtr + 1 } l none) l).media.relocs = [] := (relocs_of_sansLuns hview).trans hr
  have hconv : (drainOvf (setRd { s with freeCtr := s.freeCtr + 1 } l none) l).media.convs = [] := (congrArg (fun w => w.media.convs) hview).trans hc
  unfold endCalib
  dsimp only
  rw [if_pos (by decide)]
  generalize drainOvf (setRd { s with freeCtr := s.freeCtr + 1 } l none) l = u at hrel hconv ⊢
  exact relocs_askReloc_noBlock hrel hconv

/-- A calibration read of `noBlock` at threshold entry 3. -/
def strayRd : Rd :=
  { id := 0, why := .calib, cls := 3, order := 0, blk := noBlock, page := 0, qlc := false, secs := [], tier := 0, lr := false, ahead := 0, ovf := false
    susp := false, key := some 3 }

/-- A device whose LUN 0 runs that read, and whose one undercoat set lists `noBlock`. -/
def stray : State :=
  { pins := { porHeld := false }, media := { luns := [(0, { op := some { k := .rd strayRd, runNs := 0, tokens := 0 } })], sets := [(0, { blks := [noBlock], pages := 1 })] } }

/-- Refutes O30: the relocation that the end of a calibration read asks for is not listed where the block's number is 67,108,864, the number of a
relocation record without a block; an undercoat set of the state lists that number as a block with live data. -/
theorem not_healthIsWatched : ¬ Obligations.HealthIsWatched := by
  unfold Obligations.HealthIsWatched
  intro h
  obtain ⟨-, -, hend⟩ := h.1 stray 0 noBlock 0 2 []
  have hcol : collects stray 0 = true := by decide
  have hrun : runningRd (getLun stray 0) = some strayRd := by decide
  have hladder : ladderOn stray 3 = false := by decide
  have hlive : holdsLive stray noBlock = true := by decide
  obtain ⟨u, hu, -, -, hreloc⟩ := hend strayRd 3 hcol hrun rfl rfl rfl rfl hladder
  have hex : exec (.calibrationRead 0 noBlock 0 ⟨[], 2⟩) stray = .next (endCalib stray 0 noBlock 3 [] 2) := by
    change execCalibrationRead 0 noBlock 0 ⟨[], 2⟩ stray = _
    unfold execCalibrationRead
    dsimp only
    rw [hrun, Option.filter_some_pos (by decide)]
    exact if_pos (by rw [hcol, hladder]; rfl)
  obtain rfl := Host.Outcome.next.inj (hex.symm.trans hu)
  obtain ⟨e, he, -⟩ := hreloc (Nat.le_refl 2) hlive
  rw [relocs_endCalib_noBlock 0 3 [] rfl rfl] at he
  cases he

end Sys2Proof.Machine
end

section
/-! PROOFS. Data moves (R193 to R197, R269): the target of a repair can go to erase in the same step, where an undercoat set lists it, too. -/

namespace Sys2Proof.Machine

/-- Channel 0, with one volume of four LUNs, whose numbers give no block the role of a relocation reserve. Block 5 is a zone's and was
interrupted. Block 6 is of the relocation reserve, and listed in an undercoat set, too, of whose extents all but one are released; its wordline 0
counts as safe. -/
def tornFlash : Media :=
  { chans := [(0, { trained := true, wp := false, vols := [(0, { present := true, luns := 4 })] })], idCtr := 9, lunTbit := 0, lunBlocks := 1
    blks := [(5, { inUse := true, erased := false, role := some .pool, interrupted := true }), (6, { role := some .reserve, safe := [0] })]
    sets := [(0, { blks := [6], pages := 128, released := 127 })]
    exts := [(0, { secs := [1], issued := true })]
    folds := [(1, { zone := 2, direct := true, vers := [1] })] }

/-- Zone 2 of tenant 0 lies in block 5, and folds the one version of that extent. -/
def torn : State :=
  { pins := { porHeld := false }, boot := { ready := true }, media := tornFlash
    zones := [(2, { st := .full, members := [{ ch := 0, blk := some 5 }] })]
    vers := [(1, { zone := 2, hbm := true, loc := .uc 0 })] }

/-- Block 6 is the relocation target that the reserve of channel 0 gives for block 5. -/
theorem relTarget_torn : relTarget torn 5 = some 6 := by decide +kernel

/-- The repair of block 5 takes block 6 as its target, switches at once, as no wordline of block 5 is safe, and ends the fold: the extent is released,
and with it the last of the set, whose blocks are queued for erase. -/
theorem inUse_repair_torn : (match exec (.interruptedBlockRepair 0 5) torn with
    | .next u => (getBlk u 6).inUse
    | _ => true) = false := by decide +kernel

/-- Refutes O29: the repair of interrupted block 5 takes block 6 of the relocation reserve, and leaves it out of use, where an undercoat set lists
block 6, too, and the switch ends the fold that holds the last extent of that set. -/
theorem not_dataMoves : ¬ Obligations.DataMoves := by
  unfold Obligations.DataMoves
  intro h
  obtain ⟨-, hrepair, -⟩ := h.2 torn (by decide) (by decide)
  obtain ⟨u, hu, huse, -⟩ := hrepair 0 5 6 (by decide) rfl rfl (by decide) rfl rfl rfl rfl (by decide) (fun _ he => by cases he) rfl relTarget_torn
  have hlost := inUse_repair_torn
  rw [hu] at hlost
  exact Bool.noConfusion (huse.symm.trans hlost)

end Sys2Proof.Machine
end

section
/-! PROOFS. Taking a LUN's work elsewhere (Table 7.7) leaves the flags of the LUNs, the channels but for their counters, the count of retired LUNs
and the time. A table may list a number twice, and rewriting every entry may bring the second one out: a flag is followed through every entry of its
LUN's number. -/

namespace Sys2Proof.Machine

/-! ### Listed entries -/

theorem Tab.mem_of_mem_del {α : Type} {t : Tab α} {k : Nat} {e : Nat × α} (h : e ∈ Tab.del t k) : e ∈ t := by
  induction t with
  | nil => exact h
  | cons x t ih =>
    obtain ⟨j, w⟩ := x
    simp only [Tab.del] at h
    split at h
    · exact List.mem_cons_of_mem _ (ih h)
    · rcases List.mem_cons.mp h with rfl | h
      · exact List.mem_cons_self
      · exact List.mem_cons_of_mem _ (ih h)

theorem Tab.mem_del {α : Type} {t : Tab α} {k : Nat} {e : Nat × α} (h : e ∈ t) (hk : e.1 ≠ k) : e ∈ Tab.del t k := by
  induction t with
  | nil => exact h
  | cons x t ih =>
    obtain ⟨j, w⟩ := x
    simp only [Tab.del]
    rcases List.mem_cons.mp h with rfl | h
    · rw [if_neg hk]
      exact List.mem_cons_self
    · split
      · exact ih h
      · exact List.mem_cons_of_mem _ (ih h)

theorem Tab.mem_ins {α : Type} {t : Tab α} {k : Nat} {v : α} {e : Nat × α} : e ∈ Tab.ins t k v ↔ e = (k, v) ∨ e ∈ t := by
  induction t with
  | nil => simp [Tab.ins]
  | cons x t ih =>
    obtain ⟨j, w⟩ := x
    simp only [Tab.ins]
    split
    · exact List.mem_cons
    · rw [List.mem_cons, ih, List.mem_cons]
      exact or_left_comm

theorem Tab.mem_of_mem_upd {α : Type} [DecidableEq α] {d : α} {t : Tab α} {k : Nat} {f : α → α} {e : Nat × α} (h : e ∈ Tab.upd d t k f) :
    e = (k, f (Tab.get d t k)) ∨ e ∈ t ∧ e.1 ≠ k := by
  unfold Tab.upd Tab.set at h
  split at h
  · exact .inr ⟨Tab.mem_of_mem_del h, Tab.del_not_mem t k e h⟩
  · rcases Tab.mem_ins.mp h with h | h
    · exact .inl h
    · exact .inr ⟨Tab.mem_of_mem_del h, Tab.del_not_mem t k e h⟩

theorem Tab.mem_upd_self {α : Type} [DecidableEq α] {d : α} {t : Tab α} {k : Nat} {f : α → α} (h : f (Tab.get d t k) ≠ d) :
    (k, f (Tab.get d t k)) ∈ Tab.upd d t k f := by
  unfold Tab.upd Tab.set
  rw [if_neg h]
  exact Tab.mem_ins.mpr (.inl rfl)

theorem Tab.mem_upd_ne {α : Type} [DecidableEq α] {d : α} {t : Tab α} {k : Nat} {f : α → α} {e : Nat × α} (h : e ∈ t) (hk : e.1 ≠ k) :
    e ∈ Tab.upd d t k f := by
  unfold Tab.upd Tab.set
  split
  · exact Tab.mem_del h hk
  · exact Tab.mem_ins.mpr (.inr (Tab.mem_del h hk))

theorem Tab.mem_mapv_of_mem {α : Type} [DecidableEq α] {d : α} {f : Nat → α → α} {t : Tab α} {e : Nat × α} (h : e ∈ t)
    (hd : f e.1 e.2 ≠ d) : (e.1, f e.1 e.2) ∈ Tab.mapv d f t := by
  induction t with
  | nil => cases h
  | cons x t ih =>
    obtain ⟨k, v⟩ := x
    simp only [Tab.mapv]
    rcases List.mem_cons.mp h with rfl | h
    · rw [if_neg hd]
      exact List.mem_cons_self
    · split
      · exact ih h
      · exact List.mem_cons_of_mem _ (ih h)

theorem Tab.get_mem {α : Type} {d : α} {t : Tab α} {k : Nat} (h : ∃ e ∈ t, e.1 = k) : (k, Tab.get d t k) ∈ t := by
  induction t with
  | nil =>
    obtain ⟨e, he, -⟩ := h
    cases he
  | cons x t ih =>
    obtain ⟨j, w⟩ := x
    simp only [Tab.get]
    split
    · next hj => exact hj ▸ List.mem_cons_self
    · next hj =>
      obtain ⟨e, he, hk⟩ := h
      rcases List.mem_cons.mp he with rfl | he
      · exact absurd hk hj
      · exact List.mem_cons_of_mem _ (ih ⟨e, he, hk⟩)

/-! ### A flag of a LUN -/

/-- LUN `l` is listed, and every entry of its number has the flag `g`. -/
def Bears (g : Lun → Bool) (l : Nat) (s : State) : Prop := (∃ e ∈ s.media.luns, e.1 = l) ∧ ∀ e ∈ s.media.luns, e.1 = l → g e.2 = true

theorem Bears.getLun {g : Lun → Bool} {l : Nat} {s : State} (h : Bears g l s) : g (getLun s l) = true := h.2 _ (Tab.get_mem h.1) rfl

theorem bears_modLun_self {g : Lun → Bool} (hg : g {} = false) (s : State) (l : Nat) {f : Lun → Lun} (h : g (f (getLun s l)) = true) :
    Bears g l (modLun s l f) := by
  have hne : f (getLun s l) ≠ {} := fun hd => by rw [hd, hg] at h; cases h
  refine ⟨⟨_, Tab.mem_upd_self hne, rfl⟩, fun e he hl => ?_⟩
  rcases Tab.mem_of_mem_upd he with rfl | ⟨-, hk⟩
  · exact h
  · exact absurd hl hk

theorem Bears.modLun {g : Lun → Bool} {l : Nat} {s : State} (hg : g {} = false) (h : Bears g l s) (k : Nat) {f : Lun → Lun}
    (hf : ∀ x, g x = true → g (f x) = true) : Bears g l (modLun s k f) := by
  by_cases hk : k = l
  · subst hk
    exact bears_modLun_self hg s k (hf _ h.getLun)
  · obtain ⟨⟨e, he, hl⟩, hall⟩ := h
    refine ⟨⟨e, Tab.mem_upd_ne he (by omega), hl⟩, fun e' he' hl' => ?_⟩
    rcases Tab.mem_of_mem_upd he' with rfl | ⟨he', -⟩
    · exact absurd hl' hk
    · exact hall e' he' hl'

theorem Bears.mapv {g : Lun → Bool} {l : Nat} {s u : State} (hg : g {} = false) (h : Bears g l s) {f : Nat → Lun → Lun}
    (hf : ∀ k x, g (f k x) = g x) (hu : u.media.luns = Tab.mapv {} f s.media.luns) : Bears g l u := by
  obtain ⟨⟨e, he, hl⟩, hall⟩ := h
  have hne : f e.1 e.2 ≠ {} := fun hd => by
    have := hall e he hl
    rw [← hf e.1, hd, hg] at this
    cases this
  refine ⟨⟨(e.1, f e.1 e.2), hu ▸ Tab.mem_mapv_of_mem he hne, hl⟩, fun e' he' hl' => ?_⟩
  obtain ⟨v, hv, hval⟩ := Tab.mem_mapv _ _ (hu ▸ he')
  rw [hval, hf]
  exact hall _ hv hl'

/-! ### Steady states -/

/-- A channel without its counters. -/
def chanView (s : State) (c : Nat) : Chan := { getChan s c with cnts := [] }

/-- LUNs that hang or are retired in `s` do in `u`; the channels, but for their counters, the count of retired LUNs and the time are those of `s`. -/
structure Steady (s u : State) : Prop where
  hung : ∀ l, Bears Lun.hung l s → Bears Lun.hung l u
  retired : ∀ l, Bears Lun.retired l s → Bears Lun.retired l u
  chans : ∀ c, chanView u c = chanView s c
  count : u.hlt.retiredLuns = s.hlt.retiredLuns
  now : u.nowNs = s.nowNs

theorem Steady.refl (s : State) : Steady s s := ⟨fun _ => id, fun _ => id, fun _ => rfl, rfl, rfl⟩

theorem Steady.trans {s u w : State} (h : Steady s u) (h' : Steady u w) : Steady s w :=
  ⟨fun l hb => h'.hung l (h.hung l hb), fun l hb => h'.retired l (h.retired l hb), fun c => (h'.chans c).trans (h.chans c), h'.count.trans h.count,
    h'.now.trans h.now⟩

theorem steady_of {s u : State} (hl : u.media.luns = s.media.luns) (hc : u.media.chans = s.media.chans) (hn : u.hlt.retiredLuns = s.hlt.retiredLuns)
    (ht : u.nowNs = s.nowNs) : Steady s u :=
  ⟨fun l hb => by unfold Bears; rw [hl]; exact hb, fun l hb => by unfold Bears; rw [hl]; exact hb,
    fun c => by unfold chanView getChan; rw [hc], hn, ht⟩

theorem steady_of_only {l : List Part} {s u : State} (h : Only l s u) (hm : Part.media ∉ l) (hh : Part.hlt ∉ l)
    (hn : Part.nowNs ∉ l) : Steady s u := by
  have hmedia : u.media = s.media := h .media hm
  have hhlt : u.hlt = s.hlt := h .hlt hh
  exact steady_of (congrArg Media.luns hmedia) (congrArg Media.chans hmedia) (congrArg Hlt.retiredLuns hhlt) (h .nowNs hn)

theorem steady_ite {p : Prop} [Decidable p] {s a b : State} (ha : Steady s a) (hb : Steady s b) : Steady s (if p then a else b) := by
  split <;> assumption

theorem steady_foldl {α : Type} {f : State → α → State} (h : ∀ s x, Steady s (f s x)) (l : List α) (s : State) : Steady s (l.foldl f s) := by
  induction l generalizing s with
  | nil => exact Steady.refl _
  | cons x l ih => exact (h s x).trans (ih _)

/-! ### Updates of one table -/

section
variable (s : State)

theorem steady_modLun (l : Nat) {f : Lun → Lun} (hh : ∀ x, (f x).hung = x.hung) (hr : ∀ x, (f x).retired = x.retired) : Steady s (modLun s l f) :=
  ⟨fun _ hb => hb.modLun rfl l fun x hx => (hh x).trans hx, fun _ hb => hb.modLun rfl l fun x hx => (hr x).trans hx, fun _ => rfl, rfl, rfl⟩

theorem steady_chCnt (c k n : Nat) : Steady s (chCnt s c k n) := by
  refine ⟨fun _ => id, fun _ => id, fun d => ?_, rfl, rfl⟩
  unfold chanView chCnt
  by_cases hd : d = c
  · subst hd
    rw [getChan, modChan, Tab.get_upd_self, getChan]
  · rw [getChan_modChan_ne hd]

theorem steady_modVer (v : Nat) (f : Ver → Ver) : Steady s (modVer s v f) := steady_of rfl rfl rfl rfl
theorem steady_modZone (t z : Nat) (f : Zone → Zone) : Steady s (modZone s t z f) := steady_of rfl rfl rfl rfl
theorem steady_modCmd (t seq : Nat) (f : Cmd → Cmd) : Steady s (modCmd s t seq f) := steady_of rfl rfl rfl rfl
theorem steady_modExt (e : Nat) (f : Ext → Ext) : Steady s (modExt s e f) := steady_of rfl rfl rfl rfl
theorem steady_modSet (i : Nat) (f : UcSet → UcSet) : Steady s (modSet s i f) := steady_of rfl rfl rfl rfl
theorem steady_modFold (i : Nat) (f : Fold → Fold) : Steady s (modFold s i f) := steady_of rfl rfl rfl rfl
theorem steady_modReloc (i : Nat) (f : Reloc → Reloc) : Steady s (modReloc s i f) := steady_of rfl rfl rfl rfl
theorem steady_modBlk (b : Nat) (f : FBlk → FBlk) : Steady s (modBlk s b f) := steady_of rfl rfl rfl rfl
theorem steady_newId : Steady s (newId s).1 := steady_of rfl rfl rfl rfl
theorem steady_mcnt (k n : Nat) : Steady s (mcnt s k n) := steady_of rfl rfl rfl rfl
theorem steady_stageRec : Steady s (stageRec s) := steady_of rfl rfl rfl rfl
theorem steady_watchGate : Steady s (watchGate s) := steady_of rfl rfl rfl rfl
theorem steady_bpm (b : Bpm) : Steady s { s with bpm := b } := steady_of rfl rfl rfl rfl
theorem steady_derive (v : Ver) : Steady s (derive s v) := steady_of rfl rfl rfl rfl
theorem steady_cipCnt (k n : Nat) : Steady s (cipCnt s k n) := steady_of rfl rfl rfl rfl
theorem steady_cipT (t k n : Nat) : Steady s (cipT s t k n) := steady_of rfl rfl rfl rfl
theorem steady_askRole (c : Nat) (r : Role) : Steady s (askRole s c r) := steady_of rfl rfl rfl rfl
theorem steady_dropDeep (id : Nat) : Steady s (dropDeep s id) := steady_of rfl rfl rfl rfl
theorem steady_deeps (l : List (Nat × Deep)) : Steady s { s with media := { s.media with deeps := l } } := steady_of rfl rfl rfl rfl
theorem steady_backOff (k id : Nat) : Steady s (backOff s k id) := steady_of rfl rfl rfl rfl
theorem steady_closeSet (i : Nat) : Steady s (closeSet s i) := steady_of rfl rfl rfl rfl
theorem steady_newFold (t z wl : Nat) (direct pad : Bool) (vs : List Nat) : Steady s (newFold s t z wl direct pad vs).1 := steady_of rfl rfl rfl rfl
theorem steady_logEv (sev source code : Nat) (pl : List Byte) : Steady s (logEv s sev source code pl) :=
  steady_of_only (only_logEv _ _ _ _ _) (by decide) (by decide) (by decide)
theorem steady_pushBufs (r : Nat) (l : List Nat) : Steady s (pushBufs s r l) := steady_of_only (only_pushBufs _ _ _) (by decide) (by decide) (by decide)
theorem steady_popBufs (r k n : Nat) : Steady s (popBufs s r k n).1 := steady_of_only (popBufs_spec s r k n).1 (by decide) (by decide) (by decide)
theorem steady_genCompl (t seq st r : Nat) : Steady s (genCompl s t seq st r) :=
  steady_of_only (only_genCompl_any _ _ _ _ _) (by decide) (by decide) (by decide)
theorem steady_countRead (c : Cmd) (st : Nat) : Steady s (countRead s c st) := steady_of_only (only_countRead _ _ _) (by decide) (by decide) (by decide)
theorem steady_decryptBlock (v : Nat) : Steady s (decryptBlock s v) := steady_of_only (only_decryptBlock _ _) (by decide) (by decide) (by decide)

theorem steady_freeVer (v : Nat) : Steady s (freeVer s v) :=
  (steady_modVer s v _).trans (steady_ite (Steady.refl _) ((steady_pushBufs _ _ _).trans (steady_modVer _ v _)))

theorem steady_sweepVers : Steady s (sweepVers s) := steady_foldl (fun u _ => steady_freeVer u _) _ _

theorem steady_useCipher : Steady s (useCipher s) := by
  unfold useCipher
  dsimp only
  refine Steady.trans ?_ (steady_pushBufs _ _ _)
  exact (steady_bpm s _).trans (steady_popBufs _ _ _ _)

/-! ### The queues of the LUNs -/

theorem steady_enterRd (l : Nat) (r : Rd) : Steady s (enterRd s l r) :=
  steady_ite (steady_modLun s l (fun _ => rfl) fun _ => rfl) (steady_modLun s l (fun _ => rfl) fun _ => rfl)

theorem steady_queueRd (why : Why) (cls order blk page : Nat) (qlc : Bool) (secs : List SecReq) (lr : Bool) :
    Steady s (queueRd s why cls order blk page qlc secs lr).1 := (steady_newId s).trans (steady_enterRd _ _ _)

theorem steady_queuePg (k : PgKind) (b page : Nat) (fua bg : Bool) : Steady s (queuePg s k b page fua bg) :=
  (steady_newId s).trans (steady_modLun _ _ (fun _ => rfl) fun _ => rfl)

theorem steady_endTokWait (l : Nat) : Steady s (endTokWait s l) := by
  unfold endTokWait
  split
  · exact Steady.refl s
  · refine Steady.trans ?_ (steady_chCnt _ _ _ _)
    exact steady_modLun s l (fun _ => rfl) fun _ => rfl

theorem steady_dropPrograms (blks exts : List Nat) : Steady s (dropPrograms s blks exts) := by
  have hgone : ∀ (u : State) (f : Lun → Lun), (∀ x, (f x).hung = x.hung ∧ (f x).retired = x.retired) →
      Steady u { u with media := { u.media with luns := Tab.mapv {} (fun _ x => f x) u.media.luns } } := fun u f hf =>
    ⟨fun l hb => hb.mapv rfl (fun _ x => (hf x).1) rfl, fun l hb => hb.mapv rfl (fun _ x => (hf x).2) rfl, fun _ => rfl, rfl, rfl⟩
  unfold dropPrograms
  dsimp only
  refine Steady.trans ?_ (hgone _ _ fun _ => ⟨rfl, rfl⟩)
  exact steady_foldl (fun u l => steady_endTokWait u l) _ s

theorem steady_allocBlk (b : Nat) (f : FBlk → FBlk) : Steady s (allocBlk s b f) :=
  ((steady_stageRec s).trans (steady_modBlk _ b _)).trans (steady_queueRd _ _ _ _ _ _ _ _ _)

/-! ### Staging extents -/

theorem steady_newSet {q t grp : Nat} {r : State × Nat} (h : newSet s q t grp = some r) : Steady s r.1 := by
  unfold newSet at h
  dsimp only at h
  split at h
  · cases h
  · injection h with h
    rw [← h]
    exact ((steady_newId s).trans (steady_foldl (fun u b => steady_allocBlk u b _) _ _)).trans (steady_modSet _ _ _)

theorem steady_setIn {t grp q : Nat} {r : State × Nat} (h : setIn s t grp q = some r) : Steady s r.1 := by
  unfold setIn at h
  split at h
  · injection h with h
    rw [← h]
    exact Steady.refl s
  · exact steady_newSet s h

theorem steady_newExt {t : Nat} {zone : Option Nat} {gen hint : Nat} {r : State × Nat} (h : newExt s t zone gen hint = some r) : Steady s r.1 := by
  unfold newExt at h
  dsimp only at h
  split at h
  · cases h
  · next u i hu =>
    obtain ⟨q, -, hq⟩ := List.exists_of_findSome?_eq_some hu
    injection h with h
    have hset : Steady s (modSet (newId u).1 i fun x => { x with pages := x.pages + 1 }) :=
      (((steady_of rfl rfl rfl rfl : Steady s { s with freeCtr := s.freeCtr + 1 }).trans (steady_setIn _ hq)).trans (steady_newId u)).trans
        (steady_modSet _ _ _)
    rw [← h]
    refine Steady.trans ?_ (steady_watchGate _)
    refine Steady.trans ?_ (steady_modExt _ _ _)
    split
    · exact steady_ite (hset.trans (steady_modZone _ _ _ _)) hset
    · exact hset

theorem steady_placeUc (v : Nat) : Steady s (placeUc s v) := by
  unfold placeUc
  dsimp only
  split
  · exact Steady.refl s
  · next u e hu =>
    refine Steady.trans ?_ ((steady_modExt u e _).trans (steady_modVer _ v _))
    split at hu
    · next r hr =>
      split at hr
      · split at hr
        · cases hr; cases hu; exact Steady.refl s
        · cases hr
      · cases hr
    · split at hu
      · cases hu
      · next r hr =>
        cases hu
        exact ((steady_newExt s hr).trans (steady_popBufs _ _ _ _)).trans (steady_modExt _ _ _)

theorem steady_issueExt (e : Nat) (fua : Bool) : Steady s (issueExt s e fua) := by
  unfold issueExt
  exact steady_ite (Steady.refl s) ((steady_modExt s e _).trans (steady_foldl (fun u i => steady_queuePg u _ _ _ _ _) _ _))

theorem steady_issueIfFull (e : Nat) : Steady s (issueIfFull s e) := steady_ite (steady_issueExt s e false) (Steady.refl s)

theorem steady_closeExt (e : Nat) (fua : Bool) : Steady s (closeExt s e fua) := by
  unfold closeExt
  dsimp only
  exact (((steady_modExt s e _).trans (steady_issueExt _ e fua)).trans (steady_foldl (fun u v => steady_modVer u v _) _ _)).trans
    (steady_foldl (fun u v => steady_placeUc u v) _ _)

theorem steady_promote (e : Nat) : Steady s (promote s e) := by
  unfold promote
  refine steady_foldl (fun u b => ?_) _ s
  exact steady_modLun u _ (fun _ => rfl) fun _ => rfl

theorem steady_forceVer (v : Nat) : Steady s (forceVer s v) := by
  unfold forceVer
  dsimp only
  refine steady_ite (Steady.refl s) ?_
  have hp : Steady s (if (getVer s v).placed then s else placeUc s v) := steady_ite (Steady.refl s) (steady_placeUc s v)
  generalize (if (getVer s v).placed then s else placeUc s v) = u at hp
  split
  · exact hp
  · exact steady_ite (hp.trans (steady_promote u _)) (hp.trans (steady_closeExt u _ true))

theorem steady_forceWanted (v : Nat) : Steady s (forceWanted s v) := steady_ite (steady_forceVer s v) (Steady.refl s)

theorem steady_passPiece (e i : Nat) : Steady s (passPiece s e i) := by
  unfold passPiece
  dsimp only
  exact (steady_modExt s e _).trans (steady_ite ((steady_pushBufs _ _ _).trans (steady_modExt _ e _)) (Steady.refl _))

theorem steady_failPiece (e i : Nat) : Steady s (failPiece s e i) := by
  unfold failPiece
  dsimp only
  refine ((steady_modExt s e _).trans (steady_passPiece _ e i)).trans (steady_foldl (fun u v => steady_ite (Steady.refl u) ?_) _ _)
  have hplaced : Steady u (placeUc (modVer u v fun x => { x with placed := false }) v) := (steady_modVer u v _).trans (steady_placeUc _ v)
  generalize placeUc (modVer u v fun x => { x with placed := false }) v = w at hplaced ⊢
  split
  · exact hplaced
  · exact steady_ite (hplaced.trans (steady_forceVer w v)) (hplaced.trans (steady_issueIfFull w _))

theorem steady_stageZone (t z : Nat) (fua : Bool) : Steady s (stageZone s t z fua) := steady_foldl (fun u e => steady_closeExt u e fua) _ _

theorem steady_stagePartial (t z : Nat) : Steady s (stagePartial s t z) :=
  (steady_foldl (fun u _ => steady_ite (steady_placeUc u _) (Steady.refl u)) _ s).trans (steady_stageZone _ t z false)

theorem steady_stageClosed (t z : Nat) : Steady s (stageClosed s t z) := steady_ite (Steady.refl s) (steady_stagePartial s t z)

/-! ### Wordlines and relocations -/

theorem steady_queueQlc (coarse fine : PgKind) (b wl : Nat) (last bg : Bool) : Steady s (queueQlc s coarse fine b wl last bg) := by
  have hf : ∀ u : State, Steady u (if (getBlk u b).fine < wl then queuePg u fine b (wl - 1) false bg else u) := fun u =>
    steady_ite (steady_queuePg u _ _ _ _ _) (Steady.refl u)
  unfold queueQlc
  dsimp only
  have h := (steady_queuePg s coarse b wl false bg).trans (hf _)
  exact steady_ite (h.trans (steady_queuePg _ _ _ _ _ _)) h

theorem steady_queueVerify (b wl : Nat) : Steady s (queueVerify s b wl) := steady_ite (Steady.refl s) (steady_queueRd _ _ _ _ _ _ _ _ _)

theorem steady_queuePasses (fid : Nat) (f : Fold) (m b : Nat) : Steady s (queuePasses s fid f m b) :=
  steady_ite (steady_ite (steady_queueVerify s b f.wl) (Steady.refl s)) (steady_queueQlc s _ _ _ _ _ _)

theorem steady_pumpFolds (t z : Nat) : Steady s (pumpFolds s t z) := by
  refine steady_foldl (fun u e => ?_) _ _
  dsimp only
  refine steady_ite (Steady.refl u) (steady_foldl (fun w m => ?_) _ u)
  split
  · exact steady_modFold _ _ _
  · exact Steady.refl w
  · exact steady_ite (Steady.refl w) ((steady_queuePasses w _ _ _ _).trans (steady_modFold _ _ _))

theorem steady_startDirect (t z n : Nat) : Steady s (startDirect s t z n) := by
  induction n generalizing s with
  | zero => exact Steady.refl s
  | succ n ih =>
    unfold startDirect
    refine steady_ite ?_ (Steady.refl s)
    exact ((((steady_newFold s _ _ _ _ _ _).trans (steady_popBufs _ _ _ _)).trans (steady_modFold _ _ _)).trans (steady_pumpFolds _ _ _)).trans (ih _)

theorem steady_foldReads (id : Nat) : Steady s (foldReads s id) := by
  have hread : ∀ (u : State) (l : List (Nat × Nat × Bool × List SecReq)),
      Steady u (l.foldl (fun s g => (queueRd s (.fold id) 3 id g.1 g.2.1 g.2.2.1 g.2.2.2 false).1) u) := fun u l =>
    steady_foldl (fun w _ => steady_queueRd w _ _ _ _ _ _ _ _) l u
  unfold foldReads
  dsimp only
  refine steady_ite (Steady.trans ?_ (steady_pumpFolds _ _ _)) ?_
  · exact (steady_modFold s id _).trans (hread _ _)
  · exact (steady_modFold s id _).trans (hread _ _)

theorem steady_beginFold (id : Nat) : Steady s (beginFold s id) := by
  unfold beginFold
  dsimp only
  exact steady_ite ((((steady_bpm s _).trans (steady_popBufs _ _ _ _)).trans (steady_modFold _ _ _)).trans (steady_foldReads _ _))
    ((steady_modFold s id _).trans (steady_backOff _ _ _))

theorem steady_refold (id m : Nat) : Steady s (refold s id m) := by
  unfold refold
  dsimp only
  have h := steady_modFold s id fun f => { f with todo := f.todo.filter (· != m) ++ [m] }
  exact steady_ite h (steady_ite (h.trans (steady_pumpFolds _ _ _)) (h.trans (steady_beginFold _ _)))

theorem steady_relIssued (id : Nat) (x : Reloc) (b : Nat) : Steady s (relIssued s id x b) := by
  unfold relIssued
  dsimp only
  refine steady_ite (steady_foldl (fun u k => steady_queueQlc u _ _ _ _ _ _) _ s) ?_
  split
  · exact Steady.refl s
  · exact (steady_foldl (fun u f => steady_refold u f _) _ s).trans (steady_pumpFolds _ _ _)

theorem steady_relPrograms (id : Nat) : Steady s (relPrograms s id) := by
  unfold relPrograms
  dsimp only
  split
  · exact Steady.refl s
  · next b _ =>
    have h : ∀ u : State, Steady u (if relQlc u (getReloc s id) then
        queueQlc u (.reloc id 1) (.reloc id 2) b ((getReloc s id).base + (getReloc s id).next) ((getReloc s id).base + (getReloc s id).next == 127) true
        else queuePg u (.reloc id 0) b ((getReloc s id).base + (getReloc s id).next) false true) := fun u =>
      steady_ite (steady_queueQlc u _ _ _ _ _ _) (steady_queuePg u _ _ _ _ _)
    have h' := (steady_modReloc s id fun x => { x with next := x.next + 1 }).trans (h _)
    exact steady_ite (h'.trans (steady_relIssued _ _ _ _)) h'

theorem steady_askReloc (b : Nat) (why : RelWhy) : Steady s (askReloc s b why) := by
  unfold askReloc
  split
  · exact steady_ite (steady_modReloc _ _ _) (Steady.refl s)
  · exact steady_ite (Steady.refl s) ((steady_newId s).trans (steady_modReloc _ _ _))

theorem steady_leavePieces (b : Nat) : Steady s (leavePieces s b) := by
  have hfail : ∀ (l : List (Nat × Nat)) (w : State), Steady w (l.foldl (fun w p => failPiece w p.1 p.2) w) := fun l w =>
    steady_foldl (fun w (p : Nat × Nat) => steady_failPiece w p.1 p.2) l w
  unfold leavePieces
  dsimp only
  have hdrop := steady_dropPrograms s [b] []
  generalize dropPrograms s [b] [] = u at hdrop ⊢
  refine Steady.trans ?_ (hfail _ _)
  split
  · exact hdrop.trans (steady_closeSet u _)
  · exact hdrop

theorem steady_dropReloc (id : Nat) : Steady s { s with media := { s.media with relocs := Tab.del s.media.relocs id } } := steady_of rfl rfl rfl rfl
theorem steady_dropConv (b : Nat) : Steady s { s with media := { s.media with convs := Tab.del s.media.convs b } } := steady_of rfl rfl rfl rfl

theorem steady_retarget (id : Nat) : Steady s (retarget s id) := by
  unfold retarget
  dsimp only
  refine Steady.trans ?_ (steady_modReloc _ _ _)
  refine Steady.trans ?_ (steady_newId _)
  exact (steady_dropReloc s id).trans (steady_pushBufs _ _ _)

theorem steady_leaveBlk (b : Nat) : Steady s (leaveBlk s b) := by
  unfold leaveBlk
  dsimp only
  have hleft := steady_leavePieces s b
  generalize leavePieces s b = u at hleft ⊢
  refine hleft.trans ?_
  split
  · next e _ =>
    have hre := steady_retarget u e.1
    generalize retarget u e.1 = w at hre ⊢
    exact hre.trans (steady_ite (steady_askReloc w _ _) (steady_dropConv w b))
  · exact steady_ite (steady_askReloc _ _ _) (Steady.refl _)

end

end Sys2Proof.Machine
end

section
/-! PROOFS. The ends of commands and of sectors, and the retirement of a block, are steady, too (Table 7.7, R188 to R190, R202). -/

namespace Sys2Proof.Machine

section
variable (s : State)

/-! ### Blocks of a command -/

theorem steady_encryptBlock (v : Nat) : Steady s (encryptBlock s v) := by
  unfold encryptBlock
  refine steady_ite (Steady.refl s) ?_
  exact (((steady_modVer s v _).trans (steady_derive _ _)).trans (steady_cipCnt _ _ _)).trans (steady_cipT _ _ _ _)

theorem steady_authFail (v : Nat) : Steady s (authFail s v) := by
  have hevt : ∀ u : State, Steady u { u with cip := { u.cip with evt := setBit u.cip.evt 0 } } := fun u => steady_of rfl rfl rfl rfl
  unfold authFail
  dsimp only
  refine Steady.trans ?_ (steady_of_only (only_logUpTo _ _ _ _ _ _) (by decide) (by decide) (by decide))
  refine Steady.trans ?_ (hevt _)
  exact ((steady_derive s _).trans (steady_cipCnt _ _ _)).trans (steady_cipT _ _ _ _)

theorem steady_mep (m : Mep) : Steady s { s with mep := m } := steady_of rfl rfl rfl rfl

theorem steady_narrowWrite (line mask : Nat) : Steady s (narrowWrite s line mask) := steady_ite (steady_mep s _) (steady_mep s _)

theorem steady_mapWrite (t z i n : Nat) : Steady s (mapWrite s t z i n) := steady_foldl (fun u _ => steady_narrowWrite u _ _) _ _

theorem steady_copyBlock (c : Cmd) (i : Nat) (x : Content) : Steady s (copyBlock s c i x) := by
  unfold copyBlock
  split
  · exact Steady.refl s
  · exact (steady_modVer s _ _).trans (steady_encryptBlock _ _)

theorem steady_sendNow (p : Port) (o : Out) : Steady s (sendNow s p o) := steady_of rfl rfl rfl rfl

theorem steady_sendData (p : Port) (fn : Nat) (o : Out) : Steady s (sendData s p fn o) :=
  steady_ite (steady_sendNow s p o) (steady_of rfl rfl rfl rfl)

theorem steady_gotBlock (c : Cmd) (i : Nat) (x : Content) : Steady s (gotBlock s c i x) :=
  steady_ite (steady_copyBlock s c i x) (steady_ite (Steady.refl s) (steady_sendData s _ _ _))

theorem steady_revive (x : Ver) : Steady s (revive s x) := by
  unfold revive
  split
  · exact Steady.refl s
  · refine steady_ite (Steady.refl s) ?_
    exact (((steady_modVer s _ _).trans (steady_mapWrite _ _ _ _ _)).trans (steady_placeUc _ _)).trans (steady_forceWanted _ _)

theorem steady_endVer (v : Nat) : Steady s (endVer s v) := ((steady_modVer s v _).trans (steady_freeVer _ v)).trans (steady_revive _ _)

theorem steady_onward (c : Cmd) : Steady s (onward s c) := by
  have hfull : ∀ (u : State) (v : Nat), Steady u (match extOf u v with | some (e, _) => issueIfFull u e | none => u) := fun u v => by
    split
    · exact steady_issueIfFull u _
    · exact Steady.refl u
  unfold onward
  dsimp only
  refine Steady.trans ?_ (steady_sweepVers _)
  refine Steady.trans ?_ (steady_stageClosed _ _ _)
  refine Steady.trans ?_ (steady_foldl (fun u v => steady_forceWanted u v) _ _)
  have h := steady_foldl hfull c.vers s
  exact steady_ite (h.trans (steady_startDirect _ _ _ _)) h

theorem steady_leaveWriter (c : Cmd) (blocks : List Nat) : Steady s (leaveWriter s c blocks) := by
  unfold leaveWriter
  refine Steady.trans ?_ (steady_onward _ c)
  refine steady_foldl (fun u i => ?_) _ s
  exact steady_ite ((steady_ite (Steady.refl u) (steady_encryptBlock u _)).trans (steady_modVer _ _ _)) (steady_endVer u _)

/-! ### The end of a reader -/

theorem steady_endReader (c : Cmd) (st r : Nat) : Steady s (endReader s c st r) :=
  (steady_genCompl s _ _ _ _).trans (steady_of_only (only_purgeOld _ _ _) (by decide) (by decide) (by decide))

theorem steady_finishReader (t seq : Nat) : Steady s (finishReader s t seq) := by
  have hread : ∀ c st r, Steady s (endReader (countRead s c st) c st r) := fun c st r => (steady_countRead s c st).trans (steady_endReader _ _ _ _)
  unfold finishReader
  split
  · exact Steady.refl s
  · refine steady_ite (Steady.refl s) ?_
    split
    · exact steady_ite (((steady_logEv s _ _ _ _).trans (steady_leaveWriter _ _ _)).trans (steady_endReader _ _ _ _)) (hread _ _ _)
    · exact steady_ite (Steady.refl s) (steady_ite (steady_endReader s _ _ _) (hread _ _ _))

theorem steady_blockDone (t seq v : Nat) (bad : Bool) : Steady s (blockDone s t seq v bad) := by
  unfold blockDone
  split
  · exact Steady.refl s
  · refine steady_ite (steady_modCmd s t seq _) (steady_ite (steady_modCmd s t seq _) (steady_ite ?_ ?_))
    · exact (steady_authFail s v).trans (steady_modCmd _ t seq _)
    · exact (steady_decryptBlock s v).trans (steady_gotBlock _ _ _ _)

theorem steady_cmdSec (t seq : Nat) (r : Rd) (q : SecReq) (tier : Nat) (ok bad : Bool) : Steady s (cmdSec s t seq r q tier ok bad) := by
  have hend : ∀ u : State, Steady u (sweepVers (finishReader (blockDone u t seq q.ver bad) t seq)) := fun u =>
    ((steady_blockDone u _ _ _ _).trans (steady_finishReader _ _ _)).trans (steady_sweepVers _)
  unfold cmdSec
  dsimp only
  split
  · exact steady_modCmd s t seq _
  · exact steady_ite (steady_modCmd s t seq _) ((steady_modCmd s t seq _).trans (hend _))

/-! ### The end of a sector -/

theorem steady_poisonSec (b page : Nat) (q : SecReq) : Steady s (poisonSec s b page q) :=
  steady_ite (Steady.refl s) (((steady_modVer s _ _).trans (steady_mcnt _ _ _)).trans (steady_logEv _ _ _ _ _))

theorem steady_poisoned (ok : Bool) (b page : Nat) (q : SecReq) : Steady s (if ok then s else poisonSec s b page q) :=
  steady_ite (Steady.refl s) (steady_poisonSec s b page q)

theorem steady_foldSec (id : Nat) (r : Rd) (q : SecReq) (ok : Bool) : Steady s (foldSec s id r q ok) := by
  unfold foldSec
  refine steady_ite (Steady.refl s) ?_
  dsimp only
  have h := (steady_poisoned s ok r.blk r.page q).trans (steady_modFold _ id fun f => { f with readsLeft := f.readsLeft - 1 })
  exact steady_ite (h.trans (steady_pumpFolds _ _ _)) h

theorem steady_relSec (id : Nat) (r : Rd) (q : SecReq) (ok : Bool) : Steady s (relSec s id r q ok) := by
  unfold relSec
  refine steady_ite (Steady.refl s) ?_
  dsimp only
  have h := (steady_poisoned s ok r.blk r.page q).trans (steady_modReloc _ id fun x => { x with readsLeft := x.readsLeft - 1 })
  exact steady_ite (h.trans (steady_relPrograms _ _)) h

theorem steady_secEnd (r : Rd) (q : SecReq) (tier : Nat) (ok bad : Bool) : Steady s (secEnd s r q tier ok bad) := by
  have hask : ∀ p : Bool, Steady s (if p then askReloc s r.blk .retention else s) := fun p => steady_ite (steady_askReloc s _ _) (Steady.refl s)
  unfold secEnd
  split
  · dsimp only
    have h := hask (ok && decide (2 ≤ tier))
    generalize (if (ok && decide (2 ≤ tier)) = true then askReloc s r.blk .retention else s) = u at h ⊢
    refine h.trans (steady_ite ?_ ?_)
    · exact ((steady_newId u).trans (steady_deeps _ _)).trans (steady_backOff _ _ _)
    · exact (steady_ite (steady_useCipher u) (Steady.refl u)).trans (steady_cmdSec _ _ _ _ _ _ _ _)
  · exact steady_foldSec s _ r q ok
  · exact steady_relSec s _ r q ok
  · exact hask _
  · exact Steady.refl s

/-! ### Blocks to be retired -/

theorem steady_hltEvt (e : Nat) : Steady s { s with hlt := { s.hlt with evt := e } } := steady_of rfl rfl rfl rfl

theorem steady_genericEv (sev cls inst b off v : Nat) : Steady s (genericEv s sev cls inst b off v) := steady_logEv _ _ _ _ _
theorem steady_firePf0 (v : Nat) : Steady s (firePf0 s v) := steady_of_only (only_firePf0 _ _) (by decide) (by decide) (by decide)

theorem steady_setHltBit (b : Nat) : Steady s (setHltBit s b) :=
  steady_ite (Steady.refl s) (steady_ite ((steady_hltEvt s _).trans (steady_firePf0 _ _)) (steady_hltEvt s _))

theorem steady_setHltEvt (b inst sev : Nat) : Steady s (setHltEvt s b inst sev) :=
  steady_ite (Steady.refl s)
    (steady_ite (((steady_hltEvt s _).trans (steady_genericEv _ _ _ _ _ _ _)).trans (steady_firePf0 _ _)) (steady_hltEvt s _))

theorem steady_checkReadOnly : Steady s (checkReadOnly s) := by
  have hread : Steady s { s with hlt := { s.hlt with readOnly := true, evt := setBit s.hlt.evt 0 } } := steady_of rfl rfl rfl rfl
  have hev := hread.trans (steady_genericEv _ 1 0xE 0xFFF 0 0x300004 (setBit s.hlt.evt 0))
  unfold checkReadOnly
  refine steady_ite ?_ (Steady.refl s)
  dsimp only
  refine Steady.trans ?_ (steady_foldl (fun u (e : Nat × Tenant) =>
    steady_of_only (only_noticeTenant u e.1 2 0 0 0) (by decide) (by decide) (by decide)) _ _)
  refine Steady.trans ?_ (steady_of_only (only_noticePf0 _ 2 0 0 0) (by decide) (by decide) (by decide))
  exact steady_ite (hev.trans (steady_firePf0 _ 11)) hev

theorem steady_loseSpares (g n : Nat) : Steady s (loseSpares s g n) := by
  have hevt : ∀ (u : State) (p : Prop) [Decidable p] (b : Nat), Steady u (if p then setHltEvt u b g 1 else u) := fun u p _ b =>
    steady_ite (steady_setHltEvt u b g 1) (Steady.refl u)
  have hrem : Steady s { s with media := { s.media with spareRem := Tab.upd 0 s.media.spareRem g (· - n) } } := steady_of rfl rfl rfl rfl
  unfold loseSpares
  dsimp only
  generalize { s with media := { s.media with spareRem := Tab.upd 0 s.media.spareRem g (· - n) } } = u at hrem ⊢
  exact ((hrem.trans (hevt u _ 2)).trans (hevt _ _ 1)).trans (steady_checkReadOnly _)

theorem steady_retireAs (b reason : Nat) (r : Role) : Steady s (retireAs s b reason r) := by
  unfold retireAs
  refine steady_ite (Steady.refl s) ?_
  dsimp only
  have hmark : Steady s (mcnt (modBlk s b fun f => { f with
      role := some .retired, failed := true, inUse := false, ready := false, retireWhy := reason }) (7 + reason) 1) :=
    (steady_modBlk s b _).trans (steady_mcnt _ _ _)
  generalize mcnt (modBlk s b fun f => { f with
      role := some .retired, failed := true, inUse := false, ready := false, retireWhy := reason }) (7 + reason) 1 = u at hmark ⊢
  refine Steady.trans ?_ (steady_checkReadOnly _)
  refine Steady.trans ?_ (steady_askRole _ _ _)
  refine Steady.trans ?_ (steady_stageRec _)
  have hlog := hmark.trans (steady_ite (p := reason = 1) (Steady.refl u) (steady_logEv u 2 (src 0xB (blkLun b)) 0xB003
    (leBytes 6 (mediaAddr b 0 0 0) ++ leBytes 1 reason)))
  exact steady_ite (hlog.trans (steady_loseSpares _ _ _)) hlog

theorem steady_condemn (b reason : Nat) : Steady s (condemn s b reason) :=
  (steady_modBlk s b _).trans (steady_ite (steady_askReloc _ _ _) (steady_retireAs _ _ _ _))

theorem steady_unrecSec (r : Rd) (q : SecReq) : Steady s (unrecSec s r q) := by
  have hunrec : ∀ u : State, Steady u { u with hlt := { u.hlt with unrec := true } } := fun u => steady_of rfl rfl rfl rfl
  unfold unrecSec
  dsimp only
  refine Steady.trans ?_ (steady_condemn _ _ _)
  refine Steady.trans ?_ (steady_modVer _ _ _)
  exact (((steady_logEv s _ _ _ _).trans (hunrec _)).trans (steady_mcnt _ _ _)).trans (steady_setHltBit _ _)

/-! ### Reads to rebuild -/

theorem steady_loseSec (r : Rd) (q : SecReq) : Steady s (loseSec s r q) := (steady_unrecSec s r q).trans (steady_secEnd _ _ _ _ _ _)

theorem steady_rebuilt (r : Rd) (q : SecReq) (bad : Bool) : Steady s (rebuilt s r q bad) :=
  steady_ite (steady_loseSec s r q) (steady_ite ((steady_mcnt s _ _).trans (steady_loseSec _ r q)) ((steady_mcnt s _ _).trans (steady_secEnd _ _ _ _ _ _)))

theorem steady_rebuildMember (id : Nat) (ok bad : Bool) : Steady s (rebuildMember s id ok bad) := by
  unfold rebuildMember
  split
  · exact Steady.refl s
  · refine steady_ite ((steady_dropDeep s id).trans (steady_loseSec _ _ _)) (steady_ite ((steady_dropDeep s id).trans (steady_rebuilt _ _ _ _)) ?_)
    exact steady_deeps s _

theorem steady_readMoved (r : Rd) (q : SecReq) : Steady s (readMoved s r q) := by
  unfold readMoved
  dsimp only
  split
  · exact steady_ite (steady_secEnd s _ _ _ _ _) (steady_loseSec s r q)
  · exact steady_ite (steady_queueRd s _ _ _ _ _ _ _ _) (steady_loseSec s r q)
  · exact steady_loseSec s r q

theorem steady_startRebuild (r : Rd) (q : SecReq) : Steady s (startRebuild s r q) := by
  unfold startRebuild
  split
  · exact steady_readMoved s r q
  · refine steady_ite (steady_loseSec s r q) (steady_ite (steady_rebuilt s r q false) ?_)
    exact ((steady_newId s).trans (steady_deeps _ _)).trans (steady_foldl (fun u _ => steady_queueRd u _ _ _ _ _ _ _ _) _ _)

theorem steady_sendRebuild (r : Rd) : Steady s (sendRebuild s r) := by
  unfold sendRebuild
  split
  · exact steady_rebuildMember s _ _ _
  · exact Steady.refl s
  · exact Steady.refl s
  · exact Steady.refl s
  · exact Steady.refl s
  · exact steady_foldl (fun u q => steady_startRebuild u r q) _ s

theorem steady_clearLun (l : Nat) : Steady s (clearLun s l) := by
  have hfail : ∀ (u : State) (p : Pg), Steady u (match p.kind with
      | .uc e i => if (getExt u e).released then u else failPiece u e i
      | _ => u) := fun u p => by
    split
    · exact steady_ite (Steady.refl u) (steady_failPiece u _ _)
    · exact Steady.refl u
  unfold clearLun
  dsimp only
  refine Steady.trans ?_ (steady_foldl (fun u r => steady_sendRebuild u r) _ _)
  refine Steady.trans ?_ (steady_foldl (fun u b => steady_leaveBlk u b) _ _)
  refine Steady.trans ?_ (steady_foldl hfail _ _)
  exact steady_modLun s l (fun _ => rfl) fun _ => rfl

end

end Sys2Proof.Machine
end

section
/-! PROOFS. The care of channels and volumes, and their faults (R163, R165, R174, R175, R179, R206). -/

namespace Sys2Proof.Machine

/-! ### Events of a channel -/

theorem media_genericEv (s : State) (sev cls inst b off v : Nat) : (genericEv s sev cls inst b off v).media = s.media :=
  only_genericEv s sev cls inst b off v .media (by decide)

/-- A FCH_EVT bit is set in its channel's register, whose other bits stay, and the channels table is all of the media that changes. -/
theorem setFchEvt_spec (s : State) (c b sev : Nat) :
    (∃ m, (setFchEvt s c b sev).media = { s.media with chans := m }) ∧
      ∃ e, getChan (setFchEvt s c b sev) c = { getChan s c with evt := e } ∧ bit e b = true ∧
        ∀ k, bit (getChan s c).evt k = true → bit e k = true := by
  unfold setFchEvt raiseEvt
  split
  · next h => exact ⟨⟨_, rfl⟩, _, rfl, h, fun _ => id⟩
  · have hchan : ∀ u sev cls inst b off v, getChan (genericEv u sev cls inst b off v) c = getChan u c := fun u sev cls inst b off v => by
      rw [getChan, media_genericEv, getChan]
    refine ⟨⟨_, (media_genericEv _ _ _ _ _ _ _).trans rfl⟩, _, (hchan _ _ _ _ _ _ _).trans (getChan_modChan_self _ _ _), bit_setBit_self _ _,
      fun k hk => bit_setBit_of hk⟩

theorem only_setFchEvt (s : State) (c b sev : Nat) : Only [.pa, .pb, .out, .evr, .media] s (setFchEvt s c b sev) :=
  only_raiseEvt s _ _ _ _ _ _ _ fun _ _ => only_media _ _

theorem bit_evt_setFchEvt_self (s : State) (c b sev : Nat) : bit (getChan (setFchEvt s c b sev) c).evt b = true := by
  obtain ⟨-, e, he, hb, -⟩ := setFchEvt_spec s c b sev
  rw [he]
  exact hb

theorem bit_evt_setFchEvt {s : State} {c k : Nat} (b sev : Nat) (h : bit (getChan s c).evt k = true) :
    bit (getChan (setFchEvt s c b sev) c).evt k = true := by
  obtain ⟨-, e, he, -, hk⟩ := setFchEvt_spec s c b sev
  rw [he]
  exact hk k h

/-- An event leaves the flags of the LUNs, and the health block. -/
theorem luns_setFchEvt (s : State) (c b sev : Nat) : (setFchEvt s c b sev).media.luns = s.media.luns := by
  obtain ⟨⟨m, hm⟩, -⟩ := setFchEvt_spec s c b sev
  rw [hm]

theorem hlt_setFchEvt (s : State) (c b sev : Nat) : (setFchEvt s c b sev).hlt = s.hlt := only_setFchEvt s c b sev .hlt (by decide)

theorem only_modChan (s : State) (c : Nat) (f : Chan → Chan) : Only [.media] s (modChan s c f) := only_media _ _

/-! ### A sequencer hang -/

/-- A LUN that runs no operation needs no care after a restart of its sequencer. -/
theorem resolveLun_idle {s : State} {l : Nat} (st : List LunStatus) (hop : (getLun s l).op = none) (hsub : (getLun s l).sub = none) :
    resolveLun s st l = s := by
  have hrd : runningRd (getLun s l) = none := by
    unfold runningRd
    rw [hop, hsub]
  unfold resolveLun
  dsimp only
  rw [hrd]
  dsimp only
  rw [hop]

theorem exec_sequencerHang_idle {s : State} {ch : Nat} (st : List LunStatus) (ha : alive s = true) (ht : (getChan s ch).trained = true)
    (hidle : ∀ i ∈ chLuns ch, (getLun s i).op = none ∧ (getLun s i).sub = none) :
    exec (.sequencerHang ch st) s = .next (setFchEvt (modChan s ch fun c => { c with restarts := satAdd 255 c.restarts 1 }) ch 2 1) := by
  change execSequencerHang ch st s = _
  unfold execSequencerHang
  rw [if_neg (by simp [ha, ht]), foldl_eq_self fun i hi => resolveLun_idle st (hidle i hi).1 (hidle i hi).2]

/-! ### A LUN hang -/

/-- The hang is recorded and counted, and the LUN marked. -/
def hangNoted (s : State) (l : Nat) : State :=
  modLun (chCnt (setFchEvt (setFchEvt s (lunCh l) 7 1) (lunCh l) 3 1) (lunCh l) 12 1) l fun u => { u with hung := true }

/-- Reset LUN is issued, and its channel recovers. -/
def resetIssued (s : State) (l : Nat) : State :=
  modChan (modLun s l fun u => { u with op := some { k := .rst, runNs := s.nowNs, tokens := 0 } }) (lunCh l) fun x => { x with recovering := true }

theorem evt_chCnt (s : State) (c k n : Nat) : (getChan (chCnt s c k n) c).evt = (getChan s c).evt := by
  rw [chCnt, getChan_modChan_self]

theorem bears_hangNoted (s : State) (l : Nat) : Bears Lun.hung l (hangNoted s l) := bears_modLun_self rfl _ l rfl

theorem evt_hangNoted (s : State) (l : Nat) :
    bit (getChan (hangNoted s l) (lunCh l)).evt 7 = true ∧ bit (getChan (hangNoted s l) (lunCh l)).evt 3 = true := by
  have hevt : (getChan (hangNoted s l) (lunCh l)).evt = (getChan (setFchEvt (setFchEvt s (lunCh l) 7 1) (lunCh l) 3 1) (lunCh l)).evt :=
    evt_chCnt _ _ _ _
  rw [hevt]
  exact ⟨bit_evt_setFchEvt 3 1 (bit_evt_setFchEvt_self s _ 7 1), bit_evt_setFchEvt_self _ _ 3 1⟩

theorem nowNs_hangNoted (s : State) (l : Nat) : (hangNoted s l).nowNs = s.nowNs :=
  (only_setFchEvt (setFchEvt s (lunCh l) 7 1) (lunCh l) 3 1 .nowNs (by decide)).trans (only_setFchEvt s (lunCh l) 7 1 .nowNs (by decide))

theorem exec_lunHang {s : State} {l : Nat} {fe : Bool} (ha : alive s = true) (hh : (getLun s l).hung = false) (hr : (getLun s l).retired = false)
    (hpast : (if fe then (getLun s l).op.any (pastFeatures s) || (getLun s l).sub.any (pastFeatures s)
      else (getLun s l).op.any (pastCeiling s) || (getLun s l).sub.any (pastCeiling s)) = true) :
    exec (.lunHang ⟨l, fe⟩) s = .next (resetIssued (clearLun (hangNoted s l) l) l) := by
  change execLunHang ⟨l, fe⟩ s = _
  unfold execLunHang
  dsimp only
  rw [if_neg (by rw [ha, hh, hr, hpast]; decide)]
  rfl

theorem Steady.evt {s u : State} (h : Steady s u) (c : Nat) : (getChan u c).evt = (getChan s c).evt := congrArg (fun x => x.evt) (h.chans c)

theorem resetIssued_spec (u : State) (l : Nat) :
    getLun (resetIssued u l) l = { getLun u l with op := some { k := .rst, runNs := u.nowNs, tokens := 0 } } ∧
      getChan (resetIssued u l) (lunCh l) = { getChan u (lunCh l) with recovering := true } :=
  ⟨getLun_modLun_self u l fun x => { x with op := some { k := .rst, runNs := u.nowNs, tokens := 0 } }, getChan_modChan_self _ _ _⟩

/-! ### The end of a LUN's reset -/

theorem exec_resetLunDone_kept {s : State} {l : Nat} {o : Op} (ha : alive s = true) (ho : (getLun s l).op = some o) (hk : o.k = .rst) :
    exec (.resetLunDone l true) s = .next (endRecovery (noteIdle (modLun s l fun u => { u with op := none, hung := false }) l) (lunCh l)) := by
  obtain ⟨k, _⟩ := o
  cases hk
  change execResetLunDone l true s = _
  unfold execResetLunDone
  rw [ho]
  dsimp only
  rw [ha]
  rfl

theorem exec_resetLunDone_lost {s : State} {l : Nat} {o : Op} (ha : alive s = true) (ho : (getLun s l).op = some o) (hk : o.k = .rst) :
    exec (.resetLunDone l false) s = .next (endRecovery (retireLun s l) (lunCh l)) := by
  obtain ⟨k, _⟩ := o
  cases hk
  change execResetLunDone l false s = _
  unfold execResetLunDone
  rw [ho]
  dsimp only
  rw [ha]
  rfl

/-- LUN `l` counts as retired, and `n` LUNs do in all. -/
def Lost (l n : Nat) (s : State) : Prop := Bears Lun.retired l s ∧ s.hlt.retiredLuns = n

theorem Lost.steady {l n : Nat} {s u : State} (h : Lost l n s) (hu : Steady s u) : Lost l n u := ⟨hu.retired l h.1, hu.count.trans h.2⟩

theorem Lost.of {l n : Nat} {s u : State} (h : Lost l n s) (hl : u.media.luns = s.media.luns) (hc : u.hlt.retiredLuns = s.hlt.retiredLuns) : Lost l n u :=
  ⟨by unfold Bears; rw [hl]; exact h.1, hc.trans h.2⟩

theorem Lost.setFchEvt {l n : Nat} {s : State} (h : Lost l n s) (c b sev : Nat) : Lost l n (setFchEvt s c b sev) :=
  h.of (luns_setFchEvt s c b sev) (congrArg Hlt.retiredLuns (hlt_setFchEvt s c b sev))

/-- A LUN is counted as retired for good. -/
def lossCounted (s : State) (l : Nat) : State :=
  let s := { s with media := { s.media with deadLuns := s.media.deadLuns ++ [l] } }
  let s := mcnt s 12 (lunTotal s)
  { s with hlt := { s.hlt with retiredLuns := satAdd 255 s.hlt.retiredLuns 1 } }

theorem lost_lossCounted {s : State} {l : Nat} (h : Bears Lun.retired l s) : Lost l (min 255 (s.hlt.retiredLuns + 1)) (lossCounted s l) := ⟨h, rfl⟩

/-- The work of a LUN is taken elsewhere, and nothing left of the LUN but its programs. -/
def lunEmptied (s : State) (l : Nat) : State := modLun (clearLun s l) l fun u => { retired := true, pq := u.pq }

theorem bears_lunEmptied (s : State) (l : Nat) : Bears Lun.retired l (lunEmptied s l) := bears_modLun_self rfl _ l rfl

/-- The retirement of a LUN is recorded. -/
def lossTold (s : State) (l : Nat) : State :=
  setHltEvt (setFchEvt (logEv s 2 (src 0xB l) 0xB003 (leBytes 6 (mediaAddr (l * 16384) 0 0 0) ++ leBytes 1 5)) (lunCh l) 4 1) 5 0xFFF 1

/-- The data of a retired LUN moves, and its roles are filled. -/
def lossFilled (s : State) (l spares : Nat) (held : List Nat) (roles : List Role) : State :=
  let s := loseSpares s (chGrp (lunCh l)) spares
  let s := held.foldl (fun s b => if (s.media.relocs.any fun e => e.2.tgt == some b) then leaveBlk s b else s) s
  let s := held.foldl (fun s b => askReloc (leavePieces s b) b .replace) s
  let s := roles.foldl (fun s r => askRole s (lunCh l) r) (stageRec s)
  let left := (s.media.relocs.filter fun e => e.2.ext.isNone && blkLun e.2.src == l).length
  if left = 0 then s else { s with hlt := { s.hlt with rebuilds := s.hlt.rebuilds ++ [(l, left)] } }

theorem Lost.told {l n : Nat} {s : State} (h : Lost l n s) : Lost l n (lossTold s l) :=
  ((h.steady (steady_logEv s _ _ _ _)).setFchEvt _ _ _).steady (steady_setHltEvt _ _ _ _)

theorem steady_lossFilled (s : State) (l spares : Nat) (held : List Nat) (roles : List Role) : Steady s (lossFilled s l spares held roles) := by
  have hleft : ∀ (u : State) (n : Nat), Steady u { u with hlt := { u.hlt with rebuilds := u.hlt.rebuilds ++ [(l, n)] } } := fun u n =>
    steady_of rfl rfl rfl rfl
  have hmoved : ∀ u : State, Steady u (held.foldl (fun s b => askReloc (leavePieces s b) b .replace) u) := fun u =>
    steady_foldl (fun w b => (steady_leavePieces w b).trans (steady_askReloc _ b .replace)) held u
  have hroles : ∀ u : State, Steady u (roles.foldl (fun s r => askRole s (lunCh l) r) u) := fun u =>
    steady_foldl (fun w r => steady_askRole w _ r) roles u
  unfold lossFilled
  dsimp only
  have h := steady_loseSpares s (chGrp (lunCh l)) spares
  generalize loseSpares s (chGrp (lunCh l)) spares = u at h ⊢
  have h := h.trans (steady_foldl (f := fun s b => if (s.media.relocs.any fun e => e.2.tgt == some b) then leaveBlk s b else s)
    (fun w b => steady_ite (steady_leaveBlk w b) (Steady.refl w)) held u)
  generalize held.foldl (fun s b => if (s.media.relocs.any fun e => e.2.tgt == some b) then leaveBlk s b else s) u = v at h ⊢
  have h := ((h.trans (hmoved v)).trans (steady_stageRec _)).trans (hroles _)
  exact steady_ite h (h.trans (hleft _ _))

theorem retireLun_eq (s : State) (l : Nat) :
    ∃ spares held roles, retireLun s l = lossFilled (lossTold (lossCounted (lunEmptied s l) l) l) l spares held roles := ⟨_, _, _, rfl⟩

theorem lost_retireLun (s : State) (l : Nat) : Lost l (min 255 (s.hlt.retiredLuns + 1)) (retireLun s l) := by
  obtain ⟨spares, held, roles, h⟩ := retireLun_eq s l
  have hcount : (lunEmptied s l).hlt.retiredLuns = s.hlt.retiredLuns := (steady_clearLun s l).count
  rw [h, ← hcount]
  exact (lost_lossCounted (bears_lunEmptied s l)).told.steady (steady_lossFilled _ _ _ _ _)

theorem Lost.modChan {l n : Nat} {s : State} (h : Lost l n s) (c : Nat) (f : Chan → Chan) : Lost l n (modChan s c f) := h.of rfl rfl

/-- The end of a channel's recovery leaves its LUNs and the health block. -/
theorem Lost.endRecovery {l n : Nat} {s : State} (h : Lost l n s) (c : Nat) : Lost l n (endRecovery s c) := by
  unfold Sys2Proof.Machine.endRecovery
  exact h.modChan c _

theorem getLun_modChan (s : State) (c i : Nat) (f : Chan → Chan) : getLun (modChan s c f) i = getLun s i := rfl

theorem getLun_recovered (s : State) (l c i : Nat) : getLun (endRecovery (noteIdle s l) c) i = getLun s i := by
  unfold endRecovery
  rw [getLun_modChan, getLun_noteIdle]

theorem only_recovered (s : State) (l c : Nat) : Only [.media, .rst] s (endRecovery (noteIdle s l) c) := by
  have hidle : Only [.media, .rst] s (noteIdle s l) := (only_rst s _).mono (by simp)
  unfold endRecovery
  exact hidle.trans ((only_modChan _ c _).mono (by simp))

/-! ### The faults of a channel -/

theorem sequencerHang_idle {s : State} {ch : Nat} (st : List LunStatus) (ha : alive s = true) (ht : (getChan s ch).trained = true)
    (hidle : ∀ i ∈ chLuns ch, (getLun s i).op = none ∧ (getLun s i).sub = none) :
    ∃ u, exec (.sequencerHang ch st) s = .next u ∧ (getChan u ch).restarts = min 255 ((getChan s ch).restarts + 1) ∧
      bit (getChan u ch).evt 2 = true ∧ Only [.media, .evr, .pa, .pb, .out] s u := by
  refine ⟨_, exec_sequencerHang_idle st ha ht hidle, ?_, bit_evt_setFchEvt_self _ _ _ _, ?_⟩
  · obtain ⟨-, e, he, -⟩ := setFchEvt_spec (modChan s ch fun c => { c with restarts := satAdd 255 c.restarts 1 }) ch 2 1
    rw [he, getChan_modChan_self]
    rfl
  · exact ((only_modChan s _ _).mono (by simp)).trans ((only_setFchEvt _ _ _ _).mono (by simp))

theorem lunHang_spec {s : State} {l : Nat} {fe : Bool} (ha : alive s = true) (hh : (getLun s l).hung = false) (hr : (getLun s l).retired = false)
    (hpast : (if fe then (getLun s l).op.any (pastFeatures s) || (getLun s l).sub.any (pastFeatures s)
      else (getLun s l).op.any (pastCeiling s) || (getLun s l).sub.any (pastCeiling s)) = true) :
    ∃ u, exec (.lunHang ⟨l, fe⟩) s = .next u ∧ (getLun u l).hung = true ∧ (getChan u (lunCh l)).recovering = true ∧
      (getLun u l).op = some { k := .rst, runNs := s.nowNs, tokens := 0 } ∧
      bit (getChan u (lunCh l)).evt 7 = true ∧ bit (getChan u (lunCh l)).evt 3 = true := by
  have hclear := steady_clearLun (hangNoted s l) l
  have hex := exec_lunHang ha hh hr hpast
  have hevt := evt_hangNoted s l
  have hhung := (hclear.hung l (bears_hangNoted s l)).getLun
  have hnow := hclear.now.trans (nowNs_hangNoted s l)
  rw [← hclear.evt] at hevt
  generalize clearLun (hangNoted s l) l = w at hex hevt hhung hnow
  obtain ⟨hlun, hchan⟩ := resetIssued_spec w l
  refine ⟨_, hex, ?_, ?_, ?_, ?_⟩
  · rw [hlun]; exact hhung
  · rw [hchan]
  · rw [hlun, hnow]
  · rw [hchan]; exact hevt

theorem resetLunDone_spec {s : State} {l : Nat} {o : Op} (ha : alive s = true) (ho : (getLun s l).op = some o) (hk : o.k = .rst) :
    (∃ u, exec (.resetLunDone l true) s = .next u ∧ Only [.media, .rst] s u ∧ getLun u l = { getLun s l with op := none, hung := false }) ∧
      ∃ u, exec (.resetLunDone l false) s = .next u ∧ (getLun u l).retired = true ∧ u.hlt.retiredLuns = min 255 (s.hlt.retiredLuns + 1) := by
  refine ⟨⟨_, exec_resetLunDone_kept ha ho hk, ?_, ?_⟩, ?_⟩
  · exact ((only_modLun s l _).mono (by simp)).trans (only_recovered _ _ _)
  · rw [getLun_recovered, getLun_modLun_self]
  · obtain ⟨hret, hcount⟩ := (lost_retireLun s l).endRecovery (lunCh l)
    exact ⟨_, exec_resetLunDone_lost ha ho hk, hret.getLun, hcount⟩

/-- What O28 says of the faults of a channel. -/
theorem channelFaults (s : State) (ch l : Nat) (st : List LunStatus) (fe : Bool) (ha : alive s = true) :
    ((getChan s ch).trained = true → (∀ i ∈ chLuns ch, (getLun s i).op = none ∧ (getLun s i).sub = none) →
        ∃ u, exec (.sequencerHang ch st) s = .next u ∧ (getChan u ch).restarts = min 255 ((getChan s ch).restarts + 1) ∧
          bit (getChan u ch).evt 2 = true ∧ Only [.media, .evr, .pa, .pb, .out] s u) ∧
      ((getLun s l).hung = false → (getLun s l).retired = false →
        (fe = false ∧ ((getLun s l).op.any (pastCeiling s) = true ∨ (getLun s l).sub.any (pastCeiling s) = true) ∨
          fe = true ∧ ((getLun s l).op.any (pastFeatures s) = true ∨ (getLun s l).sub.any (pastFeatures s) = true)) →
        ∃ u, exec (.lunHang ⟨l, fe⟩) s = .next u ∧ (getLun u l).hung = true ∧ (getChan u (lunCh l)).recovering = true ∧
          (getLun u l).op = some { k := .rst, runNs := s.nowNs, tokens := 0 } ∧
          bit (getChan u (lunCh l)).evt 7 = true ∧ bit (getChan u (lunCh l)).evt 3 = true) ∧
      (∀ o, (getLun s l).op = some o → o.k = .rst →
        (∃ u, exec (.resetLunDone l true) s = .next u ∧ Only [.media, .rst] s u ∧
          getLun u l = { getLun s l with op := none, hung := false }) ∧
        (∃ u, exec (.resetLunDone l false) s = .next u ∧ (getLun u l).retired = true ∧
          u.hlt.retiredLuns = min 255 (s.hlt.retiredLuns + 1))) := by
  refine ⟨sequencerHang_idle st ha, fun hh hr hpast => lunHang_spec ha hh hr ?_, fun o => resetLunDone_spec ha⟩
  rcases hpast with ⟨rfl, h⟩ | ⟨rfl, h⟩
  · simpa using h
  · simpa using h

end Sys2Proof.Machine
end

section
/-! PROOFS. Calibration, temperature and retraining (R163, R165, R174, R175). -/

namespace Sys2Proof.Machine

/-! ### Volumes -/

theorem getVol_modVol_self (s : State) (ch v : Nat) (f : Vol → Vol) : getVol (modVol s ch v f) ch v = f (getVol s ch v) := by
  rw [getVol, modVol, getChan_modChan_self, getVol]
  exact Tab.get_upd_self _ _ _ _

theorem only_modVol (s : State) (ch v : Nat) (f : Vol → Vol) : Only [.media] s (modVol s ch v f) := only_media _ _

theorem getVol_setFchEvt (s : State) (c b sev v : Nat) : getVol (setFchEvt s c b sev) c v = getVol s c v := by
  obtain ⟨-, e, he, -⟩ := setFchEvt_spec s c b sev
  rw [getVol, he, getVol]

theorem exec_zqCalibrationShort {s : State} {ch v : Nat} (ha : alive s = true) (hv : volOk s ch v = true)
    (ht : (getVol s ch v).lastZqNs + 128000000 ≤ s.nowNs) :
    exec (.zqCalibrationShort ch v) s = .next (modVol s ch v fun x => { x with lastZqNs := s.nowNs }) := by
  change execZqCalibrationShort ch v s = _
  unfold execZqCalibrationShort
  rw [if_pos (by simp [ha, hv, ht])]

/-- A temperature reading has been tried. -/
def tempTried (s : State) (ch v : Nat) : State := modVol s ch v fun x => { x with lastTempNs := s.nowNs }

theorem exec_flashTemperatureRead_value {s : State} {ch v : Nat} (t : Int) (ha : alive s = true) (hv : volOk s ch v = true)
    (ht : (getVol s ch v).lastTempNs + 10000000 ≤ s.nowNs) :
    exec (.flashTemperatureRead ch v (some t)) s =
      .next (modVol (tempTried s ch v) ch v fun x => { x with temp := t, tempValid := true, tempFails := 0 }) := by
  change execFlashTemperatureRead ch v (some t) s = _
  unfold execFlashTemperatureRead
  rw [if_pos (by simp [ha, hv, ht])]
  rfl

theorem exec_flashTemperatureRead_third {s : State} {ch v : Nat} (ha : alive s = true) (hv : volOk s ch v = true)
    (ht : (getVol s ch v).lastTempNs + 10000000 ≤ s.nowNs) (hf : (getVol s ch v).tempFails = 2) :
    exec (.flashTemperatureRead ch v none) s =
      .next (setFchEvt (modVol (tempTried s ch v) ch v fun x => { x with tempFails := 3, tempValid := x.tempValid && false }) ch 6 1) := by
  have htried : (getVol (modVol s ch v fun x => { x with lastTempNs := s.nowNs }) ch v).tempFails = 2 := by
    rw [getVol_modVol_self]
    exact hf
  change execFlashTemperatureRead ch v none s = _
  unfold execFlashTemperatureRead
  rw [if_pos (by simp [ha, hv, ht])]
  dsimp only
  rw [htried]
  rfl

/-! ### Retraining -/

/-- Whether the bus of a channel pauses for training, its band, and until when it pauses. -/
def busView (c : Chan) : Bool × Nat × Option (Nat × Nat) := (c.retraining, c.band, c.pause)

theorem busView_setFchEvt (s : State) (c b sev : Nat) : busView (getChan (setFchEvt s c b sev) c) = busView (getChan s c) := by
  obtain ⟨-, e, he, -⟩ := setFchEvt_spec s c b sev
  rw [he]
  rfl

theorem Steady.bus {s u : State} (h : Steady s u) (c : Nat) : busView (getChan u c) = busView (getChan s c) := by
  have hbus : busView (chanView u c) = busView (chanView s c) := congrArg busView (h.chans c)
  exact hbus

theorem busView_busMts (s : State) (n c : Nat) : busView (getChan { s with media := { s.media with busMts := n } } c) = busView (getChan s c) := rfl

/-- What training leaves of the rate and of the volumes goes with the pause of the bus as it is. -/
theorem busView_retrainRate (s : State) (ch : Nat) (fails : List (Nat × List Nat)) :
    busView (getChan (retrainRate s ch fails) ch) = busView (getChan s ch) := by
  have hevt : ∀ (u : State) (p : Prop) [Decidable p] (b : Nat),
      busView (getChan (if p then setFchEvt u ch b 1 else u) ch) = busView (getChan u ch) := fun u p _ b => by
    split
    · exact busView_setFchEvt u ch b 1
    · rfl
  have hevt' : ∀ (u : State) (p : Prop) [Decidable p] (b : Nat),
      busView (getChan (if p then u else setFchEvt u ch b 1) ch) = busView (getChan u ch) := fun u p _ b => by
    split
    · rfl
    · exact busView_setFchEvt u ch b 1
  have hclear : ∀ (l : List Nat) (u : State), Steady u (l.foldl (fun s v => (List.range 4).foldl (fun s k => clearLun s (ch * 32 + v * 4 + k)) s) u) :=
    fun l u => steady_foldl (fun w v => steady_foldl (fun x k => steady_clearLun x (ch * 32 + v * 4 + k)) (List.range 4) w) l u
  unfold retrainRate
  dsimp only
  rw [busView_busMts, (hclear _ _).bus, hevt', hevt, getChan_modChan_self]
  rfl

/-- The bus pauses for training, in a band. -/
def busPaused (s : State) (ch us b : Nat) (move : Bool) : State :=
  modChan s ch fun c => { c with
    band := b, bandNs := if move then s.nowNs else c.bandNs, setUsed := if c.timing.contains b then b else c.setUsed
    retraining := true, pause := some (s.nowNs + us * 1000, us) }

theorem busView_busPaused (s : State) (ch us b : Nat) (move : Bool) :
    busView (getChan (busPaused s ch us b move) ch) = (true, b, some (s.nowNs + us * 1000, us)) := by
  rw [busPaused, getChan_modChan_self]
  rfl

theorem exec_channelRetrain {s : State} {ch us : Nat} (fails : List (Nat × List Nat)) (ha : alive s = true) (ht : (getChan s ch).trained = true)
    (hr : (getChan s ch).retraining = false) (hc : (getChan s ch).recovering = false) (hus : us ≤ 60)
    (hdue : bandDue s ch = (getChan s ch).band ∧ (getChan s ch).retrainReq = true ∧ chanIdle s ch = true ∨
      bandDue s ch ≠ (getChan s ch).band ∧ bandTurn s ch = true) :
    ∃ move, exec (.channelRetrain ch ⟨us, fails⟩) s = .next (retrainRate (busPaused s ch us (bandDue s ch) move) ch fails) := by
  have hmin : min 60 us = us := Nat.min_eq_right hus
  have hband : (if (bandDue s ch != (getChan s ch).band && bandTurn s ch) = true then bandDue s ch else (getChan s ch).band) = bandDue s ch := by
    rcases hdue with ⟨h, -, -⟩ | ⟨h, hturn⟩
    · simp [h]
    · simp [h, hturn]
  have hgo : (bandDue s ch != (getChan s ch).band && bandTurn s ch || (getChan s ch).retrainReq && chanIdle s ch) = true := by
    rcases hdue with ⟨-, hreq, hidle⟩ | ⟨h, hturn⟩
    · simp [hreq, hidle]
    · simp [h, hturn]
  refine ⟨bandDue s ch != (getChan s ch).band && bandTurn s ch, ?_⟩
  change execChannelRetrain ch ⟨us, fails⟩ s = _
  unfold execChannelRetrain
  dsimp only
  rw [ha, ht, hr, hc, hgo, hmin, hband]
  rfl

/-! ### The end of a pause -/

/-- A channel whose pause ends, before the event. -/
def pauseOver (s : State) (us : Nat) (c : Chan) : Chan :=
  { c with
    retraining := false, pause := none, retrainReq := false, lastUs := us, trainCount := satAdd 0xFFFF c.trainCount 1, setUsed := c.band
    timing := if c.timing.contains c.band then c.timing else c.timing ++ [c.band]
    vols := Tab.mapv {} (fun _ v => { v with lastZqNs := s.nowNs }) c.vols }

theorem getChan_endPause (s : State) (ch us : Nat) :
    ∃ e, getChan (endPause s ch us) ch = { pauseOver s us (getChan s ch) with evt := e } ∧ bit e 0 = true := by
  obtain ⟨-, e, he, hb, -⟩ := setFchEvt_spec (modChan s ch (pauseOver s us)) ch 0 1
  refine ⟨e, ?_, hb⟩
  rw [getChan_modChan_self] at he
  exact he

theorem band_mem_pauseOver (s : State) (us : Nat) (c : Chan) : c.band ∈ (pauseOver s us c).timing := by
  unfold pauseOver
  dsimp only
  split
  · next h => exact List.contains_iff_mem.mp h
  · exact List.mem_append_right _ List.mem_cons_self

theorem lastZqNs_pauseOver (s : State) (us : Nat) (c : Chan) : ∀ x ∈ (pauseOver s us c).vols, x.2.lastZqNs = s.nowNs := fun x hx => by
  obtain ⟨v, -, hv⟩ := Tab.mem_mapv _ _ hx
  rw [hv]

/-! ### O28 -/

/-- The care of a channel's volumes, and its training. -/
theorem channelCare (s : State) (ch v us : Nat) (p : Port) (t : Int) (fails : List (Nat × List Nat)) :
    (alive s = true → volOk s ch v = true → (getVol s ch v).lastZqNs + 128000000 ≤ s.nowNs →
        exec (.zqCalibrationShort ch v) s = .next (modVol s ch v fun x => { x with lastZqNs := s.nowNs })) ∧
      (alive s = true → volOk s ch v = true → (getVol s ch v).lastTempNs + 10000000 ≤ s.nowNs →
        (∃ u, exec (.flashTemperatureRead ch v (some t)) s = .next u ∧ Only [.media] s u ∧
          getVol u ch v = { getVol s ch v with lastTempNs := s.nowNs, temp := t, tempValid := true, tempFails := 0 }) ∧
        ((getVol s ch v).tempFails = 2 →
          ∃ u, exec (.flashTemperatureRead ch v none) s = .next u ∧ (getVol u ch v).tempValid = false ∧
            bit (getChan u ch).evt 6 = true)) ∧
      (alive s = true → (getChan s ch).trained = true → (getChan s ch).retraining = false → (getChan s ch).recovering = false → us ≤ 60 →
        (bandDue s ch = (getChan s ch).band ∧ (getChan s ch).retrainReq = true ∧ chanIdle s ch = true ∨
          bandDue s ch ≠ (getChan s ch).band ∧ bandTurn s ch = true) →
        ∃ u, exec (.channelRetrain ch ⟨us, fails⟩) s = .next u ∧ (getChan u ch).retraining = true ∧ (getChan u ch).band = bandDue s ch ∧
          (getChan u ch).pause = some (s.nowNs + us * 1000, us)) ∧
      (∀ u, u = endPause s ch us → (getChan u ch).retraining = false ∧ (getChan u ch).pause = none ∧ (getChan u ch).retrainReq = false ∧
        (getChan u ch).lastUs = us ∧ (getChan u ch).trainCount = min 0xFFFF ((getChan s ch).trainCount + 1) ∧
        (getChan u ch).band = (getChan s ch).band ∧ (getChan s ch).band ∈ (getChan u ch).timing ∧
        (∀ x ∈ (getChan u ch).vols, x.2.lastZqNs = s.nowNs) ∧ bit (getChan u ch).evt 0 = true) ∧
      (Writable s p 0 → ch < 128 →
        exec (.retrain p ch) s = .next (modChan (woken s p 3) ch fun c => { c with retrainReq := true }) ∧
        exec (.cntClrFch p ch) s = .next (modChan (woken s p 3) ch fun c => { c with cnts := [] })) := by
  refine ⟨exec_zqCalibrationShort, fun ha hv ht => ⟨⟨_, exec_flashTemperatureRead_value t ha hv ht, ?_, ?_⟩,
      fun hf => ⟨_, exec_flashTemperatureRead_third ha hv ht hf, ?_, bit_evt_setFchEvt_self _ _ _ _⟩⟩,
    fun ha ht hr hc hus hdue => ?_, ?_, fun hw hch => ?_⟩
  · exact (only_modVol s ch v _).trans (only_modVol _ ch v _)
  · rw [getVol_modVol_self, tempTried, getVol_modVol_self]
  · rw [getVol_setFchEvt, getVol_modVol_self]
    exact Bool.and_false _
  · obtain ⟨move, hex⟩ := exec_channelRetrain fails ha ht hr hc hus hdue
    have hbus := (busView_retrainRate (busPaused s ch us (bandDue s ch) move) ch fails).trans (busView_busPaused s ch us _ move)
    exact ⟨_, hex, congrArg Prod.fst hbus, congrArg (fun x => x.2.1) hbus, congrArg (fun x => x.2.2) hbus⟩
  · rintro u rfl
    obtain ⟨e, he, hb⟩ := getChan_endPause s ch us
    rw [he]
    exact ⟨rfl, rfl, rfl, rfl, rfl, rfl, band_mem_pauseOver s us _, lastZqNs_pauseOver s us _, hb⟩
  · exact ⟨(regWrite_writable _ hw : execRetrain p ch s = _).trans (if_pos hch),
      (regWrite_writable _ hw : execCntClrFch p ch s = _).trans (if_pos hch)⟩

/-- Settles O28: what a hung LUN was to do is taken elsewhere by steps that leave the flags of the LUNs, the channels but for their counters and the
count of retired LUNs; the care of channels and volumes is one rewriting each. -/
theorem channelsAreKept : Obligations.ChannelsAreKept := by
  unfold Obligations.ChannelsAreKept
  exact ⟨channelFaults, channelCare⟩

end Sys2Proof.Machine
end
